-- ==== Sys2Proof/Word.lean ====
section
/-! DEFINITION. The words of the machine: abbreviations only, so that every BitVec lemma applies. -/

namespace Sys2Proof

/-- A byte (R8). -/
abbrev Byte := BitVec 8
/-- A 64-bit word: scalar registers, addresses, system registers (R168). -/
abbrev Word := BitVec 64
/-- A control word (R155). -/
abbrev CtlWord := BitVec 32
/-- A tile command word or a shape record (R171, R251). -/
abbrev CmdWord := BitVec 256
/-- A 512-byte scratchpad row or vector register (R26, R168). -/
abbrev Row := BitVec 4096
/-- A 128-byte line of global memory (R81). -/
abbrev LineData := BitVec 1024
/-- A mask register (R168). -/
abbrev MaskReg := BitVec 1024
/-- One row of a bank half: 1,024 FP32 values (R26). -/
abbrev BankRow := BitVec 32768
/-- One row of PE accumulators: 1,024 A26 values (R26, R136). -/
abbrev AccRow := BitVec 26624

end Sys2Proof
end

