-- ==== Sys2Proof/Machine/Bits.lean ====
section
/-! DEFINITION. Bit fields, lanes of a register, and lists kept in canonical form by key. -/

namespace Sys2Proof.Machine

/-- Bits lo + len - 1 : lo of a word (R8), as a number. -/
def fld {n : Nat} (w : BitVec n) (lo len : Nat) : Nat := (w.toNat >>> lo) % 2 ^ len

/-- One bit of a word. -/
def bitAt {n : Nat} (w : BitVec n) (i : Nat) : Bool := w.getLsbD i

/-- Bit i of a number. -/
def natBit (w i : Nat) : Bool := w.testBit i

/-- Element i of width w of a register or row (R127). -/
def lane {n : Nat} (r : BitVec n) (w i : Nat) : Nat := fld r (w * i) w

/-- The first n elements of width w (R127). -/
def lanes {m : Nat} (w n : Nat) (r : BitVec m) : List Nat := (List.range n).map fun i => lane r w i

/-- Elements of width w laid from bit 0 up (R127), as a number. -/
def packNat (w : Nat) (l : List Nat) : Nat := l.foldr (fun x acc => x % 2 ^ w + 2 ^ w * acc) 0

/-- Elements of width w laid from bit 0 up, as a register. -/
def pack (m w : Nat) (l : List Nat) : BitVec m := BitVec.ofNat m (packNat w l)

/-- A number read as two's complement in w bits. -/
def toSigned (w n : Nat) : Int := if n % 2 ^ w < 2 ^ (w - 1) then ((n % 2 ^ w : Nat) : Int) else ((n % 2 ^ w : Nat) : Int) - 2 ^ w

/-- The low w bits of an integer in two's complement. -/
def ofSigned (w : Nat) (i : Int) : Nat := (i % (2 ^ w : Int)).toNat

/-- Replace bits lo + len - 1 : lo of a word. -/
def setFld {n : Nat} (w : BitVec n) (lo len v : Nat) : BitVec n :=
  let mask : BitVec n := BitVec.ofNat n ((2 ^ len - 1) <<< lo)
  (w &&& ~~~mask) ||| (BitVec.ofNat n ((v % 2 ^ len) <<< lo))

/-- Byte i of a word or row. -/
def byteOf {n : Nat} (w : BitVec n) (i : Nat) : Byte := BitVec.ofNat 8 (lane w 8 i)

/-- The number of 1 bits of the low k bits. -/
def popNat (n k : Nat) : Nat := ((List.range k).filter fun i => n.testBit i).length

/-- Look a key up in a list of pairs. -/
def lookup {α β : Type} [DecidableEq α] (k : α) : List (α × β) → Option β
  | [] => none
  | (a, b) :: t => if a = k then some b else lookup k t

/-- Write a key in a list of pairs by rising key, keeping one entry a key. -/
def insertKey {β : Type} (k : Nat) (v : β) : List (Nat × β) → List (Nat × β)
  | [] => [(k, v)]
  | (a, b) :: t => if k < a then (k, v) :: (a, b) :: t else if k = a then (k, v) :: t else (a, b) :: insertKey k v t

/-- Remove a key from a list of pairs by rising key. -/
def eraseKey {β : Type} (k : Nat) (l : List (Nat × β)) : List (Nat × β) := l.filter fun x => x.1 != k

/-- Write a key in a canonical list: no entry holds the default. -/
def putKey {β : Type} [DecidableEq β] (dflt : β) (k : Nat) (v : β) (l : List (Nat × β)) : List (Nat × β) :=
  if v = dflt then eraseKey k l else insertKey k v l

/-- Read a key of a canonical list. -/
def getKey {β : Type} (dflt : β) (k : Nat) (l : List (Nat × β)) : β := (lookup k l).getD dflt

/-- Replace the n-th element of a list. -/
def setAt {α : Type} (n : Nat) (a : α) (l : List α) : List α := l.set n a

/-- Remove the n-th element of a list. -/
def dropAt {α : Type} (n : Nat) (l : List α) : List α := l.eraseIdx n

/-- Replace every element that satisfies p. -/
def mapIf {α : Type} (p : α → Bool) (f : α → α) (l : List α) : List α := l.map fun a => if p a then f a else a

/-- Add an element if it is not there. -/
def addNew {α : Type} [DecidableEq α] (a : α) (l : List α) : List α := if a ∈ l then l else l ++ [a]

end Sys2Proof.Machine
end

