-- ==== Sys2Proof/Syntax.lean ====
section
/-! DEFINITION. The steps of the machine: one constructor per row of spec/opcode_table.json. Control words carry
the fields of R156 to R166, tile commands the header and body of R171 and of 17_tile.md, events what names the
agent or unit they befall and what the outside world brings with them. -/

namespace Sys2Proof

/-- The three contexts of a core (R40). -/
inductive CtxName where
  | load | compute | store
  deriving DecidableEq, Repr

/-- A core: its site (R17) and its index on the die (R25). -/
structure CoreRef where
  site : Fin 6
  core : Fin 8
  deriving DecidableEq, Repr

/-- A context of a core (R26). -/
structure CtxRef where
  at_ : CoreRef
  ctx : CtxName
  deriving DecidableEq, Repr

/-- The command header of R171, less CMD and FLAGS, which the constructor and the body carry. -/
structure CmdHdr where
  eng  : BitVec 4
  cls  : BitVec 4
  wv   : Bool
  wsem : BitVec 6
  sv   : Bool
  ssem : BitVec 6
  vcnt : BitVec 16
  deriving DecidableEq, Repr

/-- An operand reference (R253), less its reserved bits. -/
structure OpRef where
  mode : BitVec 2
  keep : Bool
  loc  : BitVec 18
  deriving DecidableEq, Repr

/-- Body and FLAGS of MMA and MMAC (R261, R262). -/
structure MmaBody where
  aref : OpRef
  bref : OpRef
  afmt : BitVec 4
  bfmt : BitVec 4
  plog : BitVec 4
  km1  : BitVec 12
  ta   : Bool
  tb   : Bool
  bank : Bool
  zf   : Bool
  deriving DecidableEq, Repr

/-- Body and FLAGS of DRAIN (R264). -/
structure DrainBody where
  dref   : OpRef
  ofmt   : BitVec 4
  rm     : BitVec 3
  sat    : Bool
  layout : BitVec 2
  ae     : Bool
  amn    : BitVec 4
  se     : Bool
  scale  : BitVec 32
  bank   : Bool
  keep   : Bool
  deriving DecidableEq, Repr

/-- Body of the copy commands, with PREFETCH's LVL flag (R268). -/
structure CopyBody where
  sh     : BitVec 4
  sref   : OpRef
  cvt    : Bool
  trn    : Bool
  bsc    : Bool
  gix    : Bool
  zpd    : Bool
  spfmt  : BitVec 4
  rm     : BitVec 3
  sat    : Bool
  ste    : Bool
  ae     : Bool
  amn    : BitVec 4
  staddr : BitVec 64
  stval  : BitVec 32
  xref   : OpRef
  lvl    : Bool
  deriving DecidableEq, Repr

/-- Body and FLAGS of GATOM, less OP (R273). -/
structure GatomBody where
  addr : BitVec 64
  opnd : BitVec 64
  cmpv : BitVec 64
  res  : Bool
  rrow : BitVec 11
  deriving DecidableEq, Repr

/-- Body of MIGRATE (R274). -/
structure MigrateBody where
  addr   : BitVec 64
  dpkg   : BitVec 12
  dsl    : BitVec 4
  staddr : BitVec 64
  deriving DecidableEq, Repr

/-- Body of SCAT, less OP (R271). -/
structure ScatBody where
  vref : OpRef
  xref : OpRef
  drow : BitVec 18
  fmt  : BitVec 4
  ce   : Bool
  nent : BitVec 12
  deriving DecidableEq, Repr

/-- Body of RWRITE (R275). -/
structure RwriteBody where
  rent  : BitVec 6
  nrows : BitVec 6
  sref  : OpRef
  deriving DecidableEq, Repr

/-- What arrives at a home slice (R81, R93, R96, R105, R210): the held load of a context; the n-th write of a die that has
performed at die scope; a snoop-filter eviction of a line; a request to a page that an engine or a fetch of a die makes; a
line that a die's cache gives up to make room; the n-th outstanding access of a context that acts at a home; the RWRITE at
the head of a queue. -/
inductive HomeReq where
  | load (c : CtxRef)
  | write (site : Fin 6) (n : Nat)
  | evict (line : Nat)
  | engine (site : Fin 6) (page : Nat)
  | castout (site : Fin 6) (line : Nat)
  | access (c : CtxRef) (n : Nat)
  | rwrite (r : CoreRef) (e : BitVec 3)
  deriving DecidableEq, Repr

/-- Who holds an owner cache (R96). -/
inductive Agent where
  | die (site : Fin 6)
  | port (p : Fin 64)
  deriving DecidableEq, Repr

/-- The levels of the completion tree (R319). -/
inductive CompLevel where
  | core (r : CoreRef)
  | die (site : Fin 6)
  | package
  deriving DecidableEq, Repr

/-- An RWRITE as it reaches its destination (R364): the handle, the ring, the virtual core, the source core and
package, NROWS, VCNT and the rows below VCNT. -/
structure RemoteWrite where
  handle : BitVec 64
  ring   : Fin 32
  vcore  : BitVec 6
  srcPkg : BitVec 12
  srcCore : BitVec 6
  nrows  : BitVec 6
  rows   : List (BitVec 4096)
  deriving DecidableEq, Repr

/-- Where a flash write goes (R380, R382): a firmware slot or a marker copy. -/
inductive FlashTarget where
  | slotA | slotB | m0 | m1
  deriving DecidableEq, Repr

/-- What a flit whose replays are exhausted carried (R350); a replay that succeeds loses nothing. -/
inductive FlitLoss where
  | replayed
  | lineData (line : Nat)
  | readData (site : Fin 6) (line : Nat)
  | rowData (r : CoreRef) (row : Nat)
  | directory (line : Nat)
  | invAck (site : Fin 6) (line : Nat)
  | other (q : HomeReq)
  deriving DecidableEq, Repr

/-- Every step of the machine, in the order of spec/opcode_table.json. -/
inductive Instr where
  /-- ADD (R182). -/
  | add (d : BitVec 5) (a : BitVec 5) (b : BitVec 5)
  /-- SUB (R182). -/
  | sub (d : BitVec 5) (a : BitVec 5) (b : BitVec 5)
  /-- MUL (R182). -/
  | mul (d : BitVec 5) (a : BitVec 5) (b : BitVec 5)
  /-- MULH (R182). -/
  | mulh (d : BitVec 5) (a : BitVec 5) (b : BitVec 5)
  /-- MULHU (R182). -/
  | mulhu (d : BitVec 5) (a : BitVec 5) (b : BitVec 5)
  /-- DIV (R182). -/
  | div (d : BitVec 5) (a : BitVec 5) (b : BitVec 5)
  /-- DIVU (R182). -/
  | divu (d : BitVec 5) (a : BitVec 5) (b : BitVec 5)
  /-- REM (R182). -/
  | rem (d : BitVec 5) (a : BitVec 5) (b : BitVec 5)
  /-- REMU (R182). -/
  | remu (d : BitVec 5) (a : BitVec 5) (b : BitVec 5)
  /-- AND (R182). -/
  | and (d : BitVec 5) (a : BitVec 5) (b : BitVec 5)
  /-- OR (R182). -/
  | or (d : BitVec 5) (a : BitVec 5) (b : BitVec 5)
  /-- XOR (R182). -/
  | xor (d : BitVec 5) (a : BitVec 5) (b : BitVec 5)
  /-- SHL (R182). -/
  | shl (d : BitVec 5) (a : BitVec 5) (b : BitVec 5)
  /-- SHR (R182). -/
  | shr (d : BitVec 5) (a : BitVec 5) (b : BitVec 5)
  /-- SRA (R182). -/
  | sra (d : BitVec 5) (a : BitVec 5) (b : BitVec 5)
  /-- SLT (R182). -/
  | slt (d : BitVec 5) (a : BitVec 5) (b : BitVec 5)
  /-- SLTU (R182). -/
  | sltu (d : BitVec 5) (a : BitVec 5) (b : BitVec 5)
  /-- MIN (R182). -/
  | min (d : BitVec 5) (a : BitVec 5) (b : BitVec 5)
  /-- MAX (R182). -/
  | max (d : BitVec 5) (a : BitVec 5) (b : BitVec 5)
  /-- MINU (R182). -/
  | minu (d : BitVec 5) (a : BitVec 5) (b : BitVec 5)
  /-- MAXU (R182). -/
  | maxu (d : BitVec 5) (a : BitVec 5) (b : BitVec 5)
  /-- SADD (R182). -/
  | sadd (d : BitVec 5) (a : BitVec 5) (b : BitVec 5)
  /-- CLZ (R183). -/
  | clz (d : BitVec 5) (a : BitVec 5)
  /-- CTZ (R183). -/
  | ctz (d : BitVec 5) (a : BitVec 5)
  /-- POPC (R183). -/
  | popc (d : BitVec 5) (a : BitVec 5)
  /-- SEXT_8 (R183). -/
  | sext8 (d : BitVec 5) (a : BitVec 5)
  /-- SEXT_16 (R183). -/
  | sext16 (d : BitVec 5) (a : BitVec 5)
  /-- SEXT_32 (R183). -/
  | sext32 (d : BitVec 5) (a : BitVec 5)
  /-- ZEXT_8 (R183). -/
  | zext8 (d : BitVec 5) (a : BitVec 5)
  /-- ZEXT_16 (R183). -/
  | zext16 (d : BitVec 5) (a : BitVec 5)
  /-- ZEXT_32 (R183). -/
  | zext32 (d : BitVec 5) (a : BitVec 5)
  /-- SEL (R184). -/
  | sel (d : BitVec 5) (a : BitVec 5) (b : BitVec 5) (c : BitVec 5)
  /-- JALR (R194). -/
  | jalr (d : BitVec 5) (a : BitVec 5)
  /-- ADDI (R185). -/
  | addi (d : BitVec 5) (a : BitVec 5) (i : BitVec 16)
  /-- ANDI (R185). -/
  | andi (d : BitVec 5) (a : BitVec 5) (i : BitVec 16)
  /-- ORI (R185). -/
  | ori (d : BitVec 5) (a : BitVec 5) (i : BitVec 16)
  /-- XORI (R185). -/
  | xori (d : BitVec 5) (a : BitVec 5) (i : BitVec 16)
  /-- SLTI (R185). -/
  | slti (d : BitVec 5) (a : BitVec 5) (i : BitVec 16)
  /-- SHLI (R186). -/
  | shli (d : BitVec 5) (a : BitVec 5) (n : BitVec 6)
  /-- SHRI (R186). -/
  | shri (d : BitVec 5) (a : BitVec 5) (n : BitVec 6)
  /-- SRAI (R186). -/
  | srai (d : BitVec 5) (a : BitVec 5) (n : BitVec 6)
  /-- BFX (R186). -/
  | bfx (d : BitVec 5) (a : BitVec 5) (p : BitVec 6) (w : BitVec 6)
  /-- BFI (R186). -/
  | bfi (d : BitVec 5) (a : BitVec 5) (p : BitVec 6) (w : BitVec 6)
  /-- LI (R187). -/
  | li (d : BitVec 5) (i : BitVec 16)
  /-- LIH (R187). -/
  | lih (d : BitVec 5) (q : BitVec 2) (i : BitVec 16)
  /-- LDB (R189). -/
  | ldb (d : BitVec 5) (a : BitVec 5) (c : BitVec 4) (o : BitVec 8)
  /-- LDBU (R189). -/
  | ldbu (d : BitVec 5) (a : BitVec 5) (c : BitVec 4) (o : BitVec 8)
  /-- LDH (R189). -/
  | ldh (d : BitVec 5) (a : BitVec 5) (c : BitVec 4) (o : BitVec 8)
  /-- LDHU (R189). -/
  | ldhu (d : BitVec 5) (a : BitVec 5) (c : BitVec 4) (o : BitVec 8)
  /-- LDW (R189). -/
  | ldw (d : BitVec 5) (a : BitVec 5) (c : BitVec 4) (o : BitVec 8)
  /-- LDWU (R189). -/
  | ldwu (d : BitVec 5) (a : BitVec 5) (c : BitVec 4) (o : BitVec 8)
  /-- LD (R189). -/
  | ld (d : BitVec 5) (a : BitVec 5) (c : BitVec 4) (o : BitVec 8)
  /-- STB (R190). -/
  | stb (s : BitVec 5) (a : BitVec 5) (c : BitVec 4) (o : BitVec 8)
  /-- STH (R190). -/
  | sth (s : BitVec 5) (a : BitVec 5) (c : BitVec 4) (o : BitVec 8)
  /-- STW (R190). -/
  | stw (s : BitVec 5) (a : BitVec 5) (c : BitVec 4) (o : BitVec 8)
  /-- ST (R190). -/
  | st (s : BitVec 5) (a : BitVec 5) (c : BitVec 4) (o : BitVec 8)
  /-- LOOP (R193). -/
  | loop (a : BitVec 5) (o : BitVec 16)
  /-- BEQ (R192). -/
  | beq (a : BitVec 5) (b : BitVec 5) (o : BitVec 16)
  /-- BNE (R192). -/
  | bne (a : BitVec 5) (b : BitVec 5) (o : BitVec 16)
  /-- BLT (R192). -/
  | blt (a : BitVec 5) (b : BitVec 5) (o : BitVec 16)
  /-- BGE (R192). -/
  | bge (a : BitVec 5) (b : BitVec 5) (o : BitVec 16)
  /-- BLTU (R192). -/
  | bltu (a : BitVec 5) (b : BitVec 5) (o : BitVec 16)
  /-- BGEU (R192). -/
  | bgeu (a : BitVec 5) (b : BitVec 5) (o : BitVec 16)
  /-- VADD (R226). -/
  | vadd (d : BitVec 6) (a : BitVec 6) (b : BitVec 6) (m : BitVec 3)
  /-- VSUB (R226). -/
  | vsub (d : BitVec 6) (a : BitVec 6) (b : BitVec 6) (m : BitVec 3)
  /-- VMUL (R226). -/
  | vmul (d : BitVec 6) (a : BitVec 6) (b : BitVec 6) (m : BitVec 3)
  /-- VDIV (R226). -/
  | vdiv (d : BitVec 6) (a : BitVec 6) (b : BitVec 6) (m : BitVec 3)
  /-- VMIN (R226). -/
  | vmin (d : BitVec 6) (a : BitVec 6) (b : BitVec 6) (m : BitVec 3)
  /-- VMAX (R226). -/
  | vmax (d : BitVec 6) (a : BitVec 6) (b : BitVec 6) (m : BitVec 3)
  /-- VABS (R226). -/
  | vabs (d : BitVec 6) (a : BitVec 6) (m : BitVec 3)
  /-- VNEG (R226). -/
  | vneg (d : BitVec 6) (a : BitVec 6) (m : BitVec 3)
  /-- VRCP (R226). -/
  | vrcp (d : BitVec 6) (a : BitVec 6) (m : BitVec 3)
  /-- VRSQ (R226). -/
  | vrsq (d : BitVec 6) (a : BitVec 6) (m : BitVec 3)
  /-- VSQRT (R226). -/
  | vsqrt (d : BitVec 6) (a : BitVec 6) (m : BitVec 3)
  /-- VMOV (R225). -/
  | vmov (d : BitVec 6) (a : BitVec 6) (m : BitVec 3)
  /-- VAND (R227). -/
  | vand (d : BitVec 6) (a : BitVec 6) (b : BitVec 6) (m : BitVec 3)
  /-- VOR (R227). -/
  | vor (d : BitVec 6) (a : BitVec 6) (b : BitVec 6) (m : BitVec 3)
  /-- VXOR (R227). -/
  | vxor (d : BitVec 6) (a : BitVec 6) (b : BitVec 6) (m : BitVec 3)
  /-- VNOT (R227). -/
  | vnot (d : BitVec 6) (a : BitVec 6) (m : BitVec 3)
  /-- VSHL (R227). -/
  | vshl (d : BitVec 6) (a : BitVec 6) (b : BitVec 6) (m : BitVec 3)
  /-- VSHR (R227). -/
  | vshr (d : BitVec 6) (a : BitVec 6) (b : BitVec 6) (m : BitVec 3)
  /-- VSRA (R227). -/
  | vsra (d : BitVec 6) (a : BitVec 6) (b : BitVec 6) (m : BitVec 3)
  /-- VFMA (R228). -/
  | vfma (d : BitVec 6) (a : BitVec 6) (b : BitVec 6) (m : BitVec 3)
  /-- VFMS (R228). -/
  | vfms (d : BitVec 6) (a : BitVec 6) (b : BitVec 6) (m : BitVec 3)
  /-- VNFMA (R228). -/
  | vnfma (d : BitVec 6) (a : BitVec 6) (b : BitVec 6) (m : BitVec 3)
  /-- VCMPEQ (R229). -/
  | vcmpeq (d : BitVec 3) (a : BitVec 6) (b : BitVec 6) (m : BitVec 3)
  /-- VCMPLT (R229). -/
  | vcmplt (d : BitVec 3) (a : BitVec 6) (b : BitVec 6) (m : BitVec 3)
  /-- VCMPLE (R229). -/
  | vcmple (d : BitVec 3) (a : BitVec 6) (b : BitVec 6) (m : BitVec 3)
  /-- VSEL (R230). -/
  | vsel (d : BitVec 6) (a : BitVec 6) (b : BitVec 6) (m : BitVec 3)
  /-- MAND (R231). -/
  | mand (d : BitVec 3) (a : BitVec 3) (b : BitVec 3)
  /-- MOR (R231). -/
  | mor (d : BitVec 3) (a : BitVec 3) (b : BitVec 3)
  /-- MNOT (R231). -/
  | mnot (d : BitVec 3) (a : BitVec 3)
  /-- MPOP (R231). -/
  | mpop (d : BitVec 5) (a : BitVec 3)
  /-- MFIRST (R231). -/
  | mfirst (d : BitVec 5) (a : BitVec 3)
  /-- VCVT (R232). -/
  | vcvt (d : BitVec 6) (a : BitVec 6) (m : BitVec 3) (f : BitVec 4)
  /-- VWADD (R233). -/
  | vwadd (d : BitVec 6) (a : BitVec 6) (b : BitVec 6) (m : BitVec 3)
  /-- VWMUL (R233). -/
  | vwmul (d : BitVec 6) (a : BitVec 6) (b : BitVec 6) (m : BitVec 3)
  /-- VNARROW (R234). -/
  | vnarrow (d : BitVec 6) (a : BitVec 6) (e : BitVec 1) (n : BitVec 4) (m : BitVec 3)
  /-- VRSUM (R235). -/
  | vrsum (d : BitVec 6) (a : BitVec 6) (m : BitVec 3)
  /-- VRMAX (R235). -/
  | vrmax (d : BitVec 6) (a : BitVec 6) (m : BitVec 3)
  /-- VRMIN (R235). -/
  | vrmin (d : BitVec 6) (a : BitVec 6) (m : BitVec 3)
  /-- VRAMAX (R235). -/
  | vramax (d : BitVec 6) (a : BitVec 6) (m : BitVec 3)
  /-- VSCAN (R236). -/
  | vscan (d : BitVec 6) (a : BitVec 6) (m : BitVec 3)
  /-- VPERM (R237). -/
  | vperm (d : BitVec 6) (a : BitVec 6) (b : BitVec 6)
  /-- VIOTA (R238). -/
  | viota (d : BitVec 6) (m : BitVec 3)
  /-- VCOMPRESS (R239). -/
  | vcompress (d : BitVec 6) (a : BitVec 6) (m : BitVec 3)
  /-- VEXPAND (R239). -/
  | vexpand (d : BitVec 6) (a : BitVec 6) (m : BitVec 3)
  /-- VPPE (R243). -/
  | vppe (d : BitVec 6) (a : BitVec 6) (m : BitVec 3)
  /-- VBCAST (R225). -/
  | vbcast (d : BitVec 6) (a : BitVec 5)
  /-- VEXTR (R225). -/
  | vextr (d : BitVec 5) (a : BitVec 6) (b : BitVec 5)
  /-- VLI (R225). -/
  | vli (d : BitVec 6) (i : BitVec 16)
  /-- VCFG (R224). -/
  | vcfg (s : BitVec 1) (r : BitVec 3) (t : BitVec 4)
  /-- VROTM (R240). -/
  | vrotm (d : BitVec 6) (a : BitVec 6) (b : BitVec 6) (n : BitVec 5)
  /-- QLD (R245). -/
  | qld (q : BitVec 2) (a : BitVec 5) (c : BitVec 4) (r : BitVec 12)
  /-- QLDR (R246). -/
  | qldr (q : BitVec 2) (a : BitVec 5) (c : BitVec 4) (w : BitVec 6) (n : BitVec 5)
  /-- QST (R245). -/
  | qst (q : BitVec 2) (a : BitVec 5) (c : BitVec 4) (r : BitVec 12)
  /-- QSTR (R246). -/
  | qstr (q : BitVec 2) (a : BitVec 5) (c : BitVec 4) (w : BitVec 6) (n : BitVec 5)
  /-- RRES (R247). -/
  | rres (d : BitVec 5) (n : BitVec 5)
  /-- RPUB (R247). -/
  | rpub (a : BitVec 5) (n : BitVec 5)
  /-- RPOP (R247). -/
  | rpop (n : BitVec 5)
  /-- RPEEK (R247). -/
  | rpeek (d : BitVec 5) (n : BitVec 5)
  /-- RCFG (R249). -/
  | rcfg (a : BitVec 5) (n : BitVec 5)
  /-- KSET (R250). -/
  | kset (k : BitVec 3) (a : BitVec 5) (w : BitVec 2)
  /-- KLD (R250). -/
  | kld (k : BitVec 3) (a : BitVec 5) (c : BitVec 4) (o : BitVec 12)
  /-- KST (R250). -/
  | kst (k : BitVec 3) (a : BitVec 5) (c : BitVec 4) (o : BitVec 12)
  /-- PUSH (R174). -/
  | push (k : BitVec 3)
  /-- SHAPE (R252). -/
  | shape (h : BitVec 4) (k : BitVec 3)
  /-- SHLD (R252). -/
  | shld (h : BitVec 4) (a : BitVec 5) (c : BitVec 4) (o : BitVec 12)
  /-- PPLD (R242). -/
  | ppld (a : BitVec 5) (c : BitVec 4) (n : BitVec 6)
  /-- SPAWN (R276). -/
  | spawn (a : BitVec 5) (m : BitVec 16)
  /-- JOIN (R279). -/
  | join (a : BitVec 5)
  /-- EXIT (R280). -/
  | exit
  /-- GBAR (R286). -/
  | gbar
  /-- FGET (R282). -/
  | fget (d : BitVec 5) (a : BitVec 5)
  /-- FPUT (R282). -/
  | fput (a : BitVec 5) (b : BitVec 5)
  /-- FRESET (R282). -/
  | freset (a : BitVec 5)
  /-- SEMW (R288). -/
  | semw (n : BitVec 6)
  /-- SEMS (R288). -/
  | sems (n : BitVec 6)
  /-- EVWAIT (R289). -/
  | evwait (e : BitVec 6)
  /-- EVSIG (R289). -/
  | evsig (e : BitVec 6)
  /-- NOP (R216). -/
  | nop
  /-- BRK (R217). -/
  | brk
  /-- TIME (R212). -/
  | time (d : BitVec 5)
  /-- VDHOP (R211). -/
  | vdhop (d : BitVec 5) (a : BitVec 5) (b : BitVec 5)
  /-- MWAIT (R209). -/
  | mwait (a : BitVec 5)
  /-- TRAP (R217). -/
  | trap (c : BitVec 9)
  /-- REP (R196). -/
  | rep (n : BitVec 6) (s : BitVec 3)
  /-- SRD (R213). -/
  | srd (d : BitVec 5) (r : BitVec 8)
  /-- SWR (R214). -/
  | swr (a : BitVec 5) (r : BitVec 8)
  /-- ACQ (R205). -/
  | acq (d : BitVec 5) (a : BitVec 5) (b : BitVec 5) (s : BitVec 2)
  /-- REL (R206). -/
  | rel (d : BitVec 5) (a : BitVec 5) (b : BitVec 5) (s : BitVec 2)
  /-- MON (R208). -/
  | mon (a : BitVec 5)
  /-- FENCE (R204). -/
  | fence (m : BitVec 16)
  /-- WAIT (R203). -/
  | wait (l : BitVec 4) (s : BitVec 4) (c : BitVec 4) (t : BitVec 4)
  /-- REGION (R200). -/
  | region (r : BitVec 26)
  /-- JMP (R194). -/
  | jmp (o : BitVec 26)
  /-- JAL (R194). -/
  | jal (o : BitVec 26)
  /-- MMA (R261). -/
  | mma (h : CmdHdr) (b : MmaBody)
  /-- MMAC (R262). -/
  | mmac (h : CmdHdr) (b : MmaBody)
  /-- PROMOTE (R263). -/
  | promote (h : CmdHdr) (bank : Bool)
  /-- DRAIN (R264). -/
  | drain (h : CmdHdr) (b : DrainBody)
  /-- ZACC (R263). -/
  | zacc (h : CmdHdr) (za zb zp : Bool)
  /-- CHAIN (R267). -/
  | chain (h : CmdHdr) (glead : BitVec 3)
  /-- UNCHAIN (R267). -/
  | unchain (h : CmdHdr) (side : Bool)
  /-- TLOAD (R269). -/
  | tload (h : CmdHdr) (b : CopyBody)
  /-- TGATHER (R270). -/
  | tgather (h : CmdHdr) (b : CopyBody)
  /-- TCVT (R269). -/
  | tcvt (h : CmdHdr) (b : CopyBody)
  /-- PREFETCH (R270). -/
  | prefetch (h : CmdHdr) (b : CopyBody)
  /-- TSTORE (R269). -/
  | tstore (h : CmdHdr) (b : CopyBody)
  /-- GATOM_ADD (R273). -/
  | gatomAdd (h : CmdHdr) (b : GatomBody)
  /-- GATOM_FADD (R273). -/
  | gatomFadd (h : CmdHdr) (b : GatomBody)
  /-- GATOM_MAX (R273). -/
  | gatomMax (h : CmdHdr) (b : GatomBody)
  /-- GATOM_MIN (R273). -/
  | gatomMin (h : CmdHdr) (b : GatomBody)
  /-- GATOM_SWAP (R273). -/
  | gatomSwap (h : CmdHdr) (b : GatomBody)
  /-- GATOM_CAS (R273). -/
  | gatomCas (h : CmdHdr) (b : GatomBody)
  /-- MIGRATE (R274). -/
  | migrate (h : CmdHdr) (b : MigrateBody)
  /-- SCAT_ADD (R271). -/
  | scatAdd (h : CmdHdr) (b : ScatBody)
  /-- SCAT_MAX (R271). -/
  | scatMax (h : CmdHdr) (b : ScatBody)
  /-- SCAT_MIN (R271). -/
  | scatMin (h : CmdHdr) (b : ScatBody)
  /-- CNTSNAP (R272). -/
  | cntsnap (h : CmdHdr) (dref : OpRef)
  /-- RWRITE (R275). -/
  | rwrite (h : CmdHdr) (b : RwriteBody)
  /-- QFENCE (R258). -/
  | qfence (h : CmdHdr) (mask : BitVec 6)
  /-- SEMSIG (R258). -/
  | semsig (h : CmdHdr)
  /-- SEMWAIT (R258). -/
  | semwait (h : CmdHdr)
  /-- COMMAND_COMPLETE (R254). -/
  | commandComplete (r : CoreRef) (e : BitVec 3)
  /-- QLD_ROW_ARRIVAL (R245). -/
  | qldRowArrival (r : CoreRef) (q : BitVec 2)
  /-- LOAD_VALUE_RETURN (R189). -/
  | loadValueReturn (c : CtxRef)
  /-- HOME_REQUEST (R81). -/
  | homeRequest (q : HomeReq)
  /-- OWNER_FORWARD (R92). -/
  | ownerForward (site : Fin 6) (line : Nat)
  /-- MWAIT_TIMEOUT (R209). -/
  | mwaitTimeout (c : CtxRef)
  /-- REDIRECT (R97). -/
  | redirect (n : Nat)
  /-- FORCED_PUBLISH (R117). -/
  | forcedPublish (line : Nat)
  /-- FORCED_PUBLISH_ACK (R117). -/
  | forcedPublishAck (line : Nat)
  /-- ATS_COMPLETION (R76). -/
  | atsCompletion (n : Nat) (granted : Bool) (lg : Nat) (dla : Nat) (wr : Bool)
  /-- ATS_INVALIDATION (R77). -/
  | atsInvalidation (pasid : Nat) (hva : Nat) (lg : Nat)
  /-- ATS_INVALIDATION_DONE (R77). -/
  | atsInvalidationDone (n : Nat)
  /-- PAGE_REQUEST_RESPONSE (R78). -/
  | pageRequestResponse (n : Nat) (ok : Bool) (dla : Nat)
  /-- TASK_START (R49). -/
  | taskStart (p : Nat) (stage : Fin 16)
  /-- SPAWN_ENQUEUE (R276). -/
  | spawnEnqueue (c : CtxRef)
  /-- TASK_RETIRE (R52). -/
  | taskRetire (r : CoreRef)
  /-- TASK_SQUASH (R66). -/
  | taskSquash (r : CoreRef)
  /-- FAULT_RECORD (R340). -/
  | faultRecord (p : Nat)
  /-- JOIN_DEADLOCK (R64). -/
  | joinDeadlock (p : Nat)
  /-- SHUTDOWN_FAULT (R335). -/
  | shutdownFault (p : Nat)
  /-- SHUTDOWN_COMPLETE (R336). -/
  | shutdownComplete (p : Nat)
  /-- REEL_SAMPLE (R326). -/
  | reelSample (p : Nat)
  /-- COMPLETION_REPORT (R319). -/
  | completionReport (p : Nat) (lvl : CompLevel)
  /-- SETT_GRANT (R312). -/
  | settGrant
  /-- ZEROING_DONE (R316). -/
  | zeroingDone (site : Fin 6)
  /-- SETT_RESERVE (R314). -/
  | settReserve (n : Nat)
  /-- LEASE_RETURN (R315). -/
  | leaseReturn (r : CoreRef)
  /-- SCRUB_DONE (R315). -/
  | scrubDone (r : CoreRef)
  /-- PREEMPTION_COMPLETE (R344). -/
  | preemptionComplete (p : Nat)
  /-- RESUMPTION (R345). -/
  | resumption (p : Nat)
  /-- SLICE_BOUNDARY (R370). -/
  | sliceBoundary
  /-- REMOTE_WRITE_ARRIVAL (R364). -/
  | remoteWriteArrival (w : RemoteWrite)
  /-- REMOTE_WRITE_REFUSED (R275). -/
  | remoteWriteRefused (r : CoreRef) (e : BitVec 3)
  /-- MIGRATION_PINS_CLEARED (R95). -/
  | migrationPinsCleared (page : Nat)
  /-- MIGRATION_PIN_TIMEOUT (R355). -/
  | migrationPinTimeout (page : Nat)
  /-- MIGRATION_ACCEPT (R95). -/
  | migrationAccept (page : Nat)
  /-- STUB_AGE_EXPIRY (R99). -/
  | stubAgeExpiry (n : Nat)
  /-- OWNER_CACHE_INVALIDATION (R99). -/
  | ownerCacheInvalidation (n : Nat) (a : Agent)
  /-- STUB_ACK (R99). -/
  | stubAck (n : Nat) (a : Agent)
  /-- GATECMD_GATE (R102). -/
  | gatecmdGate (v : BitVec 64)
  /-- GATECMD_WAKE (R102). -/
  | gatecmdWake (v : BitVec 64)
  /-- GATE_DONE (R102). -/
  | gateDone
  /-- OPCHAIN (R297). -/
  | opchain (q : BitVec 14)
  /-- BATCH_BEGIN (R299). -/
  | batchBegin (q : BitVec 14)
  /-- BATCH_COMMIT (R300). -/
  | batchCommit (q : BitVec 14)
  /-- FENCE_PACKET (R297). -/
  | fencePacket (q : BitVec 14)
  /-- SIGNAL (R297). -/
  | signal (q : BitVec 14)
  /-- WAIT_PACKET (R297). -/
  | waitPacket (q : BitVec 14)
  /-- WAIT_PACKET_SATISFIED (R297). -/
  | waitPacketSatisfied (q : BitVec 14)
  /-- WAIT_PACKET_TIMEOUT (R297). -/
  | waitPacketTimeout (q : BitVec 14)
  /-- NOP_PACKET (R297). -/
  | nopPacket (q : BitVec 14)
  /-- KICK_EVENT (R298). -/
  | kickEvent (q : BitVec 14)
  /-- PACKET_REPOLL (R298). -/
  | packetRepoll (q : BitVec 14)
  /-- WQCFG_WRITE (R292). -/
  | wqcfgWrite (q : BitVec 14) (v : BitVec 64)
  /-- WQKICK (R293). -/
  | wqkick (q : BitVec 14) (v : BitVec 64)
  /-- WQSTAT_STOP_CLEAR (R294). -/
  | wqstatStopClear (q : BitVec 14) (v : BitVec 64)
  /-- FEATCTL_GO (R375). -/
  | featctlGo (v : BitVec 64)
  /-- BOOTCLR (R383). -/
  | bootclr (v : BitVec 64)
  /-- PREEMPT (R376). -/
  | preempt (v : BitVec 64)
  /-- RESUME (R376). -/
  | resume (v : BitVec 64)
  /-- DIEFENCE (R377). -/
  | diefence (v : BitVec 64)
  /-- FENCE_APPLY (R353). -/
  | fenceApply (slice : Fin 12) (site : Fin 6)
  /-- DIEREADMIT (R377). -/
  | diereadmit (v : BitVec 64)
  /-- DIE_READMIT_DONE (R377). -/
  | dieReadmitDone (site : Fin 6) (ok : Bool)
  /-- PLQ (R378). -/
  | plq (v : BitVec 64)
  /-- PGASSIGN (R387). -/
  | pgassign (v : BitVec 64)
  /-- KEYCMD_LOAD (R386). -/
  | keycmdLoad (v : BitVec 64)
  /-- KEYCMD_ERASE (R386). -/
  | keycmdErase (v : BitVec 64)
  /-- FLASH_UPDATE_WRITE (R382). -/
  | flashUpdateWrite (tgt : FlashTarget) (off : Nat) (v : BitVec 64)
  /-- REGISTER_WRITE (R373). -/
  | registerWrite (off : Nat) (v : BitVec 64)
  /-- PACKAGE_RESET (R383). -/
  | packageReset
  /-- DIE_ASLEEP_TIMEOUT (R351). -/
  | dieAsleepTimeout (site : Fin 6) (line : Nat)
  /-- DIE_DEAD (R351). -/
  | dieDead (site : Fin 6)
  /-- DIE_LINK_TRAINING_FAILED (R351). -/
  | dieLinkTrainingFailed (site : Fin 6)
  /-- FLIT_CRC_ERROR (R350). -/
  | flitCrcError (k : FlitLoss)
  /-- RESEND_TIMEOUT (R350). -/
  | resendTimeout (n : Nat)
  /-- FABRIC_LINK_DOWN (R360). -/
  | fabricLinkDown (port : BitVec 6)
  /-- REMOTE_REQUEST_TIMEOUT (R360). -/
  | remoteRequestTimeout (q : HomeReq)
  /-- PTP_MESSAGE (R368). -/
  | ptpMessage
  /-- PTP_LOCK_LOST (R368). -/
  | ptpLockLost
  /-- NETSLOT_FRAME_BOUNDARY (R371). -/
  | netslotFrameBoundary
  /-- POWER_CAP_EXCEEDED (R389). -/
  | powerCapExceeded (above : Bool)
  /-- THERMAL_CRITICAL (R389). -/
  | thermalCritical (site : Fin 6)
  /-- SNOOP_RESPONSE (R351). -/
  | snoopResponse (site : Fin 6) (line : Nat)
  /-- MIGRATION_COPY_DONE (R95). -/
  | migrationCopyDone (page : Nat)
  /-- DRIVER_STARTED_MIGRATION (R95). -/
  | driverStartedMigration (page : Nat) (dpkg : BitVec 12) (dsl : BitVec 4)
  /-- EXPANSION_STEP (R307). -/
  | expansionStep (chain : Nat)
  /-- INSTRUCTION_FETCH_RETURN (R195). -/
  | instructionFetchReturn (c : CtxRef)
  /-- FABRIC_LINK_UP (R358). -/
  | fabricLinkUp (port : BitVec 6)
  /-- POWER_LOST (R382). -/
  | powerLost
  /-- RECOVERY_MAILBOX_COMMAND (R385). -/
  | recoveryMailboxCommand (off : Nat) (v : BitVec 64)
  /-- ATTESTATION_NONCE_WRITE (R384). -/
  | attestationNonceWrite (v : BitVec 256)
  deriving DecidableEq, Repr

end Sys2Proof
end

