-- ==== Sys2Proof/WellFormed.lean ====
section
/-! DEFINITION. What makes a step well formed: the checks that an instruction's own fields decide (R41, R163, R169,
R175, R186, R193, R224, R234, and step 1 of R174). Checks that need VTYPE, the region or the context stand in
Machine/Operands.lean. -/

namespace Sys2Proof

/-- A vector source: v0 to v55 or a load queue (R41). -/
def vsrcOk (v : BitVec 6) : Bool := decide (v.toNat < 60)

/-- A vector destination: v0 to v55 or a store queue (R41). -/
def vdstOk (v : BitVec 6) : Bool := decide (v.toNat < 56) || decide (60 ≤ v.toNat)

/-- A system register that R169 lists. -/
def sysregListed (r : BitVec 8) : Bool :=
  decide (r.toNat ≤ 2) || (decide (8 ≤ r.toNat) && decide (r.toNat ≤ 0x0B)) || (decide (0x10 ≤ r.toNat) && decide (r.toNat ≤ 0x1F))

/-- A system register that some context may write (R169). -/
def sysregWritable (r : BitVec 8) : Bool :=
  decide (r.toNat ≤ 2) || (decide (0x10 ≤ r.toNat) && decide (r.toNat ≤ 0x1F))

/-- A vector element type (R126). -/
def vtypeCodeOk (t : BitVec 4) : Bool := decide (t.toNat ≤ 11) && t != 7

/-- The header of a command (R171, R173): the semaphores it does not use are 0, and its queue is allowed. -/
def CmdHdr.ok (h : CmdHdr) (engs : List Nat) : Bool :=
  (h.wv || h.wsem == 0) && (h.sv || h.ssem == 0) && decide (h.eng.toNat ∈ engs)

/-- An operand reference (R253): no reserved MODE, KEEP only in ring reads, LOC within its MODE's map. -/
def OpRef.ok (r : OpRef) (read : Bool) : Bool :=
  r.mode != 3 && (!r.keep || (read && r.mode == 1)) &&
  (r.mode != 1 || (decide (r.loc.toNat < 8192) && (!read || decide (r.loc.toNat < 32)))) && (r.mode != 2 || r.loc == 0)

/-- The reference that is all 0. -/
def OpRef.zero : OpRef := ⟨0, false, 0⟩

/-- What the copy commands share (R268): fields a stage does not use are 0. -/
def CopyBody.ok (b : CopyBody) (read : Bool) : Bool :=
  b.sref.ok read && (b.cvt || b.spfmt == 0) && (b.ae || b.amn == 0) && (b.ste || b.staddr == 0)

/-- The body of GATOM but CAS: CMPV is 0 (R273). -/
def GatomBody.ok (b : GatomBody) : Bool := b.cmpv == 0

/-- The body of SCAT (R271). -/
def ScatBody.ok (b : ScatBody) : Bool := b.vref.ok true && b.xref.ok true

/-- The static checks of a step. Events have none. -/
def Instr.wf : Instr → Bool
  | .add .. | .sub .. | .mul .. | .mulh .. | .mulhu .. | .div .. | .divu .. | .rem .. | .remu .. | .and .. | .or ..
  | .xor .. | .shl .. | .shr .. | .sra .. | .slt .. | .sltu .. | .min .. | .max .. | .minu .. | .maxu .. | .sadd ..
  | .clz .. | .ctz .. | .popc .. | .sext8 .. | .sext16 .. | .sext32 .. | .zext8 .. | .zext16 .. | .zext32 .. | .sel ..
  | .jalr .. | .addi .. | .andi .. | .ori .. | .xori .. | .slti .. | .shli .. | .shri .. | .srai .. => true
  | .bfx _ _ p w => decide (p.toNat + w.toNat < 64)
  | .bfi _ _ p w => decide (p.toNat + w.toNat < 64)
  | .li .. | .lih .. | .ldb .. | .ldbu .. | .ldh .. | .ldhu .. | .ldw .. | .ldwu .. | .ld .. | .stb .. | .sth .. | .stw ..
  | .st .. => true
  | .loop a _ => a != 0
  | .beq .. | .bne .. | .blt .. | .bge .. | .bltu .. | .bgeu .. => true
  | .vadd d a b _ | .vsub d a b _ | .vmul d a b _ | .vdiv d a b _ | .vmin d a b _ | .vmax d a b _ | .vand d a b _
  | .vor d a b _ | .vxor d a b _ | .vshl d a b _ | .vshr d a b _ | .vsra d a b _ | .vsel d a b _ | .vwadd d a b _
  | .vwmul d a b _ => vdstOk d && vsrcOk a && vsrcOk b
  | .vperm d a b => vdstOk d && vsrcOk a && vsrcOk b
  | .vrotm d a b _ => vdstOk d && vsrcOk a && vsrcOk b
  | .vabs d a _ | .vneg d a _ | .vrcp d a _ | .vrsq d a _ | .vsqrt d a _ | .vmov d a _ | .vnot d a _ | .vrsum d a _
  | .vrmax d a _ | .vrmin d a _ | .vramax d a _ | .vscan d a _ | .vcompress d a _ | .vexpand d a _ | .vppe d a _ =>
    vdstOk d && vsrcOk a
  | .vfma d a b _ | .vfms d a b _ | .vnfma d a b _ => decide (d.toNat < 56) && vsrcOk a && vsrcOk b
  | .vcmpeq d a b _ | .vcmplt d a b _ | .vcmple d a b _ => d != 0 && vsrcOk a && vsrcOk b
  | .mand d _ _ | .mor d _ _ => d != 0
  | .mnot d _ => d != 0
  | .mpop .. | .mfirst .. => true
  | .vcvt d a _ f => vdstOk d && vsrcOk a && vtypeCodeOk f
  | .vnarrow d a e n _ => vdstOk d && vsrcOk a && (e == 1 || n == 0)
  | .viota d _ => vdstOk d
  | .vbcast d _ => vdstOk d
  | .vextr _ a _ => vsrcOk a
  | .vli d _ => vdstOk d
  | .vcfg _ r t => decide (r.toNat ≤ 4) && vtypeCodeOk t
  | .qld .. | .qldr .. | .qst .. | .qstr .. | .rres .. | .rpub .. | .rpop .. | .rpeek .. | .rcfg .. | .kset .. | .kld ..
  | .kst .. | .push .. | .shape .. | .shld .. | .ppld .. | .spawn .. | .join .. | .exit | .gbar | .fget .. | .fput ..
  | .freset .. | .semw .. | .sems .. | .evwait .. | .evsig .. | .nop | .brk | .time .. | .vdhop .. | .mwait .. | .trap ..
  | .rep .. => true
  | .srd _ r => sysregListed r
  | .swr _ r => sysregWritable r
  | .acq .. | .rel .. | .mon .. | .fence .. | .wait .. | .region .. | .jmp .. | .jal .. => true
  | .mma h b => h.ok [0] && b.aref.ok true && b.bref.ok true
  | .mmac h b => h.ok [0] && b.aref == OpRef.zero && b.bref.ok true
  | .promote h _ => h.ok [0]
  | .drain h b => h.ok [0] && b.dref.ok false && (b.ae || b.amn == 0)
  | .zacc h .. => h.ok [0]
  | .chain h _ => h.ok [0]
  | .unchain h _ => h.ok [0]
  | .tload h b => h.ok [1] && b.ok false && b.xref == OpRef.zero && !b.lvl
  | .tgather h b => h.ok [1] && b.ok false && b.xref.ok true && !b.lvl
  | .tcvt h b => h.ok [1, 2] && b.ok true && b.xref.ok false && !b.lvl
  | .prefetch h b =>
    h.ok [1] && b.sref == OpRef.zero && b.xref == OpRef.zero && !b.cvt && !b.trn && !b.bsc && !b.gix && !b.zpd &&
    b.spfmt == 0 && !b.ste && (b.ae || b.amn == 0) && b.staddr == 0 && b.stval == 0
  | .tstore h b => h.ok [2] && b.ok true && b.xref == OpRef.zero && !b.lvl
  | .gatomAdd h b | .gatomFadd h b | .gatomMax h b | .gatomMin h b | .gatomSwap h b => h.ok [2] && b.ok
  | .gatomCas h _ => h.ok [2]
  | .migrate h _ => h.ok [2]
  | .scatAdd h b | .scatMax h b | .scatMin h b => h.ok [3] && b.ok
  | .cntsnap h r => h.ok [3] && r.ok false
  | .rwrite h b => h.ok [4, 5] && b.sref.ok true
  | .qfence h _ => h.ok [0] && !h.wv
  | .semsig h => h.ok [0, 1, 2, 3, 4, 5]
  | .semwait h => h.ok [0, 1, 2, 3, 4, 5]
  | .commandComplete .. | .qldRowArrival .. | .loadValueReturn .. | .homeRequest .. | .ownerForward .. | .mwaitTimeout ..
  | .redirect .. | .forcedPublish .. | .forcedPublishAck .. | .atsCompletion .. | .atsInvalidation ..
  | .atsInvalidationDone .. | .pageRequestResponse .. | .taskStart .. | .spawnEnqueue .. | .taskRetire .. | .taskSquash ..
  | .faultRecord .. | .joinDeadlock .. | .shutdownFault .. | .shutdownComplete .. | .reelSample .. | .completionReport ..
  | .settGrant | .zeroingDone .. | .settReserve .. | .leaseReturn .. | .scrubDone .. | .preemptionComplete ..
  | .resumption .. | .sliceBoundary | .remoteWriteArrival .. | .remoteWriteRefused .. | .migrationPinsCleared ..
  | .migrationPinTimeout .. | .migrationAccept .. | .stubAgeExpiry .. | .ownerCacheInvalidation .. | .stubAck ..
  | .gatecmdGate .. | .gatecmdWake .. | .gateDone | .opchain .. | .batchBegin .. | .batchCommit .. | .fencePacket ..
  | .signal .. | .waitPacket .. | .waitPacketSatisfied .. | .waitPacketTimeout .. | .nopPacket .. | .kickEvent ..
  | .packetRepoll .. | .wqcfgWrite .. | .wqkick .. | .wqstatStopClear .. | .featctlGo .. | .bootclr .. | .preempt ..
  | .resume .. | .diefence .. | .fenceApply .. | .diereadmit .. | .dieReadmitDone .. | .plq .. | .pgassign ..
  | .keycmdLoad .. | .keycmdErase .. | .flashUpdateWrite .. | .registerWrite .. | .packageReset | .dieAsleepTimeout ..
  | .dieDead .. | .dieLinkTrainingFailed .. | .flitCrcError .. | .resendTimeout .. | .fabricLinkDown ..
  | .remoteRequestTimeout .. | .ptpMessage | .ptpLockLost | .netslotFrameBoundary | .powerCapExceeded ..
  | .thermalCritical .. | .snoopResponse .. | .migrationCopyDone .. | .driverStartedMigration .. | .expansionStep ..
  | .instructionFetchReturn .. | .fabricLinkUp .. | .powerLost | .recoveryMailboxCommand .. | .attestationNonceWrite .. => true

end Sys2Proof
end

