-- ==== Sys2Proof/Decode.lean ====
section
/-! DEFINITION. Control words and tile command words to instructions, and back. Both directions follow the encoding
tables of 11_encoding.md and 17_tile.md. -/

namespace Sys2Proof

open Sys2Proof.Machine

/-- Why a word is no instruction (R175) or a command word fails step 1 or the reserved values of step 3 (R174). -/
inductive DecodeError where
  /-- A major opcode that R157 leaves unassigned or illegal. -/
  | major (op : Nat)
  /-- A sub-field value that no row lists, or a reserved field that is not 0. -/
  | fields (op : Nat)
  /-- A command code that R173 leaves unassigned. -/
  | command (cmd : Nat)
  /-- A reserved field of a command word that is not 0. -/
  | reserved (cmd : Nat)
  /-- A queue that R173 does not allow. -/
  | engine (cmd : Nat)
  /-- A reserved value caught at step 3: SCAT's OP 3, GATOM's OP 6 and 7 (R174, R271, R273). -/
  | value (cmd : Nat)
  deriving DecidableEq, Repr

/-- Major 0x00 (R157 to R166). -/
def decode00 (w : CtlWord) : Except DecodeError Instr :=
  if fld w 0 11 = 0x1 then .ok (.add (w.extractLsb' 21 5) (w.extractLsb' 16 5) (w.extractLsb' 11 5)) else
  if fld w 0 11 = 0x2 then .ok (.sub (w.extractLsb' 21 5) (w.extractLsb' 16 5) (w.extractLsb' 11 5)) else
  if fld w 0 11 = 0x3 then .ok (.mul (w.extractLsb' 21 5) (w.extractLsb' 16 5) (w.extractLsb' 11 5)) else
  if fld w 0 11 = 0x4 then .ok (.mulh (w.extractLsb' 21 5) (w.extractLsb' 16 5) (w.extractLsb' 11 5)) else
  if fld w 0 11 = 0x5 then .ok (.mulhu (w.extractLsb' 21 5) (w.extractLsb' 16 5) (w.extractLsb' 11 5)) else
  if fld w 0 11 = 0x6 then .ok (.div (w.extractLsb' 21 5) (w.extractLsb' 16 5) (w.extractLsb' 11 5)) else
  if fld w 0 11 = 0x7 then .ok (.divu (w.extractLsb' 21 5) (w.extractLsb' 16 5) (w.extractLsb' 11 5)) else
  if fld w 0 11 = 0x8 then .ok (.rem (w.extractLsb' 21 5) (w.extractLsb' 16 5) (w.extractLsb' 11 5)) else
  if fld w 0 11 = 0x9 then .ok (.remu (w.extractLsb' 21 5) (w.extractLsb' 16 5) (w.extractLsb' 11 5)) else
  if fld w 0 11 = 0xA then .ok (.and (w.extractLsb' 21 5) (w.extractLsb' 16 5) (w.extractLsb' 11 5)) else
  if fld w 0 11 = 0xB then .ok (.or (w.extractLsb' 21 5) (w.extractLsb' 16 5) (w.extractLsb' 11 5)) else
  if fld w 0 11 = 0xC then .ok (.xor (w.extractLsb' 21 5) (w.extractLsb' 16 5) (w.extractLsb' 11 5)) else
  if fld w 0 11 = 0xD then .ok (.shl (w.extractLsb' 21 5) (w.extractLsb' 16 5) (w.extractLsb' 11 5)) else
  if fld w 0 11 = 0xE then .ok (.shr (w.extractLsb' 21 5) (w.extractLsb' 16 5) (w.extractLsb' 11 5)) else
  if fld w 0 11 = 0xF then .ok (.sra (w.extractLsb' 21 5) (w.extractLsb' 16 5) (w.extractLsb' 11 5)) else
  if fld w 0 11 = 0x10 then .ok (.slt (w.extractLsb' 21 5) (w.extractLsb' 16 5) (w.extractLsb' 11 5)) else
  if fld w 0 11 = 0x11 then .ok (.sltu (w.extractLsb' 21 5) (w.extractLsb' 16 5) (w.extractLsb' 11 5)) else
  if fld w 0 11 = 0x12 then .ok (.min (w.extractLsb' 21 5) (w.extractLsb' 16 5) (w.extractLsb' 11 5)) else
  if fld w 0 11 = 0x13 then .ok (.max (w.extractLsb' 21 5) (w.extractLsb' 16 5) (w.extractLsb' 11 5)) else
  if fld w 0 11 = 0x14 then .ok (.minu (w.extractLsb' 21 5) (w.extractLsb' 16 5) (w.extractLsb' 11 5)) else
  if fld w 0 11 = 0x15 then .ok (.maxu (w.extractLsb' 21 5) (w.extractLsb' 16 5) (w.extractLsb' 11 5)) else
  if fld w 0 11 = 0x16 then .ok (.sadd (w.extractLsb' 21 5) (w.extractLsb' 16 5) (w.extractLsb' 11 5)) else
  if fld w 0 16 = 0x18 then .ok (.clz (w.extractLsb' 21 5) (w.extractLsb' 16 5)) else
  if fld w 0 16 = 0x19 then .ok (.ctz (w.extractLsb' 21 5) (w.extractLsb' 16 5)) else
  if fld w 0 16 = 0x1A then .ok (.popc (w.extractLsb' 21 5) (w.extractLsb' 16 5)) else
  if fld w 0 16 = 0x20 then .ok (.sext8 (w.extractLsb' 21 5) (w.extractLsb' 16 5)) else
  if fld w 0 16 = 0x21 then .ok (.sext16 (w.extractLsb' 21 5) (w.extractLsb' 16 5)) else
  if fld w 0 16 = 0x22 then .ok (.sext32 (w.extractLsb' 21 5) (w.extractLsb' 16 5)) else
  if fld w 0 16 = 0x24 then .ok (.zext8 (w.extractLsb' 21 5) (w.extractLsb' 16 5)) else
  if fld w 0 16 = 0x25 then .ok (.zext16 (w.extractLsb' 21 5) (w.extractLsb' 16 5)) else
  if fld w 0 16 = 0x26 then .ok (.zext32 (w.extractLsb' 21 5) (w.extractLsb' 16 5)) else
  if fld w 5 6 = 0x20 then .ok (.sel (w.extractLsb' 21 5) (w.extractLsb' 16 5) (w.extractLsb' 11 5) (w.extractLsb' 0 5)) else
  if fld w 0 16 = 0x1C then .ok (.jalr (w.extractLsb' 21 5) (w.extractLsb' 16 5)) else
  .error (.fields 0x00)

/-- Major 0x01 (R157 to R166). -/
def decode01 (w : CtlWord) : Except DecodeError Instr :=
  .ok (.addi (w.extractLsb' 21 5) (w.extractLsb' 16 5) (w.extractLsb' 0 16))

/-- Major 0x02 (R157 to R166). -/
def decode02 (w : CtlWord) : Except DecodeError Instr :=
  .ok (.andi (w.extractLsb' 21 5) (w.extractLsb' 16 5) (w.extractLsb' 0 16))

/-- Major 0x03 (R157 to R166). -/
def decode03 (w : CtlWord) : Except DecodeError Instr :=
  .ok (.ori (w.extractLsb' 21 5) (w.extractLsb' 16 5) (w.extractLsb' 0 16))

/-- Major 0x04 (R157 to R166). -/
def decode04 (w : CtlWord) : Except DecodeError Instr :=
  .ok (.xori (w.extractLsb' 21 5) (w.extractLsb' 16 5) (w.extractLsb' 0 16))

/-- Major 0x05 (R157 to R166). -/
def decode05 (w : CtlWord) : Except DecodeError Instr :=
  .ok (.slti (w.extractLsb' 21 5) (w.extractLsb' 16 5) (w.extractLsb' 0 16))

/-- Major 0x06 (R157 to R166). -/
def decode06 (w : CtlWord) : Except DecodeError Instr :=
  if fld w 6 10 = 0x0 then .ok (.shli (w.extractLsb' 21 5) (w.extractLsb' 16 5) (w.extractLsb' 0 6)) else
  if fld w 6 10 = 0x80 then .ok (.shri (w.extractLsb' 21 5) (w.extractLsb' 16 5) (w.extractLsb' 0 6)) else
  if fld w 6 10 = 0x100 then .ok (.srai (w.extractLsb' 21 5) (w.extractLsb' 16 5) (w.extractLsb' 0 6)) else
  if fld w 12 4 = 0x6 then .ok (.bfx (w.extractLsb' 21 5) (w.extractLsb' 16 5) (w.extractLsb' 6 6) (w.extractLsb' 0 6)) else
  if fld w 12 4 = 0x8 then .ok (.bfi (w.extractLsb' 21 5) (w.extractLsb' 16 5) (w.extractLsb' 6 6) (w.extractLsb' 0 6)) else
  .error (.fields 0x06)

/-- Major 0x07 (R157 to R166). -/
def decode07 (w : CtlWord) : Except DecodeError Instr :=
  if fld w 16 5 = 0x0 then .ok (.li (w.extractLsb' 21 5) (w.extractLsb' 0 16)) else
  if fld w 18 3 = 0x1 then .ok (.lih (w.extractLsb' 21 5) (w.extractLsb' 16 2) (w.extractLsb' 0 16)) else
  .error (.fields 0x07)

/-- Major 0x08 (R157 to R166). -/
def decode08 (w : CtlWord) : Except DecodeError Instr :=
  if fld w 8 4 = 0x0 then .ok (.ldb (w.extractLsb' 21 5) (w.extractLsb' 16 5) (w.extractLsb' 12 4) (w.extractLsb' 0 8)) else
  if fld w 8 4 = 0x1 then .ok (.ldbu (w.extractLsb' 21 5) (w.extractLsb' 16 5) (w.extractLsb' 12 4) (w.extractLsb' 0 8)) else
  if fld w 8 4 = 0x2 then .ok (.ldh (w.extractLsb' 21 5) (w.extractLsb' 16 5) (w.extractLsb' 12 4) (w.extractLsb' 0 8)) else
  if fld w 8 4 = 0x3 then .ok (.ldhu (w.extractLsb' 21 5) (w.extractLsb' 16 5) (w.extractLsb' 12 4) (w.extractLsb' 0 8)) else
  if fld w 8 4 = 0x4 then .ok (.ldw (w.extractLsb' 21 5) (w.extractLsb' 16 5) (w.extractLsb' 12 4) (w.extractLsb' 0 8)) else
  if fld w 8 4 = 0x5 then .ok (.ldwu (w.extractLsb' 21 5) (w.extractLsb' 16 5) (w.extractLsb' 12 4) (w.extractLsb' 0 8)) else
  if fld w 8 4 = 0x6 then .ok (.ld (w.extractLsb' 21 5) (w.extractLsb' 16 5) (w.extractLsb' 12 4) (w.extractLsb' 0 8)) else
  if fld w 8 4 = 0x8 then .ok (.stb (w.extractLsb' 21 5) (w.extractLsb' 16 5) (w.extractLsb' 12 4) (w.extractLsb' 0 8)) else
  if fld w 8 4 = 0x9 then .ok (.sth (w.extractLsb' 21 5) (w.extractLsb' 16 5) (w.extractLsb' 12 4) (w.extractLsb' 0 8)) else
  if fld w 8 4 = 0xA then .ok (.stw (w.extractLsb' 21 5) (w.extractLsb' 16 5) (w.extractLsb' 12 4) (w.extractLsb' 0 8)) else
  if fld w 8 4 = 0xB then .ok (.st (w.extractLsb' 21 5) (w.extractLsb' 16 5) (w.extractLsb' 12 4) (w.extractLsb' 0 8)) else
  .error (.fields 0x08)

/-- Major 0x09 (R157 to R166). -/
def decode09 (w : CtlWord) : Except DecodeError Instr :=
  if fld w 16 5 = 0x0 then .ok (.loop (w.extractLsb' 21 5) (w.extractLsb' 0 16)) else
  .error (.fields 0x09)

/-- Major 0x0A (R157 to R166). -/
def decode0A (w : CtlWord) : Except DecodeError Instr :=
  .ok (.beq (w.extractLsb' 21 5) (w.extractLsb' 16 5) (w.extractLsb' 0 16))

/-- Major 0x0B (R157 to R166). -/
def decode0B (w : CtlWord) : Except DecodeError Instr :=
  .ok (.bne (w.extractLsb' 21 5) (w.extractLsb' 16 5) (w.extractLsb' 0 16))

/-- Major 0x0C (R157 to R166). -/
def decode0C (w : CtlWord) : Except DecodeError Instr :=
  .ok (.blt (w.extractLsb' 21 5) (w.extractLsb' 16 5) (w.extractLsb' 0 16))

/-- Major 0x0D (R157 to R166). -/
def decode0D (w : CtlWord) : Except DecodeError Instr :=
  .ok (.bge (w.extractLsb' 21 5) (w.extractLsb' 16 5) (w.extractLsb' 0 16))

/-- Major 0x0E (R157 to R166). -/
def decode0E (w : CtlWord) : Except DecodeError Instr :=
  .ok (.bltu (w.extractLsb' 21 5) (w.extractLsb' 16 5) (w.extractLsb' 0 16))

/-- Major 0x0F (R157 to R166). -/
def decode0F (w : CtlWord) : Except DecodeError Instr :=
  .ok (.bgeu (w.extractLsb' 21 5) (w.extractLsb' 16 5) (w.extractLsb' 0 16))

/-- Major 0x10 (R157 to R166). -/
def decode10 (w : CtlWord) : Except DecodeError Instr :=
  if fld w 0 5 = 0x0 then .ok (.vadd (w.extractLsb' 20 6) (w.extractLsb' 14 6) (w.extractLsb' 8 6) (w.extractLsb' 5 3)) else
  if fld w 0 5 = 0x1 then .ok (.vsub (w.extractLsb' 20 6) (w.extractLsb' 14 6) (w.extractLsb' 8 6) (w.extractLsb' 5 3)) else
  if fld w 0 5 = 0x2 then .ok (.vmul (w.extractLsb' 20 6) (w.extractLsb' 14 6) (w.extractLsb' 8 6) (w.extractLsb' 5 3)) else
  if fld w 0 5 = 0x3 then .ok (.vdiv (w.extractLsb' 20 6) (w.extractLsb' 14 6) (w.extractLsb' 8 6) (w.extractLsb' 5 3)) else
  if fld w 0 5 = 0x4 then .ok (.vmin (w.extractLsb' 20 6) (w.extractLsb' 14 6) (w.extractLsb' 8 6) (w.extractLsb' 5 3)) else
  if fld w 0 5 = 0x5 then .ok (.vmax (w.extractLsb' 20 6) (w.extractLsb' 14 6) (w.extractLsb' 8 6) (w.extractLsb' 5 3)) else
  if fld w 0 5 = 0x6 ∧ fld w 8 6 = 0x0 then .ok (.vabs (w.extractLsb' 20 6) (w.extractLsb' 14 6) (w.extractLsb' 5 3)) else
  if fld w 0 5 = 0x7 ∧ fld w 8 6 = 0x0 then .ok (.vneg (w.extractLsb' 20 6) (w.extractLsb' 14 6) (w.extractLsb' 5 3)) else
  if fld w 0 5 = 0x8 ∧ fld w 8 6 = 0x0 then .ok (.vrcp (w.extractLsb' 20 6) (w.extractLsb' 14 6) (w.extractLsb' 5 3)) else
  if fld w 0 5 = 0x9 ∧ fld w 8 6 = 0x0 then .ok (.vrsq (w.extractLsb' 20 6) (w.extractLsb' 14 6) (w.extractLsb' 5 3)) else
  if fld w 0 5 = 0xA ∧ fld w 8 6 = 0x0 then .ok (.vsqrt (w.extractLsb' 20 6) (w.extractLsb' 14 6) (w.extractLsb' 5 3)) else
  if fld w 0 5 = 0xB ∧ fld w 8 6 = 0x0 then .ok (.vmov (w.extractLsb' 20 6) (w.extractLsb' 14 6) (w.extractLsb' 5 3)) else
  if fld w 0 5 = 0xC then .ok (.vand (w.extractLsb' 20 6) (w.extractLsb' 14 6) (w.extractLsb' 8 6) (w.extractLsb' 5 3)) else
  if fld w 0 5 = 0xD then .ok (.vor (w.extractLsb' 20 6) (w.extractLsb' 14 6) (w.extractLsb' 8 6) (w.extractLsb' 5 3)) else
  if fld w 0 5 = 0xE then .ok (.vxor (w.extractLsb' 20 6) (w.extractLsb' 14 6) (w.extractLsb' 8 6) (w.extractLsb' 5 3)) else
  if fld w 0 5 = 0xF ∧ fld w 8 6 = 0x0 then .ok (.vnot (w.extractLsb' 20 6) (w.extractLsb' 14 6) (w.extractLsb' 5 3)) else
  if fld w 0 5 = 0x10 then .ok (.vshl (w.extractLsb' 20 6) (w.extractLsb' 14 6) (w.extractLsb' 8 6) (w.extractLsb' 5 3)) else
  if fld w 0 5 = 0x11 then .ok (.vshr (w.extractLsb' 20 6) (w.extractLsb' 14 6) (w.extractLsb' 8 6) (w.extractLsb' 5 3)) else
  if fld w 0 5 = 0x12 then .ok (.vsra (w.extractLsb' 20 6) (w.extractLsb' 14 6) (w.extractLsb' 8 6) (w.extractLsb' 5 3)) else
  .error (.fields 0x10)

/-- Major 0x11 (R157 to R166). -/
def decode11 (w : CtlWord) : Except DecodeError Instr :=
  if fld w 0 5 = 0x0 then .ok (.vfma (w.extractLsb' 20 6) (w.extractLsb' 14 6) (w.extractLsb' 8 6) (w.extractLsb' 5 3)) else
  if fld w 0 5 = 0x1 then .ok (.vfms (w.extractLsb' 20 6) (w.extractLsb' 14 6) (w.extractLsb' 8 6) (w.extractLsb' 5 3)) else
  if fld w 0 5 = 0x2 then .ok (.vnfma (w.extractLsb' 20 6) (w.extractLsb' 14 6) (w.extractLsb' 8 6) (w.extractLsb' 5 3)) else
  .error (.fields 0x11)

/-- Major 0x12 (R157 to R166). -/
def decode12 (w : CtlWord) : Except DecodeError Instr :=
  if fld w 0 5 = 0x0 ∧ fld w 23 3 = 0x0 then .ok (.vcmpeq (w.extractLsb' 20 3) (w.extractLsb' 14 6) (w.extractLsb' 8 6) (w.extractLsb' 5 3)) else
  if fld w 0 5 = 0x1 ∧ fld w 23 3 = 0x0 then .ok (.vcmplt (w.extractLsb' 20 3) (w.extractLsb' 14 6) (w.extractLsb' 8 6) (w.extractLsb' 5 3)) else
  if fld w 0 5 = 0x2 ∧ fld w 23 3 = 0x0 then .ok (.vcmple (w.extractLsb' 20 3) (w.extractLsb' 14 6) (w.extractLsb' 8 6) (w.extractLsb' 5 3)) else
  if fld w 0 5 = 0x3 then .ok (.vsel (w.extractLsb' 20 6) (w.extractLsb' 14 6) (w.extractLsb' 8 6) (w.extractLsb' 5 3)) else
  .error (.fields 0x12)

/-- Major 0x13 (R157 to R166). -/
def decode13 (w : CtlWord) : Except DecodeError Instr :=
  if fld w 0 8 = 0x0 ∧ fld w 11 3 = 0x0 ∧ fld w 17 3 = 0x0 ∧ fld w 23 3 = 0x0 then .ok (.mand (w.extractLsb' 20 3) (w.extractLsb' 14 3) (w.extractLsb' 8 3)) else
  if fld w 0 8 = 0x1 ∧ fld w 11 3 = 0x0 ∧ fld w 17 3 = 0x0 ∧ fld w 23 3 = 0x0 then .ok (.mor (w.extractLsb' 20 3) (w.extractLsb' 14 3) (w.extractLsb' 8 3)) else
  if fld w 0 14 = 0x2 ∧ fld w 17 3 = 0x0 ∧ fld w 23 3 = 0x0 then .ok (.mnot (w.extractLsb' 20 3) (w.extractLsb' 14 3)) else
  if fld w 0 14 = 0x3 ∧ fld w 17 3 = 0x0 ∧ fld w 25 1 = 0x0 then .ok (.mpop (w.extractLsb' 20 5) (w.extractLsb' 14 3)) else
  if fld w 0 14 = 0x4 ∧ fld w 17 3 = 0x0 ∧ fld w 25 1 = 0x0 then .ok (.mfirst (w.extractLsb' 20 5) (w.extractLsb' 14 3)) else
  .error (.fields 0x13)

/-- Major 0x14 (R157 to R166). -/
def decode14 (w : CtlWord) : Except DecodeError Instr :=
  if fld w 4 1 = 0x0 ∧ fld w 8 6 = 0x0 then .ok (.vcvt (w.extractLsb' 20 6) (w.extractLsb' 14 6) (w.extractLsb' 5 3) (w.extractLsb' 0 4)) else
  .error (.fields 0x14)

/-- Major 0x15 (R157 to R166). -/
def decode15 (w : CtlWord) : Except DecodeError Instr :=
  if fld w 0 5 = 0x0 then .ok (.vwadd (w.extractLsb' 20 6) (w.extractLsb' 14 6) (w.extractLsb' 8 6) (w.extractLsb' 5 3)) else
  if fld w 0 5 = 0x1 then .ok (.vwmul (w.extractLsb' 20 6) (w.extractLsb' 14 6) (w.extractLsb' 8 6) (w.extractLsb' 5 3)) else
  if fld w 0 5 = 0x2 ∧ fld w 12 1 = 0x0 then .ok (.vnarrow (w.extractLsb' 20 6) (w.extractLsb' 14 6) (w.extractLsb' 13 1) (w.extractLsb' 8 4) (w.extractLsb' 5 3)) else
  .error (.fields 0x15)

/-- Major 0x16 (R157 to R166). -/
def decode16 (w : CtlWord) : Except DecodeError Instr :=
  if fld w 0 5 = 0x0 ∧ fld w 8 6 = 0x0 then .ok (.vrsum (w.extractLsb' 20 6) (w.extractLsb' 14 6) (w.extractLsb' 5 3)) else
  if fld w 0 5 = 0x1 ∧ fld w 8 6 = 0x0 then .ok (.vrmax (w.extractLsb' 20 6) (w.extractLsb' 14 6) (w.extractLsb' 5 3)) else
  if fld w 0 5 = 0x2 ∧ fld w 8 6 = 0x0 then .ok (.vrmin (w.extractLsb' 20 6) (w.extractLsb' 14 6) (w.extractLsb' 5 3)) else
  if fld w 0 5 = 0x3 ∧ fld w 8 6 = 0x0 then .ok (.vramax (w.extractLsb' 20 6) (w.extractLsb' 14 6) (w.extractLsb' 5 3)) else
  if fld w 0 5 = 0x4 ∧ fld w 8 6 = 0x0 then .ok (.vscan (w.extractLsb' 20 6) (w.extractLsb' 14 6) (w.extractLsb' 5 3)) else
  .error (.fields 0x16)

/-- Major 0x17 (R157 to R166). -/
def decode17 (w : CtlWord) : Except DecodeError Instr :=
  if fld w 0 8 = 0x0 then .ok (.vperm (w.extractLsb' 20 6) (w.extractLsb' 14 6) (w.extractLsb' 8 6)) else
  if fld w 0 5 = 0x1 ∧ fld w 8 12 = 0x0 then .ok (.viota (w.extractLsb' 20 6) (w.extractLsb' 5 3)) else
  if fld w 0 5 = 0x2 ∧ fld w 8 6 = 0x0 then .ok (.vcompress (w.extractLsb' 20 6) (w.extractLsb' 14 6) (w.extractLsb' 5 3)) else
  if fld w 0 5 = 0x3 ∧ fld w 8 6 = 0x0 then .ok (.vexpand (w.extractLsb' 20 6) (w.extractLsb' 14 6) (w.extractLsb' 5 3)) else
  .error (.fields 0x17)

/-- Major 0x18 (R157 to R166). -/
def decode18 (w : CtlWord) : Except DecodeError Instr :=
  if fld w 0 5 = 0x0 ∧ fld w 8 6 = 0x0 then .ok (.vppe (w.extractLsb' 20 6) (w.extractLsb' 14 6) (w.extractLsb' 5 3)) else
  .error (.fields 0x18)

/-- Major 0x19 (R157 to R166). -/
def decode19 (w : CtlWord) : Except DecodeError Instr :=
  if fld w 0 14 = 0x0 ∧ fld w 19 1 = 0x0 then .ok (.vbcast (w.extractLsb' 20 6) (w.extractLsb' 14 5)) else
  if fld w 0 8 = 0x1 ∧ fld w 13 1 = 0x0 ∧ fld w 25 1 = 0x0 then .ok (.vextr (w.extractLsb' 20 5) (w.extractLsb' 14 6) (w.extractLsb' 8 5)) else
  .error (.fields 0x19)

/-- Major 0x1A (R157 to R166). -/
def decode1A (w : CtlWord) : Except DecodeError Instr :=
  if fld w 16 4 = 0x0 then .ok (.vli (w.extractLsb' 20 6) (w.extractLsb' 0 16)) else
  .error (.fields 0x1A)

/-- Major 0x1B (R157 to R166). -/
def decode1B (w : CtlWord) : Except DecodeError Instr :=
  if fld w 7 1 = 0x0 ∧ fld w 9 17 = 0x0 then .ok (.vcfg (w.extractLsb' 8 1) (w.extractLsb' 4 3) (w.extractLsb' 0 4)) else
  .error (.fields 0x1B)

/-- Major 0x1C (R157 to R166). -/
def decode1C (w : CtlWord) : Except DecodeError Instr :=
  if fld w 0 3 = 0x0 then .ok (.vrotm (w.extractLsb' 20 6) (w.extractLsb' 14 6) (w.extractLsb' 8 6) (w.extractLsb' 3 5)) else
  .error (.fields 0x1C)

/-- Major 0x20 (R157 to R166). -/
def decode20 (w : CtlWord) : Except DecodeError Instr :=
  if fld w 23 3 = 0x0 then .ok (.qld (w.extractLsb' 21 2) (w.extractLsb' 16 5) (w.extractLsb' 12 4) (w.extractLsb' 0 12)) else
  .error (.fields 0x20)

/-- Major 0x21 (R157 to R166). -/
def decode21 (w : CtlWord) : Except DecodeError Instr :=
  if fld w 5 1 = 0x0 ∧ fld w 23 3 = 0x0 then .ok (.qldr (w.extractLsb' 21 2) (w.extractLsb' 16 5) (w.extractLsb' 12 4) (w.extractLsb' 6 6) (w.extractLsb' 0 5)) else
  .error (.fields 0x21)

/-- Major 0x22 (R157 to R166). -/
def decode22 (w : CtlWord) : Except DecodeError Instr :=
  if fld w 23 3 = 0x0 then .ok (.qst (w.extractLsb' 21 2) (w.extractLsb' 16 5) (w.extractLsb' 12 4) (w.extractLsb' 0 12)) else
  .error (.fields 0x22)

/-- Major 0x23 (R157 to R166). -/
def decode23 (w : CtlWord) : Except DecodeError Instr :=
  if fld w 5 1 = 0x0 ∧ fld w 23 3 = 0x0 then .ok (.qstr (w.extractLsb' 21 2) (w.extractLsb' 16 5) (w.extractLsb' 12 4) (w.extractLsb' 6 6) (w.extractLsb' 0 5)) else
  .error (.fields 0x23)

/-- Major 0x24 (R157 to R166). -/
def decode24 (w : CtlWord) : Except DecodeError Instr :=
  if fld w 5 16 = 0x0 then .ok (.rres (w.extractLsb' 21 5) (w.extractLsb' 0 5)) else
  if fld w 5 11 = 0x100 ∧ fld w 21 5 = 0x0 then .ok (.rpub (w.extractLsb' 16 5) (w.extractLsb' 0 5)) else
  if fld w 5 21 = 0x200 then .ok (.rpop (w.extractLsb' 0 5)) else
  if fld w 5 16 = 0x300 then .ok (.rpeek (w.extractLsb' 21 5) (w.extractLsb' 0 5)) else
  .error (.fields 0x24)

/-- Major 0x25 (R157 to R166). -/
def decode25 (w : CtlWord) : Except DecodeError Instr :=
  if fld w 5 11 = 0x0 ∧ fld w 21 5 = 0x0 then .ok (.rcfg (w.extractLsb' 16 5) (w.extractLsb' 0 5)) else
  .error (.fields 0x25)

/-- Major 0x28 (R157 to R166). -/
def decode28 (w : CtlWord) : Except DecodeError Instr :=
  if fld w 2 14 = 0x0 ∧ fld w 24 2 = 0x0 then .ok (.kset (w.extractLsb' 21 3) (w.extractLsb' 16 5) (w.extractLsb' 0 2)) else
  .error (.fields 0x28)

/-- Major 0x29 (R157 to R166). -/
def decode29 (w : CtlWord) : Except DecodeError Instr :=
  if fld w 24 2 = 0x0 then .ok (.kld (w.extractLsb' 21 3) (w.extractLsb' 16 5) (w.extractLsb' 12 4) (w.extractLsb' 0 12)) else
  .error (.fields 0x29)

/-- Major 0x2A (R157 to R166). -/
def decode2A (w : CtlWord) : Except DecodeError Instr :=
  if fld w 24 2 = 0x0 then .ok (.kst (w.extractLsb' 21 3) (w.extractLsb' 16 5) (w.extractLsb' 12 4) (w.extractLsb' 0 12)) else
  .error (.fields 0x2A)

/-- Major 0x2B (R157 to R166). -/
def decode2B (w : CtlWord) : Except DecodeError Instr :=
  if fld w 0 21 = 0x0 ∧ fld w 24 2 = 0x0 then .ok (.push (w.extractLsb' 21 3)) else
  .error (.fields 0x2B)

/-- Major 0x2C (R157 to R166). -/
def decode2C (w : CtlWord) : Except DecodeError Instr :=
  if fld w 0 16 = 0x0 ∧ fld w 19 2 = 0x0 ∧ fld w 25 1 = 0x0 then .ok (.shape (w.extractLsb' 21 4) (w.extractLsb' 16 3)) else
  .error (.fields 0x2C)

/-- Major 0x2D (R157 to R166). -/
def decode2D (w : CtlWord) : Except DecodeError Instr :=
  if fld w 25 1 = 0x0 then .ok (.shld (w.extractLsb' 21 4) (w.extractLsb' 16 5) (w.extractLsb' 12 4) (w.extractLsb' 0 12)) else
  .error (.fields 0x2D)

/-- Major 0x2E (R157 to R166). -/
def decode2E (w : CtlWord) : Except DecodeError Instr :=
  if fld w 6 6 = 0x0 ∧ fld w 21 5 = 0x0 then .ok (.ppld (w.extractLsb' 16 5) (w.extractLsb' 12 4) (w.extractLsb' 0 6)) else
  .error (.fields 0x2E)

/-- Major 0x30 (R157 to R166). -/
def decode30 (w : CtlWord) : Except DecodeError Instr :=
  if fld w 21 5 = 0x0 then .ok (.spawn (w.extractLsb' 16 5) (w.extractLsb' 0 16)) else
  .error (.fields 0x30)

/-- Major 0x31 (R157 to R166). -/
def decode31 (w : CtlWord) : Except DecodeError Instr :=
  if fld w 0 16 = 0x1 ∧ fld w 21 5 = 0x0 then .ok (.join (w.extractLsb' 16 5)) else
  if fld w 0 26 = 0x2 then .ok (.exit) else
  if fld w 0 26 = 0x3 then .ok (.gbar) else
  .error (.fields 0x31)

/-- Major 0x32 (R157 to R166). -/
def decode32 (w : CtlWord) : Except DecodeError Instr :=
  if fld w 0 16 = 0x1 then .ok (.fget (w.extractLsb' 21 5) (w.extractLsb' 16 5)) else
  if fld w 0 11 = 0x2 ∧ fld w 21 5 = 0x0 then .ok (.fput (w.extractLsb' 16 5) (w.extractLsb' 11 5)) else
  if fld w 0 16 = 0x3 ∧ fld w 21 5 = 0x0 then .ok (.freset (w.extractLsb' 16 5)) else
  .error (.fields 0x32)

/-- Major 0x33 (R157 to R166). -/
def decode33 (w : CtlWord) : Except DecodeError Instr :=
  if fld w 6 20 = 0x0 then .ok (.semw (w.extractLsb' 0 6)) else
  if fld w 6 20 = 0x200 then .ok (.sems (w.extractLsb' 0 6)) else
  .error (.fields 0x33)

/-- Major 0x34 (R157 to R166). -/
def decode34 (w : CtlWord) : Except DecodeError Instr :=
  if fld w 6 20 = 0x0 then .ok (.evwait (w.extractLsb' 0 6)) else
  if fld w 6 20 = 0x200 then .ok (.evsig (w.extractLsb' 0 6)) else
  .error (.fields 0x34)

/-- Major 0x38 (R157 to R166). -/
def decode38 (w : CtlWord) : Except DecodeError Instr :=
  if fld w 0 26 = 0x1 then .ok (.nop) else
  if fld w 0 26 = 0x2 then .ok (.brk) else
  if fld w 0 21 = 0x3 then .ok (.time (w.extractLsb' 21 5)) else
  if fld w 0 11 = 0x4 then .ok (.vdhop (w.extractLsb' 21 5) (w.extractLsb' 16 5) (w.extractLsb' 11 5)) else
  if fld w 0 16 = 0x5 ∧ fld w 21 5 = 0x0 then .ok (.mwait (w.extractLsb' 16 5)) else
  if fld w 9 17 = 0x1 then .ok (.trap (w.extractLsb' 0 9)) else
  if fld w 9 17 = 0x2 then .ok (.rep (w.extractLsb' 3 6) (w.extractLsb' 0 3)) else
  if fld w 8 13 = 0x6 then .ok (.srd (w.extractLsb' 21 5) (w.extractLsb' 0 8)) else
  if fld w 8 8 = 0x7 ∧ fld w 21 5 = 0x0 then .ok (.swr (w.extractLsb' 16 5) (w.extractLsb' 0 8)) else
  .error (.fields 0x38)

/-- Major 0x39 (R157 to R166). -/
def decode39 (w : CtlWord) : Except DecodeError Instr :=
  if fld w 0 6 = 0x0 ∧ fld w 8 3 = 0x1 then .ok (.acq (w.extractLsb' 21 5) (w.extractLsb' 16 5) (w.extractLsb' 11 5) (w.extractLsb' 6 2)) else
  if fld w 0 6 = 0x0 ∧ fld w 8 3 = 0x2 then .ok (.rel (w.extractLsb' 21 5) (w.extractLsb' 16 5) (w.extractLsb' 11 5) (w.extractLsb' 6 2)) else
  if fld w 0 16 = 0x300 ∧ fld w 21 5 = 0x0 then .ok (.mon (w.extractLsb' 16 5)) else
  .error (.fields 0x39)

/-- Major 0x3A (R157 to R166). -/
def decode3A (w : CtlWord) : Except DecodeError Instr :=
  if fld w 16 10 = 0x0 then .ok (.fence (w.extractLsb' 0 16)) else
  .error (.fields 0x3A)

/-- Major 0x3B (R157 to R166). -/
def decode3B (w : CtlWord) : Except DecodeError Instr :=
  if fld w 16 10 = 0x0 then .ok (.wait (w.extractLsb' 12 4) (w.extractLsb' 8 4) (w.extractLsb' 4 4) (w.extractLsb' 0 4)) else
  .error (.fields 0x3B)

/-- Major 0x3C (R157 to R166). -/
def decode3C (w : CtlWord) : Except DecodeError Instr :=
  .ok (.region (w.extractLsb' 0 26))

/-- Major 0x3D (R157 to R166). -/
def decode3D (w : CtlWord) : Except DecodeError Instr :=
  .ok (.jmp (w.extractLsb' 0 26))

/-- Major 0x3E (R157 to R166). -/
def decode3E (w : CtlWord) : Except DecodeError Instr :=
  .ok (.jal (w.extractLsb' 0 26))

/-- Decode a control word (R155 to R167, R175): total, and every word that is no instruction is rejected by name. -/
def decode (w : CtlWord) : Except DecodeError Instr :=
  match fld w 26 6 with
  | 0x00 => decode00 w
  | 0x01 => decode01 w
  | 0x02 => decode02 w
  | 0x03 => decode03 w
  | 0x04 => decode04 w
  | 0x05 => decode05 w
  | 0x06 => decode06 w
  | 0x07 => decode07 w
  | 0x08 => decode08 w
  | 0x09 => decode09 w
  | 0x0A => decode0A w
  | 0x0B => decode0B w
  | 0x0C => decode0C w
  | 0x0D => decode0D w
  | 0x0E => decode0E w
  | 0x0F => decode0F w
  | 0x10 => decode10 w
  | 0x11 => decode11 w
  | 0x12 => decode12 w
  | 0x13 => decode13 w
  | 0x14 => decode14 w
  | 0x15 => decode15 w
  | 0x16 => decode16 w
  | 0x17 => decode17 w
  | 0x18 => decode18 w
  | 0x19 => decode19 w
  | 0x1A => decode1A w
  | 0x1B => decode1B w
  | 0x1C => decode1C w
  | 0x20 => decode20 w
  | 0x21 => decode21 w
  | 0x22 => decode22 w
  | 0x23 => decode23 w
  | 0x24 => decode24 w
  | 0x25 => decode25 w
  | 0x28 => decode28 w
  | 0x29 => decode29 w
  | 0x2A => decode2A w
  | 0x2B => decode2B w
  | 0x2C => decode2C w
  | 0x2D => decode2D w
  | 0x2E => decode2E w
  | 0x30 => decode30 w
  | 0x31 => decode31 w
  | 0x32 => decode32 w
  | 0x33 => decode33 w
  | 0x34 => decode34 w
  | 0x38 => decode38 w
  | 0x39 => decode39 w
  | 0x3A => decode3A w
  | 0x3B => decode3B w
  | 0x3C => decode3C w
  | 0x3D => decode3D w
  | 0x3E => decode3E w
  | m => .error (.major m)

/-! ## Tile command words -/

/-- The header of R171. -/
def cmdHdr (w : CmdWord) : CmdHdr where
  eng := w.extractLsb' 244 4
  cls := w.extractLsb' 240 4
  wv := bitAt w 239
  wsem := w.extractLsb' 232 6
  sv := bitAt w 231
  ssem := w.extractLsb' 224 6
  vcnt := w.extractLsb' 192 16

/-- The operand reference whose bit 0 is bit lo (R253). -/
def opRef (w : CmdWord) (lo : Nat) : OpRef where
  mode := w.extractLsb' (lo + 22) 2
  keep := bitAt w (lo + 21)
  loc := w.extractLsb' lo 18

/-- The reserved bits of an operand reference (R253): MODE 3, bits 20:18, LOC outside its mode's map, SLOT of a ring
read, KEEP outside a ring read. -/
def opRefOk (w : CmdWord) (lo : Nat) (read : Bool) : Bool :=
  fld w (lo + 22) 2 != 3 && fld w (lo + 18) 3 == 0 &&
  (!bitAt w (lo + 21) || (read && fld w (lo + 22) 2 == 1)) &&
  (fld w (lo + 22) 2 != 1 || (fld w (lo + 13) 5 == 0 && (!read || fld w (lo + 5) 8 == 0))) &&
  (fld w (lo + 22) 2 != 2 || fld w lo 18 == 0)

/-- The reserved bits of the header (R171). -/
def cmdHdrOk (w : CmdWord) : Bool :=
  !bitAt w 238 && !bitAt w 230 && (bitAt w 239 || fld w 232 6 == 0) && (bitAt w 231 || fld w 224 6 == 0)

/-- The body of MMA and MMAC (R261). -/
def mmaBody (w : CmdWord) : MmaBody where
  aref := opRef w 168
  bref := opRef w 144
  afmt := w.extractLsb' 140 4
  bfmt := w.extractLsb' 136 4
  plog := w.extractLsb' 132 4
  km1 := w.extractLsb' 116 12
  ta := bitAt w 208
  tb := bitAt w 209
  bank := bitAt w 210
  zf := bitAt w 211

/-- The body of DRAIN (R264). -/
def drainBody (w : CmdWord) : DrainBody where
  dref := opRef w 168
  ofmt := w.extractLsb' 164 4
  rm := w.extractLsb' 161 3
  sat := bitAt w 160
  layout := w.extractLsb' 158 2
  ae := bitAt w 157
  amn := w.extractLsb' 152 4
  se := bitAt w 151
  scale := w.extractLsb' 96 32
  bank := bitAt w 210
  keep := bitAt w 211

/-- The body of the copy commands (R268). -/
def copyBody (w : CmdWord) : CopyBody where
  sh := w.extractLsb' 188 4
  sref := opRef w 160
  cvt := bitAt w 159
  trn := bitAt w 158
  bsc := bitAt w 157
  gix := bitAt w 156
  zpd := bitAt w 155
  spfmt := w.extractLsb' 140 4
  rm := w.extractLsb' 137 3
  sat := bitAt w 136
  ste := bitAt w 135
  ae := bitAt w 134
  amn := w.extractLsb' 130 4
  staddr := w.extractLsb' 64 64
  stval := w.extractLsb' 32 32
  xref := opRef w 0
  lvl := bitAt w 208

/-- The body of GATOM (R273). -/
def gatomBody (w : CmdWord) : GatomBody where
  addr := w.extractLsb' 128 64
  opnd := w.extractLsb' 64 64
  cmpv := w.extractLsb' 0 64
  res := bitAt w 211
  rrow := w.extractLsb' 213 11

/-- The body of MIGRATE (R274). -/
def migrateBody (w : CmdWord) : MigrateBody where
  addr := w.extractLsb' 128 64
  dpkg := w.extractLsb' 116 12
  dsl := w.extractLsb' 112 4
  staddr := w.extractLsb' 48 64

/-- The body of SCAT (R271). -/
def scatBody (w : CmdWord) : ScatBody where
  vref := opRef w 168
  xref := opRef w 144
  drow := w.extractLsb' 126 18
  fmt := w.extractLsb' 122 4
  ce := bitAt w 119
  nent := w.extractLsb' 107 12

/-- The body of RWRITE (R275). -/
def rwriteBody (w : CmdWord) : RwriteBody where
  rent := w.extractLsb' 186 6
  nrows := w.extractLsb' 180 6
  sref := opRef w 144

/-- Accept a command whose reserved fields are 0 and whose queue is allowed (R174 step 1). -/
def cmdIf (w : CmdWord) (clean engOk : Bool) (i : Instr) : Except DecodeError Instr :=
  if !(cmdHdrOk w && clean) then .error (.reserved (fld w 248 8))
  else if !engOk then .error (.engine (fld w 248 8))
  else .ok i

/-- The reserved bits shared by the copy commands (R268): read says that SREF is the source. SPFMT, AMN and STADDR are among
them where CVT, AE and STE are 0. DESIGN CHOICE (log 105). -/
def copyOk (w : CmdWord) (read : Bool) : Bool :=
  fld w 184 4 == 0 && fld w 144 11 == 0 && fld w 128 2 == 0 && fld w 24 8 == 0 && opRefOk w 160 read &&
  (bitAt w 159 || fld w 140 4 == 0) && (bitAt w 134 || fld w 130 4 == 0) && (bitAt w 135 || fld w 64 64 == 0)

/-- Decode a tile command word (R171, R173, and the body maps of 17_tile.md). A field that must be 0 only under a condition (AMN with
AE = 0, SPFMT with CVT = 0, STADDR with STE = 0, CMPV with OP other than 5, an MMAC's AREF, a PREFETCH's SREF, stage and stamp
fields), and the WV of a QFENCE, which R258 wants 0 without naming a fault, is checked here with the reserved bits, so it gives
the illegal-instruction fault of step 1: R174, R258 and R270 could make it the illegal-shape fault of step 3. DESIGN CHOICE
(log 105). -/
def decodeCmd (w : CmdWord) : Except DecodeError Instr :=
  let h := cmdHdr w
  let e := fld w 244 4
  match fld w 248 8 with
  | 0x01 => cmdIf w (fld w 212 12 == 0 && fld w 128 4 == 0 && fld w 0 116 == 0 && opRefOk w 168 true && opRefOk w 144 true) (e == 0) (.mma h (mmaBody w))
  | 0x02 => cmdIf w (fld w 212 12 == 0 && fld w 128 4 == 0 && fld w 0 116 == 0 && fld w 168 24 == 0 && opRefOk w 144 true) (e == 0) (.mmac h (mmaBody w))
  | 0x03 => cmdIf w (fld w 208 2 == 0 && fld w 211 13 == 0 && fld w 0 192 == 0) (e == 0) (.promote h (bitAt w 210))
  | 0x04 => cmdIf w (fld w 208 2 == 0 && fld w 212 12 == 0 && !bitAt w 156 && fld w 128 23 == 0 && fld w 0 96 == 0 && (bitAt w 157 || fld w 152 4 == 0) && opRefOk w 168 false) (e == 0) (.drain h (drainBody w))
  | 0x05 => cmdIf w (fld w 211 13 == 0 && fld w 0 192 == 0) (e == 0) (.zacc h (bitAt w 208) (bitAt w 209) (bitAt w 210))
  | 0x06 => cmdIf w (fld w 208 16 == 0 && fld w 0 189 == 0) (e == 0) (.chain h (w.extractLsb' 189 3))
  | 0x07 => cmdIf w (fld w 208 16 == 0 && fld w 0 191 == 0) (e == 0) (.unchain h (bitAt w 191))
  | 0x10 => cmdIf w (fld w 208 16 == 0 && copyOk w false && fld w 0 24 == 0) (e == 1) (.tload h (copyBody w))
  | 0x11 => cmdIf w (fld w 208 16 == 0 && copyOk w false && opRefOk w 0 true) (e == 1) (.tgather h (copyBody w))
  | 0x12 => cmdIf w (fld w 208 16 == 0 && copyOk w true && opRefOk w 0 false) (e == 1 || e == 2) (.tcvt h (copyBody w))
  | 0x13 => cmdIf w (fld w 209 15 == 0 && copyOk w false && fld w 0 24 == 0 && fld w 160 24 == 0 && fld w 155 5 == 0 && !bitAt w 135 && fld w 32 32 == 0) (e == 1) (.prefetch h (copyBody w))
  | 0x14 => cmdIf w (fld w 208 16 == 0 && copyOk w true && fld w 0 24 == 0) (e == 2) (.tstore h (copyBody w))
  | 0x15 =>
    let clean := !bitAt w 212 && (fld w 208 3 == 5 || fld w 0 64 == 0)
    match fld w 208 3 with
    | 0 => cmdIf w clean (e == 2) (.gatomAdd h (gatomBody w))
    | 1 => cmdIf w clean (e == 2) (.gatomFadd h (gatomBody w))
    | 2 => cmdIf w clean (e == 2) (.gatomMax h (gatomBody w))
    | 3 => cmdIf w clean (e == 2) (.gatomMin h (gatomBody w))
    | 4 => cmdIf w clean (e == 2) (.gatomSwap h (gatomBody w))
    | 5 => cmdIf w clean (e == 2) (.gatomCas h (gatomBody w))
    | _ => if !(cmdHdrOk w && clean) then .error (.reserved 0x15) else if e == 2 then .error (.value 0x15) else .error (.engine 0x15)
  | 0x16 => cmdIf w (fld w 208 16 == 0 && fld w 0 48 == 0) (e == 2) (.migrate h (migrateBody w))
  | 0x20 =>
    let clean := fld w 208 16 == 0 && fld w 0 107 == 0 && opRefOk w 168 true && opRefOk w 144 true
    match fld w 120 2 with
    | 0 => cmdIf w clean (e == 3) (.scatAdd h (scatBody w))
    | 1 => cmdIf w clean (e == 3) (.scatMax h (scatBody w))
    | 2 => cmdIf w clean (e == 3) (.scatMin h (scatBody w))
    | _ => if !(cmdHdrOk w && clean) then .error (.reserved 0x20) else if e == 3 then .error (.value 0x20) else .error (.engine 0x20)
  | 0x21 => cmdIf w (fld w 208 16 == 0 && fld w 0 168 == 0 && opRefOk w 168 false) (e == 3) (.cntsnap h (opRef w 168))
  | 0x28 => cmdIf w (fld w 208 16 == 0 && fld w 168 12 == 0 && fld w 0 144 == 0 && opRefOk w 144 true) (e == 4 || e == 5) (.rwrite h (rwriteBody w))
  | 0x30 => cmdIf w (fld w 214 10 == 0 && fld w 0 192 == 0 && !bitAt w 239 && e == 0) true (.qfence h (w.extractLsb' 208 6))
  | 0x31 => cmdIf w (fld w 208 16 == 0 && fld w 0 192 == 0) (decide (e ≤ 5)) (.semsig h)
  | 0x32 => cmdIf w (fld w 208 16 == 0 && fld w 0 192 == 0) (decide (e ≤ 5)) (.semwait h)
  | c => .error (.command c)

/-! ## Encoding -/

/-- A control word with no field. -/
def word0 (m : Nat) : Option CtlWord := some (BitVec.ofNat 32 m)
/-- A control word with one field x at bit i. -/
def word1 (m x i : Nat) : Option CtlWord := some (BitVec.ofNat 32 (m + x * 2 ^ i))
/-- A control word with two fields. -/
def word2 (m x i y j : Nat) : Option CtlWord := some (BitVec.ofNat 32 (m + x * 2 ^ i + y * 2 ^ j))
/-- A control word with three fields. -/
def word3 (m x i y j z k : Nat) : Option CtlWord := some (BitVec.ofNat 32 (m + x * 2 ^ i + y * 2 ^ j + z * 2 ^ k))
/-- A control word with four fields. -/
def word4 (m x i y j z k u l : Nat) : Option CtlWord :=
  some (BitVec.ofNat 32 (m + x * 2 ^ i + y * 2 ^ j + z * 2 ^ k + u * 2 ^ l))
/-- A control word with five fields. -/
def word5 (m x i y j z k u l v n : Nat) : Option CtlWord :=
  some (BitVec.ofNat 32 (m + x * 2 ^ i + y * 2 ^ j + z * 2 ^ k + u * 2 ^ l + v * 2 ^ n))

/-- The control word of an instruction (R156 to R166); commands and events have none. -/
def encode : Instr → Option CtlWord
  | .add d a b => word3 0x00000001 d.toNat 21 a.toNat 16 b.toNat 11
  | .sub d a b => word3 0x00000002 d.toNat 21 a.toNat 16 b.toNat 11
  | .mul d a b => word3 0x00000003 d.toNat 21 a.toNat 16 b.toNat 11
  | .mulh d a b => word3 0x00000004 d.toNat 21 a.toNat 16 b.toNat 11
  | .mulhu d a b => word3 0x00000005 d.toNat 21 a.toNat 16 b.toNat 11
  | .div d a b => word3 0x00000006 d.toNat 21 a.toNat 16 b.toNat 11
  | .divu d a b => word3 0x00000007 d.toNat 21 a.toNat 16 b.toNat 11
  | .rem d a b => word3 0x00000008 d.toNat 21 a.toNat 16 b.toNat 11
  | .remu d a b => word3 0x00000009 d.toNat 21 a.toNat 16 b.toNat 11
  | .and d a b => word3 0x0000000A d.toNat 21 a.toNat 16 b.toNat 11
  | .or d a b => word3 0x0000000B d.toNat 21 a.toNat 16 b.toNat 11
  | .xor d a b => word3 0x0000000C d.toNat 21 a.toNat 16 b.toNat 11
  | .shl d a b => word3 0x0000000D d.toNat 21 a.toNat 16 b.toNat 11
  | .shr d a b => word3 0x0000000E d.toNat 21 a.toNat 16 b.toNat 11
  | .sra d a b => word3 0x0000000F d.toNat 21 a.toNat 16 b.toNat 11
  | .slt d a b => word3 0x00000010 d.toNat 21 a.toNat 16 b.toNat 11
  | .sltu d a b => word3 0x00000011 d.toNat 21 a.toNat 16 b.toNat 11
  | .min d a b => word3 0x00000012 d.toNat 21 a.toNat 16 b.toNat 11
  | .max d a b => word3 0x00000013 d.toNat 21 a.toNat 16 b.toNat 11
  | .minu d a b => word3 0x00000014 d.toNat 21 a.toNat 16 b.toNat 11
  | .maxu d a b => word3 0x00000015 d.toNat 21 a.toNat 16 b.toNat 11
  | .sadd d a b => word3 0x00000016 d.toNat 21 a.toNat 16 b.toNat 11
  | .clz d a => word2 0x00000018 d.toNat 21 a.toNat 16
  | .ctz d a => word2 0x00000019 d.toNat 21 a.toNat 16
  | .popc d a => word2 0x0000001A d.toNat 21 a.toNat 16
  | .sext8 d a => word2 0x00000020 d.toNat 21 a.toNat 16
  | .sext16 d a => word2 0x00000021 d.toNat 21 a.toNat 16
  | .sext32 d a => word2 0x00000022 d.toNat 21 a.toNat 16
  | .zext8 d a => word2 0x00000024 d.toNat 21 a.toNat 16
  | .zext16 d a => word2 0x00000025 d.toNat 21 a.toNat 16
  | .zext32 d a => word2 0x00000026 d.toNat 21 a.toNat 16
  | .sel d a b c => word4 0x00000400 d.toNat 21 a.toNat 16 b.toNat 11 c.toNat 0
  | .jalr d a => word2 0x0000001C d.toNat 21 a.toNat 16
  | .addi d a i => word3 0x04000000 d.toNat 21 a.toNat 16 i.toNat 0
  | .andi d a i => word3 0x08000000 d.toNat 21 a.toNat 16 i.toNat 0
  | .ori d a i => word3 0x0C000000 d.toNat 21 a.toNat 16 i.toNat 0
  | .xori d a i => word3 0x10000000 d.toNat 21 a.toNat 16 i.toNat 0
  | .slti d a i => word3 0x14000000 d.toNat 21 a.toNat 16 i.toNat 0
  | .shli d a n => word3 0x18000000 d.toNat 21 a.toNat 16 n.toNat 0
  | .shri d a n => word3 0x18002000 d.toNat 21 a.toNat 16 n.toNat 0
  | .srai d a n => word3 0x18004000 d.toNat 21 a.toNat 16 n.toNat 0
  | .bfx d a p w => word4 0x18006000 d.toNat 21 a.toNat 16 p.toNat 6 w.toNat 0
  | .bfi d a p w => word4 0x18008000 d.toNat 21 a.toNat 16 p.toNat 6 w.toNat 0
  | .li d i => word2 0x1C000000 d.toNat 21 i.toNat 0
  | .lih d q i => word3 0x1C040000 d.toNat 21 q.toNat 16 i.toNat 0
  | .ldb d a c o => word4 0x20000000 d.toNat 21 a.toNat 16 c.toNat 12 o.toNat 0
  | .ldbu d a c o => word4 0x20000100 d.toNat 21 a.toNat 16 c.toNat 12 o.toNat 0
  | .ldh d a c o => word4 0x20000200 d.toNat 21 a.toNat 16 c.toNat 12 o.toNat 0
  | .ldhu d a c o => word4 0x20000300 d.toNat 21 a.toNat 16 c.toNat 12 o.toNat 0
  | .ldw d a c o => word4 0x20000400 d.toNat 21 a.toNat 16 c.toNat 12 o.toNat 0
  | .ldwu d a c o => word4 0x20000500 d.toNat 21 a.toNat 16 c.toNat 12 o.toNat 0
  | .ld d a c o => word4 0x20000600 d.toNat 21 a.toNat 16 c.toNat 12 o.toNat 0
  | .stb s a c o => word4 0x20000800 s.toNat 21 a.toNat 16 c.toNat 12 o.toNat 0
  | .sth s a c o => word4 0x20000900 s.toNat 21 a.toNat 16 c.toNat 12 o.toNat 0
  | .stw s a c o => word4 0x20000A00 s.toNat 21 a.toNat 16 c.toNat 12 o.toNat 0
  | .st s a c o => word4 0x20000B00 s.toNat 21 a.toNat 16 c.toNat 12 o.toNat 0
  | .loop a o => word2 0x24000000 a.toNat 21 o.toNat 0
  | .beq a b o => word3 0x28000000 a.toNat 21 b.toNat 16 o.toNat 0
  | .bne a b o => word3 0x2C000000 a.toNat 21 b.toNat 16 o.toNat 0
  | .blt a b o => word3 0x30000000 a.toNat 21 b.toNat 16 o.toNat 0
  | .bge a b o => word3 0x34000000 a.toNat 21 b.toNat 16 o.toNat 0
  | .bltu a b o => word3 0x38000000 a.toNat 21 b.toNat 16 o.toNat 0
  | .bgeu a b o => word3 0x3C000000 a.toNat 21 b.toNat 16 o.toNat 0
  | .vadd d a b m => word4 0x40000000 d.toNat 20 a.toNat 14 b.toNat 8 m.toNat 5
  | .vsub d a b m => word4 0x40000001 d.toNat 20 a.toNat 14 b.toNat 8 m.toNat 5
  | .vmul d a b m => word4 0x40000002 d.toNat 20 a.toNat 14 b.toNat 8 m.toNat 5
  | .vdiv d a b m => word4 0x40000003 d.toNat 20 a.toNat 14 b.toNat 8 m.toNat 5
  | .vmin d a b m => word4 0x40000004 d.toNat 20 a.toNat 14 b.toNat 8 m.toNat 5
  | .vmax d a b m => word4 0x40000005 d.toNat 20 a.toNat 14 b.toNat 8 m.toNat 5
  | .vabs d a m => word3 0x40000006 d.toNat 20 a.toNat 14 m.toNat 5
  | .vneg d a m => word3 0x40000007 d.toNat 20 a.toNat 14 m.toNat 5
  | .vrcp d a m => word3 0x40000008 d.toNat 20 a.toNat 14 m.toNat 5
  | .vrsq d a m => word3 0x40000009 d.toNat 20 a.toNat 14 m.toNat 5
  | .vsqrt d a m => word3 0x4000000A d.toNat 20 a.toNat 14 m.toNat 5
  | .vmov d a m => word3 0x4000000B d.toNat 20 a.toNat 14 m.toNat 5
  | .vand d a b m => word4 0x4000000C d.toNat 20 a.toNat 14 b.toNat 8 m.toNat 5
  | .vor d a b m => word4 0x4000000D d.toNat 20 a.toNat 14 b.toNat 8 m.toNat 5
  | .vxor d a b m => word4 0x4000000E d.toNat 20 a.toNat 14 b.toNat 8 m.toNat 5
  | .vnot d a m => word3 0x4000000F d.toNat 20 a.toNat 14 m.toNat 5
  | .vshl d a b m => word4 0x40000010 d.toNat 20 a.toNat 14 b.toNat 8 m.toNat 5
  | .vshr d a b m => word4 0x40000011 d.toNat 20 a.toNat 14 b.toNat 8 m.toNat 5
  | .vsra d a b m => word4 0x40000012 d.toNat 20 a.toNat 14 b.toNat 8 m.toNat 5
  | .vfma d a b m => word4 0x44000000 d.toNat 20 a.toNat 14 b.toNat 8 m.toNat 5
  | .vfms d a b m => word4 0x44000001 d.toNat 20 a.toNat 14 b.toNat 8 m.toNat 5
  | .vnfma d a b m => word4 0x44000002 d.toNat 20 a.toNat 14 b.toNat 8 m.toNat 5
  | .vcmpeq d a b m => word4 0x48000000 d.toNat 20 a.toNat 14 b.toNat 8 m.toNat 5
  | .vcmplt d a b m => word4 0x48000001 d.toNat 20 a.toNat 14 b.toNat 8 m.toNat 5
  | .vcmple d a b m => word4 0x48000002 d.toNat 20 a.toNat 14 b.toNat 8 m.toNat 5
  | .vsel d a b m => word4 0x48000003 d.toNat 20 a.toNat 14 b.toNat 8 m.toNat 5
  | .mand d a b => word3 0x4C000000 d.toNat 20 a.toNat 14 b.toNat 8
  | .mor d a b => word3 0x4C000001 d.toNat 20 a.toNat 14 b.toNat 8
  | .mnot d a => word2 0x4C000002 d.toNat 20 a.toNat 14
  | .mpop d a => word2 0x4C000003 d.toNat 20 a.toNat 14
  | .mfirst d a => word2 0x4C000004 d.toNat 20 a.toNat 14
  | .vcvt d a m f => word4 0x50000000 d.toNat 20 a.toNat 14 m.toNat 5 f.toNat 0
  | .vwadd d a b m => word4 0x54000000 d.toNat 20 a.toNat 14 b.toNat 8 m.toNat 5
  | .vwmul d a b m => word4 0x54000001 d.toNat 20 a.toNat 14 b.toNat 8 m.toNat 5
  | .vnarrow d a e n m => word5 0x54000002 d.toNat 20 a.toNat 14 e.toNat 13 n.toNat 8 m.toNat 5
  | .vrsum d a m => word3 0x58000000 d.toNat 20 a.toNat 14 m.toNat 5
  | .vrmax d a m => word3 0x58000001 d.toNat 20 a.toNat 14 m.toNat 5
  | .vrmin d a m => word3 0x58000002 d.toNat 20 a.toNat 14 m.toNat 5
  | .vramax d a m => word3 0x58000003 d.toNat 20 a.toNat 14 m.toNat 5
  | .vscan d a m => word3 0x58000004 d.toNat 20 a.toNat 14 m.toNat 5
  | .vperm d a b => word3 0x5C000000 d.toNat 20 a.toNat 14 b.toNat 8
  | .viota d m => word2 0x5C000001 d.toNat 20 m.toNat 5
  | .vcompress d a m => word3 0x5C000002 d.toNat 20 a.toNat 14 m.toNat 5
  | .vexpand d a m => word3 0x5C000003 d.toNat 20 a.toNat 14 m.toNat 5
  | .vppe d a m => word3 0x60000000 d.toNat 20 a.toNat 14 m.toNat 5
  | .vbcast d a => word2 0x64000000 d.toNat 20 a.toNat 14
  | .vextr d a b => word3 0x64000001 d.toNat 20 a.toNat 14 b.toNat 8
  | .vli d i => word2 0x68000000 d.toNat 20 i.toNat 0
  | .vcfg s r t => word3 0x6C000000 s.toNat 8 r.toNat 4 t.toNat 0
  | .vrotm d a b n => word4 0x70000000 d.toNat 20 a.toNat 14 b.toNat 8 n.toNat 3
  | .qld q a c r => word4 0x80000000 q.toNat 21 a.toNat 16 c.toNat 12 r.toNat 0
  | .qldr q a c w n => word5 0x84000000 q.toNat 21 a.toNat 16 c.toNat 12 w.toNat 6 n.toNat 0
  | .qst q a c r => word4 0x88000000 q.toNat 21 a.toNat 16 c.toNat 12 r.toNat 0
  | .qstr q a c w n => word5 0x8C000000 q.toNat 21 a.toNat 16 c.toNat 12 w.toNat 6 n.toNat 0
  | .rres d n => word2 0x90000000 d.toNat 21 n.toNat 0
  | .rpub a n => word2 0x90002000 a.toNat 16 n.toNat 0
  | .rpop n => word1 0x90004000 n.toNat 0
  | .rpeek d n => word2 0x90006000 d.toNat 21 n.toNat 0
  | .rcfg a n => word2 0x94000000 a.toNat 16 n.toNat 0
  | .kset k a w => word3 0xA0000000 k.toNat 21 a.toNat 16 w.toNat 0
  | .kld k a c o => word4 0xA4000000 k.toNat 21 a.toNat 16 c.toNat 12 o.toNat 0
  | .kst k a c o => word4 0xA8000000 k.toNat 21 a.toNat 16 c.toNat 12 o.toNat 0
  | .push k => word1 0xAC000000 k.toNat 21
  | .shape h k => word2 0xB0000000 h.toNat 21 k.toNat 16
  | .shld h a c o => word4 0xB4000000 h.toNat 21 a.toNat 16 c.toNat 12 o.toNat 0
  | .ppld a c n => word3 0xB8000000 a.toNat 16 c.toNat 12 n.toNat 0
  | .spawn a m => word2 0xC0000000 a.toNat 16 m.toNat 0
  | .join a => word1 0xC4000001 a.toNat 16
  | .exit => word0 0xC4000002
  | .gbar => word0 0xC4000003
  | .fget d a => word2 0xC8000001 d.toNat 21 a.toNat 16
  | .fput a b => word2 0xC8000002 a.toNat 16 b.toNat 11
  | .freset a => word1 0xC8000003 a.toNat 16
  | .semw n => word1 0xCC000000 n.toNat 0
  | .sems n => word1 0xCC008000 n.toNat 0
  | .evwait e => word1 0xD0000000 e.toNat 0
  | .evsig e => word1 0xD0008000 e.toNat 0
  | .nop => word0 0xE0000001
  | .brk => word0 0xE0000002
  | .time d => word1 0xE0000003 d.toNat 21
  | .vdhop d a b => word3 0xE0000004 d.toNat 21 a.toNat 16 b.toNat 11
  | .mwait a => word1 0xE0000005 a.toNat 16
  | .trap c => word1 0xE0000200 c.toNat 0
  | .rep n s => word2 0xE0000400 n.toNat 3 s.toNat 0
  | .srd d r => word2 0xE0000600 d.toNat 21 r.toNat 0
  | .swr a r => word2 0xE0000700 a.toNat 16 r.toNat 0
  | .acq d a b s => word4 0xE4000100 d.toNat 21 a.toNat 16 b.toNat 11 s.toNat 6
  | .rel d a b s => word4 0xE4000200 d.toNat 21 a.toNat 16 b.toNat 11 s.toNat 6
  | .mon a => word1 0xE4000300 a.toNat 16
  | .fence m => word1 0xE8000000 m.toNat 0
  | .wait l s c t => word4 0xEC000000 l.toNat 12 s.toNat 8 c.toNat 4 t.toNat 0
  | .region r => word1 0xF0000000 r.toNat 0
  | .jmp o => word1 0xF4000000 o.toNat 0
  | .jal o => word1 0xF8000000 o.toNat 0
  | _ => none

/-- A flag as a bit. -/
def bitN (b : Bool) (i : Nat) : Nat := if b then 2 ^ i else 0

/-- An operand reference at bit lo (R253). -/
def encRef (r : OpRef) (lo : Nat) : Nat := r.loc.toNat * 2 ^ lo + bitN r.keep (lo + 21) + r.mode.toNat * 2 ^ (lo + 22)

/-- The header with its CMD (R171). -/
def encHdr (c : Nat) (h : CmdHdr) : Nat :=
  h.vcnt.toNat * 2 ^ 192 + h.ssem.toNat * 2 ^ 224 + bitN h.sv 231 + h.wsem.toNat * 2 ^ 232 + bitN h.wv 239 +
  h.cls.toNat * 2 ^ 240 + h.eng.toNat * 2 ^ 244 + c * 2 ^ 248

/-- The body and FLAGS of MMA and MMAC (R261). -/
def encMma (b : MmaBody) : Nat :=
  b.km1.toNat * 2 ^ 116 + b.plog.toNat * 2 ^ 132 + b.bfmt.toNat * 2 ^ 136 + b.afmt.toNat * 2 ^ 140 +
  encRef b.bref 144 + encRef b.aref 168 + bitN b.ta 208 + bitN b.tb 209 + bitN b.bank 210 + bitN b.zf 211

/-- The body and FLAGS of DRAIN (R264). -/
def encDrain (b : DrainBody) : Nat :=
  b.scale.toNat * 2 ^ 96 + bitN b.se 151 + b.amn.toNat * 2 ^ 152 + bitN b.ae 157 + b.layout.toNat * 2 ^ 158 +
  bitN b.sat 160 + b.rm.toNat * 2 ^ 161 + b.ofmt.toNat * 2 ^ 164 + encRef b.dref 168 + bitN b.bank 210 + bitN b.keep 211

/-- The body of the copy commands (R268). -/
def encCopy (b : CopyBody) : Nat :=
  encRef b.xref 0 + b.stval.toNat * 2 ^ 32 + b.staddr.toNat * 2 ^ 64 + b.amn.toNat * 2 ^ 130 + bitN b.ae 134 +
  bitN b.ste 135 + bitN b.sat 136 + b.rm.toNat * 2 ^ 137 + b.spfmt.toNat * 2 ^ 140 + bitN b.zpd 155 + bitN b.gix 156 +
  bitN b.bsc 157 + bitN b.trn 158 + bitN b.cvt 159 + encRef b.sref 160 + b.sh.toNat * 2 ^ 188 + bitN b.lvl 208

/-- The body and FLAGS of GATOM with its OP (R273). -/
def encGatom (op : Nat) (b : GatomBody) : Nat :=
  b.cmpv.toNat + b.opnd.toNat * 2 ^ 64 + b.addr.toNat * 2 ^ 128 + op * 2 ^ 208 + bitN b.res 211 + b.rrow.toNat * 2 ^ 213

/-- The body of SCAT with its OP (R271). -/
def encScat (op : Nat) (b : ScatBody) : Nat :=
  b.nent.toNat * 2 ^ 107 + bitN b.ce 119 + op * 2 ^ 120 + b.fmt.toNat * 2 ^ 122 + b.drow.toNat * 2 ^ 126 +
  encRef b.xref 144 + encRef b.vref 168

/-- The number of a command's 256-bit word (R171, 17_tile.md); control words and events have none. -/
def encodeCmdNat : Instr → Option Nat
  | .mma h b => some (encHdr 0x01 h + encMma b)
  | .mmac h b => some (encHdr 0x02 h + encMma b)
  | .promote h bank => some (encHdr 0x03 h + bitN bank 210)
  | .drain h b => some (encHdr 0x04 h + encDrain b)
  | .zacc h za zb zp => some (encHdr 0x05 h + (bitN za 208 + bitN zb 209 + bitN zp 210))
  | .chain h g => some (encHdr 0x06 h + g.toNat * 2 ^ 189)
  | .unchain h side => some (encHdr 0x07 h + bitN side 191)
  | .tload h b => some (encHdr 0x10 h + encCopy b)
  | .tgather h b => some (encHdr 0x11 h + encCopy b)
  | .tcvt h b => some (encHdr 0x12 h + encCopy b)
  | .prefetch h b => some (encHdr 0x13 h + encCopy b)
  | .tstore h b => some (encHdr 0x14 h + encCopy b)
  | .gatomAdd h b => some (encHdr 0x15 h + encGatom 0 b)
  | .gatomFadd h b => some (encHdr 0x15 h + encGatom 1 b)
  | .gatomMax h b => some (encHdr 0x15 h + encGatom 2 b)
  | .gatomMin h b => some (encHdr 0x15 h + encGatom 3 b)
  | .gatomSwap h b => some (encHdr 0x15 h + encGatom 4 b)
  | .gatomCas h b => some (encHdr 0x15 h + encGatom 5 b)
  | .migrate h b => some (encHdr 0x16 h + (b.staddr.toNat * 2 ^ 48 + b.dsl.toNat * 2 ^ 112 + b.dpkg.toNat * 2 ^ 116 + b.addr.toNat * 2 ^ 128))
  | .scatAdd h b => some (encHdr 0x20 h + encScat 0 b)
  | .scatMax h b => some (encHdr 0x20 h + encScat 1 b)
  | .scatMin h b => some (encHdr 0x20 h + encScat 2 b)
  | .cntsnap h r => some (encHdr 0x21 h + encRef r 168)
  | .rwrite h b => some (encHdr 0x28 h + (encRef b.sref 144 + b.nrows.toNat * 2 ^ 180 + b.rent.toNat * 2 ^ 186))
  | .qfence h m => some (encHdr 0x30 h + m.toNat * 2 ^ 208)
  | .semsig h => some (encHdr 0x31 h)
  | .semwait h => some (encHdr 0x32 h)
  | _ => none

/-- The 256-bit word of a tile command. -/
def encodeCmd (i : Instr) : Option CmdWord := (encodeCmdNat i).map (BitVec.ofNat 256)

/-- What the decoder reads from an instruction whose bits are w, bit 0 the least significant of the first word: up to
32 bits are a control word, more a tile command word. -/
def decodeTableWord (nbits w : Nat) : Option Instr :=
  if nbits ≤ 32 then
    match decode (BitVec.ofNat 32 w) with
    | .ok i => some i
    | .error _ => none
  else
    match decodeCmd (BitVec.ofNat 256 w) with
    | .ok i => some i
    | .error _ => none

end Sys2Proof
end

