-- ==== Sys2Proof/Machine/Num.lean ====
section
/-! DEFINITION. Number formats and exact arithmetic (09_numbers.md): a code is decoded to an exact value, operations
are exact, and every result is rounded once. -/

namespace Sys2Proof.Machine

/-- The formats of R126, and E2M1, the element of MXFP4 (R128). -/
inductive Fmt where
  | fp32 | bf16 | fp16 | e4m3 | e5m2 | tap8 | tap6 | mxfp4 | int4 | int8 | int16 | int32 | e8m0
  deriving DecidableEq, Repr

/-- The format of a code (R126); 13 to 15 name none. -/
def Fmt.ofCode (c : Nat) : Option Fmt :=
  match c with
  | 0 => some .fp32 | 1 => some .bf16 | 2 => some .fp16 | 3 => some .e4m3 | 4 => some .e5m2 | 5 => some .tap8
  | 6 => some .tap6 | 7 => some .mxfp4 | 8 => some .int4 | 9 => some .int8 | 10 => some .int16 | 11 => some .int32
  | 12 => some .e8m0 | _ => none

/-- Element bits (R126). -/
def Fmt.width : Fmt → Nat
  | .fp32 | .int32 => 32
  | .bf16 | .fp16 | .int16 => 16
  | .mxfp4 | .int4 => 4
  | _ => 8

/-- Whether the vector unit takes the format (R126). -/
def Fmt.isVector : Fmt → Bool
  | .mxfp4 | .e8m0 => false
  | _ => true

/-- Two's-complement formats. -/
def Fmt.isInt : Fmt → Bool
  | .int4 | .int8 | .int16 | .int32 => true
  | _ => false

/-- Tapered formats (R130). -/
def Fmt.isTap : Fmt → Bool
  | .tap8 | .tap6 => true
  | _ => false

/-- Whether the array takes the format (R126). -/
def Fmt.isArray : Fmt → Bool
  | .bf16 | .e4m3 | .e5m2 | .tap8 | .tap6 | .mxfp4 => true
  | _ => false

/-- Rounding modes (R139). -/
inductive Rm where
  | rne | rz | ru | rd | sr
  deriving DecidableEq, Repr

/-- The mode of a code; 5 to 7 are reserved (R139). -/
def Rm.ofCode (c : Nat) : Option Rm :=
  match c with
  | 0 => some .rne | 1 => some .rz | 2 => some .ru | 3 => some .rd | 4 => some .sr | _ => none

/-- An exact value: NaN, an infinity, or sign × m × 2^e; with sticky, the magnitude lies strictly between
m × 2^e and (m + 1) × 2^e. -/
inductive Val where
  | nan
  | inf (s : Bool)
  | fin (s : Bool) (m : Nat) (e : Int) (sticky : Bool)
  deriving DecidableEq, Repr

/-- 2^k for an integer k ≥ 0, and 1 below. -/
def pow2 (k : Int) : Nat := 2 ^ k.toNat

/-- A format with sign, exponent and fraction (R128): widths, bias, whether the top exponent is infinity and NaN
(true), or holds finite values but for NaN codes (false). -/
structure FltSpec where
  ebits : Nat
  fbits : Nat
  bias  : Nat
  ieee  : Bool
  nanTop : Bool
  deriving DecidableEq, Repr

def specFp32 : FltSpec := ⟨8, 23, 127, true, false⟩
def specBf16 : FltSpec := ⟨8, 7, 127, true, false⟩
def specFp16 : FltSpec := ⟨5, 10, 15, true, false⟩
def specE4m3 : FltSpec := ⟨4, 3, 7, false, true⟩
def specE5m2 : FltSpec := ⟨5, 2, 15, true, false⟩
def specE2m1 : FltSpec := ⟨2, 1, 1, false, false⟩

/-- Decode a code of a format with sign, exponent and fraction (R128). -/
def decodeFlt (t : FltSpec) (c : Nat) : Val :=
  let s := c.testBit (t.ebits + t.fbits)
  let e := (c >>> t.fbits) % 2 ^ t.ebits
  let f := c % 2 ^ t.fbits
  if t.ieee && e == 2 ^ t.ebits - 1 then (if f = 0 then .inf s else .nan)
  else if t.nanTop && e == 2 ^ t.ebits - 1 && f == 2 ^ t.fbits - 1 then .nan
  else if e = 0 then .fin s f (1 - (t.bias : Int) - t.fbits) false
  else .fin s (2 ^ t.fbits + f) ((e : Int) - t.bias - t.fbits) false

/-- The length of the run of bits equal to b from bit i - 1 down (R130). -/
def runLen (m : Nat) (b : Bool) : Nat → Nat
  | 0 => 0
  | i + 1 => if m.testBit i = b then runLen m b i + 1 else 0

/-- Decode the n - 1 magnitude bits of a tapered code that is not 0 (R130): mantissa and exponent. -/
def decodeTapMag (n es m : Nat) : Nat × Int :=
  let b := m.testBit (n - 2)
  let k := runLen m b (n - 1)
  let r : Int := if b then (k : Int) - 1 else -(k : Int)
  let t := n - 2 - k
  let e := if es = 1 && t ≥ 1 then (if m.testBit (t - 1) then 1 else 0) else 0
  let t := if es = 1 && t ≥ 1 then t - 1 else t
  (2 ^ t + m % 2 ^ t, (1 + (es : Int)) * r + e - t)

/-- Decode a tapered code (R130). -/
def decodeTap (n es c : Nat) : Val :=
  let m := c % 2 ^ (n - 1)
  let s := c.testBit (n - 1)
  if m = 0 then (if s then .nan else .fin false 0 0 false)
  else let (mant, e) := decodeTapMag n es m
       .fin s mant e false

/-- An integer as an exact value. -/
def ofInt (i : Int) : Val := .fin (decide (i < 0)) i.natAbs 0 false

/-- Decode an element of any format to its exact value. MXFP4 stands for its E2M1 element. -/
def Fmt.decode (f : Fmt) (c : Nat) : Val :=
  match f with
  | .fp32 => decodeFlt specFp32 c
  | .bf16 => decodeFlt specBf16 c
  | .fp16 => decodeFlt specFp16 c
  | .e4m3 => decodeFlt specE4m3 c
  | .e5m2 => decodeFlt specE5m2 c
  | .mxfp4 => decodeFlt specE2m1 c
  | .tap8 => decodeTap 8 1 c
  | .tap6 => decodeTap 6 0 (c % 64)
  | .int4 => ofInt (toSigned 4 c)
  | .int8 => ofInt (toSigned 8 c)
  | .int16 => ofInt (toSigned 16 c)
  | .int32 => ofInt (toSigned 32 c)
  | .e8m0 => if c = 255 then .nan else .fin false 1 ((c : Int) - 127) false

/-! ## Exact operations -/

def Val.isNan : Val → Bool
  | .nan => true
  | _ => false

def Val.isInf : Val → Bool
  | .inf _ => true
  | _ => false

def Val.sign : Val → Bool
  | .nan => false
  | .inf s => s
  | .fin s _ _ _ => s

def Val.isZero : Val → Bool
  | .fin _ 0 _ false => true
  | _ => false

def Val.neg : Val → Val
  | .nan => .nan
  | .inf s => .inf (!s)
  | .fin s m e st => .fin (!s) m e st

def Val.abs : Val → Val
  | .nan => .nan
  | .inf _ => .inf false
  | .fin _ m e st => .fin false m e st

/-- Signed significand of a finite value at exponent e0 ≤ e. -/
def signedAt (s : Bool) (m : Nat) (e e0 : Int) : Int :=
  let v : Int := (m * pow2 (e - e0) : Nat)
  if s then -v else v

/-- The exact sum as IEEE 754 signs it: an exact zero sum of unlike signs is +0, or -0 under RD; of like signs it keeps
the sign (R137). -/
def Val.add (rd : Bool) (a b : Val) : Val :=
  match a, b with
  | .nan, _ => .nan
  | _, .nan => .nan
  | .inf s, .inf t => if s = t then .inf s else .nan
  | .inf s, _ => .inf s
  | _, .inf t => .inf t
  | .fin s m e _, .fin t n f _ =>
    let e0 := min e f
    let v := signedAt s m e e0 + signedAt t n f e0
    if v = 0 then .fin (if s = t then s else rd) 0 0 false
    else .fin (decide (v < 0)) v.natAbs e0 false

/-- The exact sum of an instruction whose mode VTYPE gives: every exact zero sum, of like signs too, is +0, or -0
under RD (R140; log 81). -/
def Val.sum (rd : Bool) (a b : Val) : Val :=
  match a.add rd b with
  | .fin s m e st => .fin (if m = 0 then rd else s) m e st
  | r => r

/-- The exact product; 0 × ∞ has none. -/
def Val.mul (a b : Val) : Val :=
  match a, b with
  | .nan, _ => .nan
  | _, .nan => .nan
  | .inf s, .inf t => .inf (s != t)
  | .inf s, .fin t m _ _ => if m = 0 then .nan else .inf (s != t)
  | .fin s m _ _, .inf t => if m = 0 then .nan else .inf (s != t)
  | .fin s m e _, .fin t n f _ => .fin (s != t) (m * n) (e + f) false

/-- The floor of a square root, by k result bits. -/
def isqrtGo (n : Nat) : Nat → Nat → Nat
  | 0, r => r
  | k + 1, r => if (r + 2 ^ k) * (r + 2 ^ k) ≤ n then isqrtGo n k (r + 2 ^ k) else isqrtGo n k r

/-- The floor of a square root. -/
def isqrt (n : Nat) : Nat := isqrtGo n (n.log2 / 2 + 1) 0

/-- The quotient of positive finite magnitudes, to 80 bits or more and a sticky bit. -/
def quot (m : Nat) (e : Int) (n : Nat) (f : Int) : Nat × Int × Bool :=
  let k := 80 + n.log2 + 1
  ((m <<< k) / n, e - f - k, decide ((m <<< k) % n ≠ 0))

/-- The exact quotient (R226): 0 ÷ 0 and ∞ ÷ ∞ have none; a finite non-zero value over 0 is infinite. -/
def Val.div (a b : Val) : Val :=
  match a, b with
  | .nan, _ => .nan
  | _, .nan => .nan
  | .inf _, .inf _ => .nan
  | .inf s, .fin t _ _ _ => .inf (s != t)
  | .fin s _ _ _, .inf t => .fin (s != t) 0 0 false
  | .fin s m e _, .fin t n f _ =>
    if n = 0 then (if m = 0 then .nan else .inf (s != t))
    else if m = 0 then .fin (s != t) 0 0 false
    else let (q, g, st) := quot m e n f
         .fin (s != t) q g st

/-- The square root of a positive finite magnitude. -/
def rootOf (m : Nat) (e : Int) (st : Bool) : Val :=
  let k : Nat := if (e % 2 : Int) = 0 then 160 else 161
  let n := m <<< k
  let r := isqrt n
  .fin false r ((e - k) / 2) (st || decide (r * r ≠ n))

/-- The exact square root (R226): negative values have none; -0 gives -0. -/
def Val.sqrt (a : Val) : Val :=
  match a with
  | .nan => .nan
  | .inf s => if s then .nan else .inf false
  | .fin s m e st => if m = 0 then .fin s 0 0 false else if s then .nan else rootOf m e st

/-- The exact reciprocal square root (R226). -/
def Val.rsqrt (a : Val) : Val :=
  match a with
  | .nan => .nan
  | .inf s => if s then .nan else .fin false 0 0 false
  | .fin s m e _ =>
    if m = 0 then .inf s else if s then .nan
    else let (q, g, st) := quot 1 0 m e
         rootOf q g st

/-- The sign of a - b for comparable values: -1, 0 or 1, by value, so that -0 equals +0 (R229). -/
def Val.cmp (a b : Val) : Int :=
  match a, b with
  | .inf s, .inf t => if s = t then 0 else if s then -1 else 1
  | .inf s, _ => if s then -1 else 1
  | _, .inf t => if t then 1 else -1
  | .fin s m e _, .fin t n f _ =>
    let e0 := min e f
    (signedAt s m e e0 - signedAt t n f e0).sign
  | _, _ => 0

/-- The order of VMIN and VMAX: by value, and -0 below +0 (R226). -/
def Val.lt (a b : Val) : Bool :=
  if a.cmp b = 0 then a.sign && !b.sign else decide (a.cmp b < 0)

/-! ## Rounding -/

/-- VSTAT's flags as bits (R149). -/
def flagNX : BitVec 6 := 0x01
def flagUF : BitVec 6 := 0x02
def flagOF : BitVec 6 := 0x04
def flagDZ : BitVec 6 := 0x08
def flagNV : BitVec 6 := 0x10
def flagSA : BitVec 6 := 0x20

/-- Whether the farther neighbour is taken (R140, R142): from the lower neighbour's evenness, the sign, the remainder
rem / den (with sticky) between the neighbours, and u of R142. -/
def roundUp (rm : Rm) (s odd : Bool) (rem den : Nat) (sticky : Bool) (u : Nat) : Bool :=
  match rm with
  | .rne => decide (2 * rem > den) || (decide (2 * rem = den) && (sticky || odd))
  | .rz => false
  | .ru => !s
  | .rd => s
  | .sr => decide (u < rem * 2 ^ 24 / den)

/-- m × 2^e (and sticky) in units of 2^q: the whole part, the remainder and its denominator. -/
def unitsOf (m : Nat) (e q : Int) : Nat × Nat × Nat :=
  if q ≤ e then (m * pow2 (e - q), 0, 1) else (m / pow2 (q - e), m % pow2 (q - e), pow2 (q - e))

/-- The canonical NaN codes (R129). -/
def Fmt.nanCode : Fmt → Nat
  | .fp32 => 0x7FC00000
  | .fp16 => 0x7E00
  | .bf16 => 0x7FC0
  | .e4m3 => 0x7F
  | .e5m2 => 0x7E
  | .tap8 => 0x80
  | .tap6 => 0x20
  | .e8m0 => 0xFF
  | _ => 0

/-- The layout of a floating format; others have none. -/
def Fmt.spec : Fmt → Option FltSpec
  | .fp32 => some specFp32
  | .bf16 => some specBf16
  | .fp16 => some specFp16
  | .e4m3 => some specE4m3
  | .e5m2 => some specE5m2
  | .mxfp4 => some specE2m1
  | _ => none

/-- The code of the largest finite magnitude (R128, R131, R132). -/
def maxCode (t : FltSpec) : Nat :=
  if t.ieee then (2 ^ t.ebits - 1) * 2 ^ t.fbits - 1
  else if t.nanTop then 2 ^ (t.ebits + t.fbits) - 2
  else 2 ^ (t.ebits + t.fbits) - 1

/-- The sign bit's place in a code. -/
def signBit (t : FltSpec) (s : Bool) : Nat := if s then 2 ^ (t.ebits + t.fbits) else 0

/-- What overflow gives (R141). -/
def overflowFlt (t : FltSpec) (nan : Nat) (rm : Rm) (sat s infinite : Bool) : Nat :=
  let mx := signBit t s + maxCode t
  let infc := signBit t s + (2 ^ t.ebits - 1) * 2 ^ t.fbits
  if sat then mx
  else if t.ieee then
    if infinite then infc
    else match rm with
      | .rne | .sr => infc
      | .rz => mx
      | .ru => if s then mx else infc
      | .rd => if s then infc else mx
  else if t.nanTop then nan
  else mx

/-- Round an exact value into a format with sign, exponent and fraction (R140, R141): code and flags. -/
def roundFlt (t : FltSpec) (nan : Nat) (rm : Rm) (sat : Bool) (u : Nat) (x : Val) : Nat × BitVec 6 :=
  match x with
  | .nan => (nan, 0)
  | .inf s =>
    (overflowFlt t nan rm sat s true, if t.ieee && !sat then 0 else flagOF ||| flagNX)
  | .fin s m e st =>
    if m = 0 && !st then (signBit t s, 0)
    else
      let emin : Int := 1 - (t.bias : Int)
      let k : Int := (m.log2 : Int) + e
      let q : Int := max k emin - t.fbits
      let (n, rem, den) := unitsOf m e q
      let inexact := st || decide (rem ≠ 0)
      let n' := if inexact && roundUp rm s (n % 2 = 1) rem den st u then n + 1 else n
      let (n', q) := if n' = 2 ^ (t.fbits + 1) then (2 ^ t.fbits, q + 1) else (n', q)
      let code := if n' < 2 ^ t.fbits then n' else ((q + t.fbits + t.bias).toNat) * 2 ^ t.fbits + (n' - 2 ^ t.fbits)
      if code > maxCode t then (overflowFlt t nan rm sat s false, flagOF ||| flagNX)
      else (signBit t s + code,
            if inexact then (if n' < 2 ^ t.fbits then flagUF ||| flagNX else flagNX) else 0)

/-- A tapered magnitude in units of 2^-12 (R131, R132 list them; all are whole). -/
def tapUnits (n es c : Nat) : Nat :=
  if c = 0 then 0 else let (m, e) := decodeTapMag n es c
                       m * pow2 (e + 12)

/-- The largest magnitude code whose value is at most x units. -/
def tapFloor (n es x : Nat) : Nat := ((List.range (2 ^ (n - 1))).filter fun c => decide (c ≠ 0 ∧ tapUnits n es c ≤ x)).length

/-- Round an exact value into a tapered format (R140, R141, R145). -/
def roundTap (n es : Nat) (rm : Rm) (sat : Bool) (u : Nat) (x : Val) : Nat × BitVec 6 :=
  let nan := 2 ^ (n - 1)
  let mx := 2 ^ (n - 1) - 1
  let withSign (s : Bool) (c : Nat) : Nat := if c = 0 then 0 else if s then 2 ^ (n - 1) + c else c
  let overRes (s : Bool) : Nat × BitVec 6 := (if sat then withSign s mx else nan, flagOF ||| flagNX)
  match x with
  | .nan => (nan, 0)
  | .inf s => overRes s
  | .fin s m e st =>
    if m = 0 && !st then (0, 0)
    else
      let (w, rem, den) := unitsOf m e (-12)
      let beyond := decide (w > tapUnits n es mx) || (decide (w = tapUnits n es mx) && (st || decide (rem ≠ 0)))
      if beyond then overRes s
      else
        let lo := tapFloor n es w
        let base := tapUnits n es lo
        let exact := decide (w = base ∧ rem = 0) && !st
        if exact then (withSign s lo, 0)
        else
          let gap := tapUnits n es (lo + 1) - base
          let up := roundUp rm s (lo % 2 = 1) ((w - base) * den + rem) (gap * den) st u
          let c := if up then lo + 1 else lo
          (withSign s c, if c = 0 then flagUF ||| flagNX else flagNX)

/-- Round to an integer and saturate to w bits (R145). -/
def roundInt (w : Nat) (rm : Rm) (u : Nat) (x : Val) : Nat × BitVec 6 :=
  let hi : Int := 2 ^ (w - 1) - 1
  let lo : Int := -(2 ^ (w - 1))
  match x with
  | .nan => (0, flagNV)
  | .inf s => (ofSigned w (if s then lo else hi), flagSA ||| flagNX)
  | .fin s m e st =>
    let (n, rem, den) := unitsOf m e 0
    let inexact := st || decide (rem ≠ 0)
    let n' := if inexact && roundUp rm s (n % 2 = 1) rem den st u then n + 1 else n
    let v : Int := if s then -(n' : Int) else n'
    if v > hi then (ofSigned w hi, flagSA ||| flagNX)
    else if v < lo then (ofSigned w lo, flagSA ||| flagNX)
    else (ofSigned w v, if inexact then flagNX else 0)

/-- Round an exact value into any element format (R140 to R142, R145). -/
def Fmt.round (f : Fmt) (rm : Rm) (sat : Bool) (u : Nat) (x : Val) : Nat × BitVec 6 :=
  match f with
  | .tap8 => roundTap 8 1 rm sat u x
  | .tap6 => roundTap 6 0 rm sat u x
  | .int4 => roundInt 4 rm u x
  | .int8 => roundInt 8 rm u x
  | .int16 => roundInt 16 rm u x
  | .int32 => roundInt 32 rm u x
  | .fp32 => roundFlt specFp32 f.nanCode rm sat u x
  | .bf16 => roundFlt specBf16 f.nanCode rm sat u x
  | .fp16 => roundFlt specFp16 f.nanCode rm sat u x
  | .e4m3 => roundFlt specE4m3 f.nanCode rm sat u x
  | .e5m2 => roundFlt specE5m2 f.nanCode rm sat u x
  | .mxfp4 => roundFlt specE2m1 0 rm true u x
  | .e8m0 => (0, 0)

/-- Convert an element (R145). An infinity converted with saturation into a format that holds infinity meets R141, which gives
the largest finite value, and R145, which keeps a value that the format represents: the model follows R141. DESIGN CHOICE
(log 98). An integer narrowed to an integer saturates, with SA
and NX, saturation included (R149). -/
def convertElem (src dst : Fmt) (rm : Rm) (sat : Bool) (u c : Nat) : Nat × BitVec 6 :=
  if src.isInt && dst.isInt then
    let v := toSigned src.width c
    let hi : Int := 2 ^ (dst.width - 1) - 1
    let lo : Int := -(2 ^ (dst.width - 1))
    if v > hi then (ofSigned dst.width hi, flagSA ||| flagNX) else if v < lo then (ofSigned dst.width lo, flagSA ||| flagNX)
    else (ofSigned dst.width v, 0)
  else dst.round rm sat u (src.decode c)

/-! ## FP32 with RNE -/

/-- NV of an operation: a NaN result from operands none of which is NaN (R149). -/
def nvOf (ops : List Val) (r : Val) : BitVec 6 := if r.isNan && !(ops.any Val.isNan) then flagNV else 0

/-- fp32_add_rne (R137), with its flags. -/
def fp32Add (a b : Nat) : Nat × BitVec 6 :=
  let x := Fmt.fp32.decode a
  let y := Fmt.fp32.decode b
  let r := x.add false y
  let (c, fl) := Fmt.fp32.round .rne false 0 r
  (c, fl ||| nvOf [x, y] r)

/-- fp32_sub_rne (R153). -/
def fp32Sub (a b : Nat) : Nat × BitVec 6 :=
  let x := Fmt.fp32.decode a
  let y := Fmt.fp32.decode b
  let r := x.add false y.neg
  let (c, fl) := Fmt.fp32.round .rne false 0 r
  (c, fl ||| nvOf [x, y] r)

/-- fp32_fma_rne: a × b + c, rounded once (R153). -/
def fp32Fma (a b c : Nat) : Nat × BitVec 6 :=
  let x := Fmt.fp32.decode a
  let y := Fmt.fp32.decode b
  let z := Fmt.fp32.decode c
  let r := (x.mul y).add false z
  let (k, fl) := Fmt.fp32.round .rne false 0 r
  (k, fl ||| nvOf [x, y, z] r)

/-! ## The array -/

/-- Round to 18 significant bits, RNE, exponent unbounded (R136). -/
def round18 (m : Nat) (e : Int) : Nat × Int :=
  let q : Int := (m.log2 : Int) + e - 17
  let (n, rem, den) := unitsOf m e q
  if roundUp .rne false (n % 2 = 1) rem den false 0 then (n + 1, q) else (n, q)

/-- Decode an A26 (R136). -/
def decodeA26 (a : Nat) : Val :=
  let s := a.testBit 25
  let e := (a >>> 17) % 256
  let f := a % 2 ^ 17
  if e = 0 then .fin s 0 0 false
  else if e = 255 then (if f = 0 then .inf s else .nan)
  else .fin s (2 ^ 17 + f) ((e : Int) - 127 - 17) false

/-- Encode a value whose magnitude is m × 2^e with m < 2^18, in A26's range or infinite (R136). R136 gives a NaN exponent
255 and a fraction that is not 0, and no more: the model writes sign 0 and fraction 2^16. DESIGN CHOICE (log 94). -/
def encodeA26 (x : Val) : Nat :=
  match x with
  | .nan => 255 * 2 ^ 17 + 2 ^ 16
  | .inf s => (if s then 2 ^ 25 else 0) + 255 * 2 ^ 17
  | .fin s m e _ =>
    let sb := if s then 2 ^ 25 else 0
    if m = 0 then sb
    else let k : Int := (m.log2 : Int) + e
         sb + (k + 127).toNat * 2 ^ 17 + ((m <<< (17 - m.log2)) - 2 ^ 17)

/-- add_a26 (R136). -/
def addA26 (acc : Nat) (d : Val) : Nat :=
  match (decodeA26 acc).add false d with
  | .nan => encodeA26 .nan
  | .inf s => encodeA26 (.inf s)
  | .fin s m e _ =>
    if m = 0 then 0
    else
      let (n, q) := round18 m e
      let k : Int := (n.log2 : Int) + q
      if k ≥ 128 then encodeA26 (.inf s)
      else if k < -126 then encodeA26 (.fin s 0 0 false)
      else if n = 2 ^ 18 then encodeA26 (.fin s (2 ^ 17) (q + 1) false) else encodeA26 (.fin s n q false)

/-- The group size of a pair of operand formats (R134); none for a pair that may not meet. -/
def groupSize (a b : Fmt) : Option Nat :=
  let small (f : Fmt) : Bool := f = .e4m3 || f = .e5m2 || f = .tap8 || f = .tap6
  if small a && small b then some 4
  else if a = .mxfp4 && b = .mxfp4 then some 8
  else if a = .bf16 && b = .bf16 then some 2
  else none

/-- The exact dot product of R135. -/
def dotVal (ps : List (Val × Val)) : Val := ps.foldl (fun acc p => acc.add false (p.1.mul p.2)) (.fin false 0 0 false)

/-- Promotion (R137): the FP32 sum of a bank value and an A26 value. -/
def promote (bank acc : Nat) : Nat :=
  (Fmt.fp32.round .rne false 0 ((Fmt.fp32.decode bank).add false (decodeA26 acc))).1

/-! ## Stochastic rounding, amax, PPU, MXFP4 -/

/-- lfsr_step (R143). -/
def lfsrStep (s : BitVec 32) : BitVec 32 := if bitAt s 0 then (s >>> 1) ^^^ 0x80200003 else s >>> 1

/-- u of R142. -/
def lfsrU (s : BitVec 32) : Nat := fld s 8 24

/-- Member j's seed (R144). -/
def memberSeed (seed : BitVec 32) (j : Nat) : BitVec 32 :=
  let v := seed ^^^ BitVec.ofNat 32 (j * 0x9E3779B9)
  if v = 0 then 1 else v

/-- Update an amax register from one element (R151). -/
def amaxUpd (am : BitVec 33) (x : Val) : BitVec 33 :=
  match x with
  | .nan => am ||| BitVec.ofNat 33 (2 ^ 32)
  | _ =>
    let c := (Fmt.fp32.round .rne false 0 x.abs).1
    if fld am 0 32 < c then (am &&& BitVec.ofNat 33 (2 ^ 32)) ||| BitVec.ofNat 33 c else am

/-- Combine two amax registers: max and OR (R152). -/
def amaxJoin (a b : BitVec 33) : BitVec 33 :=
  ((a ||| b) &&& BitVec.ofNat 33 (2 ^ 32)) ||| BitVec.ofNat 33 (max (fld a 0 32) (fld b 0 32))

/-- The block scale of R147 for 32 exact values: the E8M0 code and q; none for a block with NaN or infinity, or all zero. -/
def blockScale (vs : List Val) : Nat × Option Int :=
  if vs.any fun v => v.isNan || v.isInf then (0xFF, none)
  else if vs.all Val.isZero then (0, none)
  else
    let top (v : Val) : Option Int := match v with
      | .fin _ m e _ => if m = 0 then none else some ((m.log2 : Int) + e)
      | _ => none
    let k := (vs.filterMap top).foldl max (-1000)
    let q := max (-127) (min 127 (k - 2))
    ((q + 127).toNat, some q)

/-- One E2M1 element of a block (R147). -/
def blockElem (sc : Nat) (q : Option Int) (rm : Rm) (u : Nat) (v : Val) : Nat :=
  match q with
  | some q => match v with
    | .fin s m e st => (Fmt.mxfp4.round rm true u (.fin s m (e - q) st)).1
    | _ => 0
  | none => if sc = 0xFF then 0 else if v.sign then 8 else 0

end Sys2Proof.Machine
end

