-- ==== Sys2Proof/Config.lean ====
section
/-! DEFINITION. What the manual leaves to the part or leaves open. Every constant without a body is a free
value: no proof can see what it is. -/

namespace Sys2Proof.Config

/-- A row the manual calls unspecified (R349: rows covered by a copy that met poison, halves touched by a
poisoned matrix command). The argument is the machine's count of free values drawn so far (log 7). -/
opaque freeRow : Nat → BitVec 4096

/-- The bytes of memory after a package reset, whose keys are new (R383, R386), and those of a save area after a save, of
which R72 gives no layout. Arguments: the count of the reset or save, the address (log 14, 38). -/
opaque cipherByte : Nat → Nat → BitVec 8

/-- The answer of firmware to a recovery mailbox command, by count and byte offset (R385 gives none; log 7). -/
opaque mailboxByte : Nat → Nat → BitVec 8

/-- The identity and attestation read-out at 0x5000, by offset, and by what the report signs: the nonce, DEVSTAT, the header of
the running slot, the configuration blob (R384 gives its parts, not its bytes; log 7). -/
opaque readoutByte : Nat → BitVec 256 → BitVec 64 → List (Nat × BitVec 8) → List Nat → BitVec 8

/-- The ways of a slice's last-level cache that fail the self-test of boot step 1 (R383), by count and slice (log 15). -/
opaque failingWays : Nat → Nat → BitVec 24

/-- The fabric time after a PTP message, by count (R368: within 100 ns of the grandmaster; log 7). -/
opaque ptpTime : Nat → Nat

/-- Whether a slot image, as its bytes, carries a correct ECDSA signature (R381; log 15). -/
opaque slotVerifies : List (Nat × BitVec 8) → Bool

/-- Whether a boot step's work fails (R383 says what follows a failure, not when one happens), by count and step (log 15). -/
opaque bootStepFails : Nat → Nat → Bool

/-- The fresh random key of key slot 0 at boot step 6 (R383), by count (log 7). -/
opaque bootKey : Nat → BitVec 512

/-- How many entries beyond eight a home slice's forwarding-stub store has: the manual gives no size (R95, R99; log 7). -/
opaque stubsBeyond8 : Nat

/-- The sign bit of the maximum (true) or minimum (false) of a minus zero and a plus zero in SCAT, by whether the minus zero
comes first: R271 states none (log 30). -/
opaque scatZeroSign : Bool → Bool → Bool

end Sys2Proof.Config
end

