-- ==== Sys2Proof/Machine/State.lean ====
section
/-! DEFINITION. The state of one Xeivira package, as plain data: everything the manual gives the machine, and the
agenda, which says who moves next (log 3). -/

namespace Sys2Proof.Machine

/-- Why a step stops the machine. -/
inductive Fault where
  /-- Raised by step when the agenda lets a core act that stands on a site whose die is absent (R19): there is no
  such agent. Safe: the hardware has no behaviour there. -/
  | agentAbsent
  deriving DecidableEq, Repr

/-- Why a step has no meaning. -/
inductive Refusal where
  /-- Raised by an arm of exec whose instruction has no meaning yet. Safe. -/
  | notModelled (mnemonic : String)
  deriving DecidableEq, Repr

/-! ## Tasks -/

/-- A task record (R46), less its reserved fields. -/
structure TaskRec where
  stage    : Nat
  j        : Bool
  f        : Bool
  args     : Vector Word 8
  waitEv   : Word
  sigEv    : Word
  joinAddr : Word
  futRef   : Word
  deriving DecidableEq, Repr

/-- Where a task came from (R61, R324). -/
inductive TaskKind where
  | child | replay | seed | generated
  deriving DecidableEq, Repr

/-- A slot of a reservation: its pointer, index and phase, when reserved (R87), whether RRES has returned it, and
whether it has been published. -/
structure RSlot where
  ptr  : BitVec 9
  handed    : Bool
  published : Bool
  deriving DecidableEq, Repr

/-- A task's reservation on one ring: the instance that holds it and its slots in ring order (R84, R50). -/
structure Resv where
  ring  : Nat
  inst  : CoreRef
  slots : List RSlot
  deriving DecidableEq, Repr

/-- The states of R54 that a task on a core is in, with what the end of a faulted or squashed one waits for. -/
inductive TaskPhase where
  | running | retiring | squashing | faulted | stopping | stopped
  deriving DecidableEq, Repr

/-- The task a core runs (R45). gangId names its gang; claims and resv are its ring slots (R49); x1AtExit is what C held in
x1 at its EXIT (R280); exitPc and exitCtx are those of the third EXIT (R52); lfsr0 is LFSR at the start (R66); usedQldr says
that L has issued a QLDR (R283); spawned counts the SPAWNs that its contexts have issued (R279); asked is the page of another
package to which its retirement has sent a request, with the tick of its sending (R360). -/
structure Task where
  pipe       : Nat
  record     : TaskRec
  kind       : TaskKind
  member     : Nat
  gangSize   : Nat
  gangId     : Nat
  sideEffect : Bool
  claims     : List (Nat × Nat)
  resv       : List Resv
  phase      : TaskPhase
  x1AtExit   : Word
  exitPc     : Word
  exitCtx    : CtxName
  lfsr0      : BitVec 32
  usedQldr   : Bool
  spawned    : Nat
  asked      : Option (Nat × Nat)
  deriving DecidableEq, Repr

/-! ## Accesses -/

/-- What a store or reduction does once its address is translated: at its replay, when it stands in a side log (R100,
R207, R282). -/
inductive LogOp where
  | store (size : Nat) (data : Word)
  | rel (data : Word) (scope : BitVec 2) (mask : BitVec 16)
  | fput (data : Word)
  | freset
  deriving DecidableEq, Repr

/-- What an outstanding access of a context does when it performs (R103). A qld names the core whose scratchpad
holds the row, the row there, the ring and slot of a QLDR, and the row once it is read; a fence only separates (R108); a
store whose translation is outstanding is untranslated (R190). A spawn carries its mask and its number among its task's;
evsig, sems and rpub are releases that still wait for what they cover (R120). -/
inductive AccOp where
  | store (dla size : Nat) (data : Word)
  | rel (dla : Nat) (data : Word) (scope : BitVec 2) (mask : BitVec 16)
  | fence (mask : BitVec 16)
  | qld (q : Fin 4) (src : CoreRef) (row : Nat) (slot : Option (Nat × Nat)) (got : Option Row)
  | qst (dst : CoreRef) (row : Nat) (data : Row)
  | fput (dla : Nat) (data : Word)
  | freset (dla : Nat)
  | spawn (task : TaskRec) (mask : BitVec 16) (no : Nat)
  | untranslated (pasid : Nat) (op : LogOp)
  | evsig (e : BitVec 6)
  | sems (n : BitVec 6)
  | rpub (ring : Nat) (inst : CoreRef) (ptr : BitVec 9)
  deriving DecidableEq, Repr

/-- An outstanding access: its issue number, its classes as a mask, its operation, the address of its instruction,
the host virtual address it named, the placement pages it pins (R79), the repeat it was issued in (R339), and the tick at which
its request to another package was sent (R360). -/
structure Access where
  seq   : Nat
  cls   : BitVec 16
  op    : AccOp
  pc    : Word
  hva   : Word
  pages : List Nat
  rep   : Option Nat
  asked : Option Nat
  deriving DecidableEq, Repr

/-- An instruction that has issued and waits to go on (R43): an FGET, or a SPAWN with its number among its task's (R65,
R276). -/
inductive Begun where
  | fget
  | spawn (no : Nat)
  deriving DecidableEq, Repr

/-- What a held load fills when its last word has returned (R189, R205, R208, R242, R250, R276). -/
inductive LoadDest where
  | x (rd : BitVec 5) (signed : Bool)
  | acq (rd : BitVec 5) (scope : BitVec 2) (mask : BitVec 16)
  | mon
  | k (r : BitVec 3)
  | h (r : BitVec 4)
  | ppu (n : Nat)
  | spawn (mask : BitVec 16) (no : Nat)
  deriving DecidableEq, Repr

/-- A home: a package and one of its slices (R16, R80). -/
structure Home where
  pkg : Nat
  sl  : Nat
  deriving DecidableEq, Repr

/-- One word of a held load: its address, its size in bytes, and the value that a home answered where the die may not
hold the line (R94): the read has then performed. -/
structure LoadWord where
  dla  : Nat
  hva  : Word
  size : Nat
  home : Option Word
  deriving DecidableEq, Repr

/-- A load that holds its context: its issue number, destination, classes, words, where its request stands and how often
it was relayed (R96, R97), the pages it pins, and the tick at which a request of its that has no answer was sent to another
package (R360). -/
structure HeldLoad where
  seq   : Nat
  dest  : LoadDest
  cls   : BitVec 16
  words : List LoadWord
  route : Option Home
  fwd   : Nat
  pages : List Nat
  asked : Option Nat
  deriving DecidableEq, Repr

/-- Why a context waits (R43). A vector instruction that waits for a queue keeps all the queue ports that it names: bit
q for a load queue that it reads, bit 4 + q for a store queue that it writes (R44). translation names the 4 KiB page asked
for and whether it is to be written; fetch is an instruction-cache miss (R43), with the address of the missing word and the
tick at which its request was sent (R360); home is a wait for an answer of a home slice, for an FGET with its cell and that
tick; park is the wait of R66 for a place to park a cell's task. -/
inductive Wait where
  | loadQueue (q : Fin 4) (ports : BitVec 8)
  | storeQueue (q : Fin 4) (ports : BitVec 8)
  | loadRoom (q : Fin 4)
  | translation (page : Nat) (wr : Bool)
  | ringSlot | ringRead | engine | taskQueue | pin | sideLog
  | fetch (hva : Nat) (asked : Option Nat)
  | home (dla : Option Nat) (asked : Option Nat)
  | counters
  | mwait (deadline : Nat)
  | join (hva : Word) (dla : Nat)
  | gbar (k : Nat)
  | semw (n : BitVec 6)
  | evwait (e : BitVec 6)
  | barrier
  | park (dla : Nat)
  deriving DecidableEq, Repr

/-- A context can issue, is held by a load, waits, has executed EXIT, or has no running task (R43, R53). -/
inductive CtxStatus where
  | running
  | held (l : HeldLoad)
  | waiting (w : Wait)
  | parked
  | stopped
  deriving DecidableEq, Repr

/-- The REP unit (R196): the word it holds, n, the repeat to issue next, stepmask and the REP's address. -/
structure RepUnit where
  word : CtlWord
  n    : Nat
  j    : Nat
  mask : BitVec 3
  pc   : Word
  deriving DecidableEq, Repr

/-- The monitor of a context (R208): the armed line, and the trigger. -/
structure Monitor where
  armed   : Option Nat
  trigger : Bool
  deriving DecidableEq, Repr

/-- What a JOIN has come to (R279): the SPAWNs of its task that it waits for, by their count; the watch that the home keeps on
its word, with whether a write has made it 0, and the die that alone holds that write, in M (R116); and the tick at which its
request was sent to another package (R360). -/
structure JoinWait where
  upto  : Nat
  watch : Option Bool
  by_   : Option (Fin 6)
  asked : Option Nat
  deriving DecidableEq, Repr

/-- A context (R40, R168). entry, inputs and arrived belong to its region (R69); semTakes counts the SEMW takes of
the region (R288); gbarAtEntry is the barrier count at region entry (R287); heldShape is the shape-record
copy of a PUSH that waits (R174); begun is an FGET or a SPAWN that has issued and waits; frozen keeps its slots empty while
an FGET of its task waits to be parked (R66); fresh says that it has used no slot since its task started or resumed (log 115);
word is the one that it issued last. -/
structure Context where
  pc       : Word
  x        : Vector Word 32
  k        : Vector CmdWord 8
  vdtab    : Word
  status   : CtxStatus
  entry    : Word
  inputs   : BitVec 26
  arrived  : Bool
  nextInputs : BitVec 26
  semTakes : List (Nat × Nat)
  gbar     : Nat
  gbarAtEntry : Nat
  rep      : Option RepUnit
  mon      : Monitor
  heldShape : Option CmdWord
  begun    : Option Begun
  joining  : Option JoinWait
  frozen   : Bool
  fresh    : Bool
  word     : Option CtlWord
  out      : List Access
  seq      : Nat
  deriving DecidableEq, Repr

/-! ## Cores -/

/-- A segment of the PPU table (R153). -/
structure Segment where
  bp : BitVec 32
  c0 : BitVec 32
  c1 : BitVec 32
  c2 : BitVec 32
  c3 : BitVec 32
  deriving DecidableEq, Repr

/-- A ring instance (R85 to R87): word 0, the four pointers, and the ready bits. -/
structure RingInst where
  w0    : Word
  head  : BitVec 9
  claim : BitVec 9
  tail  : BitVec 9
  resv  : BitVec 9
  rb    : BitVec 256
  deriving DecidableEq, Repr

/-- A translation: PASID, base and log2 size of the range, its base DLA, and whether writes are granted (R76). -/
structure Xlat where
  pasid : Nat
  hva   : Nat
  lg    : Nat
  dla   : Nat
  wr    : Bool
  deriving DecidableEq, Repr

/-- A write an engine has still to perform: a scratchpad row, the bytes of one line that a mask names (R121), or an
RWRITE to an instance of this package (R275), before it arrives there or while it waits in the remote-write buffer (R365). -/
inductive EngWrite where
  | row (dst : CoreRef) (row : Nat) (data : Row)
  | line (line : Nat) (mask : BitVec 128) (data : LineData)
  | remote (w : RemoteWrite)
  | buffered (w : RemoteWrite)
  deriving DecidableEq, Repr

/-- A queue entry has not started, is a QFENCE that its queue has reached (R112), or runs since a tick, with its
writes not yet performed, its stamp, its amax update, and the ring slots it pops at completion (R253, R122). -/
inductive EntryState where
  | queued
  | reached
  | started (at_ : Nat) (todo : List EngWrite) (stamp : Option EngWrite) (amax : Option (BitVec 33)) (pops : List (Nat × Nat))
  deriving DecidableEq, Repr

/-- An entry of an engine queue (R174, R254): the word PUSH read, its decoded command, the shape copy, the PUSH's
address, context and issue number, the seed of R144, its translations and pins, the core's count of PUSHes at its own,
the tick at which a request of its was sent to a home that has yet to answer it (R360), and its state. -/
structure QEntry where
  word   : CmdWord
  cmd    : Instr
  shape  : CmdWord
  pushPc : Word
  ctx    : CtxName
  seq    : Nat
  seed   : BitVec 32
  xlat   : List Xlat
  pages  : List Nat
  grp    : Nat
  asked  : Option Nat
  state  : EntryState
  deriving DecidableEq, Repr

/-- What a REL carries with its write (R114, R117). -/
structure RelInfo where
  scope : BitVec 2
  mask  : BitVec 16
  seq   : Nat
  deriving DecidableEq, Repr

/-- A child waiting in a local task queue: its record, its place in the order of appends, the gang of the task that
spawned it, the release its SPAWN made (R63), and whether it may start on any die, its parent having retired before a
resumption (R278). -/
structure Child where
  pipe   : Nat
  record : TaskRec
  order  : Nat
  parent : Nat
  relBy  : CtxRef
  rel    : RelInfo
  anyDie : Bool
  deriving DecidableEq, Repr

/-- A side-log entry (R100): its context, classes, address, PASID, operation, instruction, issue number, the DLA once
its page is mapped, whether it pins that page (R79), the repeat it was issued in, the tick at which its request was sent
(R360), and the pipeline and gang of the task that issued it. -/
structure LogEntry where
  ctx   : CtxName
  cls   : BitVec 16
  hva   : Word
  pasid : Nat
  op    : LogOp
  pc    : Word
  seq   : Nat
  dla   : Option Nat
  pinned : Bool
  rep   : Option Nat
  asked : Option Nat
  gang  : Option (Nat × Nat)
  deriving DecidableEq, Repr

/-- What R222 records when C enters a region. -/
structure RegionSnap where
  vtype : Word
  lfsr  : BitVec 32
  ppuN  : Nat
  ppu   : List Segment
  ppuSet : Bool
  deriving DecidableEq, Repr

/-- The vector state of a core (R168, R149, R150, R153). ppuSet says that the PPU table was loaded since the task started
(R241). -/
structure VectorFile where
  v     : Vector Row 56
  m     : Vector MaskReg 8
  vtype : Word
  vstat : BitVec 6
  lfsr  : BitVec 32
  am    : Vector (BitVec 33) 16
  ppuN  : Nat
  ppu   : List Segment
  ppuSet : Bool
  deriving DecidableEq, Repr

/-- The stores of a core's strip (R26): scratchpad rows that differ from 0, and likewise the rows of the bank halves
and of the PE accumulators; dirty marks (R257); poisoned rows (R348); gated and waking banks (R101). -/
structure Stores where
  rows    : List (Nat × Row)
  bankA   : List (Nat × BankRow)
  bankB   : List (Nat × BankRow)
  acc     : List (Nat × AccRow)
  dirtyA  : Bool
  dirtyB  : Bool
  poison  : List Nat
  poisonA : List Nat
  poisonB : List Nat
  gated   : BitVec 16
  waking  : BitVec 16
  deriving DecidableEq, Repr

/-- A core (R26). linkOut and linkIn are its fragment's chain links by the other lead core (R267). engFree is, for each
engine queue, the tick until which the last SEMSIG, SEMWAIT or QFENCE holds it (R256). -/
structure Core where
  l      : Context
  c      : Context
  s      : Context
  vf     : VectorFile
  h      : Vector CmdWord 16
  lq     : Vector (List (Option Row)) 4
  sq     : Vector (List Row) 4
  sem    : Vector (BitVec 16) 64
  cnt    : Vector (BitVec 32) 256
  st     : Stores
  rings  : Vector RingInst 32
  eng    : Vector (List QEntry) 6
  engFree : Vector Nat 6
  linkOut : Option (Fin 8)
  linkIn  : Option (Fin 8)
  kids   : List Child
  task   : Option Task
  snap   : RegionSnap
  closed : Bool
  icache : List (Nat × CtlWord)
  xlat   : List (Nat × Xlat)
  sideLog : List LogEntry
  lastIssue : Option Nat
  pushes : Nat
  deriving DecidableEq, Repr

/-! ## Dies -/

/-- The states of a line in a die cache (R92). Only M holds data the home may lack; its tags say which contexts'
writes, in which classes, or writes made visible to which acquirers, the line still holds alone (R114). -/
inductive Moesi where
  | m (data : LineData) (tags : List (CtxRef × BitVec 16))
  | o | e | s
  deriving DecidableEq, Repr

/-- A write that has performed at die scope and not yet at package scope (R105): who wrote it, its classes, address,
size and data, its release if it is one, the acquirers it was made visible to with their issue numbers then, its pins, its
route, the instruction, repeat and host virtual address it came from with its PASID, its pipeline and gang, the tick at which
it performed at die scope, and the tick at which its request was sent to another package (R360). -/
structure DieWrite where
  ctx   : CtxRef
  seq   : Nat
  cls   : BitVec 16
  dla   : Nat
  size  : Nat
  data  : Word
  rel   : Option RelInfo
  vis   : List (CtxRef × BitVec 16 × Nat)
  pages : List Nat
  route : Option Home
  fwd   : Nat
  pc    : Word
  rep   : Option Nat
  hva   : Word
  pasid : Nat
  gang  : Option (Nat × Nat)
  since : Nat
  asked : Option Nat
  deriving DecidableEq, Repr

/-- The states of a strip (R316); zeroing and scrubbing carry the tick at which they end. -/
inductive StripState where
  | free
  | zeroing (until_ : Nat)
  | leased
  | returning
  | fenced
  deriving DecidableEq, Repr

/-- What a lease holds: a fragment by its lead strip and number of strips, or one core, with its strip when that was
Free (R309, R311, R313). -/
inductive LeaseKind where
  | frag (lead : Fin 8) (n : Nat)
  | bare (core : Fin 8) (strip : Bool)
  deriving DecidableEq, Repr

/-- A lease: pipeline, stage whose pool holds it, what it is, the ticks at which zeroing and a scrub end, and whether
it is returning (R315, R316). -/
structure Lease where
  pipe  : Nat
  stage : Nat
  kind  : LeaseKind
  zeroUntil  : Option Nat
  scrubUntil : Option Nat
  returning  : Bool
  noScrub    : Bool
  deriving DecidableEq, Repr

/-- A compute die (R17, R19, R28). A line stands at most once in cache; buf is in the order of performing. rels
notes, per word, the last release whose value stands there (R115). relayed holds pages behind a relayed request (R98);
engReqs says where relayed requests of the die's engines and fetches stand, and with which forward count (R96, R97).
badLines names the lines whose copy here is poisoned (R348, R350); grantAt is the tick of the last grant here (R318), fencedAt
that of the last fence (R353). -/
structure Die where
  present : Bool
  fenced  : Bool
  layout  : BitVec 7
  cores   : Vector Core 8
  strips  : Vector StripState 8
  stripOwner : Vector (Option (BitVec 8)) 8
  coreOwner  : Vector (Option (BitVec 8)) 8
  leases  : List Lease
  cache   : List (Nat × Moesi)
  badLines : List Nat
  buf     : List DieWrite
  rels    : List (Nat × CtxRef × RelInfo)
  owners  : List (Nat × Home)
  relayed : List Nat
  engReqs : List (Nat × Home × Nat)
  xlat    : List Xlat
  gated   : BitVec 16
  waking  : BitVec 16
  t0      : Nat
  training : Bool
  grantAt : Option Nat
  fencedAt : Nat
  deriving DecidableEq, Repr

/-! ## The base -/

/-- Global memory: the bytes that differ from what an unlisted address reads as, by rising address; the 4 KiB
pages whose contents a save made free, each with the count of the save; and the count of the last package
reset, which made all contents free. -/
structure Memory where
  cells : List Host.Cell
  reassigned : List (Nat × Nat)
  epoch : Option Nat
  deriving DecidableEq, Repr

/-- A narrow-holder note (R117), the tick at which its forced publish was first sent (R351), and whether it was acknowledged. -/
structure Note where
  line : Nat
  site : Fin 6
  ctx  : CtxRef
  mask : BitVec 16
  seq  : Nat
  sent : Option Nat
  acked : Bool
  deriving DecidableEq, Repr

/-- A snoop, invalidation or recall due from a die (R351), or a forward due to a reader (R92); release says that it
ends an MWAIT (R210). -/
structure Snoop where
  site  : Fin 6
  line  : Nat
  since : Nat
  logged : Bool
  forward : Option (Fin 6)
  release : Bool
  deriving DecidableEq, Repr

/-- A parked task (R66): the cell it waits on, its record, its kept reservations, its dependence counter, the core
whose squash has not finished, its place in the order of parking (R284), and whether its pipeline is another package's. -/
structure Parked where
  cell   : Nat
  pipe   : Nat
  record : TaskRec
  resv   : List Resv
  count  : Nat
  squash : Option CoreRef
  order  : Nat
  away   : Bool
  deriving DecidableEq, Repr

/-- A placement record (R82). -/
structure PlaceRec where
  page : Nat
  gen  : BitVec 16
  cur  : Home
  st   : BitVec 2
  deriving DecidableEq, Repr

/-- The steps of a migration (R95) that wait for something; one that is ending has still to write its status word (R274,
R351). -/
inductive MigPhase where
  | queued
  | copying
  | pinWait (since : Nat)
  | switching
  | ending (status : Nat)
  deriving DecidableEq, Repr

/-- A migration (R95, R274): its page, destination and old home, the ST to put back on an abort (R355), the lines
written since they were copied, its phase, the core whose copy-store queue waits for it, its status word, and whether
the driver started it. -/
structure Migration where
  page  : Nat
  dest  : Home
  old   : Home
  st0   : BitVec 2
  marked : List Nat
  phase : MigPhase
  core  : Option CoreRef
  stat  : Option Nat
  driver : Bool
  deriving DecidableEq, Repr

/-- A forwarding stub (R95, R99): page, where it stands, whom it names, whom it has served, when last, and, while
Reclaiming, whose acknowledgement is due, with the tick at which each was sent its invalidation (R351). -/
structure Stub where
  page : Nat
  at_  : Home
  to_  : Home
  mask : List Agent
  last : Nat
  reclaiming : Option (List (Agent × Nat))
  deriving DecidableEq, Repr

/-- Who asked for a translation: an engine of a core (0 to 5 its queues, 6 its contexts) or the front end (R76). -/
inductive XlatUser where
  | engine (r : CoreRef) (e : Nat)
  | frontEnd
  deriving DecidableEq, Repr

/-- An outstanding ATS request or page request (R76, R78); skip says that a PREFETCH asked, which sends no page request
(R270). -/
structure XlatReq where
  user  : XlatUser
  pasid : Nat
  page  : Nat
  wr    : Bool
  skip  : Bool
  deriving DecidableEq, Repr

/-- An ATS invalidation whose completion has not been returned (R77): its range, and the accesses and commands translated
in it that were outstanding when it arrived, by context and issue number; those of a task that a pipeline saved also by the
pipeline. -/
structure Inval where
  pasid : Nat
  hva   : Nat
  lg    : Nat
  uses  : List (Option Nat × CtxRef × Nat)
  deriving DecidableEq, Repr

/-- A message that a link lost and its sender has yet to send again (R350): an invalidation acknowledgement of a die, or a
request. -/
inductive LostMsg where
  | inv (site : Fin 6) (line : Nat)
  | load (c : CtxRef)
  | write (c : CtxRef) (seq : Nat)
  | evict (line : Nat)
  deriving DecidableEq, Repr

/-- The watch that a home keeps on the word of a WAIT packet (R297, R279): its queue, the word, COND and VALUE, whether a
write has met the condition since, and the die that alone holds that write, in M (R116). -/
structure Watch where
  queue : Nat
  dla   : Nat
  cond  : Nat
  val   : Word
  hit   : Bool
  by_   : Option (Fin 6)
  deriving DecidableEq, Repr

/-- What another package asks of a page's home by a fabric port (R360): bytes of a line read or written; an ACQ's read or a
REL's write of a word, the latter with its value and whether it is at core or die scope (R117, R118); FPUT, FRESET and FGET,
the latter with the record to park (R66, R282); a counter raised or lowered by 1 (R52, R277); a GATOM (R273). -/
inductive InwardOp where
  | read
  | write (mask : BitVec 128) (data : LineData)
  | acq
  | rel (data : Word) (narrow : Bool)
  | fput (data : Word)
  | freset
  | fget (task : TaskRec)
  | count (up : Bool)
  | gatom (cmd : Instr)
  deriving DecidableEq, Repr

/-- A request that came by a fabric port, was relayed, and has not been accepted (R98): the port, the page, the home where it
stands, its forward count, and, at a home of this package, what it asks and at which address. -/
structure PortReq where
  port : Fin 64
  page : Nat
  at_  : Home
  fwd  : Nat
  req  : Option (Nat × InwardOp)
  deriving DecidableEq, Repr

/-- What the home slices hold (R16, R79 to R82, R92 to R99, R281, R348, R386). llc names the lines that stand in the
last-level caches, newest first; their data is mem's. awayNotes are the notes of R117 that name a die of another package:
line, port, and whether its forced publish was sent; remotePins are the pages pinned for other packages (R367); portHeld the
relayed requests that a home has yet to accept (R98); seals, by page, the key under
which the stored bytes are those of mem, where it is not that of key slot 0 (R386). -/
structure Homes where
  mem     : Memory
  llc     : List Nat
  poison  : List Nat
  suspect : List Nat
  notes   : List Note
  awayNotes : List (Nat × Nat × Bool)
  snoops  : List Snoop
  full    : List Nat
  parked  : List Parked
  pins    : List (Nat × Nat)
  remotePins : List Nat
  recs    : List PlaceRec
  migs    : List Migration
  stubs   : List Stub
  redirects  : List (Agent × Nat × Home)
  portOwners : List (Nat × Nat × Home)
  portHeld   : List PortReq
  pageOwner  : List (Nat × BitVec 8)
  keys    : List (Nat × BitVec 512)
  seals   : List (Nat × BitVec 512)
  ats     : List XlatReq
  pri     : List XlatReq
  refused : List XlatReq
  invals  : List Inval
  feXlat  : List Xlat
  gatedLlc  : List (Nat × BitVec 24)
  wakingLlc : List (Nat × BitVec 24)
  fenceDue  : List (Nat × Fin 6)
  lost    : List (Nat × LostMsg)
  watches : List Watch
  deriving DecidableEq, Repr

/-! ## The front end -/

/-- A stage-table entry (R304). -/
structure StageDecl where
  entry : Word
  seeds : Word
  tmpl  : Word
  spawn : BitVec 16
  gang  : Nat
  pool  : Nat
  cls   : Nat
  save  : Nat
  nseed : Nat
  ins   : List (Nat × Nat)
  outs  : List (Nat × Nat)
  deriving DecidableEq, Repr

/-- An operator record with its tables, as the front end read them (R303 to R305, R322, R340). -/
structure OpRecord where
  next   : Word
  lcls   : Nat
  sites  : BitVec 6
  stages : List StageDecl
  rings  : List (Word × Nat)
  rmap   : List (Word × Word)
  save   : Word
  saveSz : Nat
  fring  : Word
  fringLog : Option Nat
  reel0  : Word
  eos    : Word
  deriving DecidableEq, Repr

/-- A packet that was consumed and has not completed (R297): words 0 to 3, its index in a batch, whether it has
started, the chain it started, whether a WAIT watches its word and when it times out, for an OPCHAIN of a batch, its
operators as validation read them (R305), and whether a member of a batch is malformed (R296). -/
structure Packet where
  w0 : Word
  w1 : Word
  w2 : Word
  w3 : Word
  idx : Nat
  started : Bool
  chain : Option Nat
  watch : Bool
  due  : Option Nat
  ops  : List OpRecord
  bad  : Bool
  deriving DecidableEq, Repr

/-- A batch being read (R299): its NMEM and the packets read so far; ready once all are read and valid. -/
structure Batch where
  nmem : Nat
  seen : List Packet
  ready : Bool
  deriving DecidableEq, Repr

/-- A work queue (R291 to R294). -/
structure WorkQueue where
  no    : Nat
  base  : Word
  vec   : BitVec 11
  key   : BitVec 8
  cls   : BitVec 3
  en    : Bool
  pasid : BitVec 20
  logn  : BitVec 5
  kick  : BitVec 32
  cons  : BitVec 32
  stop  : Bool
  err   : BitVec 8
  idx   : BitVec 8
  pkts  : List Packet
  batch : Option Batch
  repoll : Option (Nat × Nat)
  deriving DecidableEq, Repr

/-- What expansion made of a record (R307): accepted, or rejected. -/
inductive Expanded where
  | ok (r : OpRecord)
  | rejected
  deriving DecidableEq, Repr

/-- An operator chain (R62, R307, R320): its queue and what that queue's WQCFG gave it, its packet, the record expanded
next, the shadow bank, the pipeline in the active bank, and what its completion record will hold: doneAt and ending are the
package time and the STATUS of a completion whose record is not written yet. -/
structure Chain where
  id     : Nat
  queue  : Nat
  pasid  : Nat
  key    : BitVec 8
  cls    : Nat
  vec    : Nat
  tag    : BitVec 32
  nops   : Nat
  irq    : Bool
  cmp    : Word
  next   : Word
  ops    : List OpRecord
  opIdx  : Nat
  shadow : Option Expanded
  active : Option Nat
  done   : Nat
  faulted : Nat
  discarded : Nat
  ud     : Bool
  doneAt : Option Nat
  ending : Option Nat
  deriving DecidableEq, Repr

/-- Whether a stage runs, is stopped, or drains (R334). -/
inductive StageMode where
  | open_ | stopped | draining
  deriving DecidableEq, Repr

/-- A fault record before it is written (R339). -/
structure FaultRec where
  code   : BitVec 8
  ctx    : BitVec 3
  eng    : BitVec 3
  rep    : Option (BitVec 6)
  stage  : BitVec 4
  member : BitVec 6
  first  : BitVec 6
  peer   : Bool
  vcore  : BitVec 6
  pc     : Word
  addr   : Word
  info   : Word
  data   : BitVec 256
  deriving DecidableEq, Repr

/-- A task pending again after parking, with the reservations it kept (R67). -/
structure Replay where
  record : TaskRec
  resv   : List Resv
  deriving DecidableEq, Repr

/-- The pre-emption state of a pipeline (R344 to R346). -/
inductive PreState where
  | none | stopping | stopped | resuming
  deriving DecidableEq, Repr

/-- What pre-emption saved of one member of a pool (R72, R344): its stage and virtual core number, its task if it ran
one, its lead core, of every further member its stores, and the saved member that its drain port feeds. -/
structure Saved where
  stage : Nat
  vnum  : Nat
  task  : Option Task
  at_   : CoreRef
  lead  : Core
  members : List Stores
  partner : Option Nat
  deriving DecidableEq, Repr

/-- A member of a stage's pool: its lead or only core (R49, R309), how many samples still bar it from moving (R330), and the
virtual core number by which remote maps know it (R363). -/
structure Member where
  stage : Nat
  at_   : CoreRef
  moved : Nat
  vnum  : Nat
  deriving DecidableEq, Repr

/-- A running operator (R60, R61). vdtab is the table that its tasks receive, bound as it stood before any fence (R24,
R306). seeds holds the seed records that have not been read, as stage and number; tmplDue the stages whose template has not
been. -/
structure Pipe where
  id     : Nat
  chain  : Nat
  queue  : Nat
  handle : Word
  key    : BitVec 8
  pasid  : Nat
  lcls   : Nat
  record : OpRecord
  vdtab  : Word
  bound  : Word
  events : BitVec 64
  closed : BitVec 32
  pool   : List Member
  seeds  : List (Nat × Nat)
  seedRecs : List (Nat × Nat × TaskRec)
  tmpls  : List (Nat × TaskRec)
  tmplDue : List Nat
  replays : List Replay
  modes  : List StageMode
  shut   : Option (BitVec 8)
  faults : List FaultRec
  written : Nat
  dropped : Nat
  retired : Nat
  faulted : Nat
  discarded : Nat
  ud     : Bool
  ended  : Bool
  coreRep : List CoreRef
  dieRep  : List (Fin 6)
  pre    : PreState
  saved  : List Saved
  mark   : Option (Nat × Nat)
  sampleAt : Nat
  gangs  : Nat
  gbarDone : List (Nat × CtxName × Nat)
  deriving DecidableEq, Repr

/-- A request to the Sett (R308, R309, R314); resAt orders the requests that hold a reservation. -/
structure SettReq where
  pipe  : Nat
  stage : Nat
  cls   : Nat
  count : Nat
  lcls  : Nat
  since : Nat
  order : Nat
  reserved : List (Fin 6)
  resAt : Nat
  deriving DecidableEq, Repr

/-- The front end, the Sett and the host's interrupts (R291 to R321). -/
structure FrontEnd where
  queues : List WorkQueue
  chains : List Chain
  pipes  : List Pipe
  reqs   : List SettReq
  nextId : Nat
  order  : Nat
  irqs   : List Nat
  deriving DecidableEq, Repr

/-! ## Management, fabric, flash -/

/-- An error-log entry (R347). -/
structure LogRec where
  code : BitVec 8
  slice : BitVec 4
  site : BitVec 3
  dla  : Nat
  time : Nat
  count : Nat
  deriving DecidableEq, Repr

/-- The management registers of R373 that hold a value, less those of queues and fabric. msix lists the bytes of the MSI-X
table, msixPend the vectors that are pending (R372; log 103). slotRuns says that the firmware of slot has started since the
last reset, so that it runs in recovery too (R374, R385). wakeAt is the tick of the oldest wake of a bank or way that has not
ended (R101). ecc holds, by source, the tick of its last entry of code 0x40 and how many corrected errors came since (R347). -/
structure Mgmt where
  mode    : BitVec 3
  slot    : Bool
  slotRuns : Bool
  degr    : BitVec 8
  featAcc : BitVec 128
  featDone : Bool
  featErr : Bool
  settAge : BitVec 16
  stubAge : BitVec 16
  lastHandle : Option Word
  plq     : Option Word
  pgstat  : Word
  keydata : BitVec 512
  powercap : BitVec 16
  mhz     : Nat
  gateErr : Bool
  gateBusy : Option Word
  wakeAt  : Option Nat
  mailbox : List (Nat × Byte)
  mailFree : Option Nat
  nonce   : BitVec 256
  msix    : List (Nat × Byte)
  msixPend : List Nat
  ecc     : List (Nat × Nat × Nat)
  errCnt  : Nat
  log     : List LogRec
  deriving DecidableEq, Repr

/-- The fabric as this package holds it (R357 to R371). switching lasts from a slice boundary until the pipelines that
it pre-empts have stopped, and names them (R370). -/
structure Fabric where
  pkg     : Nat
  routes  : List (Nat × Word)
  up      : Word
  rwbuf   : List RemoteWrite
  ftime   : Nat
  ftimeAt : Nat
  lock    : Bool
  grandmaster : BitVec 12
  sliceEn : Bool
  sliceN  : BitVec 4
  sliceLen : BitVec 16
  slEpoch : Word
  slKeys  : BitVec 128
  sliceNo : Option Nat
  switching : Option (List Nat)
  netslot : BitVec 256
  netslotNow : BitVec 256
  tidx    : BitVec 1024
  deriving DecidableEq, Repr

/-- Flash (R380 to R383): slots, marker copies, the last journal record of each step (true: done) and the steps kept
in their conservative form, and the blob's fields (log 8). Step 3 keeps one journal record per site, as 8 + site. -/
structure Flash where
  slotA   : List (Nat × Byte)
  slotB   : List (Nat × Byte)
  m0      : BitVec 128
  m1      : BitVec 128
  journal : List (Nat × Bool)
  conservative : List Nat
  blobSites : BitVec 6
  blobPkg : Nat
  blobFeat : BitVec 128
  blobTimings : Word
  blobPower : Word
  powered : Bool
  deriving DecidableEq, Repr

/-- What an ECC error strikes (R348): a line at its home, a die's copy of a line, a scratchpad row of a core, a row of one
of its accumulator banks. -/
inductive EccUnit where
  | line (l : Nat)
  | copy (site : Fin 6) (l : Nat)
  | row (r : CoreRef) (row : Nat)
  | bank (r : CoreRef) (b : Bool) (row : Nat)
  deriving DecidableEq, Repr

/-- Who moves next (log 3): a context issues in its slot; a context's n-th outstanding access performs at die scope; an
engine's running command performs its n-th remaining write; the entry at the head of a queue starts; an event of the opcode
table happens; the host port reads or writes memory; a fabric port takes in an access of another package, or one that a home
elsewhere relays to a slice here, with its forward count; a home accepts one that the port relayed; a die of another package
acknowledges a forced publish; another package pins or unpins a page homed here for a command (R367); an ECC error is
corrected, or is not; the destination of a page's migration has no space or no key, or its copy engine faults; the side log
of a core, or of a saved member of a pipeline, goes on. -/
inductive Turn where
  | issue (c : CtxRef)
  | perform (c : CtxRef) (n : Nat)
  | land (r : CoreRef) (e : BitVec 3) (n : Nat)
  | start (r : CoreRef) (e : BitVec 3)
  | event (i : Instr)
  | hostWrite (dla size : Nat) (data : Word)
  | hostRead (dla : Nat)
  | inward (port : Fin 64) (via : Option (Fin 12 × Nat)) (dla : Nat) (op : InwardOp)
  | inwardDone (port : Fin 64) (page : Nat)
  | inwardPublished (port : Fin 64) (line : Nat)
  | remotePin (page : Nat)
  | remoteUnpin (page : Nat)
  | ecc (corrected : Bool) (u : EccUnit)
  | migNoSpace (page : Nat)
  | migCopyFault (page : Nat)
  | replay (r : CoreRef)
  | replaySaved (pipe n : Nat)
  deriving DecidableEq, Repr

/-- The whole machine. now counts ticks of 1/336,000 us, of which a clk is 160 and a bclk 210 (R7). cur is the context
whose instruction is being executed; free counts the free values drawn (log 7). -/
structure State where
  now    : Nat
  cur    : CtxRef
  agenda : List Turn
  free   : Nat
  dies   : Vector Die 6
  homes  : Homes
  fe     : FrontEnd
  mgmt   : Mgmt
  fab    : Fabric
  flash  : Flash
  deriving DecidableEq, Repr

/-! ## Reset -/

/-- A context with no task (log 1). -/
def Context.reset : Context where
  pc := 0
  x := Vector.replicate 32 0
  k := Vector.replicate 8 0
  vdtab := 0
  status := .stopped
  entry := 0
  inputs := 0
  arrived := false
  nextInputs := 0
  semTakes := []
  gbar := 0
  gbarAtEntry := 0
  rep := none
  mon := ⟨none, false⟩
  heldShape := none
  begun := none
  joining := none
  frozen := false
  fresh := true
  word := none
  out := []
  seq := 0

/-- The vector state at reset: the reset columns of R143, R149, R150 and R170, else log 1. -/
def VectorFile.reset : VectorFile where
  v := Vector.replicate 56 0
  m := Vector.replicate 8 0
  vtype := 0
  vstat := 0
  lfsr := 1
  am := Vector.replicate 16 0
  ppuN := 1
  ppu := [⟨0, 0, 0, 0, 0⟩]
  ppuSet := false

/-- The stores of a core at reset (log 2). -/
def Stores.reset : Stores where
  rows := []
  bankA := []
  bankB := []
  acc := []
  dirtyA := false
  dirtyB := false
  poison := []
  poisonA := []
  poisonB := []
  gated := 0
  waking := 0

/-- A ring instance at reset (R85, R86). -/
def RingInst.reset : RingInst := ⟨0, 0, 0, 0, 0, 0⟩

/-- A core at reset. -/
def Core.reset : Core where
  l := Context.reset
  c := Context.reset
  s := Context.reset
  vf := VectorFile.reset
  h := Vector.replicate 16 0
  lq := Vector.replicate 4 []
  sq := Vector.replicate 4 []
  sem := Vector.replicate 64 0
  cnt := Vector.replicate 256 0
  st := Stores.reset
  rings := Vector.replicate 32 RingInst.reset
  eng := Vector.replicate 6 []
  engFree := Vector.replicate 6 0
  linkOut := none
  linkIn := none
  kids := []
  task := none
  snap := ⟨0, 1, 1, [⟨0, 0, 0, 0, 0⟩], false⟩
  closed := false
  icache := []
  xlat := []
  sideLog := []
  lastIssue := none
  pushes := 0

/-- A die at reset (R32, R313, R316). -/
def Die.reset : Die where
  present := true
  fenced := false
  layout := 0
  cores := Vector.replicate 8 Core.reset
  strips := Vector.replicate 8 .free
  stripOwner := Vector.replicate 8 none
  coreOwner := Vector.replicate 8 none
  leases := []
  cache := []
  badLines := []
  buf := []
  rels := []
  owners := []
  relayed := []
  engReqs := []
  xlat := []
  gated := 0
  waking := 0
  t0 := 0
  training := false
  grantAt := none
  fencedAt := 0

/-- The home slices at reset (R281; log 1, log 2). -/
def Homes.reset : Homes where
  mem := ⟨[], [], none⟩
  llc := []
  poison := []
  suspect := []
  notes := []
  awayNotes := []
  snoops := []
  full := []
  parked := []
  pins := []
  remotePins := []
  recs := []
  migs := []
  stubs := []
  redirects := []
  portOwners := []
  portHeld := []
  pageOwner := []
  keys := [(0, 0)]
  seals := []
  ats := []
  pri := []
  refused := []
  invals := []
  feXlat := []
  gatedLlc := []
  wakingLlc := []
  fenceDue := []
  lost := []
  watches := []

/-- The management registers at reset (R373 to R375, R389). -/
def Mgmt.reset : Mgmt where
  mode := 0
  slot := false
  slotRuns := false
  degr := 0
  featAcc := 0
  featDone := false
  featErr := false
  settAge := 64
  stubAge := 1000
  lastHandle := none
  plq := none
  pgstat := 0
  keydata := 0
  powercap := 7500
  mhz := 2100
  gateErr := false
  gateBusy := none
  wakeAt := none
  mailbox := []
  mailFree := none
  nonce := 0
  msix := []
  msixPend := []
  ecc := []
  errCnt := 0
  log := []

/-- The fabric state at reset (R358, R369, R371). -/
def Fabric.reset : Fabric where
  pkg := 0
  routes := []
  up := 0
  rwbuf := []
  ftime := 0
  ftimeAt := 0
  lock := false
  grandmaster := 0
  sliceEn := false
  sliceN := 0
  sliceLen := 0x07D0
  slEpoch := 0
  slKeys := 0
  sliceNo := none
  switching := none
  netslot := BitVec.allOnes 256
  netslotNow := BitVec.allOnes 256
  tidx := BitVec.allOnes 1024

/-- Flash as the package is delivered (log 8): the blob enables six sites and offers features 0 to 6. -/
def Flash.reset : Flash where
  slotA := []
  slotB := []
  m0 := 0
  m1 := 0
  journal := []
  conservative := []
  blobSites := 0x3F
  blobPkg := 0
  blobFeat := 0x7F
  blobTimings := 0
  blobPower := 0
  powered := true

/-- The machine right after reset. -/
def State.reset : State where
  now := 0
  cur := ⟨⟨0, 0⟩, .load⟩
  agenda := []
  free := 0
  dies := Vector.replicate 6 Die.reset
  homes := Homes.reset
  fe := ⟨[], [], [], [], 0, 0, []⟩
  mgmt := Mgmt.reset
  fab := Fabric.reset
  flash := Flash.reset

end Sys2Proof.Machine
end

