-- ==== Sys2Proof/Machine/Ops.lean ====
section
/-! DEFINITION. The named operations over the state: accessors, global memory, scratchpad rows, ring instances,
translation, pins, homes, and taking a task fault (R338). -/

namespace Sys2Proof.Machine

/-! ## Accessors -/

/-- The die at a site. -/
def State.die (s : State) (i : Fin 6) : Die := s.dies[i]

/-- Change one die. -/
def State.updDie (s : State) (i : Fin 6) (f : Die → Die) : State := { s with dies := s.dies.set i (f s.dies[i]) }

/-- A core. -/
def State.core (s : State) (r : CoreRef) : Core := (s.die r.site).cores[r.core]

/-- Change one core of a die. -/
def Die.updCore (d : Die) (i : Fin 8) (f : Core → Core) : Die := { d with cores := d.cores.set i (f d.cores[i]) }

/-- Change one core. -/
def State.updCore (s : State) (r : CoreRef) (f : Core → Core) : State := s.updDie r.site fun d => d.updCore r.core f

/-- A context of a core. -/
def Core.ctx (c : Core) : CtxName → Context
  | .load => c.l
  | .compute => c.c
  | .store => c.s

/-- Change one context of a core. -/
def Core.updCtx (c : Core) (n : CtxName) (f : Context → Context) : Core :=
  match n with
  | .load => { c with l := f c.l }
  | .compute => { c with c := f c.c }
  | .store => { c with s := f c.s }

/-- Change all three contexts of a core. -/
def Core.updCtxs (c : Core) (f : Context → Context) : Core := { c with l := f c.l, c := f c.c, s := f c.s }

/-- A context. -/
def State.ctx (s : State) (c : CtxRef) : Context := (s.core c.at_).ctx c.ctx

/-- Change one context. -/
def State.updCtx (s : State) (c : CtxRef) (f : Context → Context) : State := s.updCore c.at_ fun k => k.updCtx c.ctx f

/-- The context whose instruction is executed. -/
def State.me (s : State) : Context := s.ctx s.cur

/-- The core whose context executes. -/
def State.myCore (s : State) : Core := s.core s.cur.at_

/-- Change the executing context. -/
def State.updMe (s : State) (f : Context → Context) : State := s.updCtx s.cur f

/-- Change the executing context's core. -/
def State.updMyCore (s : State) (f : Core → Core) : State := s.updCore s.cur.at_ f

/-- Change the home slices. -/
def State.updHomes (s : State) (f : Homes → Homes) : State := { s with homes := f s.homes }

/-- Change the front end. -/
def State.updFe (s : State) (f : FrontEnd → FrontEnd) : State := { s with fe := f s.fe }

/-- The contexts of a core in the order L, C, S. -/
def ctxNames : List CtxName := [.load, .compute, .store]

/-- The code of a context (R339). -/
def ctxCode : CtxName → Nat
  | .load => 0
  | .compute => 1
  | .store => 2

/-- All sites. -/
def sites : List (Fin 6) := [0, 1, 2, 3, 4, 5]

/-- All cores of a die. -/
def coreIdxs : List (Fin 8) := [0, 1, 2, 3, 4, 5, 6, 7]

/-- All cores of the package, by site and index. -/
def allCores : List CoreRef := sites.flatMap fun i => coreIdxs.map fun c => ⟨i, c⟩

/-- Read a scalar register; x0 reads 0 (R168). -/
def Context.rd (c : Context) (r : BitVec 5) : Word := if r = 0 then 0 else c.x[r.toFin]

/-- Write a scalar register; a write to x0 is discarded (R181). -/
def Context.wr (c : Context) (r : BitVec 5) (v : Word) : Context := if r = 0 then c else { c with x := c.x.set r.toFin v }

/-- Read a scalar register of the executing context. -/
def State.rx (s : State) (r : BitVec 5) : Word := s.me.rd r

/-- Write a scalar register of the executing context. -/
def State.wx (s : State) (r : BitVec 5) (v : Word) : State := s.updMe fun c => c.wr r v

/-- The running operator of a pipeline number. -/
def State.pipe? (s : State) (id : Nat) : Option Pipe := s.fe.pipes.find? fun p => p.id == id

/-- Change a pipeline. -/
def State.updPipe (s : State) (id : Nat) (f : Pipe → Pipe) : State :=
  s.updFe fun e => { e with pipes := mapIf (fun p => p.id == id) f e.pipes }

/-- The pipeline of the task on a core. -/
def State.pipeOf (s : State) (r : CoreRef) : Option Pipe := (s.core r).task.bind fun t => s.pipe? t.pipe

/-- The stage of the task on a core. -/
def State.stageOf (s : State) (r : CoreRef) : Option StageDecl :=
  (s.core r).task.bind fun t => (s.pipe? t.pipe).bind fun p => p.record.stages[t.record.stage]?

/-- The PASID of the task on a core (R75). -/
def State.pasidOf (s : State) (r : CoreRef) : Nat := ((s.pipeOf r).map Pipe.pasid).getD 0

/-- The tag of an instruction-cache word: its address under the PASID of the core's task (log 10). -/
def State.icTag (s : State) (r : CoreRef) (hva : Nat) : Nat := s.pasidOf r * 2 ^ 64 + hva

/-- The word that an instruction cache holds for an address. -/
def State.cached (s : State) (r : CoreRef) (hva : Nat) : Option CtlWord := lookup (s.icTag r hva) (s.core r).icache

/-- Draw a number for a free value (log 7). -/
def State.draw (s : State) : State × Nat := ({ s with free := s.free + 1 }, s.free)

/-! ## Time -/

/-- Ticks of a clk, of a bclk and of a microsecond (R7). -/
def tClk : Nat := 160
def tBclk : Nat := 210
def tUs : Nat := 336000

/-- Let time pass to a tick, never back. -/
def State.at_ (s : State) (t : Nat) : State := { s with now := max s.now t }

/-- The package time (R212). -/
def State.bclk (s : State) : Nat := s.now / tBclk

/-! ## Global memory (R74, R80, R81) -/

/-- What an address reads as that lists nothing (log 2, log 14). -/
def Memory.unlisted (m : Memory) (a : Nat) : Byte :=
  match lookup (a / 4096) m.reassigned with
  | some n => Config.cipherByte n a
  | none => match m.epoch with
    | some n => Config.cipherByte n a
    | none => 0

/-- Read a byte. -/
def Memory.read (m : Memory) (a : Nat) : Byte := (lookup a m.cells).getD (m.unlisted a)

/-- Write a byte, keeping the canonical form. -/
def Memory.write (m : Memory) (a : Nat) (b : Byte) : Memory := { m with cells := putKey (m.unlisted a) a b m.cells }

/-- Write the low n bytes of a word from address a up (R8). -/
def Memory.writeN (m : Memory) (a : Nat) (w : Nat) : Nat → Memory
  | 0 => m
  | n + 1 => (m.write a (BitVec.ofNat 8 w)).writeN (a + 1) (w / 256) n

/-- The number that n bytes from a up make by a byte reader (R8). -/
def bytesNat (rd : Nat → Byte) (a : Nat) : Nat → Nat
  | 0 => 0
  | n + 1 => (rd a).toNat + 256 * bytesNat rd (a + 1) n

/-- The contents of 4 KiB become free. -/
def Memory.freePage (m : Memory) (p n : Nat) : Memory where
  cells := m.cells.filter fun c => c.1 / 4096 != p
  reassigned := insertKey p n m.reassigned
  epoch := m.epoch

/-- The canonical form: addresses strictly rising, no entry equal to what an unlisted address reads as. -/
def cellsOk (m : Memory) : List Host.Cell → Bool
  | [] => true
  | [(a, b)] => b != m.unlisted a
  | (a, b) :: (a', b') :: t => b != m.unlisted a && decide (a < a') && cellsOk m ((a', b') :: t)

/-- Memory stands in its canonical form. -/
def Memory.wf (m : Memory) : Bool := cellsOk m m.cells

/-- The package of a DLA (R74). -/
def dlaPkg (a : Nat) : Nat := a / 2 ^ 45 % 4096

/-- The line, the 8-byte word and the placement page of a DLA (R81). -/
def lineOf (a : Nat) : Nat := a / 128
def wordOf (a : Nat) : Nat := a / 8
def pageOf (a : Nat) : Nat := a / 65536
def linePage (l : Nat) : Nat := l / 512

/-- The birth home of a placement page (R80). -/
def birthHome (page : Nat) : Home :=
  let q := page % 2 ^ 29
  let g := Nat.xor (Nat.xor q (q >>> 7)) (Nat.xor (q >>> 14) (q >>> 21))
  ⟨page / 2 ^ 29 % 4096, g % 12⟩

/-- The placement record of a page (R82). -/
def Homes.placeRec (h : Homes) (page : Nat) : PlaceRec :=
  (h.recs.find? fun r => r.page == page).getD ⟨page, 0, birthHome page, 0⟩

/-- Replace the placement record of a page. -/
def Homes.setRec (h : Homes) (r : PlaceRec) : Homes := { h with recs := r :: h.recs.filter fun x => x.page != r.page }

/-- The current home of a page (R81). -/
def Homes.curHome (h : Homes) (page : Nat) : Home := (h.placeRec page).cur

/-- The placement pages that a slice's stack holds at the most: 64 GiB (R39). -/
def stackPages : Nat := 1048576

/-- The placement pages that State knows of: those with a listed byte, a placement record, an owner key, a pin. -/
def Homes.knownPages (h : Homes) : List Nat :=
  (h.mem.cells.map (fun c => pageOf c.1) ++ h.recs.map PlaceRec.page ++ h.pageOwner.map Prod.fst ++ h.pins.map Prod.fst).eraseDups

/-- A migration that has begun and not ended. -/
def MigPhase.runs : MigPhase → Bool
  | .copying | .pinWait _ | .switching => true
  | .queued | .ending _ => false

/-- A slice's stack holds as many pages as it can, of those that State knows of and of those that running migrations have
allocated there (R39, R95 step 1, R355; log 108). -/
def Homes.stackFull (h : Homes) (x : Home) : Bool :=
  decide (stackPages ≤ (h.knownPages.filter fun p => h.curHome p == x).length + (h.migs.filter fun m => m.phase.runs && m.dest == x).length)

/-- An accepted feature (R375). -/
def State.feature (s : State) (i : Nat) : Bool := s.mgmt.featDone && bitAt s.mgmt.featAcc i

/-- Whether a package can be reached (R358, R375). -/
def State.reachable (s : State) (p : Nat) : Bool :=
  p == s.fab.pkg || (s.feature 3 && ((getKey 0 p s.fab.routes : Word) &&& s.fab.up) != 0)

/-- The ports of a route-table entry whose links are up, in ascending number. -/
def State.ports (s : State) (pkg : Nat) : List Nat :=
  let w := (getKey 0 pkg s.fab.routes : Word) &&& s.fab.up
  (List.range 64).filter fun k => bitAt w k

/-- The port by which a request to a DLA of another package leaves (R359). -/
def State.portOf (s : State) (dla : Nat) : Option Nat :=
  let l := s.ports (dlaPkg dla)
  l[Nat.xor (dla / 65536 % 2 ^ 29) (dlaPkg dla) % l.length]?

/-- Whether a DLA names a reachable package and carries zeros in bits 63:57 (R74). -/
def State.dlaOk (s : State) (a : Nat) : Bool := decide (a < 2 ^ 57) && s.reachable (dlaPkg a)

/-- Whether a page's current home stands on this package (R94). -/
def State.pageLocal (s : State) (page : Nat) : Bool := (s.homes.curHome page).pkg == s.fab.pkg

/-- The owner key slot of a page (R386). -/
def Homes.owner (h : Homes) (page : Nat) : BitVec 8 := getKey 0 page h.pageOwner

/-- Whether the key slot of a page's owner is empty (R386). -/
def Homes.noKey (h : Homes) (page : Nat) : Bool := (lookup (h.owner page).toNat h.keys).isNone

/-- A byte as its current home holds it (R386). -/
def Homes.byte (h : Homes) (a : Nat) : Byte := if h.noKey (pageOf a) then 0 else h.mem.read a

/-- A write to a line of a page whose lines are being copied marks the line (R95 step 3). -/
def Homes.markLine (h : Homes) (l : Nat) : Homes :=
  { h with migs := mapIf (fun m => m.page == linePage l && m.phase != .queued) (fun m => { m with marked := addNew l m.marked }) h.migs }

/-- Write bytes at their current home (R386). -/
def Homes.put (h : Homes) (a size w : Nat) : Homes :=
  if h.noKey (pageOf a) then h else { h with mem := h.mem.writeN a w size }.markLine (lineOf a)

/-- The number that bytes make at their home. -/
def Homes.getN (h : Homes) (a size : Nat) : Nat := bytesNat h.byte a size

/-! ## Die caches (R92, R105) -/

/-- The state of a line in a die cache. -/
def Die.line (d : Die) (l : Nat) : Option Moesi := lookup l d.cache

/-- Put a line into a die cache. -/
def Die.setLine (d : Die) (l : Nat) (m : Moesi) : Die := { d with cache := insertKey l m d.cache }

/-- Drop a line from a die cache. -/
def Die.dropLine (d : Die) (l : Nat) : Die :=
  { d with cache := eraseKey l d.cache, badLines := d.badLines.filter (· != l) }

/-- A byte of a line held in M; none where the die holds no such line. -/
def Die.mByte (d : Die) (a : Nat) : Option Byte :=
  match d.line (lineOf a) with
  | some (.m data _) => some (byteOf data (a % 128))
  | _ => none

/-- The last write of the list that covers a byte. -/
def bufByte (a : Nat) : List DieWrite → Option Byte
  | [] => none
  | w :: t => match bufByte a t with
    | some b => some b
    | none => if w.dla ≤ a ∧ a < w.dla + w.size then some (byteOf w.data (a - w.dla)) else none

/-- A byte as a die sees it: its writes not yet performed at package scope, its M copy, the home (R105). -/
def State.dieByte (s : State) (i : Fin 6) (a : Nat) : Byte :=
  match bufByte a (s.die i).buf with
  | some b => b
  | none => ((s.die i).mByte a).getD (s.homes.byte a)

/-- The number that bytes make as a die sees them. -/
def State.dieN (s : State) (i : Fin 6) (a size : Nat) : Nat := bytesNat (s.dieByte i) a size

/-- The bytes of an M copy go to the home. -/
def Homes.commit (h : Homes) (l : Nat) (data : LineData) : Homes := h.put (l * 128) 128 data.toNat

/-- What the watch of a JOIN on a line has seen stands on the base. -/
def Context.onBase (l : Nat) (c : Context) : Context :=
  match c.status, c.joining with
  | .waiting (.join _ d), some j => if lineOf d = l then { c with joining := some { j with by_ := none } } else c
  | _, _ => c

/-- The home has the data of a line that a die held in M: a write that a watch has seen there can be lost no more (R116). -/
def State.onBase (s : State) (l : Nat) : State :=
  { s with
    dies := s.dies.map fun d => { d with cores := d.cores.map fun c => c.updCtxs (Context.onBase l) }
    homes := { s.homes with watches := s.homes.watches.map fun w => if lineOf w.dla = l then { w with by_ := none } else w } }

/-- The bytes of an M copy of a die go to their home. -/
def State.commitLine (s : State) (l : Nat) (data : LineData) : State := (s.updHomes fun h => h.commit l data).onBase l

/-- The poison of a die's M copy goes to the home with it (R348). -/
def State.carryPoison (s : State) (i : Fin 6) (l : Nat) : State :=
  if (s.die i).badLines.contains l then s.updHomes fun h => { h with poison := addNew l h.poison } else s

/-- The owning die forwards a line: M becomes O and the home commits (R92). -/
def State.forwardLine (s : State) (i : Fin 6) (l : Nat) : State :=
  match (s.die i).line l with
  | some (.m data _) => ((s.carryPoison i l).updDie i fun d => d.setLine l .o).commitLine l data
  | some .e => s.updDie i fun d => d.setLine l .s
  | _ => s

/-- Every other die's M or E copy of a line is forwarded to a reader (R92). -/
def State.forwardOthers (s : State) (i : Fin 6) (l : Nat) : State :=
  sites.foldl (fun s k => if k = i then s else s.forwardLine k l) s

/-- A die gives up a line, its M data going to the home (R93). -/
def State.recallFrom (s : State) (i : Fin 6) (l : Nat) : State :=
  match (s.die i).line l with
  | some (.m data _) => ((s.carryPoison i l).updDie i fun d => d.dropLine l).commitLine l data
  | some _ => s.updDie i fun d => d.dropLine l
  | none => s

/-- Every die gives up a line. -/
def State.recallLine (s : State) (l : Nat) : State := sites.foldl (fun s k => s.recallFrom k l) s

/-- Whether a die other than i holds a line. -/
def State.heldElsewhere (s : State) (i : Fin 6) (l : Nat) : List (Fin 6) :=
  sites.filter fun k => k != i && ((s.die k).line l).isSome

/-- Whether a snoop on a line is due (R351). -/
def Homes.snoopDue (h : Homes) (l : Nat) : Bool := h.snoops.any fun x => x.line == l

/-- Ask a die for a line, unless it is already asked so: a recall goes behind a forward that is due (R351). -/
def State.addSnoop (s : State) (i : Fin 6) (l : Nat) (fwd : Option (Fin 6)) (release : Bool) : State :=
  if s.homes.snoops.any fun x => x.line == l && x.site == i && x.forward.isSome == fwd.isSome then s
  else s.updHomes fun h => { h with snoops := h.snoops ++ [⟨i, l, s.now, false, fwd, release⟩] }

/-! ## Monitors (R208, R210) -/

/-- A write to a line sets the trigger of a context armed on it. -/
def Context.trigger (l : Nat) (c : Context) : Context :=
  if c.mon.armed = some l then { c with mon := ⟨some l, true⟩ } else c

/-- A write to a line performs at die scope. -/
def State.triggerDie (s : State) (i : Fin 6) (l : Nat) : State :=
  s.updDie i fun d => { d with cores := d.cores.map fun c => c.updCtxs (Context.trigger l) }

/-- The die that holds a line in M. -/
def State.mHolder (s : State) (l : Nat) : Option (Fin 6) :=
  sites.find? fun j => match (s.die j).line l with | some (.m ..) => true | _ => false

/-- The current home reads a byte coherently: the M copy of a die that holds the line, else the home (R92). -/
def State.cohByte (s : State) (a : Nat) : Byte := (sites.findSome? fun i => (s.die i).mByte a).getD (s.homes.byte a)

/-- The number that bytes make at the current home. -/
def State.cohN (s : State) (a size : Nat) : Nat := bytesNat s.cohByte a size

/-- The watch that a home keeps for a JOIN sees a write to a line that makes its word 0 (R279); by_ is the die that alone
holds the write. -/
def Context.watch (l : Nat) (by_ : Option (Fin 6)) (zero : Nat → Bool) (c : Context) : Context :=
  match c.status, c.joining with
  | .waiting (.join _ d), some j =>
    if lineOf d = l ∧ j.watch = some false ∧ zero d then { c with joining := some { j with watch := some true, by_ := by_ } } else c
  | _, _ => c

/-- COND of a word against VALUE (R296). -/
def condMet (cond : Nat) (v w : Word) : Bool :=
  match cond with
  | 0 => v == w
  | 1 => v != w
  | _ => decide (w.toNat ≤ v.toNat)

/-- The watch of a WAIT sees a write to a line that meets its condition (R297). -/
def State.watchHit (s : State) (l : Nat) (w : Watch) : Watch :=
  if lineOf w.dla = l ∧ !w.hit ∧ condMet w.cond (BitVec.ofNat 64 (s.cohN w.dla 8)) w.val then
    { w with hit := true, by_ := s.mHolder l } else w

/-- The watches on a line after a write to it. -/
def State.watchLine (s : State) (l : Nat) : State :=
  { s with
    dies := s.dies.map fun d => { d with cores := d.cores.map fun c => c.updCtxs (Context.watch l (s.mHolder l) fun a => s.cohN a 8 == 0) }
    homes := { s.homes with watches := s.homes.watches.map (s.watchHit l) } }

/-- A write to a line performs at package scope. -/
def State.triggerAll (s : State) (l : Nat) : State := (sites.foldl (fun s i => s.triggerDie i l) s).watchLine l

/-- A release event of R210: a waiting MWAIT ends, and otherwise the monitor is disarmed. -/
def Context.disarm (l : Nat) (c : Context) : Context :=
  if c.mon.armed = some l then { c with mon := ⟨none, c.mon.trigger⟩ } else c

/-- A release event reaches a die's copy of a line. -/
def State.disarmDie (s : State) (i : Fin 6) (l : Nat) : State :=
  s.updDie i fun d => { d with cores := d.cores.map fun c => c.updCtxs (Context.disarm l) }

/-! ## The last-level caches (R16, R39, R81, R101) -/

/-- Lines of one way of a die cache or of a last-level cache: 2 MiB. -/
def wayLines : Nat := 16384

/-- The ways of a slice's last-level cache that are awake. -/
def Homes.llcWays (h : Homes) (sl : Nat) : Nat := 24 - popNat ((getKey 0 sl h.gatedLlc) ||| (getKey 0 sl h.wakingLlc)).toNat 24

/-- An access that would allocate a line stalls: no way of its slice is awake, and some way is waking (R102). -/
def State.llcStall (s : State) (l : Nat) : Bool :=
  let x := s.homes.curHome (linePage l)
  x.pkg == s.fab.pkg && !s.homes.llc.contains l && s.homes.llcWays x.sl == 0 && (getKey 0 x.sl s.homes.wakingLlc : BitVec 24) != 0

/-- A line comes to stand in its slice's last-level cache, as the newest; a full one loses its oldest line, whose data the
stack holds (log 84). -/
def Homes.allocLlc (h : Homes) (l : Nat) : Homes :=
  let x := h.curHome (linePage l)
  let rest := h.llc.filter (· != l)
  let mine := rest.filter fun k => h.curHome (linePage k) == x
  { h with llc :=
      if h.llcWays x.sl = 0 then rest
      else if mine.length < h.llcWays x.sl * wayLines then l :: rest
      else l :: rest.filter fun k => some k != mine.getLast? }

/-- A line homed on this package is served from its slice's last-level cache. -/
def State.touchLlc (s : State) (l : Nat) : State :=
  if s.pageLocal (linePage l) then s.updHomes fun h => h.allocLlc l else s

/-! ## Room for a line (R28, R39, R93, R101) -/

/-- The ways of a die cache that are neither gated nor waking. -/
def Die.awakeWays (d : Die) : Nat := 16 - popNat (d.gated ||| d.waking).toNat 16

/-- Whether a die may allocate a line: its 32 MiB, less the ways that are gated or waking, have room. -/
def Die.canFill (d : Die) : Bool := decide (d.cache.length < d.awakeWays * wayLines)

/-- Every way is gated, none waking: the die caches nothing. -/
def Die.cacheOff (d : Die) : Bool := d.gated == BitVec.allOnes 16

/-- The entries of a slice's snoop filter: the lines homed there that some die holds. -/
def State.filterUsed (s : State) (x : Home) : Nat :=
  ((sites.flatMap fun i => (s.die i).cache.map Prod.fst).filter fun l => s.homes.curHome (linePage l) == x).eraseDups.length

/-- Whether the snoop filter of a line's home has an entry for it: 196,608 lines (R93). -/
def State.filterRoom (s : State) (l : Nat) : Bool :=
  (sites.any fun i => ((s.die i).line l).isSome) || decide (s.filterUsed (s.homes.curHome (linePage l)) < 196608)

/-- Whether a die may hold a line. -/
def State.canCache (s : State) (i : Fin 6) (l : Nat) : Bool :=
  ((s.die i).line l).isSome || ((s.die i).canFill && s.filterRoom l)

/-! ## Accesses at the homes of agents that keep no copy (R91, R92, R351) -/

/-- Whether a home holds back requests to a page: its migration is switching (R95 step 5). -/
def Homes.held (h : Homes) (page : Nat) : Bool := h.migs.any fun m => m.page == page && m.phase == .switching

/-- Nothing at the home holds an access to a line back: its page, a snoop that is due, a waking way. -/
def State.lineOpen (s : State) (l : Nat) : Bool := !s.homes.held (linePage l) && !s.homes.snoopDue l && !s.llcStall l

/-- A read of a line for an agent of die i, or of no die, can perform: it is open, and no other die holds it in M. -/
def State.readClear (s : State) (i : Option (Fin 6)) (l : Nat) : Bool :=
  s.lineOpen l && (match s.mHolder l with | some j => i == some j | none => true)

/-- The home asks the die that holds a line in M to forward it to a reader that keeps no copy. -/
def State.askRead (s : State) (l : Nat) : State :=
  if s.lineOpen l then match s.mHolder l with | some j => s.addSnoop j l (some j) false | none => s else s

/-- A write of a line at its home can perform: it is open, and no die holds a copy. -/
def State.writeClear (s : State) (l : Nat) : Bool := s.lineOpen l && sites.all fun k => ((s.die k).line l).isNone

/-- The home asks every die that holds a line to give it up. -/
def State.askWrite (s : State) (l : Nat) : State :=
  if s.lineOpen l then
    (sites.filter fun k => ((s.die k).line l).isSome).foldl (fun s k => s.addSnoop k l none false) s
  else s

/-- Reads of lines at their homes: they perform when every line is clear; else the home asks (R351). -/
def withReads (s : State) (i : Option (Fin 6)) (ls : List Nat) (k : State → State) : State :=
  if ls.all (s.readClear i) then k s else (ls.filter fun l => !s.readClear i l).foldl State.askRead s

/-- Writes of lines at their homes: they perform when every line is clear; else the home asks. -/
def withWrites (s : State) (ls : List Nat) (k : State → State) : State :=
  if ls.all s.writeClear then k s else (ls.filter fun l => !s.writeClear l).foldl State.askWrite s

/-! ## Routes of a die's requests (R96, R98) -/

/-- Where a die sends a request for a page (R96). -/
def State.sendTo (s : State) (i : Fin 6) (page : Nat) : Home := (lookup page (s.die i).owners).getD (birthHome page)

/-- A request of an engine or a fetch of a die to a page reaches its current home, whose package can be reached: at once, or
after its relays; while another request of the die to that page is relayed, it is held. -/
def State.routed (s : State) (i : Fin 6) (page : Nat) : Bool :=
  s.reachable (s.homes.curHome page).pkg && match lookup page (s.die i).engReqs with
  | some (h, _) => h == s.homes.curHome page
  | none => !(s.die i).relayed.contains page && s.sendTo i page == s.homes.curHome page

/-- A request of a die to a page has been accepted at the current home (R98). -/
def Die.accepted (d : Die) (page : Nat) : Die :=
  { d with relayed := d.relayed.filter (· != page), engReqs := eraseKey page d.engReqs }

/-- Requests of a die to the pages of some lines have been accepted. -/
def State.accept (s : State) (i : Fin 6) (ls : List Nat) : State :=
  s.updDie i fun d => ls.foldl (fun d l => d.accepted (linePage l)) d

/-- Words that some p names are written: the releases that dies noted there stand no longer, but for those whose write a
die has yet to perform, which comes later in the word's order (R106, R115). -/
def State.overwrite (s : State) (p : Nat → Bool) : State :=
  { s with dies := s.dies.map fun d =>
      { d with rels := d.rels.filter fun x => !p x.1 || d.buf.any fun w => wordOf w.dla == x.1 && w.rel.isSome } }

/-- Write bytes at the current home, every die copy recalled first. -/
def State.homeWrite (s : State) (a size w : Nat) : State :=
  ((((s.recallLine (lineOf a)).updHomes fun h => h.put a size w).touchLlc (lineOf a)).overwrite
    fun x => decide (wordOf a ≤ x) && decide (x * 8 < a + size)).triggerAll (lineOf a)

/-- Whether a line is poisoned or suspect (R348, R350). -/
def Homes.poisoned (h : Homes) (l : Nat) : Bool := decide (l ∈ h.poison) || decide (l ∈ h.suspect)

/-- Poison a line. -/
def Homes.addPoison (h : Homes) (l : Nat) : Homes := { h with poison := addNew l h.poison }

/-- A whole line is written: its poison is cleared (R349). -/
def Homes.clearPoison (h : Homes) (l : Nat) : Homes :=
  { h with poison := h.poison.filter (· != l), suspect := h.suspect.filter (· != l) }

/-! ## The error log (R347, R379) -/

/-- Write an entry to the error log. -/
def State.logErr (s : State) (code : Nat) (slice : Nat) (site : Nat) (dla count : Nat) : State :=
  { s with mgmt := { s.mgmt with
      log := s.mgmt.log ++ [⟨BitVec.ofNat 8 code, BitVec.ofNat 4 slice, BitVec.ofNat 3 site, dla, s.bclk, count⟩]
      errCnt := s.mgmt.errCnt + 1 } }

/-- A byte of the MSI-X table: every vector is masked until it is written (R372; log 103). -/
def Mgmt.msixByte (m : Mgmt) (off : Nat) : Byte := getKey (if off % 16 = 12 then 1 else 0) off m.msix

/-- Whether an MSI-X vector is masked: bit 0 of its vector control word (log 103). -/
def Mgmt.masked (m : Mgmt) (v : Nat) : Bool := bitAt (m.msixByte (16 * v + 12)) 0

/-- Raise an MSI-X vector: its message is sent, or it is pending while it is masked (R372; log 103). -/
def State.raiseIrq (s : State) (v : Nat) : State :=
  if s.mgmt.masked v then { s with mgmt := { s.mgmt with msixPend := addNew v s.mgmt.msixPend } }
  else s.updFe fun e => { e with irqs := e.irqs ++ [v] }

/-! ## Pins (R79) -/

/-- Whether one more pin on a page can be taken: the pin table of a package counts the pages homed on it (R79, R367). -/
def Homes.canPin (h : Homes) (pkg page : Nat) : Bool :=
  let here (p : Nat) : Bool := (h.curHome p).pkg == pkg
  match lookup page h.pins with
  | some n => decide (n < 65535)
  | none => !here page || decide ((h.pins.filter fun x => here x.1).length < 65536)

/-- Take a pin. -/
def Homes.pin (h : Homes) (page : Nat) : Homes := { h with pins := insertKey page (getKey 0 page h.pins + 1) h.pins }

/-- Release a pin. -/
def Homes.unpin (h : Homes) (page : Nat) : Homes :=
  let n := getKey 0 page h.pins
  if n ≤ 1 then { h with pins := eraseKey page h.pins } else { h with pins := insertKey page (n - 1) h.pins }

/-- Release several pins. -/
def State.unpin (s : State) (pages : List Nat) : State := s.updHomes fun h => pages.foldl Homes.unpin h

/-- Take several pins one after another, a page named twice twice; none if one cannot be taken. -/
def Homes.pinEach (pkg : Nat) (h : Homes) : List Nat → Option Homes
  | [] => some h
  | p :: t => if h.canPin pkg p then (h.pin p).pinEach pkg t else none

/-- Take several pins, if all can be taken. -/
def State.pinAll (s : State) (pages : List Nat) : Option State := (s.homes.pinEach s.fab.pkg pages).map fun h => { s with homes := h }

/-! ## Scratchpad (R34, R35, R83) -/

/-- The leased fragment that holds a strip: its lead and its strips (R29). -/
def Die.fragOf (d : Die) (i : Fin 8) : Option (Fin 8 × Nat) :=
  d.leases.findSome? fun l => match l.kind with
    | .frag lead n => if lead.val ≤ i.val ∧ i.val < lead.val + n then some (lead, n) else none
    | .bare .. => none

/-- The strips of a fragment class (R29). -/
def clsStrips (c : Nat) : Nat := match c with | 1 => 1 | 2 => 2 | 3 => 4 | 4 => 8 | _ => 0

/-- ROLE of CFRAG (R33). -/
def State.role (s : State) (r : CoreRef) : Nat :=
  if ((s.stageOf r).map StageDecl.cls).getD 0 ≠ 0 then 1
  else if ((s.die r.site).fragOf r.core).isSome then 2 else 0

/-- The strips of the fragment of the task on a core; 0 for a bare task. -/
def State.strips (s : State) (r : CoreRef) : Nat := if s.role r = 1 then (((s.die r.site).fragOf r.core).map Prod.snd).getD 1 else 0

/-- The first row beyond the task's rows (R34, R35). -/
def State.rowLimit (s : State) (r : CoreRef) : Nat :=
  match s.role r with
  | 1 => 2048 + 30720 * s.strips r
  | 2 => 2048
  | _ => 32768

/-- The core j places south. -/
def coreSouth (r : CoreRef) (j : Nat) : CoreRef := ⟨r.site, Fin.ofNat 8 (r.core.val + j)⟩

/-- Where a row of a task's numbering stands: a core and its own row (R34). -/
def rowAt (r : CoreRef) (row : Nat) : CoreRef × Nat :=
  if row < 32768 then (r, row) else (coreSouth r ((row - 2048) / 30720), 2048 + (row - 2048) % 30720)

/-- Read a row of a core's own scratchpad. -/
def Core.row (c : Core) (i : Nat) : Row := getKey 0 i c.st.rows

/-- Write a row of a core's own scratchpad; the write clears its poison (R349). -/
def Core.setRow (c : Core) (i : Nat) (v : Row) : Core :=
  { c with st := { c.st with rows := putKey 0 i v c.st.rows, poison := c.st.poison.filter (· != i) } }

/-- The bank of an own row; private rows have none (R27). -/
def bankOfRow (i : Nat) : Option Nat := if i < 2048 then none else some ((i - 2048) % 16)

/-- Whether an own row stands in a bank that is gated or waking (R101). -/
def Core.rowStalled (c : Core) (i : Nat) : Bool :=
  match bankOfRow i with
  | none => false
  | some b => bitAt c.st.gated b || bitAt c.st.waking b

/-- An access starts the wake of a gated bank (R102). -/
def Core.wakeRow (c : Core) (i : Nat) : Core :=
  match bankOfRow i with
  | none => c
  | some b => if bitAt c.st.gated b then
      { c with st := { c.st with gated := setFld c.st.gated b 1 0, waking := setFld c.st.waking b 1 1 } } else c

/-- Read a row in a task's numbering. -/
def State.row (s : State) (r : CoreRef) (row : Nat) : Row := let (k, i) := rowAt r row; (s.core k).row i

/-- Write a row in a task's numbering. -/
def State.setRow (s : State) (r : CoreRef) (row : Nat) (v : Row) : State := let (k, i) := rowAt r row; s.updCore k fun c => c.setRow i v

/-- Whether a row in a task's numbering is poisoned. -/
def State.rowPoisoned (s : State) (r : CoreRef) (row : Nat) : Bool := let (k, i) := rowAt r row; decide (i ∈ (s.core k).st.poison)

/-- Whether a row in a task's numbering stalls. -/
def State.rowStalled (s : State) (r : CoreRef) (row : Nat) : Bool := let (k, i) := rowAt r row; (s.core k).rowStalled i

/-- A wake begins: the oldest one under way bounds the rest of all (R101; log 115). -/
def State.waking (s : State) : State := { s with mgmt := { s.mgmt with wakeAt := some (s.mgmt.wakeAt.getD s.now) } }

/-- An access to an own row of a core starts the wake of its bank (R102). -/
def State.wakeOwn (s : State) (r : CoreRef) (i : Nat) : State := (s.updCore r fun c => c.wakeRow i).waking

/-- Start the wake of the bank of a row in a task's numbering. -/
def State.wakeRow (s : State) (r : CoreRef) (row : Nat) : State := let (k, i) := rowAt r row; s.wakeOwn k i

/-! ## Ring instances (R85 to R90) -/

def RingInst.valid (g : RingInst) : Bool := bitAt g.w0 63
def RingInst.rem (g : RingInst) : Bool := bitAt g.w0 62
/-- The slot count, NSLOT + 1. -/
def RingInst.slots (g : RingInst) : Nat := fld g.w0 48 8 + 1
/-- The rows of a slot, SROW + 1. -/
def RingInst.rowsPer (g : RingInst) : Nat := fld g.w0 42 6 + 1
def RingInst.base (g : RingInst) : Nat := fld g.w0 22 18

/-- Index and phase of a pointer (R86). -/
def ptrIdx (p : BitVec 9) : Nat := fld p 0 8
def ptrPhase (p : BitVec 9) : Bool := bitAt p 8

/-- advance(p) of R86. -/
def RingInst.advance (g : RingInst) (p : BitVec 9) : BitVec 9 :=
  if ptrIdx p + 1 = g.slots then BitVec.ofNat 9 (if ptrPhase p then 0 else 256) else p + 1

/-- ext(p) of R86. -/
def RingInst.ext (g : RingInst) (p : BitVec 9) : Nat := (if ptrPhase p then g.slots else 0) + ptrIdx p

/-- dist(a, b) of R86. -/
def RingInst.dist (g : RingInst) (a b : BitVec 9) : Nat := (g.ext b + 2 * g.slots - g.ext a) % (2 * g.slots)

/-- The free, unreserved slots (R86). -/
def RingInst.free (g : RingInst) : Nat := g.slots - g.dist g.head g.resv

/-- The instance is empty (R86). -/
def RingInst.empty (g : RingInst) : Bool := g.head == g.claim && g.claim == g.tail && g.tail == g.resv

/-- Advance a pointer n times. -/
def RingInst.advanceN (g : RingInst) (p : BitVec 9) : Nat → BitVec 9
  | 0 => p
  | n + 1 => g.advanceN (g.advance p) n

/-- The while loop of R87, over at most n slots. -/
def RingInst.advTail (g : RingInst) : Nat → RingInst
  | 0 => g
  | n + 1 =>
    if g.tail ≠ g.resv ∧ bitAt g.rb (ptrIdx g.tail) ≠ ptrPhase g.tail then
      ({ g with tail := g.advance g.tail } : RingInst).advTail n
    else g

/-- Publish a slot and advance TAIL (R87, R88). -/
def RingInst.publish (g : RingInst) (p : BitVec 9) : RingInst :=
  ({ g with rb := setFld g.rb (ptrIdx p) 1 (if ptrPhase p then 0 else 1) } : RingInst).advTail g.slots

/-- Reserve the slot at RESV. -/
def RingInst.reserve (g : RingInst) : RingInst := { g with resv := g.advance g.resv }

/-- Reserve n slots: the pointers taken and the instance after. -/
def RingInst.reserveN (g : RingInst) : Nat → List (BitVec 9) × RingInst
  | 0 => ([], g)
  | n + 1 => let (l, g') := g.reserve.reserveN n; (g.resv :: l, g')

/-- Word 1 of the descriptor (R86). -/
def RingInst.w1 (g : RingInst) : Word :=
  BitVec.ofNat 64 (g.head.toNat + g.claim.toNat * 2 ^ 9 + g.tail.toNat * 2 ^ 18 + g.resv.toNat * 2 ^ 27)

/-- The first row of a slot (R85). -/
def RingInst.slotRow (g : RingInst) (i : Nat) : Nat := g.base + i * g.rowsPer

/-- The instance after word 0 is written: its ready bits are 0 (R87). The spec does not say what an RCFG makes of the four
pointers of word 1: the model makes them 0. DESIGN CHOICE (log 121). -/
def RingInst.define (w0 : Word) : RingInst := ⟨w0, 0, 0, 0, 0, 0⟩

/-- An instance of a core. -/
def Core.ring (c : Core) (n : Nat) : RingInst := c.rings[Fin.ofNat 32 n]

/-- Change an instance of a core. -/
def Core.updRing (c : Core) (n : Nat) (f : RingInst → RingInst) : Core :=
  { c with rings := c.rings.set (Fin.ofNat 32 n) (f c.rings[Fin.ofNat 32 n]) }

/-- The rows of an instance, first and one past the last. -/
def RingInst.extent (g : RingInst) : Nat × Nat := (g.base, g.base + g.slots * g.rowsPer)

/-- Whether word 0 gives a well-formed instance, given the limit of the core's rows and its other instances (R85). -/
def ringOk (w0 : Word) (limit : Nat) (others : List RingInst) : Bool :=
  let g := RingInst.define w0
  fld w0 56 6 == 0 && fld w0 40 2 == 0 && fld w0 0 22 == 0 && fld w0 48 8 != 0 && decide (2048 ≤ g.base) &&
  decide (g.extent.2 ≤ limit) &&
  others.all fun o => !o.valid || decide (o.extent.2 ≤ g.extent.1) || decide (g.extent.2 ≤ o.extent.1)

/-- A ring of a pipeline closes when a token becomes visible (R332, R333): slot index and row 0's first word. -/
def tokenVisible (eos : Word) (row0 : Row) : Bool := eos != 0 && fld row0 0 64 == eos.toNat

/-- The slot indices that TAIL passes between two pointers. -/
def RingInst.passed (g : RingInst) (a b : BitVec 9) : List Nat :=
  (List.range (g.dist a b)).map fun k => ptrIdx (g.advanceN a k)

/-- Publish a slot of an instance on a core for a pipeline: TAIL, and the ring's closing (R87, R332, R333). -/
def State.publish (s : State) (pipe : Nat) (ring : Nat) (at_ : CoreRef) (p : BitVec 9) : State :=
  let g := (s.core at_).ring ring
  let g' := g.publish p
  let s := s.updCore at_ fun c => c.updRing ring fun _ => g'
  match s.pipe? pipe with
  | none => s
  | some pi =>
    if (g'.passed g.tail g'.tail).any fun i => tokenVisible pi.record.eos (s.row at_ (g.slotRow i)) then
      s.updPipe pipe fun q => { q with closed := setFld q.closed ring 1 1 }
    else s

/-- A task's reservation on a ring. -/
def Task.resvOn (t : Task) (ring : Nat) : Option Resv := t.resv.find? fun r => r.ring == ring

/-- A task's unpopped claims on a ring (R84). -/
def Task.claimsOn (t : Task) (ring : Nat) : Nat := getKey 0 ring t.claims

/-- Change the task of a core. -/
def State.updTask (s : State) (r : CoreRef) (f : Task → Task) : State :=
  s.updCore r fun c => { c with task := c.task.map f }

/-- Change a task's reservation on a ring. -/
def Task.updResv (t : Task) (ring : Nat) (f : Resv → Resv) : Task := { t with resv := mapIf (fun r => r.ring == ring) f t.resv }

/-- Whether a row among the first n of slot i of an instance stands in a gated or waking bank (R101). -/
def State.slotStalled (s : State) (at_ : CoreRef) (g : RingInst) (i n : Nat) : Bool :=
  (List.range n).any fun k => s.rowStalled at_ (g.slotRow i + k)

/-- Start the wake of the banks of the first n rows of slot i of an instance (R102). -/
def State.wakeSlot (s : State) (at_ : CoreRef) (g : RingInst) (i n : Nat) : State :=
  (List.range n).foldl (fun s k => s.wakeRow at_ (g.slotRow i + k)) s

/-- An RWRITE is applied to an instance with a free slot: reserve, write the rows, publish, in one step (R90). -/
def State.applyWrite (s : State) (pipe : Nat) (at_ : CoreRef) (w : RemoteWrite) : State :=
  let ring := w.ring.val
  let g := (s.core at_).ring ring
  let s := s.updCore at_ fun c => c.updRing ring RingInst.reserve
  let s := (w.rows.zipIdx).foldl (fun s x => s.setRow at_ (g.slotRow (ptrIdx g.resv) + x.2) x.1) s
  s.publish pipe ring at_ g.resv

/-- Whether a write names the instance of a ring on a core (R362, R363); from the pre-emption of its pipeline on to the
resumption no write goes into the instance of a member (R366). -/
def Pipe.namedBy (p : Pipe) (at_ : CoreRef) (ring : Nat) (w : RemoteWrite) : Bool :=
  p.pre == .none && w.handle == p.handle && w.ring.val == ring && p.pool.any fun m => m.at_ == at_ && m.vnum == w.vcore.toNat

/-- The ring unit's work after slots of an instance become free: the oldest write that waits for the instance is
applied, and so on, over at most n writes (R365). -/
def State.applyWaiting (s : State) (at_ : CoreRef) (ring : Nat) : Nat → State
  | 0 => s
  | n + 1 =>
    let g := (s.core at_).ring ring
    match s.fe.pipes.findSome? fun p => (s.fab.rwbuf.find? fun w => p.namedBy at_ ring w).map fun w => (p.id, w) with
    | some (p, w) =>
      if g.rem && g.valid && decide (0 < g.free) then
        if s.slotStalled at_ g (ptrIdx g.resv) w.rows.length then s.wakeSlot at_ g (ptrIdx g.resv) w.rows.length else
        let s := s.applyWrite p at_ w
        ({ s with fab := { s.fab with rwbuf := s.fab.rwbuf.erase w } } : State).applyWaiting at_ ring n
      else s
    | none => s

/-- Pop the slot at HEAD (R87, R88). -/
def State.popSlot (s : State) (r : CoreRef) (ring : Nat) : State :=
  let s := s.updCore r fun c => c.updRing ring fun g => { g with head := g.advance g.head }
  let s := s.updTask r fun t => { t with claims := mapIf (fun x => x.1 == ring) (fun x => (x.1, x.2 - 1)) t.claims }
  s.applyWaiting r ring s.fab.rwbuf.length

/-- Pop n slots. -/
def State.popSlots (s : State) (r : CoreRef) (ring : Nat) : Nat → State
  | 0 => s
  | n + 1 => (s.popSlot r ring).popSlots r ring n

/-! ## Translation (R75 to R78) -/

/-- Whether a translation serves an access. -/
def Xlat.serves (x : Xlat) (pasid hva : Nat) (wr : Bool) : Bool :=
  x.pasid == pasid && hva / 2 ^ x.lg == x.hva / 2 ^ x.lg && (x.wr || !wr)

/-- The DLA a translation gives. -/
def Xlat.apply (x : Xlat) (hva : Nat) : Nat := x.dla + hva % 2 ^ x.lg

/-- What a lookup finds: the DLA; a translation request or a page request outstanding; a refusal by the host. -/
inductive XlatRes where
  | hit (dla : Nat)
  | waiting
  | paging
  | refused
  deriving DecidableEq, Repr

/-- The translations that an engine or the front end finds in caches. -/
def State.xlats (s : State) : XlatUser → List Xlat
  | .engine r e => (((s.core r).xlat.filter fun x => x.1 == e).map Prod.snd) ++ (s.die r.site).xlat
  | .frontEnd => s.homes.feXlat

/-- Look a host virtual address up (R76); skip says that a PREFETCH asks. -/
def State.lookupXlat (s : State) (u : XlatUser) (pasid hva : Nat) (wr : Bool) (skip : Bool := false) : XlatRes :=
  match (s.xlats u).find? fun x => x.serves pasid hva wr with
  | some x => .hit (x.apply hva)
  | none =>
    let same (q : XlatReq) : Bool := q == ⟨u, pasid, hva / 4096, wr, skip⟩
    if s.homes.refused.any same then .refused
    else if s.homes.pri.any same then .paging
    else .waiting

/-- Send an ATS request unless one is outstanding (R76). -/
def State.askXlat (s : State) (u : XlatUser) (pasid hva : Nat) (wr : Bool) (skip : Bool := false) : State :=
  let q : XlatReq := ⟨u, pasid, hva / 4096, wr, skip⟩
  if q ∈ s.homes.ats ∨ q ∈ s.homes.pri then s else s.updHomes fun h => { h with ats := h.ats ++ [q] }

/-- Forget a refusal once it has been reported. -/
def State.dropRefused (s : State) (u : XlatUser) (pasid hva : Nat) : State :=
  s.updHomes fun h => { h with refused := h.refused.filter fun q => !(q.user == u && q.pasid == pasid && q.page == hva / 4096) }

/-- Forget the refusals that a user still has to hear of: its accesses have ended. -/
def State.dropRefusals (s : State) (u : XlatUser → Bool) : State :=
  s.updHomes fun h => { h with refused := h.refused.filter fun q => !u q.user }

/-! ## Taking a fault (R337 to R340, R58, R334) -/

/-- What a fault's record says beyond the task (R339). -/
structure FaultInfo where
  code : Nat
  ctx  : Nat
  eng  : Nat
  rep  : Option Nat
  pc   : Word
  addr : Nat
  info : Word
  data : BitVec 256
  deriving DecidableEq, Repr

/-- Fault codes of R337. -/
def fIllegal : Nat := 0x01
def fMisaligned : Nat := 0x02
def fMisCmd : Nat := 0x03
def fShape : Nat := 0x04
def fRange : Nat := 0x05
def fOverrun : Nat := 0x06
def fUnpub : Nat := 0x07
def fOrphan : Nat := 0x08
def fPage : Nat := 0x09
def fUnreach : Nat := 0x0A
def fUnbound : Nat := 0x0B
def fRecord : Nat := 0x0C
def fFull : Nat := 0x0D
def fSemOver : Nat := 0x0E
def fGang : Nat := 0x0F
def fJoinDead : Nat := 0x10
def fShutdown : Nat := 0x11
def fRwRefused : Nat := 0x12
def fTrap : Nat := 0x13
def fBreak : Nat := 0x14
def fPoison : Nat := 0x15
def fFenced : Nat := 0x16

/-- The virtual die bound to a site by a VDTAB value (R21). -/
def vdieOf (vdtab : Word) (site : Nat) : Option Nat :=
  (List.range 8).find? fun i => bitAt vdtab (8 * i + 7) && fld vdtab (8 * i) 3 == site

/-- The virtual core number of a core (R25). -/
def vcoreOf (vdtab : Word) (r : CoreRef) : Nat := ((vdieOf vdtab r.site.val).getD 0) * 8 + r.core.val

/-- The address a fault record gives for a context: that of the REP while it repeats (R199). -/
def Context.faultPc (c : Context) : Word := match c.rep with | some u => u.pc | none => c.pc

/-- The repeat a fault record names. -/
def Context.faultRep (c : Context) : Option Nat := c.rep.map RepUnit.j

/-- The pins a context holds for a load, or for an FGET or a JOIN, that it waits on. -/
def Context.heldPages (c : Context) : List Nat :=
  match c.status with
  | .held l => l.pages
  | .waiting (.home (some d) _) | .waiting (.join _ d) => [pageOf d]
  | _ => []

/-- An access that reads a row into a load queue. -/
def Access.isQld (a : Access) : Bool := match a.op with | .qld .. => true | _ => false

/-- An access has not performed: only a QLD can still stand here after its read, until its row enters its queue (R245). -/
def Access.pending (a : Access) : Bool := match a.op with | .qld _ _ _ _ (some _) => false | _ => true

/-- Whether two class masks share a class. -/
def meets (a b : BitVec 16) : Bool := a &&& b != 0

/-- The outstanding accesses of a context without the FENCEs whose earlier accesses have all performed (R108). -/
def sweepOut (log : List LogEntry) (n : CtxName) : List Access → List Access → List Access
  | _, [] => []
  | before, a :: t =>
    match a.op with
    | .fence m =>
      if before.any (fun b => b.pending && meets b.cls m) ||
         log.any (fun e => e.ctx == n && decide (e.seq < a.seq) && meets e.cls m)
      then a :: sweepOut log n (before ++ [a]) t else sweepOut log n before t
    | _ => a :: sweepOut log n (before ++ [a]) t

/-- Drop the FENCEs of a core's contexts that hold nothing back any more. -/
def Core.sweep (c : Core) : Core :=
  { c with
    l := { c.l with out := sweepOut c.sideLog .load [] c.l.out }
    c := { c.c with out := sweepOut c.sideLog .compute [] c.c.out }
    s := { c.s with out := sweepOut c.sideLog .store [] c.s.out } }

/-- A context stops for good: its waits, its load and its queue reads are abandoned; everything else it issued still
takes effect, in the order that its FENCEs give (R338 steps 1 and 4, R278). -/
def Context.halt (c : Context) : Context :=
  { c with
    status := .stopped
    rep := none
    mon := ⟨none, false⟩
    begun := none
    joining := none
    frozen := false
    out := c.out.filter fun a => !a.isQld }

/-- The pages to which a context's held load has a relayed request (R98). -/
def Context.heldRoute (c : Context) : List Nat :=
  match c.status with
  | .held l => if l.route.isSome then l.words.map fun w => pageOf w.dla else []
  | _ => []

/-- The loads that a core's contexts are held by are abandoned: their pins are released, and their relayed requests hold
nothing back any more. -/
def State.dropHeld (s : State) (r : CoreRef) : State :=
  let c := s.core r
  (s.unpin (c.l.heldPages ++ c.c.heldPages ++ c.s.heldPages)).updDie r.site fun d =>
    { d with relayed := d.relayed.filter fun p => !(c.l.heldRoute ++ c.c.heldRoute ++ c.s.heldRoute).contains p }

/-- An entry has started (R254). -/
def QEntry.started (e : QEntry) : Bool := match e.state with | .started .. => true | _ => false

/-- The pins of the entries that a stop discards. -/
def Core.unstartedPages (c : Core) : List Nat :=
  (c.eng.toList.flatMap fun q => q.filter fun e => !e.started).flatMap QEntry.pages

/-- What every stop of a task does on its core (R338 steps 1 to 3). -/
def Core.halt (c : Core) : Core :=
  { (c.updCtxs Context.halt).sweep with
    lq := Vector.replicate 4 []
    sq := Vector.replicate 4 []
    eng := c.eng.map fun q => q.filter QEntry.started }

/-- Whether nothing of an ended task is left on its core. -/
def Core.quiet (c : Core) : Bool :=
  c.eng.toList.all List.isEmpty && c.l.out.isEmpty && c.c.out.isEmpty && c.s.out.isEmpty && c.sideLog.isEmpty

/-- A faulted task leaves its core once its started commands and issued stores are done (R338). -/
def State.settle (s : State) (r : CoreRef) : State :=
  match (s.core r).task with
  | some t => if t.phase = .faulted ∧ (s.core r).quiet then s.updCore r fun c => { c with task := none } else s
  | none => s

/-- The stages downstream of one, along rings, in at most n steps (R334). -/
def OpRecord.downstream (o : OpRecord) (from_ : List Nat) : Nat → List Nat
  | 0 => from_
  | n + 1 =>
    let next := from_.flatMap fun i => match o.stages[i]? with
      | none => []
      | some d => d.outs.filterMap fun x => o.rings[x.1]?.map Prod.snd
    o.downstream (next.foldl (fun l j => addNew j l) from_) n

/-- Shutdown begins (R334) with a STATUS and the stages that faulted. -/
def Pipe.shutdown (p : Pipe) (status : Nat) (faulted : List Nat) : Pipe :=
  if p.shut.isSome then
    { p with
      modes := p.modes.zipIdx.map fun x => if x.2 ∈ faulted then .stopped else x.1
      replays := p.replays.filter fun t => !(faulted.contains t.record.stage)
      seeds := p.seeds.filter fun x => !(faulted.contains x.1)
      tmplDue := p.tmplDue.filter fun j => !(faulted.contains j) }
  else
    let down := (p.record.downstream faulted 16).filter fun j => !(faulted.contains j)
    { p with
      shut := some (BitVec.ofNat 8 status)
      modes := p.modes.zipIdx.map fun x => if x.2 ∈ down then .draining else .stopped
      replays := p.replays.filter fun t => decide (t.record.stage ∈ down)
      seeds := p.seeds.filter fun x => decide (x.1 ∈ down)
      tmplDue := p.tmplDue.filter fun j => decide (j ∈ down) }

/-- The children of stages that stopped are discarded without counting, those that pre-emption saved as well (R334). -/
def State.dropKids (s : State) (id : Nat) : State :=
  match s.pipe? id with
  | none => s
  | some p =>
    let kept (c : Core) : Core := { c with kids := c.kids.filter fun k => k.pipe != id || p.modes[k.record.stage]? != some .stopped }
    (allCores.foldl (fun s r => s.updCore r kept) s).updPipe id fun p =>
      { p with saved := p.saved.map fun v => { v with lead := kept v.lead } }

/-- A pipeline's shutdown begins or goes on. -/
def State.beginShutdown (s : State) (id status : Nat) (stages : List Nat) : State :=
  if (s.pipe? id).isSome then (s.updPipe id fun p => p.shutdown status stages).dropKids id else s

/-- One task ends as faulted: it stops, its record goes to its pipeline, and it is counted (R338, R339). Of a record with
PEER = 1 the rule gives PC, ADDR, INFO and DATA as 0 and says nothing of CTX, ENG, REPV and REPJ: the model writes 0 there as
well. DESIGN CHOICE (log 129). -/
def State.endTask (s : State) (r : CoreRef) (f : FaultInfo) (first : Option Nat) : State :=
  match (s.core r).task with
  | none => s
  | some t =>
    let vd := (s.core r).c.vdtab
    let rec_ : FaultRec :=
      { code := BitVec.ofNat 8 f.code
        ctx := if first.isSome then 0 else BitVec.ofNat 3 f.ctx
        eng := if first.isSome then 0 else BitVec.ofNat 3 f.eng
        rep := if first.isSome then none else f.rep.map (BitVec.ofNat 6)
        stage := BitVec.ofNat 4 t.record.stage
        member := BitVec.ofNat 6 t.member
        first := BitVec.ofNat 6 (first.getD t.member)
        peer := first.isSome
        vcore := BitVec.ofNat 6 (vcoreOf vd r)
        pc := if first.isSome then 0 else f.pc
        addr := if first.isSome then 0 else BitVec.ofNat 64 f.addr
        info := if first.isSome then 0 else f.info
        data := if first.isSome then 0 else f.data }
    let s := (s.unpin (s.core r).unstartedPages).dropHeld r
    let s := s.updCore r fun c => { c.halt with task := some { t with phase := .faulted } }
    let s := s.updPipe t.pipe fun p => { p with faults := p.faults ++ [rec_], faulted := p.faulted + 1 }
    s.settle r

/-- A task that has not yet faulted. -/
def Task.live (t : Task) : Bool := match t.phase with | .faulted => false | _ => true

/-- The cores of a gang's other members. -/
def State.gangPeers (s : State) (r : CoreRef) (t : Task) : List CoreRef :=
  allCores.filter fun k => k != r && match (s.core k).task with
    | some u => u.pipe == t.pipe && u.gangId == t.gangId && decide (t.gangSize > 1) && u.live
    | none => false

/-- A task that has not yet faulted ends as faulted, and its gang with it (R58); the shutdown is the caller's. -/
def State.endGang (s : State) (r : CoreRef) (f : FaultInfo) : State :=
  match (s.core r).task with
  | none => s
  | some t => if t.live then (s.gangPeers r t).foldl (fun s k => s.endTask k f (some t.member)) (s.endTask r f none) else s

/-- TAKING A FAULT: the task on core r takes a fault, unless it has already taken one (R338); its gang ends with it
(R58), and its pipeline's shutdown begins (R334). -/
def State.takeFault (s : State) (r : CoreRef) (f : FaultInfo) : State :=
  match (s.core r).task with
  | none => s
  | some t => if t.live then (s.endGang r f).beginShutdown t.pipe 0x01 [t.record.stage] else s

/-- The pipeline and stage of a task on a core that has not yet faulted. -/
def State.liveStage (s : State) (r : CoreRef) : Option (Nat × Nat) :=
  (s.core r).task.bind fun t => if t.live then some (t.pipe, t.record.stage) else none

/-- Several tasks fault at one instant: their stages are the faulted stages together (R334). -/
def State.takeFaults (s : State) (l : List (CoreRef × FaultInfo)) : State :=
  let hit := l.filterMap fun x => s.liveStage x.1
  let s := l.foldl (fun s x => s.endGang x.1 x.2) s
  (hit.map Prod.fst).eraseDups.foldl (fun s p =>
    s.beginShutdown p 0x01 ((hit.filter fun x => x.1 == p).map Prod.snd)) s

/-- A fault that an issuing context raises (R339). -/
def State.ctxFault (s : State) (c : CtxRef) (code addr : Nat) (info : Word := 0) (data : BitVec 256 := 0) : State :=
  let x := s.ctx c
  s.takeFault c.at_ ⟨code, ctxCode c.ctx, 0, x.faultRep, x.faultPc, addr, info, data⟩

/-- A fault of the executing context. -/
def State.fault (s : State) (code addr : Nat) : State := s.ctxFault s.cur code addr

/-- The illegal-instruction fault of the executing context, with its control word (R337, R339). -/
def State.illegal (s : State) (w : CtlWord) : State := s.ctxFault s.cur fIllegal 0 (w.setWidth 64)

/-- A fault that a queued command raises (R337, R339). -/
def State.cmdFault (s : State) (r : CoreRef) (e : Nat) (q : QEntry) (code addr : Nat) : State :=
  s.takeFault r ⟨code, 3, e, none, q.pushPc, addr, 0, q.word⟩

/-- A fault of a task raised by the front end (R339, CTX 4). -/
def State.feFault (s : State) (r : CoreRef) (code addr : Nat) : State :=
  s.takeFault r ⟨code, 4, 0, none, 0, addr, 0, 0⟩

/-- A record that is not run: its stage, the fault's code and its ADDR (R47). -/
structure BadRec where
  stage : Nat
  code  : Nat
  addr  : Nat
  deriving DecidableEq, Repr

/-- The fault record of a record that is not run (R47, R339). -/
def BadRec.fault (b : BadRec) : FaultRec :=
  ⟨BitVec.ofNat 8 b.code, 4, 0, none, BitVec.ofNat 4 b.stage, 0, 0, false, 0, 0, BitVec.ofNat 64 b.addr, 0, 0⟩

/-- Records that are not run go to their pipeline as faults, at one instant (R47, R334). -/
def State.recordFaults (s : State) (pipe : Nat) (l : List BadRec) : State :=
  if l.isEmpty then s
  else
    let s := s.updPipe pipe fun p => { p with faults := p.faults ++ l.map BadRec.fault, faulted := p.faulted + l.length }
    s.beginShutdown pipe 0x01 (l.foldl (fun acc b => addNew b.stage acc) [])

/-! ## Side effects, regions and going on -/

/-- The first side effect of a task, and the closing of its region (R65, R70). -/
def State.sideEffect (s : State) : State :=
  (s.updTask s.cur.at_ fun t => { t with sideEffect := true }).updMyCore fun c => { c with closed := true }

/-- The executing context goes on to the next word, or to the next repeat (R196). -/
def Context.next (c : Context) : Context :=
  match c.rep with
  | some u =>
    if u.j + 1 < u.n then { c with rep := some { u with j := u.j + 1 }, begun := none, status := .running }
    else { c with rep := none, pc := c.pc + 4, begun := none, status := .running }
  | none => { c with pc := c.pc + 4, begun := none, status := .running }

/-- The executing context goes on. -/
def State.goOn (s : State) : State := s.updMe Context.next

/-- The executing context waits; the instruction is issued again at a later turn (R43). -/
def State.block (s : State) (w : Wait) : State := s.updMe fun c => { c with status := .waiting w }

/-- Take the next issue number of the executing context. -/
def State.takeSeq (s : State) : State × Nat := (s.updMe fun c => { c with seq := c.seq + 1 }, s.me.seq)

/-- Put an access among the executing context's outstanding ones (R103). -/
def State.issueAccess (s : State) (cls : BitVec 16) (op : AccOp) (hva : Word) (pages : List Nat) : State :=
  let (s, n) := s.takeSeq
  s.updMe fun c => { c with out := c.out ++ [⟨n, cls, op, c.faultPc, hva, pages, c.faultRep, none⟩] }

/-- A class as a mask. -/
def clsBit (c : BitVec 4) : BitVec 16 := 1 <<< c.toNat

/-- The classes of an ACQ, a REL or a spawn image: those of the mask, or class 0 (R205, R206, R276). -/
def maskClasses (m : BitVec 16) : BitVec 16 := if m = 0 then 1 else m

/-- The next state, as an outcome. -/
def go (s : State) : Host.Outcome State Fault Refusal := .next s

end Sys2Proof.Machine
end

