-- ==== Sys2Proof/Machine/Flags.lean ====
section
/-! DEFINITION. Every flag computation (R149), the steps of the stochastic generator (R143, R144), and the rounding of
vector results. -/

namespace Sys2Proof.Machine

/-- The element format that VTYPE names (R170). -/
def VectorFile.fmt (f : VectorFile) : Fmt := (Fmt.ofCode (fld f.vtype 0 4)).getD .fp32
/-- The rounding mode that VTYPE names. -/
def VectorFile.rm (f : VectorFile) : Rm := (Rm.ofCode (fld f.vtype 4 3)).getD .rne
/-- The saturation control that VTYPE names. -/
def VectorFile.sat (f : VectorFile) : Bool := bitAt f.vtype 8

/-- What a vector instruction carries from element to element: the generator, the flags, and one amax register. -/
structure VAcc where
  lfsr  : BitVec 32
  flags : BitVec 6
  am    : BitVec 33
  deriving DecidableEq, Repr

/-- Set flags. -/
def VAcc.flag (a : VAcc) (f : BitVec 6) : VAcc := { a with flags := a.flags ||| f }

/-- One step of the generator under SR, and u of R142 (R144). -/
def VAcc.gen (a : VAcc) (rm : Rm) : VAcc × Nat :=
  if rm = .sr then ({ a with lfsr := lfsrStep a.lfsr }, lfsrU (lfsrStep a.lfsr)) else (a, 0)

/-- Round one element into a format, with its flags (R140 to R142, R149, R223). -/
def VAcc.round (a : VAcc) (f : Fmt) (rm : Rm) (sat : Bool) (x : Val) : Nat × VAcc :=
  let (a, u) := a.gen rm
  let (c, fl) := f.round rm sat u x
  (c, a.flag fl)

/-- Convert one element between formats (R145). -/
def VAcc.convert (a : VAcc) (src dst : Fmt) (rm : Rm) (sat : Bool) (c : Nat) : Nat × VAcc :=
  let (a, u) := a.gen rm
  let (k, fl) := convertElem src dst rm sat u c
  (k, a.flag fl)

/-- fit(n) of R226. -/
def VAcc.fit (a : VAcc) (w : Nat) (sat : Bool) (n : Int) : Nat × VAcc :=
  let hi : Int := 2 ^ (w - 1) - 1
  let lo : Int := -(2 ^ (w - 1))
  if sat then
    if n > hi then (ofSigned w hi, a.flag flagSA) else if n < lo then (ofSigned w lo, a.flag flagSA) else (ofSigned w n, a)
  else (ofSigned w n, a)

/-- DZ of a division (R149, R226). -/
def dzOf (num den : Val) : BitVec 6 :=
  if den.isZero && !num.isNan && !num.isInf && !num.isZero then flagDZ else 0

/-- fp32_add_rne with its flags. -/
def VAcc.addF (a : VAcc) (x y : Nat) : Nat × VAcc :=
  let (c, fl) := fp32Add x y
  (c, a.flag fl)

/-- fp32_fma_rne; a NaN made from values that are not NaN sets NV, and no other flag is set (R243). -/
def VAcc.fmaF (a : VAcc) (x y z : Nat) : Nat × VAcc :=
  let (c, fl) := fp32Fma x y z
  (c, a.flag (fl &&& flagNV))

/-- The state a vector instruction starts from. -/
def VectorFile.acc (f : VectorFile) (n : Nat) : VAcc := ⟨f.lfsr, 0, f.am[Fin.ofNat 16 n]⟩

/-- The state a vector instruction leaves: generator and sticky flags (R143, R149), and an amax register (R151). -/
def VectorFile.put (f : VectorFile) (a : VAcc) (n : Nat) : VectorFile :=
  { f with lfsr := a.lfsr, vstat := f.vstat ||| a.flags, am := f.am.set (Fin.ofNat 16 n) a.am }

/-- Run f over the lanes in ascending order: results of active lanes, none for the others. -/
def laneRun (act : Nat → Bool) (f : Nat → VAcc → Nat × VAcc) : List Nat → VAcc → List (Option Nat) × VAcc
  | [], a => ([], a)
  | i :: t, a =>
    if act i then
      let (x, a) := f i a
      let (l, a) := laneRun act f t a
      (some x :: l, a)
    else
      let (l, a) := laneRun act f t a
      (none :: l, a)

end Sys2Proof.Machine
end

