-- ==== Sys2Proof/Machine/Operands.lean ====
section
/-! DEFINITION. Every operand form: who may issue what (R167), the region's named inputs (R201), the operations that
VTYPE allows (R244), register groups (R221), queue ports (R220), REP's stepped forms (R161, R198), and the prologue
that every control word shares. -/

namespace Sys2Proof.Machine

/-! ## Who may issue what -/

/-- The groups of R167; events and commands are no control word. -/
inductive Group where
  | scalar | vector | loadRow | storeRow | ring | command | ppu | task | system | none
  deriving DecidableEq, Repr

/-- The group of an instruction (R157). -/
def groupOf : Instr → Group
  | .add .. | .sub .. | .mul .. | .mulh .. | .mulhu .. | .div .. | .divu .. | .rem .. | .remu .. | .and .. | .or ..
  | .xor .. | .shl .. | .shr .. | .sra .. | .slt .. | .sltu .. | .min .. | .max .. | .minu .. | .maxu .. | .sadd ..
  | .clz .. | .ctz .. | .popc .. | .sext8 .. | .sext16 .. | .sext32 .. | .zext8 .. | .zext16 .. | .zext32 .. | .sel ..
  | .jalr .. | .addi .. | .andi .. | .ori .. | .xori .. | .slti .. | .shli .. | .shri .. | .srai .. | .bfx .. | .bfi ..
  | .li .. | .lih .. | .ldb .. | .ldbu .. | .ldh .. | .ldhu .. | .ldw .. | .ldwu .. | .ld .. | .stb .. | .sth ..
  | .stw .. | .st .. | .loop .. | .beq .. | .bne .. | .blt .. | .bge .. | .bltu .. | .bgeu .. => .scalar
  | .vadd .. | .vsub .. | .vmul .. | .vdiv .. | .vmin .. | .vmax .. | .vabs .. | .vneg .. | .vrcp .. | .vrsq ..
  | .vsqrt .. | .vmov .. | .vand .. | .vor .. | .vxor .. | .vnot .. | .vshl .. | .vshr .. | .vsra .. | .vfma ..
  | .vfms .. | .vnfma .. | .vcmpeq .. | .vcmplt .. | .vcmple .. | .vsel .. | .mand .. | .mor .. | .mnot .. | .mpop ..
  | .mfirst .. | .vcvt .. | .vwadd .. | .vwmul .. | .vnarrow .. | .vrsum .. | .vrmax .. | .vrmin .. | .vramax ..
  | .vscan .. | .vperm .. | .viota .. | .vcompress .. | .vexpand .. | .vppe .. | .vbcast .. | .vextr .. | .vli ..
  | .vcfg .. | .vrotm .. => .vector
  | .qld .. | .qldr .. => .loadRow
  | .qst .. | .qstr .. => .storeRow
  | .rres .. | .rpub .. | .rpop .. | .rpeek .. | .rcfg .. => .ring
  | .kset .. | .kld .. | .kst .. | .push .. | .shape .. | .shld .. => .command
  | .ppld .. => .ppu
  | .spawn .. | .join .. | .exit | .gbar | .fget .. | .fput .. | .freset .. | .semw .. | .sems .. | .evwait ..
  | .evsig .. => .task
  | .nop | .brk | .time .. | .vdhop .. | .mwait .. | .trap .. | .rep .. | .srd .. | .swr .. | .acq .. | .rel ..
  | .mon .. | .fence .. | .wait .. | .region .. | .jmp .. | .jal .. => .system
  | _ => .none

/-- Whether a context may execute a group (R167). -/
def groupAllowed (g : Group) (c : CtxName) : Bool :=
  match g with
  | .vector | .ppu => c == .compute
  | .loadRow => c == .load
  | .storeRow => c == .store
  | .ring => c != .compute
  | .scalar | .command | .task | .system => true
  | .none => false

/-- Whether a context may write a system register (R169). -/
def swrAllowed (r : BitVec 8) (c : CtxName) : Bool := decide (3 ≤ r.toNat) || c == .compute

/-- The instructions of R65, whose first issue is a task's first side effect. -/
def isSideEffect : Instr → Bool
  | .stb .. | .sth .. | .stw .. | .st .. | .kst .. | .rel .. | .qst .. | .qstr .. | .rres .. | .rpub .. | .rpop .. | .push ..
  | .spawn .. | .fput .. | .freset .. | .evsig .. | .sems .. | .swr .. => true
  | _ => false

/-- The x register that an instruction writes, where R201 counts it; JAL's x31 can be no input. -/
def xdest : Instr → Option (BitVec 5)
  | .add d _ _ | .sub d _ _ | .mul d _ _ | .mulh d _ _ | .mulhu d _ _ | .div d _ _ | .divu d _ _ | .rem d _ _
  | .remu d _ _ | .and d _ _ | .or d _ _ | .xor d _ _ | .shl d _ _ | .shr d _ _ | .sra d _ _ | .slt d _ _ | .sltu d _ _
  | .min d _ _ | .max d _ _ | .minu d _ _ | .maxu d _ _ | .sadd d _ _ | .vdhop d _ _ => some d
  | .clz d _ | .ctz d _ | .popc d _ | .sext8 d _ | .sext16 d _ | .sext32 d _ | .zext8 d _ | .zext16 d _ | .zext32 d _
  | .jalr d _ | .fget d _ => some d
  | .sel d _ _ _ => some d
  | .addi d _ _ | .andi d _ _ | .ori d _ _ | .xori d _ _ | .slti d _ _ => some d
  | .shli d _ _ | .shri d _ _ | .srai d _ _ => some d
  | .bfx d _ _ _ | .bfi d _ _ _ => some d
  | .li d _ => some d
  | .lih d _ _ => some d
  | .ldb d _ _ _ | .ldbu d _ _ _ | .ldh d _ _ _ | .ldhu d _ _ _ | .ldw d _ _ _ | .ldwu d _ _ _ | .ld d _ _ _ => some d
  | .loop a _ => some a
  | .mpop d _ | .mfirst d _ => some d
  | .vextr d _ _ => some d
  | .rres d _ | .rpeek d _ => some d
  | .time d => some d
  | .srd d _ => some d
  | .acq d _ _ _ => some d
  | _ => none

/-- Whether a register is a named input (R69, R200). -/
def inputNamed (inputs : BitVec 26) (r : BitVec 5) : Bool := r != 0 && bitAt inputs (r.toNat - 1)

/-! ## Vector operands -/

/-- A group of G registers from first on: aligned, and within one file (R221). -/
def groupOk (first g : Nat) (src : Bool) : Bool :=
  decide (first % g = 0) &&
  (decide (first + g ≤ 56) || (src && decide (56 ≤ first) && decide (first + g ≤ 60)) ||
   (!src && decide (60 ≤ first) && decide (first + g ≤ 64)))

/-- The widened type and G of R233. -/
def widened : Fmt → Option (Fmt × Nat)
  | .bf16 | .fp16 => some (.fp32, 2)
  | .e4m3 | .e5m2 | .tap8 | .tap6 => some (.fp32, 4)
  | .int4 => some (.int16, 4)
  | .int8 => some (.int32, 4)
  | .int16 => some (.int32, 2)
  | _ => none

/-- The lanes of a register under a format (R218). -/
def Fmt.lanes (f : Fmt) : Nat := 4096 / f.width

/-- The registers of a group. -/
def groupRegs (first g : Nat) : List Nat := (List.range g).map fun k => first + k

/-- Source registers and destination registers of a vector instruction, groups written out. -/
def vecRegs (f : Fmt) : Instr → List Nat × List Nat
  | .vadd d a b _ | .vsub d a b _ | .vmul d a b _ | .vdiv d a b _ | .vmin d a b _ | .vmax d a b _ | .vand d a b _
  | .vor d a b _ | .vxor d a b _ | .vshl d a b _ | .vshr d a b _ | .vsra d a b _ | .vsel d a b _ =>
    ([a.toNat, b.toNat], [d.toNat])
  | .vrotm d a b _ => ([a.toNat, b.toNat], [d.toNat])
  | .vfma d a b _ | .vfms d a b _ | .vnfma d a b _ => ([a.toNat, b.toNat, d.toNat], [d.toNat])
  | .vabs d a _ | .vneg d a _ | .vrcp d a _ | .vrsq d a _ | .vsqrt d a _ | .vmov d a _ | .vnot d a _ | .vrsum d a _
  | .vrmax d a _ | .vrmin d a _ | .vramax d a _ | .vscan d a _ | .vcompress d a _ | .vexpand d a _ | .vppe d a _ =>
    ([a.toNat], [d.toNat])
  | .vcmpeq _ a b _ | .vcmplt _ a b _ | .vcmple _ a b _ => ([a.toNat, b.toNat], [])
  | .vcvt d a _ t =>
    let wd := ((Fmt.ofCode t.toNat).map Fmt.width).getD f.width
    (groupRegs a.toNat (f.width / wd), groupRegs d.toNat (wd / f.width)) |> fun x =>
      (if x.1.isEmpty then [a.toNat] else x.1, if x.2.isEmpty then [d.toNat] else x.2)
  | .vwadd d a b _ | .vwmul d a b _ => ([a.toNat, b.toNat], groupRegs d.toNat (((widened f).map Prod.snd).getD 1))
  | .vnarrow d a _ _ _ => (groupRegs a.toNat (((widened f).map Prod.snd).getD 1), [d.toNat])
  | .vperm d a b => (a.toNat :: groupRegs b.toNat (max 1 (f.lanes / 256)), [d.toNat])
  | .viota d _ => ([], [d.toNat])
  | .vbcast d _ => ([], [d.toNat])
  | .vli d _ => ([], [d.toNat])
  | .vextr _ a _ => ([a.toNat], [])
  | _ => ([], [])

/-- Whether the groups that an instruction names are aligned and lie in one file, and whether TYPE has the operation (R244). -/
def vecTypeOk (f : Fmt) : Instr → Bool
  | .vshl .. | .vshr .. | .vsra .. | .viota .. => f.isInt
  | .vrcp .. | .vrsq .. | .vsqrt .. | .vppe .. => !f.isInt
  | .vcvt d a _ t =>
    match Fmt.ofCode t.toNat with
    | none => false
    | some g =>
      let r := max f.width g.width / min f.width g.width
      g.isVector && decide (r ≤ 4) &&
      (if g.width > f.width then groupOk d.toNat r false else if g.width < f.width then groupOk a.toNat r true else true)
  | .vwadd d _ _ _ | .vwmul d _ _ _ => match widened f with | none => false | some (_, g) => groupOk d.toNat g false
  | .vnarrow _ a _ _ _ => match widened f with | none => false | some (_, g) => groupOk a.toNat g true
  | .vperm _ _ b => groupOk b.toNat (max 1 (f.lanes / 256)) true
  | _ => true

/-- Whether a format may be used: MXFP4 and E8M0 need feature 1, the tapered formats feature 2 (R375). -/
def fmtFeature (s : State) (code : Nat) : Bool :=
  if code = 7 ∨ code = 12 then s.feature 1 else if code = 5 ∨ code = 6 then s.feature 2 else true

/-- The formats an instruction names are not reserved (R375). -/
def fmtAllowed (s : State) : Instr → Bool
  | .vcvt _ _ _ t => fmtFeature s t.toNat
  | .vcfg _ _ t => fmtFeature s t.toNat
  | _ => true

/-- Every check at issue of one form in a context, but the region's inputs (R41, R163, R167, R169, R175, R244). -/
def formOk (s : State) (c : CtxRef) (i : Instr) : Bool :=
  i.wf && groupAllowed (groupOf i) c.ctx && fmtAllowed s i && vecTypeOk (s.core c.at_).vf.fmt i &&
  match i with | .swr _ r => swrAllowed r c.ctx | _ => true

/-- Whether a form writes a named input of its region (R201). -/
def writesInput (s : State) (c : CtxRef) (i : Instr) : Bool :=
  match xdest i with | some d => inputNamed (s.ctx c).inputs d | none => false

/-- The control word of a form, as a fault record shows it (R339). -/
def wordOfInstr (i : Instr) : CtlWord := (encode i).getD 0

/-- THE PROLOGUE of every control word: a form that R175, R201 or R244 forbids takes the illegal-instruction fault, and
any other form runs. -/
def issue (i : Instr) (s : State) (k : State → State) : State :=
  if formOk s s.cur i && !writesInput s s.cur i then k s else s.illegal (wordOfInstr i)

/-! ## Queue ports (R41, R44, R220) -/

/-- The partner of a queue has executed EXIT (R44). -/
def Core.exited (c : Core) (n : CtxName) : Bool := (c.ctx n).status == .parked

/-- Whether the head of a load queue holds a row. -/
def Core.lqReady (c : Core) (q : Fin 4) : Bool := match c.lq[q] with | some _ :: _ => true | _ => false

/-- The load queues among source registers, and the store queues among destinations. -/
def lqPorts (l : List Nat) : List (Fin 4) := ([0, 1, 2, 3] : List (Fin 4)).filter fun q => l.contains (56 + q.val)
def sqPorts (l : List Nat) : List (Fin 4) := ([0, 1, 2, 3] : List (Fin 4)).filter fun q => l.contains (60 + q.val)

/-- Block, or take the queue-orphan fault where the partner has exited and the queue can gain nothing (R43, R44). -/
def orphanOr (s : State) (gone : Bool) (queue : Nat) (w : Wait) : State :=
  if gone then s.fault fOrphan queue else s.block w

/-- The ports of a vector instruction as Wait keeps them. -/
def portMask (lqs sqs : List (Fin 4)) : BitVec 8 :=
  sqs.foldl (fun m q => setFld m (4 + q.val) 1 1) (lqs.foldl (fun m q => setFld m q.val 1 1) 0)

/-- A load queue that can gain no row any more: it holds none, and L has exited (R44). -/
def Core.lqGone (c : Core) (q : Fin 4) : Bool := c.lq[q].isEmpty && c.exited .load

/-- A store queue that can gain no room any more: it is full, and S has exited (R44). -/
def Core.sqGone (c : Core) (q : Fin 4) : Bool := decide (8 ≤ c.sq[q].length) && c.exited .store

/-- The orphaned queue of an instruction's ports, as ADDR names it. Where several are orphaned the spec names none: the
model takes the lowest load queue, else the lowest store queue. DESIGN CHOICE (log 85). -/
def Core.orphanPort (c : Core) (lqs sqs : List (Fin 4)) : Option Nat :=
  match lqs.find? c.lqGone with
  | some q => some q.val
  | none => (sqs.find? c.sqGone).map fun q => 4 + q.val

/-- Run k once every load queue read holds a row and every store queue written has room (R220); an orphaned port is a
fault (R44). -/
def withPorts (s : State) (srcs dsts : List Nat) (k : State → State) : State :=
  let c := s.myCore
  let lqs := lqPorts srcs
  let sqs := sqPorts dsts
  match c.orphanPort lqs sqs with
  | some q => s.fault fOrphan q
  | none =>
    match lqs.find? fun q => !c.lqReady q with
    | some q => s.block (.loadQueue q (portMask lqs sqs))
    | none =>
      match sqs.find? fun q => decide (8 ≤ c.sq[q].length) with
      | some q => s.block (.storeQueue q (portMask lqs sqs))
      | none => k s

/-- The value of a vector source; a load queue gives its head (R41). -/
def Core.vreg (c : Core) (n : Nat) : Row :=
  if n < 56 then c.vf.v[Fin.ofNat 56 n] else
    match c.lq[Fin.ofNat 4 n] with
    | some r :: _ => r
    | _ => 0

/-- Write a vector destination; a store queue gains an entry (R41). -/
def Core.setVreg (c : Core) (n : Nat) (r : Row) : Core :=
  if n < 56 then { c with vf := { c.vf with v := c.vf.v.set (Fin.ofNat 56 n) r } }
  else { c with sq := c.sq.set (Fin.ofNat 4 n) (c.sq[Fin.ofNat 4 n] ++ [r]) }

/-- Pop each load queue among the sources once (R220). -/
def Core.popPorts (c : Core) (srcs : List Nat) : Core :=
  { c with lq := (lqPorts srcs).foldl (fun v (q : Fin 4) => v.set q (v[q].drop 1)) c.lq }

/-- A mask bit: m0 means all lanes (R163, R218). -/
def Core.active (c : Core) (m : BitVec 3) (i : Nat) : Bool := m == 0 || bitAt c.vf.m[m.toFin] i

/-- Element i of a group of G registers from first on (R221). -/
def Core.groupElem (c : Core) (first g w i : Nat) : Nat := lane (c.vreg (first + i % g)) w (i / g)

/-- The lane bits that a write of format f keeps: TAP6 writes bits 7:6 as 0 (R219). -/
def writeMask (f : Fmt) : Nat := if f = .tap6 then 64 else 2 ^ f.width

/-- Lay results into one register: inactive lanes keep their value, or are 0 in a store queue (R219). -/
def layLanes (f : Fmt) (old : Row) (toQueue : Bool) (res : List (Option Nat)) : Row :=
  pack 4096 f.width ((res.zipIdx).map fun x => match x.1 with
    | some v => v % writeMask f
    | none => if toQueue then 0 else lane old f.width x.2)

/-- Write the results of a single-register destination. -/
def Core.putLanes (c : Core) (f : Fmt) (d : Nat) (res : List (Option Nat)) : Core :=
  c.setVreg d (layLanes f (if d < 56 then c.vreg d else 0) (decide (60 ≤ d)) res)

/-- The elements of a list whose index is k modulo g. -/
def every (g k : Nat) (l : List (Option Nat)) : List (Option Nat) :=
  (l.zipIdx.filter fun x => x.2 % g == k).map Prod.fst

/-- Write the results of a destination group of G registers (R221). -/
def Core.putGroup (c : Core) (f : Fmt) (first g : Nat) (res : List (Option Nat)) : Core :=
  (List.range g).foldl (fun c k => c.putLanes f (first + k) (every g k res)) c

/-! ## REP (R161, R196 to R199) -/

/-- Whether an instruction may be repeated (R197). -/
def repeatable (i : Instr) : Bool :=
  match groupOf i with
  | .vector | .loadRow | .storeRow | .command => true
  | .scalar => match i with
    | .jalr .. | .loop .. | .beq .. | .bne .. | .blt .. | .bge .. | .bltu .. | .bgeu .. => false
    | _ => true
  | .system => match i with | .fence .. | .nop => true | _ => false
  | _ => false

/-- The first bit of the field that bit b of stepmask names: VV and VI formats, or the others (R161). -/
def stepLo (vv : Bool) (b : Nat) : Nat × Nat :=
  match b with
  | 0 => if vv then (20, 6) else (21, 5)
  | 1 => if vv then (14, 6) else (16, 5)
  | _ => if vv then (8, 6) else (11, 5)

/-- Whether a word has the VV or VI format (R156, R157). -/
def isVv (w : CtlWord) : Bool := decide (0x10 ≤ fld w 26 6) && decide (fld w 26 6 ≤ 0x1C) && fld w 26 6 != 0x1B

/-- Whether the field that a stepmask bit names holds a register number in the instruction's map (R198). -/
def fieldIsReg (i : Instr) (b : Nat) : Bool :=
  match i with
  | .fence .. | .nop | .vcfg .. => false
  | .li .. | .lih .. => b == 0
  | .vli .. => b == 0
  | .viota .. => b == 0
  | .push .. => b == 0
  | .add .. | .sub .. | .mul .. | .mulh .. | .mulhu .. | .div .. | .divu .. | .rem .. | .remu .. | .and .. | .or ..
  | .xor .. | .shl .. | .shr .. | .sra .. | .slt .. | .sltu .. | .min .. | .max .. | .minu .. | .maxu .. | .sadd ..
  | .sel .. => true
  | .vadd .. | .vsub .. | .vmul .. | .vdiv .. | .vmin .. | .vmax .. | .vand .. | .vor .. | .vxor .. | .vshl .. | .vshr ..
  | .vsra .. | .vfma .. | .vfms .. | .vnfma .. | .vcmpeq .. | .vcmplt .. | .vcmple .. | .vsel .. | .mand .. | .mor ..
  | .vwadd .. | .vwmul .. | .vperm .. | .vextr .. | .vrotm .. => true
  | _ => decide (b < 2)

/-- A word with the fields of stepmask stepped by j; none when a field runs past its width (R196, R198). -/
def stepWord (w : CtlWord) (mask : BitVec 3) (j : Nat) : Option CtlWord :=
  (List.range 3).foldl (fun acc b => acc.bind fun w =>
    if bitAt mask b then
      let (lo, len) := stepLo (isVv w) b
      let v := fld w lo len + j
      if v < 2 ^ len then some (setFld w lo len v) else none
    else some w) (some w)

/-- A stepped vector field does not pass from v55 into the queue ports, nor out of its file (R198). -/
def stepStays (w w' : CtlWord) (mask : BitVec 3) : Bool :=
  !isVv w || (List.range 3).all fun b =>
    !bitAt mask b || let (lo, len) := stepLo true b
      let cls (v : Nat) : Nat := if v < 56 then 0 else if v < 60 then 1 else 2
      cls (fld w lo len) == cls (fld w' lo len)

/-- All the checks of R198 on the n forms. The checks of R244, a TYPE without the operation and a misaligned register group,
count among them, as the last row of R175 can be read: the REP itself takes the fault, and no repeat issues. DEDUCED
(log 120). -/
def repOk (s : State) (w : CtlWord) (n : Nat) (mask : BitVec 3) : Bool :=
  match decode w with
  | .error _ => false
  | .ok i =>
    repeatable i && (List.range 3).all (fun b => !bitAt mask b || fieldIsReg i b) &&
    (List.range n).all fun j => match stepWord w mask j with
      | none => false
      | some w' => stepStays w w' mask && match decode w' with
        | .error _ => false
        | .ok i' => formOk s s.cur i' && !writesInput s s.cur i'

end Sys2Proof.Machine
end

