-- ==== Sys2Proof/Machine/Access.lean ====
section
/-! DEFINITION. Accesses of the contexts to global memory: issue, translation, the side log, releases (R75, R78, R100,
R107, R114, R188, R190, R341). -/

namespace Sys2Proof.Machine

/-! ## Releases -/

/-- All sixteen classes. -/
def allCls : BitVec 16 := 0xFFFF

/-- The side-log entries of a context in the classes of a mask that have not performed (R341). -/
def State.logged (s : State) (c : CtxRef) (m : BitVec 16) : Bool :=
  (s.core c.at_).sideLog.any fun e => e.ctx == c.ctx && meets e.cls m

/-- Every access of a context in a class of the mask has performed at die scope. -/
def State.drained (s : State) (c : CtxRef) (m : BitVec 16) : Bool :=
  !(s.ctx c).out.any (fun a => a.pending && meets a.cls m) && !s.logged c m

/-- The same of the accesses that it issued before number n. -/
def State.drainedBefore (s : State) (c : CtxRef) (m : BitVec 16) (n : Nat) : Bool :=
  !(s.ctx c).out.any (fun a => decide (a.seq < n) && a.pending && meets a.cls m) &&
  !(s.core c.at_).sideLog.any fun e => e.ctx == c.ctx && decide (e.seq < n) && meets e.cls m

/-- An operation that goes on after its context has: the release and what follows it (R276, R120). -/
def Access.late (a : Access) : Bool := match a.op with | .spawn .. | .evsig _ | .sems _ | .rpub .. => true | _ => false

/-- Everything that a context has issued has taken effect at core scope. -/
def State.settled (s : State) (c : CtxRef) : Bool := s.drained c allCls && !(s.ctx c).out.any Access.late

/-- Whether a write is covered by a release of a context with a mask: its own writes in these classes, and those that an
earlier acquire in these classes made visible to it (R114). -/
def coversTags (c : CtxRef) (m : BitVec 16) (tags : List (CtxRef × BitVec 16)) : Bool :=
  tags.any fun t => t.1 == c && meets t.2 m

/-- Whether a write of the die's list is covered by a release with issue number n: an earlier write of its context, or
one that an earlier acquire made visible to it. -/
def DieWrite.covered (w : DieWrite) (c : CtxRef) (m : BitVec 16) (n : Nat) : Bool :=
  (w.ctx == c && decide (w.seq < n) && meets w.cls m) || w.vis.any fun t => t.1 == c && meets t.2.1 m && decide (t.2.2 < n)

/-- No covered write waits to perform at package scope. -/
def State.flushedBefore (s : State) (c : CtxRef) (m : BitVec 16) (n : Nat) : Bool :=
  !(s.die c.at_.site).buf.any fun w => w.covered c m n

/-- The same for a release that its context issues now. -/
def State.flushed (s : State) (c : CtxRef) (m : BitVec 16) : Bool := s.flushedBefore c m (s.ctx c).seq

/-- A release can perform at its scope (R114): die and core scope at one instant, package and fabric scope at one. -/
def State.releaseReady (s : State) (c : CtxRef) (m : BitVec 16) (wide : Bool) : Bool :=
  s.drained c m && (!wide || s.flushed c m)

/-- The same of a release of every class that was issued with number n. -/
def State.lateReady (s : State) (c : CtxRef) (n : Nat) (wide : Bool) : Bool :=
  s.drainedBefore c allCls n && (!wide || s.flushedBefore c allCls n)

/-- Commit every line that holds a covered write, with its poison (R348); each stays in the die cache in E (R114). -/
def State.commitCovered (s : State) (c : CtxRef) (m : BitVec 16) : State :=
  (s.die c.at_.site).cache.foldl (fun s x => match x.2 with
    | .m data tags =>
      if coversTags c m tags then
        ((s.carryPoison c.at_.site x.1).updDie c.at_.site fun d => d.setLine x.1 .e).commitLine x.1 data
      else s
    | _ => s) s

/-- The writes that a die holds alone become visible to an acquirer, with its issue number, in the classes of its mask
(R115): those of the list and of its M lines that the release covered. -/
def Die.acquire (d : Die) (rc : CtxRef) (ri : RelInfo) (c : CtxRef) (m : BitVec 16) (n : Nat) : Die :=
  { d with
    buf := d.buf.map fun w => if w.covered rc ri.mask ri.seq then { w with vis := addNew (c, m, n) w.vis } else w
    cache := d.cache.map fun x => match x.2 with
      | .m data tags => if coversTags rc ri.mask tags then (x.1, .m data (addNew (c, m) tags)) else x
      | _ => x }

/-- A release of every class by the executing context that does not hold it (R43): it takes effect by k at once where it
can, and else is outstanding until it can. -/
def withRelease (s : State) (op : AccOp) (wide : Bool) (k : State → State) : State :=
  if s.releaseReady s.cur allCls wide then k (if wide then s.commitCovered s.cur allCls else s)
  else (s.sideEffect.issueAccess 0 op 0 []).goOn

/-! ## Translation of scalar accesses -/

/-- The engine of a core whose cache serves its contexts (R76). -/
def ctxEng : Nat := 6

/-- What the translation of a list of addresses gives. -/
inductive WordsRes where
  | hit (dlas : List Nat)
  | stop (r : XlatRes) (hva : Nat)
  deriving DecidableEq, Repr

/-- Translate addresses in order; the first that does not hit decides. -/
def State.xlatWords (s : State) (u : XlatUser) (pasid : Nat) (wr : Bool) : List Nat → WordsRes
  | [] => .hit []
  | a :: t =>
    match s.lookupXlat u pasid a wr with
    | .hit d => match s.xlatWords u pasid wr t with
      | .hit l => .hit (d :: l)
      | r => r
    | r => .stop r a

/-- Pin the pages of translated addresses, then check that they can be reached (R188 steps 2 and 3), and go on. -/
def withPins (s : State) (dlas : List Nat) (k : State → State) : State :=
  match s.pinAll (dlas.map pageOf) with
  | none => s.block .pin
  | some s' => match dlas.find? fun a => !s.dlaOk a with
    | some a => s.fault fUnreach a
    | none => k s'

/-- Translate, pin and check the words of an access of a context, and go on with their DLAs. asked says what an
outstanding translation leads to, paged what an outstanding page request does. -/
def withXlat (s : State) (hvas : List Nat) (wr : Bool) (asked paged : State → Nat → State) (k : State → List Nat → State) : State :=
  let u := XlatUser.engine s.cur.at_ ctxEng
  let pasid := s.pasidOf s.cur.at_
  match s.xlatWords u pasid wr hvas with
  | .hit dlas => withPins s dlas fun s => k s dlas
  | .stop .refused a => (s.dropRefused u pasid a).fault fPage a
  | .stop .paging a => paged s a
  | .stop _ a => asked (s.askXlat u pasid a wr) a

/-- A read waits for its translation. -/
def State.awaitRead (s : State) (a : Nat) : State := s.block (.translation (a / 4096) false)

/-- A load of words of a size: it holds its context until every value has returned (R189). Where several words of one load fail
differently, the spec orders none before another: the model takes a refused translation first, then a package that cannot be
reached, then poison, each at its first word. DESIGN CHOICE (log 122). -/
def issueLoad (s : State) (hvas : List Nat) (size : Nat) (cls : BitVec 16) (dest : LoadDest) : State :=
  if s.logged s.cur cls then s.block .sideLog
  else
    withXlat s hvas false State.awaitRead State.awaitRead fun s dlas =>
      let (s, n) := s.takeSeq
      let l : HeldLoad := ⟨n, dest, cls, (dlas.zip hvas).map fun x => ⟨x.1, x.2, size, none⟩, none, 0, dlas.map pageOf, none⟩
      s.updMe fun c => { c with status := .held l }

/-- The pipeline and gang of the task on a core. -/
def State.gangOf (s : State) (r : CoreRef) : Option (Nat × Nat) := (s.core r).task.map fun t => (t.pipe, t.gangId)

/-- The translations that logged stores find, and the refused page if one is. -/
def State.logXlats (s : State) (u : XlatUser) (pasid : Nat) (hvas : List Nat) : List (Option Nat) × Option Nat :=
  (hvas.map fun a => match s.lookupXlat u pasid a true with | .hit d => some d | _ => none,
   hvas.find? fun a => s.lookupXlat u pasid a true == .refused)

/-- The side log of a core has room for a number of entries: it holds 64 (R100). -/
def Core.logRoom (c : Core) (n : Nat) : Bool := decide (c.sideLog.length + n ≤ 64)

/-- Where a store goes when its page is requested, or an entry of its class is logged: behind the side log (R100, R341).
An address that is translated is pinned and checked as for any store (R188). -/
def logStore (s : State) (cls : BitVec 16) (stores : List (Nat × LogOp)) : State :=
  if s.myCore.logRoom stores.length then
    let u := XlatUser.engine s.cur.at_ ctxEng
    let pasid := s.pasidOf s.cur.at_
    match s.logXlats u pasid (stores.map Prod.fst) with
    | (_, some a) => (s.dropRefused u pasid a).fault fPage a
    | (ds, none) =>
      withPins s (ds.filterMap id) fun s =>
        ((ds.zip stores).foldl (fun s x =>
          let s := if s.lookupXlat u pasid x.2.1 true == .waiting then s.askXlat u pasid x.2.1 true else s
          let (s, n) := s.takeSeq
          s.updMyCore fun c => { c with sideLog := c.sideLog ++
            [⟨s.cur.ctx, cls, BitVec.ofNat 64 x.2.1, pasid, x.2.2, s.me.faultPc, n, x.1, x.1.isSome, s.me.faultRep, none, s.gangOf s.cur.at_⟩] })
          s.sideEffect).goOn
  else s.block .sideLog

/-- What a store does once its address is translated. -/
def LogOp.access (op : LogOp) (dla : Nat) : AccOp :=
  match op with
  | .store size data => .store dla size data
  | .rel data scope mask => .rel dla data scope mask
  | .fput data => .fput dla data
  | .freset => .freset dla

/-- Stores of a context: outstanding from issue until they perform at die scope (R190); while a translation is
outstanding they stand untranslated, and a page request sends them to the side log. -/
def issueStore (s : State) (cls : BitVec 16) (ops : List (Nat × LogOp)) : State :=
  if s.logged s.cur cls then logStore s cls ops
  else
    let pasid := s.pasidOf s.cur.at_
    let put (s : State) (l : List (Nat × AccOp × List Nat)) : State :=
      (l.foldl (fun s x => s.issueAccess cls x.2.1 (BitVec.ofNat 64 x.1) x.2.2) s.sideEffect).goOn
    withXlat s (ops.map Prod.fst) true (fun s _ => put s (ops.map fun x => (x.1, .untranslated pasid x.2, [])))
      (fun s _ => logStore s cls ops) fun s dlas =>
      put s ((dlas.zip ops).map fun x => (x.2.1, x.2.2.access x.1, [pageOf x.1]))

/-- ea of R188. -/
def eaOf (s : State) (a : BitVec 5) (off : BitVec 8) (size : Nat) : Nat :=
  (s.rx a + BitVec.ofInt 64 (off.toInt * size)).toNat

/-- An access whose address must be a multiple of n (R188 step 1). -/
def withAligned (s : State) (ea n : Nat) (k : State → State) : State :=
  if ea % n ≠ 0 then s.fault fMisaligned ea else k s

/-! ## Going elsewhere -/

/-- The executing context continues at a target. -/
def State.jump (s : State) (t : Word) : State := s.updMe fun c => { c with pc := t, status := .running }

/-- pc + 4 × an offset in words (R156). -/
def State.target {n : Nat} (s : State) (off : BitVec n) : Word := s.me.pc + BitVec.ofInt 64 (4 * off.toInt)

/-- Write a scalar result and go on. -/
def State.result (s : State) (d : BitVec 5) (v : Word) : State := (s.wx d v).goOn

end Sys2Proof.Machine
end

