-- ==== Sys2Proof/Machine/Scalar.lean ====
section
/-! DEFINITION. The scalar instructions of majors 0x00 to 0x0F: arithmetic, loads, stores, branches (13_scalar.md). -/

namespace Sys2Proof.Machine

/-- div_s of R182. -/
def divS (a b : Word) : Word :=
  if b = 0 then BitVec.allOnes 64
  else if a = BitVec.intMin 64 ∧ b = BitVec.allOnes 64 then a else BitVec.ofInt 64 (a.toInt.tdiv b.toInt)

/-- rem_s of R182. -/
def remS (a b : Word) : Word :=
  if b = 0 then a
  else if a = BitVec.intMin 64 ∧ b = BitVec.allOnes 64 then 0
  else BitVec.ofInt 64 (a.toInt - b.toInt * a.toInt.tdiv b.toInt)

/-- div_u of R182. -/
def divU (a b : Word) : Word := if b = 0 then BitVec.allOnes 64 else BitVec.ofNat 64 (a.toNat / b.toNat)

/-- rem_u of R182. -/
def remU (a b : Word) : Word := if b = 0 then a else BitVec.ofNat 64 (a.toNat % b.toNat)

/-- s(a) + s(b), saturated (R182). -/
def satAdd (a b : Word) : Word := BitVec.ofInt 64 (max (-(2 ^ 63)) (min (2 ^ 63 - 1) (a.toInt + b.toInt)))

/-- A truth value as a register. -/
def flagW (p : Bool) : Word := if p then 1 else 0

/-- The 0 bits above the highest 1 bit (R183). -/
def clz64 (a : Word) : Nat := if a = 0 then 64 else 63 - a.toNat.log2

/-- The 0 bits below the lowest 1 bit (R183). -/
def ctz64 (a : Word) : Nat := ((List.range 64).find? fun i => bitAt a i).getD 64

/-- The low w bits, sign-extended (R183). -/
def sextW (w : Nat) (a : Word) : Word := BitVec.ofInt 64 (toSigned w a.toNat)

/-- The low w bits, zero-extended (R183). -/
def zextW (w : Nat) (a : Word) : Word := BitVec.ofNat 64 (a.toNat % 2 ^ w)

/-- A register operation of two sources (R181, R182). -/
def binop (i : Instr) (d a b : BitVec 5) (f : Word → Word → Word) (s : State) : Host.Outcome State Fault Refusal :=
  go (issue i s fun s => s.result d (f (s.rx a) (s.rx b)))

/-- A register operation of one source (R183). -/
def unop (i : Instr) (d a : BitVec 5) (f : Word → Word) (s : State) : Host.Outcome State Fault Refusal :=
  go (issue i s fun s => s.result d (f (s.rx a)))

/-- A scalar load (R188, R189). -/
def loadX (i : Instr) (d a : BitVec 5) (c : BitVec 4) (o : BitVec 8) (size : Nat) (sg : Bool) (s : State) :
    Host.Outcome State Fault Refusal :=
  go (issue i s fun s => withAligned s (eaOf s a o size) size fun s =>
    issueLoad s [eaOf s a o size] size (clsBit c) (.x d sg))

/-- A scalar store (R188, R190). -/
def storeX (i : Instr) (d a : BitVec 5) (c : BitVec 4) (o : BitVec 8) (size : Nat) (s : State) :
    Host.Outcome State Fault Refusal :=
  go (issue i s fun s => withAligned s (eaOf s a o size) size fun s =>
    issueStore s (clsBit c) [(eaOf s a o size, .store size (s.rx d))])

/-- A conditional branch (R192). -/
def branch (i : Instr) (a b : BitVec 5) (o : BitVec 16) (p : Word → Word → Bool) (s : State) :
    Host.Outcome State Fault Refusal :=
  go (issue i s fun s => if p (s.rx a) (s.rx b) then s.jump (s.target o) else s.goOn)

/-- ADD (R182). -/
def execAdd (d a b : BitVec 5) (s : State) : Host.Outcome State Fault Refusal := binop (.add d a b) d a b (fun a b => a + b) s

/-- SUB (R182). -/
def execSub (d a b : BitVec 5) (s : State) : Host.Outcome State Fault Refusal := binop (.sub d a b) d a b (fun a b => a - b) s

/-- MUL (R182). -/
def execMul (d a b : BitVec 5) (s : State) : Host.Outcome State Fault Refusal := binop (.mul d a b) d a b (fun a b => a * b) s

/-- MULH (R182). -/
def execMulh (d a b : BitVec 5) (s : State) : Host.Outcome State Fault Refusal := binop (.mulh d a b) d a b (fun a b => BitVec.ofInt 64 (a.toInt * b.toInt / 2 ^ 64)) s

/-- MULHU (R182). -/
def execMulhu (d a b : BitVec 5) (s : State) : Host.Outcome State Fault Refusal := binop (.mulhu d a b) d a b (fun a b => BitVec.ofNat 64 (a.toNat * b.toNat / 2 ^ 64)) s

/-- DIV (R182). -/
def execDiv (d a b : BitVec 5) (s : State) : Host.Outcome State Fault Refusal := binop (.div d a b) d a b (fun a b => divS a b) s

/-- DIVU (R182). -/
def execDivu (d a b : BitVec 5) (s : State) : Host.Outcome State Fault Refusal := binop (.divu d a b) d a b (fun a b => divU a b) s

/-- REM (R182). -/
def execRem (d a b : BitVec 5) (s : State) : Host.Outcome State Fault Refusal := binop (.rem d a b) d a b (fun a b => remS a b) s

/-- REMU (R182). -/
def execRemu (d a b : BitVec 5) (s : State) : Host.Outcome State Fault Refusal := binop (.remu d a b) d a b (fun a b => remU a b) s

/-- AND (R182). -/
def execAnd (d a b : BitVec 5) (s : State) : Host.Outcome State Fault Refusal := binop (.and d a b) d a b (fun a b => a &&& b) s

/-- OR (R182). -/
def execOr (d a b : BitVec 5) (s : State) : Host.Outcome State Fault Refusal := binop (.or d a b) d a b (fun a b => a ||| b) s

/-- XOR (R182). -/
def execXor (d a b : BitVec 5) (s : State) : Host.Outcome State Fault Refusal := binop (.xor d a b) d a b (fun a b => a ^^^ b) s

/-- SHL (R182). -/
def execShl (d a b : BitVec 5) (s : State) : Host.Outcome State Fault Refusal := binop (.shl d a b) d a b (fun a b => a <<< (b.toNat % 64)) s

/-- SHR (R182). -/
def execShr (d a b : BitVec 5) (s : State) : Host.Outcome State Fault Refusal := binop (.shr d a b) d a b (fun a b => a >>> (b.toNat % 64)) s

/-- SRA (R182). -/
def execSra (d a b : BitVec 5) (s : State) : Host.Outcome State Fault Refusal := binop (.sra d a b) d a b (fun a b => a.sshiftRight (b.toNat % 64)) s

/-- SLT (R182). -/
def execSlt (d a b : BitVec 5) (s : State) : Host.Outcome State Fault Refusal := binop (.slt d a b) d a b (fun a b => flagW (a.slt b)) s

/-- SLTU (R182). -/
def execSltu (d a b : BitVec 5) (s : State) : Host.Outcome State Fault Refusal := binop (.sltu d a b) d a b (fun a b => flagW (a.ult b)) s

/-- MIN (R182). -/
def execMin (d a b : BitVec 5) (s : State) : Host.Outcome State Fault Refusal := binop (.min d a b) d a b (fun a b => if a.sle b then a else b) s

/-- MAX (R182). -/
def execMax (d a b : BitVec 5) (s : State) : Host.Outcome State Fault Refusal := binop (.max d a b) d a b (fun a b => if a.sle b then b else a) s

/-- MINU (R182). -/
def execMinu (d a b : BitVec 5) (s : State) : Host.Outcome State Fault Refusal := binop (.minu d a b) d a b (fun a b => if a.ule b then a else b) s

/-- MAXU (R182). -/
def execMaxu (d a b : BitVec 5) (s : State) : Host.Outcome State Fault Refusal := binop (.maxu d a b) d a b (fun a b => if a.ule b then b else a) s

/-- SADD (R182). -/
def execSadd (d a b : BitVec 5) (s : State) : Host.Outcome State Fault Refusal := binop (.sadd d a b) d a b (fun a b => satAdd a b) s

/-- CLZ (R183). -/
def execClz (d a : BitVec 5) (s : State) : Host.Outcome State Fault Refusal := unop (.clz d a) d a (fun a => BitVec.ofNat 64 (clz64 a)) s

/-- CTZ (R183). -/
def execCtz (d a : BitVec 5) (s : State) : Host.Outcome State Fault Refusal := unop (.ctz d a) d a (fun a => BitVec.ofNat 64 (ctz64 a)) s

/-- POPC (R183). -/
def execPopc (d a : BitVec 5) (s : State) : Host.Outcome State Fault Refusal := unop (.popc d a) d a (fun a => BitVec.ofNat 64 (popNat a.toNat 64)) s

/-- SEXT8 (R183). -/
def execSext8 (d a : BitVec 5) (s : State) : Host.Outcome State Fault Refusal := unop (.sext8 d a) d a (fun a => sextW 8 a) s

/-- SEXT16 (R183). -/
def execSext16 (d a : BitVec 5) (s : State) : Host.Outcome State Fault Refusal := unop (.sext16 d a) d a (fun a => sextW 16 a) s

/-- SEXT32 (R183). -/
def execSext32 (d a : BitVec 5) (s : State) : Host.Outcome State Fault Refusal := unop (.sext32 d a) d a (fun a => sextW 32 a) s

/-- ZEXT8 (R183). -/
def execZext8 (d a : BitVec 5) (s : State) : Host.Outcome State Fault Refusal := unop (.zext8 d a) d a (fun a => zextW 8 a) s

/-- ZEXT16 (R183). -/
def execZext16 (d a : BitVec 5) (s : State) : Host.Outcome State Fault Refusal := unop (.zext16 d a) d a (fun a => zextW 16 a) s

/-- ZEXT32 (R183). -/
def execZext32 (d a : BitVec 5) (s : State) : Host.Outcome State Fault Refusal := unop (.zext32 d a) d a (fun a => zextW 32 a) s

/-- SEL (R184). -/
def execSel (d a b c : BitVec 5) (s : State) : Host.Outcome State Fault Refusal :=
  go (issue (.sel d a b c) s fun s => s.result d (if s.rx c ≠ 0 then s.rx a else s.rx b))

/-- JALR (R194): a is read before xd is written. -/
def execJalr (d a : BitVec 5) (s : State) : Host.Outcome State Fault Refusal :=
  go (issue (.jalr d a) s fun s =>
    if fld (s.rx a) 0 2 ≠ 0 then s.fault fMisaligned (s.rx a).toNat
    else (s.wx d (s.me.pc + 4)).jump (s.rx a))

/-- ADDI (R185). -/
def execAddi (d a : BitVec 5) (i : BitVec 16) (s : State) : Host.Outcome State Fault Refusal :=
  unop (.addi d a i) d a (fun a => a + i.signExtend 64) s

/-- ANDI (R185). -/
def execAndi (d a : BitVec 5) (i : BitVec 16) (s : State) : Host.Outcome State Fault Refusal :=
  unop (.andi d a i) d a (fun a => a &&& i.signExtend 64) s

/-- ORI (R185). -/
def execOri (d a : BitVec 5) (i : BitVec 16) (s : State) : Host.Outcome State Fault Refusal :=
  unop (.ori d a i) d a (fun a => a ||| i.signExtend 64) s

/-- XORI (R185). -/
def execXori (d a : BitVec 5) (i : BitVec 16) (s : State) : Host.Outcome State Fault Refusal :=
  unop (.xori d a i) d a (fun a => a ^^^ i.signExtend 64) s

/-- SLTI (R185). -/
def execSlti (d a : BitVec 5) (i : BitVec 16) (s : State) : Host.Outcome State Fault Refusal :=
  unop (.slti d a i) d a (fun a => flagW (a.slt (i.signExtend 64))) s

/-- SHLI (R186). -/
def execShli (d a : BitVec 5) (n : BitVec 6) (s : State) : Host.Outcome State Fault Refusal :=
  unop (.shli d a n) d a (fun a => a <<< n.toNat) s

/-- SHRI (R186). -/
def execShri (d a : BitVec 5) (n : BitVec 6) (s : State) : Host.Outcome State Fault Refusal :=
  unop (.shri d a n) d a (fun a => a >>> n.toNat) s

/-- SRAI (R186). -/
def execSrai (d a : BitVec 5) (n : BitVec 6) (s : State) : Host.Outcome State Fault Refusal :=
  unop (.srai d a n) d a (fun a => a.sshiftRight n.toNat) s

/-- BFX (R186): w is the field amt, so the width is w + 1. -/
def execBfx (d a : BitVec 5) (p w : BitVec 6) (s : State) : Host.Outcome State Fault Refusal :=
  unop (.bfx d a p w) d a (fun a => BitVec.ofNat 64 (fld a p.toNat (w.toNat + 1))) s

/-- BFI (R186): it reads xd as well. -/
def execBfi (d a : BitVec 5) (p w : BitVec 6) (s : State) : Host.Outcome State Fault Refusal :=
  go (issue (.bfi d a p w) s fun s => s.result d (setFld (s.rx d) p.toNat (w.toNat + 1) (s.rx a).toNat))

/-- LI (R187). -/
def execLi (d : BitVec 5) (i : BitVec 16) (s : State) : Host.Outcome State Fault Refusal :=
  go (issue (.li d i) s fun s => s.result d (i.signExtend 64))

/-- LIH (R187): quarter q; the other bits of xd are kept. -/
def execLih (d : BitVec 5) (q : BitVec 2) (i : BitVec 16) (s : State) : Host.Outcome State Fault Refusal :=
  go (issue (.lih d q i) s fun s => s.result d (setFld (s.rx d) (16 * q.toNat) 16 i.toNat))

/-- LDB (R189). -/
def execLdb (d a : BitVec 5) (c : BitVec 4) (o : BitVec 8) (s : State) : Host.Outcome State Fault Refusal :=
  loadX (.ldb d a c o) d a c o 1 true s

/-- LDBU (R189). -/
def execLdbu (d a : BitVec 5) (c : BitVec 4) (o : BitVec 8) (s : State) : Host.Outcome State Fault Refusal :=
  loadX (.ldbu d a c o) d a c o 1 false s

/-- LDH (R189). -/
def execLdh (d a : BitVec 5) (c : BitVec 4) (o : BitVec 8) (s : State) : Host.Outcome State Fault Refusal :=
  loadX (.ldh d a c o) d a c o 2 true s

/-- LDHU (R189). -/
def execLdhu (d a : BitVec 5) (c : BitVec 4) (o : BitVec 8) (s : State) : Host.Outcome State Fault Refusal :=
  loadX (.ldhu d a c o) d a c o 2 false s

/-- LDW (R189). -/
def execLdw (d a : BitVec 5) (c : BitVec 4) (o : BitVec 8) (s : State) : Host.Outcome State Fault Refusal :=
  loadX (.ldw d a c o) d a c o 4 true s

/-- LDWU (R189). -/
def execLdwu (d a : BitVec 5) (c : BitVec 4) (o : BitVec 8) (s : State) : Host.Outcome State Fault Refusal :=
  loadX (.ldwu d a c o) d a c o 4 false s

/-- LD (R189). -/
def execLd (d a : BitVec 5) (c : BitVec 4) (o : BitVec 8) (s : State) : Host.Outcome State Fault Refusal :=
  loadX (.ld d a c o) d a c o 8 false s

/-- STB (R190). -/
def execStb (d a : BitVec 5) (c : BitVec 4) (o : BitVec 8) (s : State) : Host.Outcome State Fault Refusal :=
  storeX (.stb d a c o) d a c o 1 s

/-- STH (R190). -/
def execSth (d a : BitVec 5) (c : BitVec 4) (o : BitVec 8) (s : State) : Host.Outcome State Fault Refusal :=
  storeX (.sth d a c o) d a c o 2 s

/-- STW (R190). -/
def execStw (d a : BitVec 5) (c : BitVec 4) (o : BitVec 8) (s : State) : Host.Outcome State Fault Refusal :=
  storeX (.stw d a c o) d a c o 4 s

/-- ST (R190). -/
def execSt (d a : BitVec 5) (c : BitVec 4) (o : BitVec 8) (s : State) : Host.Outcome State Fault Refusal :=
  storeX (.st d a c o) d a c o 8 s

/-- LOOP (R193). -/
def execLoop (a : BitVec 5) (o : BitVec 16) (s : State) : Host.Outcome State Fault Refusal :=
  go (issue (.loop a o) s fun s =>
    let n := s.rx a - 1
    let t := s.wx a n
    if n ≠ 0 then t.jump (s.target o) else t.goOn)

/-- BEQ (R192). -/
def execBeq (a b : BitVec 5) (o : BitVec 16) (s : State) : Host.Outcome State Fault Refusal :=
  branch (.beq a b o) a b o (fun a b => a == b) s

/-- BNE (R192). -/
def execBne (a b : BitVec 5) (o : BitVec 16) (s : State) : Host.Outcome State Fault Refusal :=
  branch (.bne a b o) a b o (fun a b => a != b) s

/-- BLT (R192). -/
def execBlt (a b : BitVec 5) (o : BitVec 16) (s : State) : Host.Outcome State Fault Refusal :=
  branch (.blt a b o) a b o (fun a b => a.slt b) s

/-- BGE (R192). -/
def execBge (a b : BitVec 5) (o : BitVec 16) (s : State) : Host.Outcome State Fault Refusal :=
  branch (.bge a b o) a b o (fun a b => b.sle a) s

/-- BLTU (R192). -/
def execBltu (a b : BitVec 5) (o : BitVec 16) (s : State) : Host.Outcome State Fault Refusal :=
  branch (.bltu a b o) a b o (fun a b => a.ult b) s

/-- BGEU (R192). -/
def execBgeu (a b : BitVec 5) (o : BitVec 16) (s : State) : Host.Outcome State Fault Refusal :=
  branch (.bgeu a b o) a b o (fun a b => b.ule a) s

end Sys2Proof.Machine
end

