-- ==== Sys2Proof/Machine/System.lean ====
section
/-! DEFINITION. Jumps, REP, REGION, WAIT, FENCE, ACQ, REL, the monitor, system registers, traps (R194 to R217). -/

namespace Sys2Proof.Machine

/-- JMP (R194). -/
def execJmp (o : BitVec 26) (s : State) : Host.Outcome State Fault Refusal :=
  go (issue (.jmp o) s fun s => s.jump (s.target o))

/-- JAL (R194). -/
def execJal (o : BitVec 26) (s : State) : Host.Outcome State Fault Refusal :=
  go (issue (.jal o) s fun s => (s.wx 31 (s.me.pc + 4)).jump (s.target o))

/-- REP (R196, R198): the unit takes the word that follows, which the instruction cache must hold. -/
def execRep (n : BitVec 6) (m : BitVec 3) (s : State) : Host.Outcome State Fault Refusal :=
  go (issue (.rep n m) s fun s =>
    let pc := s.me.pc
    match s.cached s.cur.at_ (pc + 4).toNat with
    | none => s.block (.fetch (pc + 4).toNat none)
    | some w =>
      if repOk s w (n.toNat + 1) m then
        s.updMe fun c => { c with pc := pc + 4, status := .running, rep := some ⟨w, n.toNat + 1, 0, m, pc⟩ }
      else s.illegal (wordOfInstr (.rep n m)))

/-! ## Regions (R69, R70, R200) -/

/-- A context has issued the REGION or EXIT that the barrier waits for. -/
def Context.atBarrier (c : Context) : Bool := c.status == .parked || c.arrived

/-- All three contexts stand at the barrier, and one of them has not exited. -/
def Core.barrierMet (c : Core) : Bool :=
  c.l.atBarrier && c.c.atBarrier && c.s.atBarrier &&
  !(c.l.status == .parked && c.c.status == .parked && c.s.status == .parked)

/-- A load queue or a store queue holds an entry. -/
def Core.queuesHold (c : Core) : Bool := c.lq.toList.any (fun q => !q.isEmpty) || c.sq.toList.any (fun q => !q.isEmpty)

/-- A context enters the next region: one that waits at its REGION goes on past it; one that has exited stays parked,
and is marked as having exited in an earlier region. The takes of the region that ends are final (R288). -/
def Context.enterRegion (c : Context) : Context :=
  if c.status == .parked then { c with arrived := true, semTakes := [] }
  else { c with
    entry := c.pc, inputs := c.nextInputs, arrived := false, pc := c.pc + 4, status := .running
    semTakes := [], gbarAtEntry := c.gbar }

/-- The barrier completes: the region is open, and R222's record is taken. -/
def Core.enterRegion (c : Core) : Core :=
  { c.updCtxs Context.enterRegion with
    closed := false
    snap := ⟨c.vf.vtype, c.vf.lfsr, c.vf.ppuN, c.vf.ppu, c.vf.ppuSet⟩ }

/-! ## Stopping for pre-emption (R71, R222, R287, R288, R290, R344) -/

/-- A context's region is discarded: it stands at its entry with its named inputs alone, unless it exited in an earlier
region. -/
def Context.discard (c : Context) : Context :=
  if c.status == .parked && c.arrived then c
  else { c with
    pc := c.entry
    x := Vector.ofFn fun (i : Fin 32) => if decide (1 ≤ i.val) && bitAt c.inputs (i.val - 1) then c.x[i] else 0
    k := Vector.replicate 8 0
    status := .stopped
    arrived := false
    semTakes := []
    gbar := c.gbarAtEntry
    rep := none
    mon := ⟨none, false⟩
    heldShape := none
    begun := none
    joining := none
    frozen := false
    fresh := true
    out := [] }

/-- Give back the SEMW takes of a context (R288). -/
def giveBack (l : List (Nat × Nat)) (v : Vector (BitVec 16) 64) : Vector (BitVec 16) 64 :=
  l.foldl (fun v x => v.set (Fin.ofNat 64 x.1) (BitVec.ofNat 16 (min 65535 (v[Fin.ofNat 64 x.1].toNat + x.2)))) v

/-- A core whose task stops: its region is discarded. -/
def Core.stop (c : Core) : Core :=
  { c.updCtxs Context.discard with
    sem := giveBack c.s.semTakes (giveBack c.c.semTakes (giveBack c.l.semTakes c.sem))
    vf := { c.vf with
      v := Vector.replicate 56 0, m := Vector.replicate 8 0
      vtype := c.snap.vtype, lfsr := c.snap.lfsr, ppuN := c.snap.ppuN, ppu := c.snap.ppu, ppuSet := c.snap.ppuSet }
    h := Vector.replicate 16 0
    lq := Vector.replicate 4 []
    sq := Vector.replicate 4 []
    task := c.task.map fun t => { t with phase := .stopped } }

/-- A task that is to stop has its region open. -/
def Core.canStop (c : Core) : Bool := !c.closed && match c.task with | some t => t.phase == .stopping | none => false

/-- The task on a core stops if it is to stop and every member of its gang can stop at this instant (R58). -/
def State.stopGang (s : State) (r : CoreRef) : State :=
  match (s.core r).task with
  | none => s
  | some t =>
    let all := r :: s.gangPeers r t
    if all.all fun k => (s.core k).canStop then
      all.foldl (fun s k => (s.dropHeld k).updCore k Core.stop) s
    else s

/-- The barrier completes once the accesses of the three contexts have performed at core scope (R120); a task that is to
stop does so there (R71). -/
def State.tryBarrier (s : State) (r : CoreRef) : State :=
  let c := s.core r
  if c.barrierMet && (ctxNames.all fun n => s.settled ⟨r, n⟩) then (s.updCore r Core.enterRegion).stopGang r else s

/-- The barrier after the executing context's arrival: queues that hold an entry make it a fault of that context (R69). -/
def State.arriveBarrier (s : State) (w : CtlWord) : State :=
  if s.myCore.barrierMet then
    if s.myCore.queuesHold then s.illegal w else s.tryBarrier s.cur.at_
  else s

/-- REGION (R200). -/
def execRegion (m : BitVec 26) (s : State) : Host.Outcome State Fault Refusal :=
  go (issue (.region m) s fun s =>
    if s.me.arrived then s.tryBarrier s.cur.at_
    else (s.updMe fun c => { c with arrived := true, nextInputs := m, status := .waiting .barrier }).arriveBarrier
      (wordOfInstr (.region m)))

/-! ## WAIT and FENCE (R202 to R204) -/

/-- The loads counter: QLD and QLDR whose row has not entered its queue. -/
def Context.loadsOut (c : Context) : Nat := (c.out.filter fun a => match a.op with | .qld .. => true | _ => false).length

/-- Whether the stores counter counts an outstanding access: stores, QST, QSTR, FPUT, FRESET and SPAWN. -/
def Access.isStore (a : Access) : Bool :=
  match a.op with
  | .qld .. | .fence _ | .evsig _ | .sems _ | .rpub .. => false
  | _ => true

/-- The stores counter: outstanding stores, logged stores, and wide RELs that have not performed at package scope. -/
def State.storesOut (s : State) (c : CtxRef) : Nat :=
  ((s.ctx c).out.filter Access.isStore).length +
  ((s.core c.at_).sideLog.filter fun e => e.ctx == c.ctx).length +
  ((s.die c.at_.site).buf.filter fun w => w.ctx == c && match w.rel with | some r => decide (2 ≤ r.scope.toNat) | none => false).length

/-- A QFENCE entry. -/
def QEntry.isFence (e : QEntry) : Bool := match e.cmd with | .qfence .. => true | _ => false

/-- The entries of a queue that a context pushed. -/
def Core.pushedOn (c : Core) (e : Fin 6) (n : CtxName) : List QEntry := (c.eng[e]).filter fun q => q.ctx == n

/-- The copies counter. -/
def Core.copiesOut (c : Core) (n : CtxName) : Nat :=
  ((c.pushedOn 1 n ++ c.pushedOn 2 n).filter fun q => !q.isFence).length

/-- The tiles counter: every other command, each QFENCE once. -/
def Core.tilesOut (c : Core) (n : CtxName) : Nat :=
  ((c.pushedOn 0 n ++ c.pushedOn 3 n ++ c.pushedOn 4 n ++ c.pushedOn 5 n).filter fun q => !q.isFence).length +
  (((c.eng.toList.flatMap fun q => q).filter fun q => q.isFence && q.ctx == n).map QEntry.grp).eraseDups.length

/-- WAIT (R203). -/
def execWait (l st c t : BitVec 4) (s : State) : Host.Outcome State Fault Refusal :=
  go (issue (.wait l st c t) s fun s =>
    if s.me.loadsOut ≤ l.toNat ∧ s.storesOut s.cur ≤ st.toNat ∧ s.myCore.copiesOut s.cur.ctx ≤ c.toNat ∧
       s.myCore.tilesOut s.cur.ctx ≤ t.toNat
    then s.goOn else s.block .counters)

/-- FENCE (R108, R204): it stands among the outstanding accesses while an earlier access of a named class has not
performed, and holds later ones of these classes back. -/
def execFence (m : BitVec 16) (s : State) : Host.Outcome State Fault Refusal :=
  go (issue (.fence m) s fun s =>
    if s.drained s.cur m then s.goOn else (s.issueAccess m (.fence m) 0 []).goOn)

/-! ## ACQ and REL (R205 to R207) -/

/-- ACQ. -/
def execAcq (d a b : BitVec 5) (sc : BitVec 2) (s : State) : Host.Outcome State Fault Refusal :=
  go (issue (.acq d a b sc) s fun s =>
    let ea := (s.rx a).toNat
    let m : BitVec 16 := (s.rx b).setWidth 16
    withAligned s ea 8 fun s => issueLoad s [ea] 8 (maskClasses m) (.acq d sc m))

/-- REL. -/
def execRel (d a b : BitVec 5) (sc : BitVec 2) (s : State) : Host.Outcome State Fault Refusal :=
  go (issue (.rel d a b sc) s fun s =>
    let ea := (s.rx a).toNat
    let m : BitVec 16 := (s.rx b).setWidth 16
    withAligned s ea 8 fun s =>
      issueStore s (maskClasses m) [(ea, .rel (s.rx d) sc m)])

/-! ## The monitor (R208 to R210) -/

/-- MON: the read of the word that holds the address stands for the read of its line. A page or poison fault of a MON whose
address is not aligned names that word's address: R208 says only a host virtual address. DESIGN CHOICE (log 106). -/
def execMon (a : BitVec 5) (s : State) : Host.Outcome State Fault Refusal :=
  go (issue (.mon a) s fun s => issueLoad s [(s.rx a).toNat / 8 * 8] 8 1 .mon)

/-- MWAIT returns: the monitor is no longer armed. -/
def State.mwaitDone (s : State) : State := (s.updMe fun c => { c with mon := ⟨none, false⟩ }).goOn

/-- The time limit of MWAIT in clk (R209). -/
def mwaitLimit (a : Word) : Nat := min a.toNat 2097152

/-- MWAIT. -/
def execMwait (a : BitVec 5) (s : State) : Host.Outcome State Fault Refusal :=
  go (issue (.mwait a) s fun s =>
    match s.me.mon.armed with
    | none => s.goOn
    | some _ =>
      if s.me.mon.trigger then s.mwaitDone
      else match s.me.status with
        | .waiting (.mwait t) => if t ≤ s.now then s.mwaitDone else s
        | _ => if mwaitLimit (s.rx a) = 0 then s.mwaitDone else s.block (.mwait (s.now + mwaitLimit (s.rx a) * tClk)))

/-! ## VDHOP, TIME, system registers (R211 to R215) -/

/-- The hop distance of two sites (R18). -/
def hopDist (a b : Nat) : Nat := (max (a % 3) (b % 3) - min (a % 3) (b % 3)) + (max (a / 3) (b / 3) - min (a / 3) (b / 3))

/-- The site that a virtual die is bound to (R21). -/
def siteOf (vdtab : Word) (v : Nat) : Option Nat :=
  if v < 8 ∧ bitAt vdtab (8 * v + 7) then some (fld vdtab (8 * v) 3) else none

/-- VDHOP. Where both virtual dies are unbound the spec names neither for ADDR: the model names a's. DESIGN CHOICE
(log 86). -/
def execVdhop (d a b : BitVec 5) (s : State) : Host.Outcome State Fault Refusal :=
  go (issue (.vdhop d a b) s fun s =>
    let t := s.me.vdtab
    match siteOf t (s.rx a).toNat, siteOf t (s.rx b).toNat with
    | some x, some y => s.result d (BitVec.ofNat 64 (hopDist x y))
    | none, _ => s.fault fUnbound (s.rx a).toNat
    | _, none => s.fault fUnbound (s.rx b).toNat)

/-- TIME. -/
def execTime (d : BitVec 5) (s : State) : Host.Outcome State Fault Refusal :=
  go (issue (.time d) s fun s => s.result d (BitVec.ofNat 64 s.bclk))

/-- CFRAG (R33). -/
def State.cfrag (s : State) (r : CoreRef) : Nat :=
  let role := s.role r
  let lead := if role = 0 then r.core.val else (((s.die r.site).fragOf r.core).map fun x => x.1.val).getD r.core.val
  let cls := if role = 1 then ((s.stageOf r).map StageDecl.cls).getD 0 else 0
  role + cls * 2 ^ 3 + lead * 2 ^ 8 + ((vdieOf (s.core r).c.vdtab r.site.val).getD 0) * 2 ^ 12

/-- GANGINFO (R48). -/
def State.ganginfo (s : State) (r : CoreRef) : Nat :=
  match (s.core r).task with
  | some t => t.member + t.gangSize * 2 ^ 8 + t.record.stage * 2 ^ 16
  | none => 0

/-- The value of a system register (R169). -/
def State.sysreg (s : State) (r : BitVec 8) : Word :=
  let c := s.myCore
  match r.toNat with
  | 0x00 => c.vf.vtype
  | 0x01 => c.vf.vstat.setWidth 64
  | 0x02 => c.vf.lfsr.setWidth 64
  | 0x08 => s.me.vdtab
  | 0x09 => BitVec.ofNat 64 (s.die s.cur.at_.site).layout.toNat
  | 0x0A => BitVec.ofNat 64 (s.cfrag s.cur.at_)
  | 0x0B => BitVec.ofNat 64 (s.ganginfo s.cur.at_)
  | n => (c.vf.am[Fin.ofNat 16 (n - 0x10)]).setWidth 64

/-- SRD. -/
def execSrd (d : BitVec 5) (r : BitVec 8) (s : State) : Host.Outcome State Fault Refusal :=
  go (issue (.srd d r) s fun s => s.result d (s.sysreg r))

/-- Whether SWR accepts a value for a register: reserved fields 0 and the register's own checks (R214, R150, R170, R375). -/
def swrOk (s : State) (r : BitVec 8) (v : Word) : Bool :=
  match r.toNat with
  | 0x00 => fld v 9 55 == 0 && !bitAt v 7 && vtypeCodeOk (v.setWidth 4) && decide (fld v 4 3 ≤ 4) && fmtFeature s (fld v 0 4)
  | 0x01 => fld v 6 58 == 0
  | 0x02 => fld v 32 32 == 0
  | _ => fld v 33 31 == 0 && !bitAt v 31 && decide (fld v 0 31 ≤ 0x7F800000)

/-- The vector state after an accepted SWR (R143, R149, R150, R170, R214). -/
def VectorFile.swr (f : VectorFile) (r : BitVec 8) (v : Word) : VectorFile :=
  match r.toNat with
  | 0x00 => { f with vtype := v }
  | 0x01 => { f with vstat := f.vstat &&& ~~~(v.setWidth 6) }
  | 0x02 => { f with lfsr := if fld v 0 32 = 0 then 1 else v.setWidth 32 }
  | n => { f with am := f.am.set (Fin.ofNat 16 (n - 0x10)) (v.setWidth 33) }

/-- SWR. -/
def execSwr (a : BitVec 5) (r : BitVec 8) (s : State) : Host.Outcome State Fault Refusal :=
  go (issue (.swr a r) s fun s =>
    if swrOk s r (s.rx a) then
      let v := s.rx a
      (s.sideEffect.updMyCore fun c => { c with vf := c.vf.swr r v }).goOn
    else s.illegal (wordOfInstr (.swr a r)))

/-! ## NOP, BRK, TRAP (R216, R217) -/

/-- NOP. -/
def execNop (s : State) : Host.Outcome State Fault Refusal := go (issue .nop s fun s => s.goOn)

/-- x1 to x4 as a record's DATA (R339). -/
def Context.trapData (c : Context) : BitVec 256 :=
  BitVec.ofNat 256 ((c.rd 1).toNat + (c.rd 2).toNat * 2 ^ 64 + (c.rd 3).toNat * 2 ^ 128 + (c.rd 4).toNat * 2 ^ 192)

/-- BRK. -/
def execBrk (s : State) : Host.Outcome State Fault Refusal :=
  go (issue .brk s fun s => s.ctxFault s.cur fBreak 0 0 s.me.trapData)

/-- TRAP. -/
def execTrap (c : BitVec 9) (s : State) : Host.Outcome State Fault Refusal :=
  go (issue (.trap c) s fun s => s.ctxFault s.cur fTrap 0 (c.setWidth 64) s.me.trapData)

end Sys2Proof.Machine
end

