-- ==== Sys2Proof/Machine/Tasks.lean ====
section
/-! DEFINITION. The task instructions of majors 0x30 to 0x34 (19_tasks.md), futures at their home (R66, R67, R281 to
R285), and gang barriers (R286, R287). -/

namespace Sys2Proof.Machine

/-! ## Futures at their home -/

/-- A task that was parked becomes pending again (R67); that of another package's pipeline does so there. -/
def State.unpark (s : State) (p : Parked) : State :=
  if p.away then s
  else s.updPipe p.pipe fun q =>
    if q.modes[p.record.stage]? = some .stopped then q else { q with replays := q.replays ++ [⟨p.record, p.resv⟩] }

/-- Every parked task whose counter is 0 and whose squash has finished becomes pending, in the order of parking (R284). -/
def State.wakeParked (s : State) : State :=
  let ready (p : Parked) : Bool := p.count == 0 && p.squash.isNone
  let s' := (s.homes.parked.filter ready).foldl State.unpark s
  s'.updHomes fun h => { h with parked := h.parked.filter fun p => !ready p }

/-- An FPUT or a retirement fill finds an empty cell: cell, tag, and the tasks parked on it (R67, R282). -/
def State.fillCell (s : State) (dla : Nat) (v : Word) : State :=
  let s := s.homeWrite dla 8 v.toNat
  let s := s.updHomes fun h =>
    { h with full := addNew (lineOf dla) h.full
             parked := h.parked.map fun p => if p.cell = dla then { p with count := p.count - 1 } else p }
  s.wakeParked

/-- Whether the cell's line carries a full tag (R281). -/
def Homes.tagFull (h : Homes) (dla : Nat) : Bool := decide (lineOf dla ∈ h.full)

/-- FRESET at the home (R282). -/
def State.resetCell (s : State) (dla : Nat) : State :=
  (s.homeWrite dla 8 0).updHomes fun h => { h with full := h.full.filter (· != lineOf dla) }

/-- The slice at which a cell's tasks are parked. -/
def Homes.slice (h : Homes) (dla : Nat) : Home := h.curHome (pageOf dla)

/-- The home's store of 4,096 parked records has a place (R66). -/
def Homes.parkRoom (h : Homes) (dla : Nat) : Bool := decide ((h.parked.filter fun p => h.slice p.cell == h.slice dla).length < 4096)

/-- A context of a squashed task: everything in it is discarded. -/
def Context.squash (c : Context) : Context := { c.halt with out := [], heldShape := none, semTakes := [] }

/-- The first act of a squash, at the home (R66, R283, R284): the record is parked with its dependence counter raised, the
three contexts stop, the queues' contents are discarded, and the SEMW takes are given back. No context of the task has issued
an instruction of R65: the bit was clear when the FGET issued, and none issues while it is out (log 104), so there is nothing
that another agent could see (R125). -/
def State.squash (s : State) (r : CoreRef) (dla count : Nat) : State :=
  match (s.core r).task with
  | none => s
  | some t =>
    let s := (s.dropHeld r).updHomes fun h =>
      { h with parked := h.parked ++ [⟨dla, t.pipe, t.record, t.resv, count, some r, h.parked.length, false⟩] }
    s.updCore r fun c => { c.updCtxs Context.squash with
      lq := Vector.replicate 4 []
      sq := Vector.replicate 4 []
      sem := giveBack c.s.semTakes (giveBack c.c.semTakes (giveBack c.l.semTakes c.sem))
      task := some { t with phase := .squashing } }

/-- A task whose record finds no place stays blocked on its core: its contexts issue no more (R66). -/
def State.freeze (s : State) (a : Nat) : State :=
  ((s.block (.park a)).updMyCore fun c => c.updCtxs fun x => { x with frozen := true }).updMe fun c => { c with frozen := false }

/-- The executing context's instruction has issued; it may still wait. -/
def State.begin (s : State) (b : Begun) : State := s.updMe fun c => { c with begun := some b }

/-- A word of a line that a core's context reads at its home meets poison: at the home, or in the M copy of its own die
(R349). -/
def State.lineBad (s : State) (i : Fin 6) (dla : Nat) : Bool :=
  s.homes.poisoned (lineOf dla) || (s.die i).badLines.contains (lineOf dla)

/-- FGET reaches the cell's home, whose answer it waits for, its page pinned. The page is routed, and another die's M copy
forwarded, before it is resolved there; its pin is then released (R79). -/
def State.fgetHome (s : State) (d : BitVec 5) (ea dla : Nat) (asked : Option Nat) : State :=
  let r := s.cur.at_
  let s := s.block (.home (some dla) asked)
  if !s.reachable (s.homes.slice dla).pkg || !s.routed r.site (pageOf dla) then s
  else withReads s (some r.site) [lineOf dla] fun s =>
    let s := s.accept r.site [lineOf dla]
    if s.lineBad r.site dla then s.fault fPoison ea
    else if s.homes.tagFull dla then (s.unpin [pageOf dla]).result d (BitVec.ofNat 64 (s.cohN dla 8))
    else if s.homes.parkRoom dla then s.squash r dla 1
    else (s.unpin [pageOf dla]).freeze dla

/-- FGET (R66, R282, R283). Whether it may issue is settled as it issues; it then stands begun until its answer. A task that
waits for a place to be parked is parked once one frees: with nothing to wait for, if its cell has been filled since (log
87). -/
def execFget (d a : BitVec 5) (s : State) : Host.Outcome State Fault Refusal :=
  go (issue (.fget d a) s fun s =>
    let r := s.cur.at_
    let ea := (s.rx a).toNat
    let t := s.myCore.task
    let barred := (t.map fun t => t.sideEffect || decide (t.gangSize > 1)).getD false ||
      ((t.map Task.usedQldr).getD false && (((s.stageOf r).map StageDecl.ins).getD []).any fun x => (s.myCore.ring x.1).rem)
    match s.me.status with
    | .waiting (.park dla) =>
      if s.homes.parkRoom dla then (s.squash r dla (if s.homes.tagFull dla then 0 else 1)).wakeParked else s
    | .waiting (.home (some dla) asked) => s.fgetHome d ea dla asked
    | _ =>
      if barred && s.me.begun.isNone then s.illegal (wordOfInstr (.fget d a))
      else withAligned s ea 8 fun s =>
        withXlat (s.begin .fget) [ea] false State.awaitRead State.awaitRead fun s dlas => s.fgetHome d ea (dlas.headD 0) none)

/-- FPUT (R282): a release of every class, applied at the home when it performs. -/
def execFput (a b : BitVec 5) (s : State) : Host.Outcome State Fault Refusal :=
  go (issue (.fput a b) s fun s =>
    let ea := (s.rx a).toNat
    withAligned s ea 8 fun s => issueStore s allCls [(ea, .fput (s.rx b))])

/-- FRESET (R282): an access of every class. -/
def execFreset (a : BitVec 5) (s : State) : Host.Outcome State Fault Refusal :=
  go (issue (.freset a) s fun s =>
    let ea := (s.rx a).toNat
    withAligned s ea 8 fun s => issueStore s allCls [(ea, .freset)])

/-! ## SPAWN and JOIN -/

/-- The SPAWNs of a context whose child is not yet queued, by their numbers: outstanding, or begun. -/
def Context.spawns (c : Context) : List Nat :=
  (c.out.filterMap fun x => match x.op with | .spawn _ _ n => some n | _ => none) ++
  match c.begun with | some (.spawn n) => [n] | _ => []

/-- The SPAWNs of a core's task whose child is not yet queued. -/
def Core.spawns (c : Core) : List Nat := c.l.spawns ++ c.c.spawns ++ c.s.spawns

/-- A SPAWN has issued: it is a side effect (R65), and takes the task's next number. -/
def State.countSpawn (s : State) : State :=
  s.sideEffect.updTask s.cur.at_ fun t => { t with spawned := t.spawned + 1 }

/-- The 16 loads of a SPAWN's image (R276). -/
def State.spawnImage (s : State) (ea : Nat) (m : BitVec 16) (no : Nat) : State :=
  issueLoad s ((List.range 16).map fun k => ea + 8 * k) 8 (maskClasses m) (.spawn m no)

/-- SPAWN (R276): room in the local task queue, and it has issued (R65); then the image as 16 loads; what follows stands with
the loads' return. -/
def execSpawn (a : BitVec 5) (m : BitVec 16) (s : State) : Host.Outcome State Fault Refusal :=
  go (issue (.spawn a m) s fun s =>
    let ea := (s.rx a).toNat
    match s.me.begun with
    | some (.spawn no) => s.spawnImage ea m no
    | _ =>
      withAligned s ea 128 fun s =>
        if s.myCore.kids.length + s.myCore.spawns.length ≥ 64 then s.block .taskQueue
        else
          let no := (s.myCore.task.map Task.spawned).getD 0
          (s.countSpawn.begin (.spawn no)).spawnImage ea m no)

/-- JOIN at the home of its word (R279): first every SPAWN that the task issued before it has made its increment; then the
word is read, and while it is not 0 the home watches it. A watch that has seen it 0 ends the JOIN once the line is forwarded
and committed, as for any read there (R116). The page of its word stays pinned until it performs: R279 has JOIN translate as a
scalar load does, whose pin R79 keeps so long. DEDUCED (log 130). -/
def State.joinAt (s : State) (hva : Word) (dla : Nat) (j : JoinWait) : State :=
  let r := s.cur.at_
  let wait (s : State) (j : JoinWait) : State := (s.block (.join hva dla)).updMe fun c => { c with joining := some j }
  let done (s : State) : State := ((s.unpin [pageOf dla]).updMe fun c => { c with joining := none }).goOn
  if s.myCore.spawns.any fun n => decide (n < j.upto) then wait s j
  else match j.watch with
    | some true => withReads (wait s j) (some r.site) [lineOf dla] fun s =>
        if s.lineBad r.site dla then s.fault fPoison hva.toNat else done s
    | some false => wait s j
    | none =>
      if !s.reachable (s.homes.slice dla).pkg || !s.routed r.site (pageOf dla) then wait s j
      else withReads (wait s j) (some r.site) [lineOf dla] fun s =>
        let s := s.accept r.site [lineOf dla]
        if s.lineBad r.site dla then s.fault fPoison hva.toNat
        else if s.cohN dla 8 = 0 then done s
        else wait s { j with watch := some false, asked := none }

/-- JOIN (R279). The SPAWNs that it waits for are those issued before it issues. -/
def execJoin (a : BitVec 5) (s : State) : Host.Outcome State Fault Refusal :=
  go (issue (.join a) s fun s =>
    let ea := (s.rx a).toNat
    match s.me.status, s.me.joining with
    | .waiting (.join h d), some j => s.joinAt h d j
    | _, j =>
      withAligned s ea 8 fun s =>
        let upto := (j.map JoinWait.upto).getD ((s.myCore.task.map Task.spawned).getD 0)
        withXlat (s.updMe fun c => { c with joining := some ⟨upto, none, none, none⟩ }) [ea] false State.awaitRead State.awaitRead
          fun s dlas => s.joinAt (s.rx a) (dlas.headD 0) ⟨upto, none, none, none⟩)

/-! ## Gang barriers (R286, R287) -/

/-- The cores of a task's gang, its own included. -/
def State.gang (s : State) (r : CoreRef) : List CoreRef :=
  match (s.core r).task with
  | none => []
  | some t => r :: s.gangPeers r t

/-- Whether a context waits at barrier k. -/
def Context.atGbar (c : Context) (k : Nat) : Bool := c.status == .waiting (.gbar k)

/-- A context that waited at barrier k goes on. -/
def Context.passGbar (k : Nat) (c : Context) : Context := if c.atGbar k then { c.next with gbar := k } else c

/-- The highest completed barrier that the gang's unit recorded for a letter (R287). -/
def State.gbarPassed (s : State) (r : CoreRef) (n : CtxName) : Nat :=
  match (s.core r).task with
  | none => 0
  | some t => ((s.pipe? t.pipe).bind fun p => (p.gbarDone.find? fun x => x.1 == t.gangId && x.2.1 == n).map fun x => x.2.2).getD 0

/-- Record barrier k as completed. -/
def State.recordGbar (s : State) (r : CoreRef) (n : CtxName) (k : Nat) : State :=
  match (s.core r).task with
  | none => s
  | some t => s.updPipe t.pipe fun p =>
      { p with gbarDone := (t.gangId, n, max k (s.gbarPassed r n)) :: p.gbarDone.filter fun x => !(x.1 == t.gangId && x.2.1 == n) }

/-- A member's context has exited before barrier k of its letter (R287). -/
def Context.missed (c : Context) (k : Nat) : Bool := c.status == .parked && decide (c.gbar < k)

/-- Complete barrier k of a letter if every member's context waits at it and the release can perform. -/
def State.tryGbar (s : State) (r : CoreRef) (n : CtxName) (k : Nat) : State :=
  let g := s.gang r
  if (g.all fun q => ((s.core q).ctx n).atGbar k) && (g.all fun q => s.releaseReady ⟨q, n⟩ allCls true) then
    let s := g.foldl (fun s q => (s.commitCovered ⟨q, n⟩ allCls).updCtx ⟨q, n⟩ (Context.passGbar k)) s
    s.recordGbar r n k
  else s

/-- The gang-barrier fault of a member that has retired, and so has exited, before barrier k: it ends no more, so every
member that runs ends as its peer; of several the record names the lowest (R287; log 88). -/
def State.gbarGone (s : State) (r : CoreRef) (f : FaultInfo) : State :=
  match (s.core r).task with
  | none => s
  | some t =>
    let g := s.gang r
    let here := g.filterMap fun q => (s.core q).task.map Task.member
    let gone := ((List.range t.gangSize).find? fun m => !here.contains m).getD 0
    (g.foldl (fun s q => s.endTask q f (some gone)) s).beginShutdown t.pipe 0x01 [t.record.stage]

/-- GBAR. A member that has retired has exited before barrier k as well. -/
def execGbar (s : State) : Host.Outcome State Fault Refusal :=
  go (issue .gbar s fun s =>
    let r := s.cur.at_
    let n := s.cur.ctx
    let k := s.me.gbar + 1
    match (s.gang r).find? fun q => ((s.core q).ctx n).missed k with
    | some q => s.takeFault q ⟨fGang, ctxCode n, 0, none, s.me.pc, k, 0, 0⟩
    | none =>
      if k ≤ s.gbarPassed r n then
        if s.releaseReady s.cur allCls true then ((s.commitCovered s.cur allCls).updMe fun c => { c with gbar := k }).goOn
        else s.block (.gbar k)
      else if decide ((s.gang r).length < ((s.core r).task.map Task.gangSize).getD 0) then
        s.gbarGone r ⟨fGang, ctxCode n, 0, none, s.me.pc, k, 0, 0⟩
      else (s.block (.gbar k)).tryGbar r n k)

/-! ## EXIT (R44, R52, R53, R280, R287) -/

/-- The queue ports that C's waiting instruction names. -/
def Context.waitPorts (c : Context) : BitVec 8 :=
  match c.status with
  | .waiting (.loadQueue _ m) | .waiting (.storeQueue _ m) => m
  | _ => 0

/-- All queue numbers. -/
def queueNos : List (Fin 4) := [0, 1, 2, 3]

/-- A context that waits on a queue whose other end exits can go no further (R44): who, its queue. At C's EXIT both L and
S may be such contexts, and the task takes one fault: the spec does not say whose, and the model takes L's. DESIGN CHOICE
(log 85). -/
def Core.orphanAt (c : Core) (by_ : CtxName) : Option (CtxName × Nat) :=
  match by_ with
  | .load => (queueNos.find? fun q => bitAt c.c.waitPorts q.val && c.lq[q].isEmpty).map fun q => (.compute, q.val)
  | .compute =>
    let l := match c.l.status with
      | .waiting (.loadRoom q) => if 8 ≤ c.lq[q].length then some (CtxName.load, q.val) else none
      | _ => none
    let s := match c.s.status with
      | .waiting (.storeQueue q _) => if c.sq[q].isEmpty then some (CtxName.store, 4 + q.val) else none
      | _ => none
    l <|> s
  | .store => (queueNos.find? fun q => bitAt c.c.waitPorts (4 + q.val) && decide (8 ≤ c.sq[q].length)).map fun q => (.compute, 4 + q.val)

/-- The lowest-numbered queue that holds an entry, load queues first (R52 a). -/
def Core.leftQueue (c : Core) : Option Nat :=
  match ([0, 1, 2, 3] : List (Fin 4)).find? fun q => !(c.lq[q]).isEmpty with
  | some q => some q.val
  | none => (([0, 1, 2, 3] : List (Fin 4)).find? fun q => !(c.sq[q]).isEmpty).map fun q => 4 + q.val

/-- The address field of a ring fault (R337): slot and ring. -/
def ringAddr (slot ring : Nat) : Nat := slot % 256 * 32 + ring % 32

/-- The lowest-numbered ring with an unpublished reserved slot, and the earliest such slot (R52 b). -/
def Task.leftSlot (t : Task) : Option Nat :=
  let open_ := t.resv.filter fun r => r.slots.any fun x => !x.published
  (List.range 32).findSome? fun n => (open_.find? fun r => r.ring == n).bind fun r =>
    (r.slots.find? fun x => !x.published).map fun x => ringAddr (ptrIdx x.ptr) n

/-- The lowest-numbered ring with a claimed slot that is not popped (R52 c). -/
def Task.unpopped (t : Task) : Option Nat :=
  (List.range 32).find? fun n => decide (0 < t.claimsOn n)

/-- Everything that the contexts of a core have issued has taken effect at package scope (R52 step 1). -/
def State.coreReleased (s : State) (r : CoreRef) : Bool :=
  ctxNames.all fun n => s.settled ⟨r, n⟩ && s.flushed ⟨r, n⟩ allCls

/-- Whether the queues of a core have drained under a Retiring task (R52). -/
def Core.drainedTask (c : Core) (t : Task) : Bool := t.phase == .retiring && c.eng.toList.all List.isEmpty

/-- What the third EXIT checks (R52 a and b), and Retiring. -/
def State.thirdExit (s : State) : State :=
  match s.myCore.leftQueue with
  | some q => s.fault fOrphan q
  | none =>
    match s.myCore.task.bind Task.leftSlot with
    | some a => s.fault fUnpub a
    | none => s.updTask s.cur.at_ fun t => { t with phase := .retiring }

/-- EXIT. -/
def execExit (s : State) : Host.Outcome State Fault Refusal :=
  go (issue .exit s fun s =>
    let r := s.cur.at_
    let n := s.cur.ctx
    let pc := s.me.pc
    let x1 := s.rx 1
    let k := s.me.gbar + 1
    if (s.gang r).any fun q => q != r && match ((s.core q).ctx n).status with | .waiting (.gbar j) => decide (k ≤ j) | _ => false then
      s.fault fGang k
    else
      match s.myCore.orphanAt n with
      | some (v, q) => s.ctxFault ⟨r, v⟩ fOrphan q
      | none =>
        let s := s.updMe fun c => { c with status := .parked }
        let s := s.updTask r fun t => { t with exitPc := pc, exitCtx := n, x1AtExit := if n = .compute then x1 else t.x1AtExit }
        if s.myCore.l.status = .parked ∧ s.myCore.c.status = .parked ∧ s.myCore.s.status = .parked then s.thirdExit
        else s.arriveBarrier (wordOfInstr .exit))

/-! ## Semaphores and events (R288, R289) -/

/-- A semaphore. -/
def Core.semVal (c : Core) (n : BitVec 6) : BitVec 16 := c.sem[n.toFin]

/-- Set a semaphore. -/
def Core.setSem (c : Core) (n : BitVec 6) (v : BitVec 16) : Core := { c with sem := c.sem.set n.toFin v }

/-- SEMW. -/
def execSemw (n : BitVec 6) (s : State) : Host.Outcome State Fault Refusal :=
  go (issue (.semw n) s fun s =>
    let v := s.myCore.semVal n
    if v = 0 then s.block (.semw n)
    else
      let s := s.updMyCore fun c => c.setSem n (v - 1)
      (s.updMe fun c => { c with semTakes := insertKey n.toNat (getKey 0 n.toNat c.semTakes + 1) c.semTakes }).goOn)

/-- SEMS: a release at core scope. -/
def execSems (n : BitVec 6) (s : State) : Host.Outcome State Fault Refusal :=
  go (issue (.sems n) s fun s =>
    withRelease s (.sems n) false fun s =>
      let v := s.myCore.semVal n
      if v = 65535 then s.fault fSemOver n.toNat
      else (s.sideEffect.updMyCore fun c => c.setSem n (v + 1)).goOn)

/-- EVWAIT. -/
def execEvwait (e : BitVec 6) (s : State) : Host.Outcome State Fault Refusal :=
  go (issue (.evwait e) s fun s =>
    if ((s.pipeOf s.cur.at_).map fun p => bitAt p.events e.toNat).getD false then s.goOn else s.block (.evwait e))

/-- Set events of a pipeline (R55). -/
def State.setEvents (s : State) (pipe : Nat) (m : BitVec 64) : State := s.updPipe pipe fun p => { p with events := p.events ||| m }

/-- EVSIG: a release at package scope. -/
def execEvsig (e : BitVec 6) (s : State) : Host.Outcome State Fault Refusal :=
  go (issue (.evsig e) s fun s =>
    withRelease s (.evsig e) true fun s =>
      let s := s.sideEffect
      match s.myCore.task with
      | some t => (s.setEvents t.pipe (1 <<< e.toNat)).goOn
      | none => s.goOn)

end Sys2Proof.Machine
end

