-- ==== Sys2Proof/Machine/Vector.lean ====
section
/-! DEFINITION. The vector instructions of majors 0x10 to 0x1C and PPLD (15_vector.md). -/

namespace Sys2Proof.Machine

/-! ## Shared shapes -/

/-- The prologue of a vector instruction: legality, then the queue ports, then its effect on the core; the load queues
it reads are popped, and C goes on (R220, R222). -/
def vecIssue (i : Instr) (s : State) (body : State → Core → Core) : Host.Outcome State Fault Refusal :=
  go (issue i s fun s =>
    let (srcs, dsts) := vecRegs s.myCore.vf.fmt i
    withPorts s srcs dsts fun s => (s.updMyCore fun c => (body s c).popPorts srcs).goOn)

/-- Lane numbers 0 to L - 1. -/
def laneIdx (f : Fmt) : List Nat := List.range f.lanes

/-- An instruction with one destination register whose lanes are computed one by one; flags and generator as they fall
(R218, R219, R223). -/
def lanewise (c : Core) (d : Nat) (m : BitVec 3) (f : Nat → VAcc → Nat × VAcc) : Core :=
  let t := c.vf.fmt
  let (res, a) := laneRun (c.active m) f (laneIdx t) (c.vf.acc 0)
  { c with vf := c.vf.put a 0 }.putLanes t d res

/-- A lane of a source register. -/
def Core.laneOf (c : Core) (r : BitVec 6) (i : Nat) : Nat := lane (c.vreg r.toNat) c.vf.fmt.width i

/-- A floating operation of two operands: exact, rounded once, NV where it has no defined result (R148, R149, R226). -/
def fOp2 (c : Core) (op : Val → Val → Val) (dz : Val → Val → BitVec 6) (x y : Nat) (a : VAcc) : Nat × VAcc :=
  let t := c.vf.fmt
  let u := t.decode x
  let v := t.decode y
  let r := op u v
  a.flag (nvOf [u, v] r ||| dz u v) |>.round t c.vf.rm c.vf.sat r

/-- No division by zero. -/
def noDz (_ _ : Val) : BitVec 6 := 0

/-- An integer operation whose result is fitted (R226). -/
def iOp2 (c : Core) (op : Int → Int → Int) (x y : Nat) (a : VAcc) : Nat × VAcc :=
  let w := c.vf.fmt.width
  a.fit w c.vf.sat (op (toSigned w x) (toSigned w y))

/-- A binary arithmetic instruction: its floating and its integer form. -/
def vArith (i : Instr) (d a b : BitVec 6) (m : BitVec 3) (ff : Core → Nat → Nat → VAcc → Nat × VAcc)
    (fi : Core → Nat → Nat → VAcc → Nat × VAcc) (s : State) : Host.Outcome State Fault Refusal :=
  vecIssue i s fun _ c => lanewise c d.toNat m fun k acc =>
    (if c.vf.fmt.isInt then fi else ff) c (c.laneOf a k) (c.laneOf b k) acc

/-- A unary arithmetic instruction. -/
def vUnary (i : Instr) (d a : BitVec 6) (m : BitVec 3) (ff fi : Core → Nat → VAcc → Nat × VAcc) (s : State) :
    Host.Outcome State Fault Refusal :=
  vecIssue i s fun _ c => lanewise c d.toNat m fun k acc => (if c.vf.fmt.isInt then fi else ff) c (c.laneOf a k) acc

/-- An instruction that moves or combines bit patterns lane by lane (R219, R227). -/
def vBits (i : Instr) (d a b : BitVec 6) (m : BitVec 3) (f : Nat → Nat → Nat → Nat) (s : State) :
    Host.Outcome State Fault Refusal :=
  vecIssue i s fun _ c => lanewise c d.toNat m fun k acc => (f c.vf.fmt.width (c.laneOf a k) (c.laneOf b k), acc)

/-- A value written exactly: encode a value that the format holds, a NaN as the canonical one. -/
def exactCode (t : Fmt) (x : Val) : Nat := (t.round .rne false 0 x).1

/-! ## Element arithmetic (R226) -/

/-- VADD. -/
def execVadd (d a b : BitVec 6) (m : BitVec 3) (s : State) : Host.Outcome State Fault Refusal :=
  vArith (.vadd d a b m) d a b m (fun c => fOp2 c (Val.sum (c.vf.rm == .rd)) noDz) (fun c => iOp2 c fun x y => x + y) s

/-- VSUB. -/
def execVsub (d a b : BitVec 6) (m : BitVec 3) (s : State) : Host.Outcome State Fault Refusal :=
  vArith (.vsub d a b m) d a b m (fun c => fOp2 c (fun x y => x.sum (c.vf.rm == .rd) y.neg) noDz) (fun c => iOp2 c fun x y => x - y) s

/-- VMUL. -/
def execVmul (d a b : BitVec 6) (m : BitVec 3) (s : State) : Host.Outcome State Fault Refusal :=
  vArith (.vmul d a b m) d a b m (fun c => fOp2 c Val.mul noDz) (fun c => iOp2 c fun x y => x * y) s

/-- Integer division of VDIV: b = 0 gives -1, with DZ when a ≠ 0. -/
def iDiv (c : Core) (x y : Nat) (a : VAcc) : Nat × VAcc :=
  let w := c.vf.fmt.width
  if y = 0 then (ofSigned w (-1), if x = 0 then a else a.flag flagDZ)
  else iOp2 c Int.tdiv x y a

/-- VDIV. -/
def execVdiv (d a b : BitVec 6) (m : BitVec 3) (s : State) : Host.Outcome State Fault Refusal :=
  vArith (.vdiv d a b m) d a b m (fun c => fOp2 c Val.div dzOf) iDiv s

/-- The smaller of two values, a NaN if either is NaN, -0 below +0 (R226). -/
def minVal (x y : Val) : Val := if x.isNan || y.isNan then .nan else if y.lt x then y else x

/-- The larger of two values. -/
def maxVal (x y : Val) : Val := if x.isNan || y.isNan then .nan else if x.lt y then y else x

/-- An exact selection between two floating lanes. -/
def pickF (sel : Val → Val → Val) (c : Core) (x y : Nat) (a : VAcc) : Nat × VAcc :=
  let t := c.vf.fmt
  (exactCode t (sel (t.decode x) (t.decode y)), a)

/-- VMIN. -/
def execVmin (d a b : BitVec 6) (m : BitVec 3) (s : State) : Host.Outcome State Fault Refusal :=
  vArith (.vmin d a b m) d a b m (pickF minVal) (fun c => iOp2 c min) s

/-- VMAX. -/
def execVmax (d a b : BitVec 6) (m : BitVec 3) (s : State) : Host.Outcome State Fault Refusal :=
  vArith (.vmax d a b m) d a b m (pickF maxVal) (fun c => iOp2 c max) s

/-- An exact unary floating operation. -/
def exactF (op : Val → Val) (c : Core) (x : Nat) (a : VAcc) : Nat × VAcc :=
  (exactCode c.vf.fmt (op (c.vf.fmt.decode x)), a)

/-- A fitted unary integer operation. -/
def fitI (op : Int → Int) (c : Core) (x : Nat) (a : VAcc) : Nat × VAcc := iOp2 c (fun x _ => op x) x 0 a

/-- VABS. -/
def execVabs (d a : BitVec 6) (m : BitVec 3) (s : State) : Host.Outcome State Fault Refusal :=
  vUnary (.vabs d a m) d a m (exactF Val.abs) (fitI fun x => x.natAbs) s

/-- VNEG. -/
def execVneg (d a : BitVec 6) (m : BitVec 3) (s : State) : Host.Outcome State Fault Refusal :=
  vUnary (.vneg d a m) d a m (exactF Val.neg) (fitI fun x => -x) s

/-- A rounded unary floating operation with its flags. -/
def roundF (op : Val → Val) (dz : Val → BitVec 6) (c : Core) (x : Nat) (a : VAcc) : Nat × VAcc :=
  let t := c.vf.fmt
  let u := t.decode x
  let r := op u
  a.flag (nvOf [u] r ||| dz u) |>.round t c.vf.rm c.vf.sat r

/-- DZ of a reciprocal: the operand is a zero. -/
def dzZero (x : Val) : BitVec 6 := if x.isZero then flagDZ else 0

/-- VRCP. -/
def execVrcp (d a : BitVec 6) (m : BitVec 3) (s : State) : Host.Outcome State Fault Refusal :=
  vUnary (.vrcp d a m) d a m (roundF (fun x => (Val.fin false 1 0 false).div x) dzZero) (fun _ x acc => (x, acc)) s

/-- VRSQ. -/
def execVrsq (d a : BitVec 6) (m : BitVec 3) (s : State) : Host.Outcome State Fault Refusal :=
  vUnary (.vrsq d a m) d a m (roundF Val.rsqrt dzZero) (fun _ x acc => (x, acc)) s

/-- VSQRT. -/
def execVsqrt (d a : BitVec 6) (m : BitVec 3) (s : State) : Host.Outcome State Fault Refusal :=
  vUnary (.vsqrt d a m) d a m (roundF Val.sqrt fun _ => 0) (fun _ x acc => (x, acc)) s

/-- VMOV (R225). -/
def execVmov (d a : BitVec 6) (m : BitVec 3) (s : State) : Host.Outcome State Fault Refusal :=
  vUnary (.vmov d a m) d a m (fun _ x acc => (x, acc)) (fun _ x acc => (x, acc)) s

/-! ## Bitwise and shifts (R227) -/

/-- VAND. -/
def execVand (d a b : BitVec 6) (m : BitVec 3) (s : State) : Host.Outcome State Fault Refusal :=
  vBits (.vand d a b m) d a b m (fun _ x y => Nat.land x y) s

/-- VOR. -/
def execVor (d a b : BitVec 6) (m : BitVec 3) (s : State) : Host.Outcome State Fault Refusal :=
  vBits (.vor d a b m) d a b m (fun _ x y => Nat.lor x y) s

/-- VXOR. -/
def execVxor (d a b : BitVec 6) (m : BitVec 3) (s : State) : Host.Outcome State Fault Refusal :=
  vBits (.vxor d a b m) d a b m (fun _ x y => Nat.xor x y) s

/-- VNOT. -/
def execVnot (d a : BitVec 6) (m : BitVec 3) (s : State) : Host.Outcome State Fault Refusal :=
  vBits (.vnot d a m) d a a m (fun w x _ => 2 ^ w - 1 - x) s

/-- The shift amount: the low log2(w) bits of the lane. -/
def shAmt (w y : Nat) : Nat := y % w

/-- VSHL. -/
def execVshl (d a b : BitVec 6) (m : BitVec 3) (s : State) : Host.Outcome State Fault Refusal :=
  vBits (.vshl d a b m) d a b m (fun w x y => x <<< shAmt w y % 2 ^ w) s

/-- VSHR. -/
def execVshr (d a b : BitVec 6) (m : BitVec 3) (s : State) : Host.Outcome State Fault Refusal :=
  vBits (.vshr d a b m) d a b m (fun w x y => x >>> shAmt w y) s

/-- VSRA. -/
def execVsra (d a b : BitVec 6) (m : BitVec 3) (s : State) : Host.Outcome State Fault Refusal :=
  vBits (.vsra d a b m) d a b m (fun w x y => ofSigned w (toSigned w x / 2 ^ shAmt w y)) s

/-! ## Fused forms (R228) -/

/-- A fused floating operation ±(x × y) ± z. -/
def fusedF (c : Core) (np nz : Bool) (x y z : Nat) (a : VAcc) : Nat × VAcc :=
  let t := c.vf.fmt
  let u := t.decode x
  let v := t.decode y
  let w := t.decode z
  let p := if np then (u.mul v).neg else u.mul v
  let r := p.sum (c.vf.rm == .rd) (if nz then w.neg else w)
  a.flag (nvOf [u, v, w] r) |>.round t c.vf.rm c.vf.sat r

/-- A fused integer operation. -/
def fusedI (c : Core) (np nz : Bool) (x y z : Nat) (a : VAcc) : Nat × VAcc :=
  let w := c.vf.fmt.width
  let p := toSigned w x * toSigned w y
  let q := toSigned w z
  a.fit w c.vf.sat ((if np then -p else p) + (if nz then -q else q))

/-- The fused instructions: vd is the third operand. -/
def vFused (i : Instr) (d a b : BitVec 6) (m : BitVec 3) (np nz : Bool) (s : State) : Host.Outcome State Fault Refusal :=
  vecIssue i s fun _ c => lanewise c d.toNat m fun k acc =>
    (if c.vf.fmt.isInt then fusedI else fusedF) c np nz (c.laneOf a k) (c.laneOf b k) (c.laneOf d k) acc

/-- VFMA. -/
def execVfma (d a b : BitVec 6) (m : BitVec 3) (s : State) : Host.Outcome State Fault Refusal :=
  vFused (.vfma d a b m) d a b m false false s

/-- VFMS. -/
def execVfms (d a b : BitVec 6) (m : BitVec 3) (s : State) : Host.Outcome State Fault Refusal :=
  vFused (.vfms d a b m) d a b m false true s

/-- VNFMA. -/
def execVnfma (d a b : BitVec 6) (m : BitVec 3) (s : State) : Host.Outcome State Fault Refusal :=
  vFused (.vnfma d a b m) d a b m true false s

/-! ## Compares, selection, masks (R229 to R231) -/

/-- Set a mask register. -/
def Core.setMask (c : Core) (d : BitVec 3) (v : MaskReg) : Core := { c with vf := { c.vf with m := c.vf.m.set d.toFin v } }

/-- A mask register as a value. -/
def Core.mask (c : Core) (a : BitVec 3) : MaskReg := c.vf.m[a.toFin]

/-- Compare two lanes: exact values, signed integers, false with a NaN (R229). -/
def cmpLane (t : Fmt) (p : Int → Bool) (x y : Nat) : Bool :=
  let u := t.decode x
  let v := t.decode y
  !u.isNan && !v.isNan && p (u.cmp v)

/-- The compares. -/
def vCompare (i : Instr) (d : BitVec 3) (a b : BitVec 6) (m : BitVec 3) (p : Int → Bool) (s : State) :
    Host.Outcome State Fault Refusal :=
  vecIssue i s fun _ c =>
    c.setMask d (pack 1024 1 ((laneIdx c.vf.fmt).map fun k =>
      if c.active m k && cmpLane c.vf.fmt p (c.laneOf a k) (c.laneOf b k) then 1 else 0))

/-- VCMPEQ. -/
def execVcmpeq (d : BitVec 3) (a b : BitVec 6) (m : BitVec 3) (s : State) : Host.Outcome State Fault Refusal :=
  vCompare (.vcmpeq d a b m) d a b m (fun k => k == 0) s

/-- VCMPLT. -/
def execVcmplt (d : BitVec 3) (a b : BitVec 6) (m : BitVec 3) (s : State) : Host.Outcome State Fault Refusal :=
  vCompare (.vcmplt d a b m) d a b m (fun k => decide (k < 0)) s

/-- VCMPLE. -/
def execVcmple (d : BitVec 3) (a b : BitVec 6) (m : BitVec 3) (s : State) : Host.Outcome State Fault Refusal :=
  vCompare (.vcmple d a b m) d a b m (fun k => decide (k ≤ 0)) s

/-- VSEL (R230): every lane is written. -/
def execVsel (d a b : BitVec 6) (m : BitVec 3) (s : State) : Host.Outcome State Fault Refusal :=
  vecIssue (.vsel d a b m) s fun _ c => lanewise c d.toNat 0 fun k acc =>
    (if c.active m k then c.laneOf a k else c.laneOf b k, acc)

/-- MAND (R231). -/
def execMand (d a b : BitVec 3) (s : State) : Host.Outcome State Fault Refusal :=
  vecIssue (.mand d a b) s fun _ c => c.setMask d (c.mask a &&& c.mask b)

/-- MOR. -/
def execMor (d a b : BitVec 3) (s : State) : Host.Outcome State Fault Refusal :=
  vecIssue (.mor d a b) s fun _ c => c.setMask d (c.mask a ||| c.mask b)

/-- MNOT. -/
def execMnot (d a : BitVec 3) (s : State) : Host.Outcome State Fault Refusal :=
  vecIssue (.mnot d a) s fun _ c => c.setMask d (~~~(c.mask a))

/-- A vector instruction that writes an x register of C (R201, R225, R231). -/
def vecToX (i : Instr) (d : BitVec 5) (f : State → Word) (s : State) : Host.Outcome State Fault Refusal :=
  go (issue i s fun s =>
    let (srcs, dsts) := vecRegs s.myCore.vf.fmt i
    withPorts s srcs dsts fun s => ((s.wx d (f s)).updMyCore fun c => c.popPorts srcs).goOn)

/-- MPOP. -/
def execMpop (d : BitVec 5) (a : BitVec 3) (s : State) : Host.Outcome State Fault Refusal :=
  vecToX (.mpop d a) d (fun s => BitVec.ofNat 64 (popNat (s.myCore.mask a).toNat s.myCore.vf.fmt.lanes)) s

/-- MFIRST. -/
def execMfirst (d : BitVec 5) (a : BitVec 3) (s : State) : Host.Outcome State Fault Refusal :=
  vecToX (.mfirst d a) d (fun s =>
    let n := s.myCore.vf.fmt.lanes
    BitVec.ofNat 64 (((List.range n).find? fun i => bitAt (s.myCore.mask a) i).getD n)) s

/-! ## Conversion, widening, narrowing (R232 to R234) -/

/-- Elements computed one by one from single registers or groups into a register or a group. -/
def elemwise (c : Core) (n : Nat) (dst : Fmt) (d g am : Nat) (m : BitVec 3) (f : Nat → VAcc → Nat × VAcc) : Core :=
  let (res, a) := laneRun (c.active m) f (List.range n) (c.vf.acc am)
  { c with vf := c.vf.put a am }.putGroup dst d g res

/-- VCVT: as many elements as the single-register side holds (R221). -/
def execVcvt (d a : BitVec 6) (m : BitVec 3) (f : BitVec 4) (s : State) : Host.Outcome State Fault Refusal :=
  vecIssue (.vcvt d a m f) s fun _ c =>
    let src := c.vf.fmt
    let dst := (Fmt.ofCode f.toNat).getD src
    let gs := max 1 (src.width / dst.width)
    let gd := max 1 (dst.width / src.width)
    elemwise c (min src.lanes dst.lanes * max gs gd) dst d.toNat gd 0 m fun i acc =>
      acc.convert src dst c.vf.rm c.vf.sat (c.groupElem a.toNat gs src.width i)

/-- The widening instructions: exact, and rounded once to FP32 for floating types. -/
def vWiden (i : Instr) (d a b : BitVec 6) (m : BitVec 3) (ff : Core → Val → Val → Val) (fi : Int → Int → Int) (s : State) :
    Host.Outcome State Fault Refusal :=
  vecIssue i s fun _ c =>
    let t := c.vf.fmt
    let (wt, g) := (widened t).getD (t, 1)
    elemwise c t.lanes wt d.toNat g 0 m fun k acc =>
      let x := c.laneOf a k
      let y := c.laneOf b k
      if t.isInt then (ofSigned wt.width (fi (toSigned t.width x) (toSigned t.width y)), acc)
      else
        let u := t.decode x
        let v := t.decode y
        let r := ff c u v
        (acc.flag (nvOf [u, v] r)).round wt c.vf.rm c.vf.sat r

/-- VWADD. -/
def execVwadd (d a b : BitVec 6) (m : BitVec 3) (s : State) : Host.Outcome State Fault Refusal :=
  vWiden (.vwadd d a b m) d a b m (fun c => Val.sum (c.vf.rm == .rd)) (fun x y => x + y) s

/-- VWMUL. -/
def execVwmul (d a b : BitVec 6) (m : BitVec 3) (s : State) : Host.Outcome State Fault Refusal :=
  vWiden (.vwmul d a b m) d a b m (fun _ => Val.mul) (fun x y => x * y) s

/-- VNARROW: with AE = 1 the amax register takes each active element's FP32 value before narrowing. -/
def execVnarrow (d a : BitVec 6) (e : BitVec 1) (n : BitVec 4) (m : BitVec 3) (s : State) : Host.Outcome State Fault Refusal :=
  vecIssue (.vnarrow d a e n m) s fun _ c =>
    let t := c.vf.fmt
    let (wt, g) := (widened t).getD (t, 1)
    elemwise c t.lanes t d.toNat 1 n.toNat m fun k acc =>
      let x := c.groupElem a.toNat g wt.width k
      let acc := if e = 1 then { acc with am := amaxUpd acc.am (wt.decode x) } else acc
      acc.convert wt t c.vf.rm c.vf.sat x

/-! ## Reductions and scans (R235, R236) -/

/-- One level of the tree: pairs of neighbours. -/
def treeLevel (f : Nat → Nat → VAcc → Nat × VAcc) : List Nat → VAcc → List Nat × VAcc
  | x :: y :: t, a =>
    let (z, a) := f x y a
    let (l, a) := treeLevel f t a
    (z :: l, a)
  | l, a => (l, a)

/-- The tree of R235, over at most k levels. -/
def treeSum (f : Nat → Nat → VAcc → Nat × VAcc) : Nat → List Nat → VAcc → List Nat × VAcc
  | 0, l, a => (l, a)
  | k + 1, l, a =>
    let (l, a) := treeLevel f l a
    treeSum f k l a

/-- A lane widened to FP32, exactly. -/
def toFp32 (t : Fmt) (x : Nat) : Nat := (Fmt.fp32.round .rne false 0 (t.decode x)).1

/-- The pattern of -0 in FP32. -/
def negZero : Nat := 0x80000000

/-- A reduction writes its value to lane 0 of vd and 0 to every other lane, whatever the mask. -/
def Core.putReduced (c : Core) (d : Nat) (v : Nat) : Core :=
  c.setVreg d (BitVec.ofNat 4096 (v % writeMask c.vf.fmt))

/-- The lanes of a source that are active. -/
def Core.activeLanes (c : Core) (a : BitVec 6) (m : BitVec 3) : List Nat :=
  ((laneIdx c.vf.fmt).filter fun k => c.active m k).map fun k => c.laneOf a k

/-- VRSUM. -/
def execVrsum (d a : BitVec 6) (m : BitVec 3) (s : State) : Host.Outcome State Fault Refusal :=
  vecIssue (.vrsum d a m) s fun _ c =>
    let t := c.vf.fmt
    if t.isInt then
      let (v, acc) := (c.vf.acc 0).fit t.width c.vf.sat ((c.activeLanes a m).map fun x => toSigned t.width x).sum
      { c with vf := c.vf.put acc 0 }.putReduced d.toNat v
    else
      let leaves := (laneIdx t).map fun k => if c.active m k then toFp32 t (c.laneOf a k) else negZero
      let (l, acc) := treeSum (fun x y acc => acc.addF x y) 12 leaves (c.vf.acc 0)
      let (v, acc) := acc.round t c.vf.rm c.vf.sat (Fmt.fp32.decode (l.headD negZero))
      { c with vf := c.vf.put acc 0 }.putReduced d.toNat v

/-- The least value of a type: -∞, or the most negative finite value where it has no infinity (R235). -/
def leastVal (t : Fmt) : Val :=
  match t with
  | .e4m3 => t.decode 0xFE
  | .tap8 => t.decode 0xFF
  | .tap6 => t.decode 0x3F
  | _ => .inf true

/-- A reduction that picks a value exactly. -/
def vPick (i : Instr) (d a : BitVec 6) (m : BitVec 3) (sel : Val → Val → Val) (e : Fmt → Val) (seli : Int → Int → Int)
    (ei : Nat → Int) (s : State) : Host.Outcome State Fault Refusal :=
  vecIssue i s fun _ c =>
    let t := c.vf.fmt
    let xs := c.activeLanes a m
    let v := if t.isInt then
        ofSigned t.width (match xs.map fun x => toSigned t.width x with | [] => ei t.width | h :: r => r.foldl seli h)
      else exactCode t (match xs.map t.decode with | [] => e t | h :: r => r.foldl sel h)
    c.putReduced d.toNat v

/-- VRMAX. -/
def execVrmax (d a : BitVec 6) (m : BitVec 3) (s : State) : Host.Outcome State Fault Refusal :=
  vPick (.vrmax d a m) d a m maxVal leastVal max (fun w => -(2 ^ (w - 1))) s

/-- VRMIN. -/
def execVrmin (d a : BitVec 6) (m : BitVec 3) (s : State) : Host.Outcome State Fault Refusal :=
  vPick (.vrmin d a m) d a m minVal (fun t => (leastVal t).neg) min (fun w => 2 ^ (w - 1) - 1) s

/-- VRAMAX: for integers, fit of the largest magnitude. -/
def execVramax (d a : BitVec 6) (m : BitVec 3) (s : State) : Host.Outcome State Fault Refusal :=
  vecIssue (.vramax d a m) s fun _ c =>
    let t := c.vf.fmt
    let xs := c.activeLanes a m
    if t.isInt then
      let big : Nat := (xs.map fun x => (toSigned t.width x).natAbs).foldl max 0
      let (v, acc) := (c.vf.acc 0).fit t.width c.vf.sat (big : Int)
      { c with vf := c.vf.put acc 0 }.putReduced d.toNat v
    else c.putReduced d.toNat (exactCode t ((xs.map fun x => (t.decode x).abs).foldl maxVal (.fin false 0 0 false)))

/-- The running sums of R236 over the lanes: sum so far, results, state. -/
def scanRun (c : Core) (a : BitVec 6) (m : BitVec 3) : List Nat → Nat → Int → VAcc → List (Option Nat) × VAcc
  | [], _, _, acc => ([], acc)
  | k :: rest, sf, si, acc =>
    let t := c.vf.fmt
    if c.active m k then
      if t.isInt then
        let si := si + toSigned t.width (c.laneOf a k)
        let (v, acc) := acc.fit t.width c.vf.sat si
        let (l, acc) := scanRun c a m rest sf si acc
        (some v :: l, acc)
      else
        let (sf, acc) := acc.addF sf (toFp32 t (c.laneOf a k))
        let (v, acc) := acc.round t c.vf.rm c.vf.sat (Fmt.fp32.decode sf)
        let (l, acc) := scanRun c a m rest sf si acc
        (some v :: l, acc)
    else
      let (l, acc) := scanRun c a m rest sf si acc
      (none :: l, acc)

/-- VSCAN. -/
def execVscan (d a : BitVec 6) (m : BitVec 3) (s : State) : Host.Outcome State Fault Refusal :=
  vecIssue (.vscan d a m) s fun _ c =>
    let (res, acc) := scanRun c a m (laneIdx c.vf.fmt) negZero 0 (c.vf.acc 0)
    { c with vf := c.vf.put acc 0 }.putLanes c.vf.fmt d.toNat res

/-! ## Rearranging lanes (R237 to R240) -/

/-- VPERM. -/
def execVperm (d a b : BitVec 6) (s : State) : Host.Outcome State Fault Refusal :=
  vecIssue (.vperm d a b) s fun _ c =>
    let g := max 1 (c.vf.fmt.lanes / 256)
    lanewise c d.toNat 0 fun k acc =>
      let idx := c.groupElem b.toNat g 16 k
      (if idx < c.vf.fmt.lanes then c.laneOf a idx else 0, acc)

/-- The number of active lanes below i. -/
def Core.activeBelow (c : Core) (m : BitVec 3) (i : Nat) : Nat := ((List.range i).filter fun k => c.active m k).length

/-- VIOTA. -/
def execViota (d : BitVec 6) (m : BitVec 3) (s : State) : Host.Outcome State Fault Refusal :=
  vecIssue (.viota d m) s fun _ c => lanewise c d.toNat m fun k acc => (c.activeBelow m k % 2 ^ c.vf.fmt.width, acc)

/-- VCOMPRESS: every lane is written. -/
def execVcompress (d a : BitVec 6) (m : BitVec 3) (s : State) : Host.Outcome State Fault Refusal :=
  vecIssue (.vcompress d a m) s fun _ c =>
    let xs := c.activeLanes a m
    c.putLanes c.vf.fmt d.toNat ((xs ++ List.replicate (c.vf.fmt.lanes - xs.length) 0).map some)

/-- VEXPAND. -/
def execVexpand (d a : BitVec 6) (m : BitVec 3) (s : State) : Host.Outcome State Fault Refusal :=
  vecIssue (.vexpand d a m) s fun _ c => lanewise c d.toNat m fun k acc => (c.laneOf a (c.activeBelow m k), acc)

/-- VROTM: 512 bytes from byte o of the string of va and vb; it ignores VTYPE (R240). -/
def execVrotm (d a b : BitVec 6) (n : BitVec 5) (s : State) : Host.Outcome State Fault Refusal :=
  vecIssue (.vrotm d a b n) s fun s c =>
    let o := fld (s.rx n) 0 9
    c.setVreg d.toNat (BitVec.ofNat 4096 (((c.vreg a.toNat).toNat + (c.vreg b.toNat).toNat * 2 ^ 4096) >>> (8 * o)))

/-! ## Placing values (R225), VCFG (R224), VPPE (R243), PPLD (R242) -/

/-- VBCAST. -/
def execVbcast (d : BitVec 6) (a : BitVec 5) (s : State) : Host.Outcome State Fault Refusal :=
  vecIssue (.vbcast d a) s fun s c => lanewise c d.toNat 0 fun _ acc => (fld (s.rx a) 0 c.vf.fmt.width, acc)

/-- VLI: under FP32 a BF16 pattern widened, else the low bits of the sign-extended immediate. -/
def execVli (d : BitVec 6) (i : BitVec 16) (s : State) : Host.Outcome State Fault Refusal :=
  vecIssue (.vli d i) s fun _ c => lanewise c d.toNat 0 fun _ acc =>
    (if c.vf.fmt = .fp32 then i.toNat * 2 ^ 16 else ofSigned c.vf.fmt.width i.toInt, acc)

/-- VEXTR. Under TAP6 bits 7:6 of the container read are ignored (R127): the result holds 0 there. R219 and R225 move the
lane's bit pattern without saying what becomes of such bits; the reading is the model's. DEDUCED (log 107). -/
def execVextr (d : BitVec 5) (a : BitVec 6) (b : BitVec 5) (s : State) : Host.Outcome State Fault Refusal :=
  vecToX (.vextr d a b) d (fun s =>
    let c := s.myCore
    let t := c.vf.fmt
    let k := (s.rx b).toNat
    if k ≥ t.lanes then 0
    else if t.isInt then BitVec.ofInt 64 (toSigned t.width (c.laneOf a k)) else BitVec.ofNat 64 (c.laneOf a k % writeMask t)) s

/-- VCFG. -/
def execVcfg (sat : BitVec 1) (r : BitVec 3) (t : BitVec 4) (s : State) : Host.Outcome State Fault Refusal :=
  vecIssue (.vcfg sat r t) s fun _ c =>
    { c with vf := { c.vf with vtype := BitVec.ofNat 64 (t.toNat + r.toNat * 2 ^ 4 + sat.toNat * 2 ^ 8) } }

/-- The segment that R153 selects: the largest j with bp[j] ≤ x, else 0. -/
def ppuSelect (segs : List Segment) (x : Val) : Nat :=
  ((segs.zipIdx.filter fun p => let b := Fmt.fp32.decode p.1.bp.toNat; !b.isNan && decide (b.cmp x ≤ 0)).map Prod.snd).foldl max 0

/-- The PPU table that a task starts with (R241). -/
def ppuStart : List Segment := [⟨0, 0, 0, 0, 0⟩]

/-- ppu_eval of R153 on a lane that is not NaN: the FP32 result and NV. Until PPLD has loaded a table, the one that the task
started with gives +0 for an infinite element too, as R241 says, where R153's steps would form 0 × ∞ (log 82). -/
def ppuEval (loaded : Bool) (segs : List Segment) (x : Nat) (a : VAcc) : Nat × VAcc :=
  if !loaded && segs == ppuStart then (0, a) else
  let g := (segs[ppuSelect segs (Fmt.fp32.decode x)]?).getD ⟨0, 0, 0, 0, 0⟩
  let (t, fl) := fp32Sub x g.bp.toNat
  let a := a.flag (fl &&& flagNV)
  let (h, a) := a.fmaF g.c3.toNat t g.c2.toNat
  let (h, a) := a.fmaF h t g.c1.toNat
  a.fmaF h t g.c0.toNat

/-- VPPE: a NaN element gives the canonical NaN and sets no flag. -/
def execVppe (d a : BitVec 6) (m : BitVec 3) (s : State) : Host.Outcome State Fault Refusal :=
  vecIssue (.vppe d a m) s fun _ c => lanewise c d.toNat m fun k acc =>
    let t := c.vf.fmt
    let x := c.laneOf a k
    if (t.decode x).isNan then acc.round t c.vf.rm c.vf.sat .nan
    else
      let (h, acc) := ppuEval c.vf.ppuSet c.vf.ppu (toFp32 t x) acc
      acc.round t c.vf.rm c.vf.sat (Fmt.fp32.decode h)

/-- PPLD: 4 × n loads of 8 bytes; the table is replaced when all have returned. -/
def execPpld (a : BitVec 5) (c : BitVec 4) (n : BitVec 6) (s : State) : Host.Outcome State Fault Refusal :=
  go (issue (.ppld a c n) s fun s =>
    let ea := (s.rx a).toNat
    withAligned s ea 32 fun s =>
      issueLoad s ((List.range (4 * (n.toNat + 1))).map fun k => (ea + 8 * k) % 2 ^ 64) 8 (clsBit c) (.ppu (n.toNat + 1)))

end Sys2Proof.Machine
end

