-- ==== Sys2Proof/Machine/Rings.lean ====
section
/-! DEFINITION. The access instructions and the ring instructions (R245 to R249). -/

namespace Sys2Proof.Machine

/-! ## Instances of a ring (R84) -/

/-- The stage that consumes a ring. -/
def OpRecord.consumer (o : OpRecord) (ring : Nat) : Option Nat := o.rings[ring]?.map Prod.snd

/-- The cores of a stage's pool. -/
def Pipe.poolOf (p : Pipe) (stage : Nat) : List CoreRef := (p.pool.filter fun m => m.stage == stage).map Member.at_

/-- The cores that hold a defined instance of a ring. -/
def State.instances (s : State) (p : Pipe) (ring : Nat) : List CoreRef :=
  match p.record.consumer ring with
  | none => []
  | some st => (p.poolOf st).filter fun r => ((s.core r).ring ring).valid

/-- Of two instances, the one with more free, unreserved slots; on a tie the lower virtual core number (R84). -/
def State.betterInst (s : State) (vd : Word) (ring : Nat) (a b : CoreRef) : CoreRef :=
  let fa := ((s.core a).ring ring).free
  let fb := ((s.core b).ring ring).free
  if fb > fa ∨ (fb = fa ∧ vcoreOf vd b < vcoreOf vd a) then b else a

/-- The instance in which a start or a first RRES reserves (R84, R248). -/
def State.bestInst (s : State) (p : Pipe) (ring : Nat) : Option CoreRef :=
  match s.instances p ring with
  | [] => none
  | h :: t => some (t.foldl (s.betterInst p.vdtab ring) h)

/-- Whether the stage of the task on a core consumes a ring. -/
def State.consumes (s : State) (r : CoreRef) (ring : Nat) : Bool :=
  ((s.stageOf r).map fun d => d.ins.any fun x => x.1 == ring).getD false

/-- The production that the stage declares on a ring. -/
def State.production (s : State) (r : CoreRef) (ring : Nat) : Option Nat :=
  (s.stageOf r).bind fun d => (d.outs.find? fun x => x.1 == ring).map Prod.snd

/-- The task's reservation on a ring. -/
def State.resvOn (s : State) (r : CoreRef) (ring : Nat) : Option Resv := (s.core r).task.bind fun t => t.resvOn ring

/-- The claims of the task on a core on a ring. -/
def State.claimsOn (s : State) (r : CoreRef) (ring : Nat) : Nat := ((s.core r).task.map fun t => t.claimsOn ring).getD 0

/-- The first slot of a reservation that has index i and is not published. -/
def Resv.slot (v : Resv) (i : Nat) : Option RSlot := v.slots.find? fun x => ptrIdx x.ptr == i && !x.published

/-- Replace the first slot that has index i and is not published. -/
def markSlot (i : Nat) (f : RSlot → RSlot) : List RSlot → List RSlot
  | [] => []
  | x :: t => if ptrIdx x.ptr == i && !x.published then f x :: t else x :: markSlot i f t

/-! ## QLD and QST (R245) -/

/-- scratchpad address and row of QLD and QST. -/
def rowEa (s : State) (a : BitVec 5) (r : BitVec 12) : Word := s.rx a + BitVec.ofNat 64 (512 * r.toNat)

/-- QLD takes an entry of its load queue at issue. -/
def issueQld (s : State) (q : BitVec 2) (c : BitVec 4) (src : CoreRef) (row : Nat) (slot : Option (Nat × Nat)) : State :=
  let k : Fin 4 := q.toFin
  if (s.myCore.lq[k]).length ≥ 8 then orphanOr s (s.myCore.exited .compute) k.val (.loadRoom k)
  else
    let s := s.updMyCore fun c => { c with lq := c.lq.set k (c.lq[k] ++ [none]) }
    let s := if slot.isSome then s.updTask s.cur.at_ fun t => { t with usedQldr := true } else s
    (s.issueAccess (clsBit c) (.qld k src row slot none) 0 []).goOn

/-- QLD. -/
def execQld (q : BitVec 2) (a : BitVec 5) (c : BitVec 4) (r : BitVec 12) (s : State) : Host.Outcome State Fault Refusal :=
  go (issue (.qld q a c r) s fun s =>
    let ea := rowEa s a r
    let row := ea.toNat / 512
    if row ≥ s.rowLimit s.cur.at_ then s.fault fRange (row * 512)
    else let (k, i) := rowAt s.cur.at_ row; issueQld s q c k i none)

/-- QLDR (R246). -/
def execQldr (q : BitVec 2) (a : BitVec 5) (c : BitVec 4) (w : BitVec 6) (n : BitVec 5) (s : State) :
    Host.Outcome State Fault Refusal :=
  go (issue (.qldr q a c w n) s fun s =>
    let r := s.cur.at_
    let u := (s.rx a).toNat
    let g := s.myCore.ring n.toNat
    if u < s.claimsOn r n.toNat ∧ w.toNat < g.rowsPer ∧ g.valid then
      let i := ptrIdx (g.advanceN g.head u)
      let (k, row) := rowAt r (g.slotRow i + w.toNat)
      issueQld s q c k row (some (n.toNat, i))
    else s.fault fOverrun (ringAddr ((ptrIdx g.head + u) % g.slots) n.toNat))

/-- A store queue's head is popped and written to a row when the access performs. -/
def issueQst (s : State) (q : BitVec 2) (c : BitVec 4) (dst : CoreRef) (row : Nat) : State :=
  let k : Fin 4 := q.toFin
  match s.myCore.sq[k] with
  | [] => orphanOr s (s.myCore.exited .compute) (4 + k.val) (.storeQueue k 0)
  | v :: t =>
    let s := (s.updMyCore fun c => { c with sq := c.sq.set k t }).sideEffect
    (s.issueAccess (clsBit c) (.qst dst row v) 0 []).goOn

/-- QST. -/
def execQst (q : BitVec 2) (a : BitVec 5) (c : BitVec 4) (r : BitVec 12) (s : State) : Host.Outcome State Fault Refusal :=
  go (issue (.qst q a c r) s fun s =>
    let ea := rowEa s a r
    let row := ea.toNat / 512
    if row ≥ s.rowLimit s.cur.at_ then s.fault fRange (row * 512)
    else let (k, i) := rowAt s.cur.at_ row; issueQst s q c k i)

/-- The virtual die that a task's operator binds to a site (R337). -/
def State.vdieNo (s : State) (r : CoreRef) (site : Fin 6) : Nat := ((s.pipeOf r).bind fun p => vdieOf p.bound site.val).getD 0

/-- A fence has cleared the entry of a site from the table of the task on a core (R24). -/
def State.unbound (s : State) (r : CoreRef) (site : Fin 6) : Bool :=
  ((s.pipeOf r).map fun p => (vdieOf p.vdtab site.val).isNone).getD false

/-- An access to an instance on a fenced die takes the unbound-die fault (R23, R24, R354). -/
def withInst (s : State) (v : Resv) (k : State → State) : State :=
  if s.unbound s.cur.at_ v.inst.site then
    s.fault fUnbound (s.vdieNo s.cur.at_ v.inst.site)
  else k s

/-- QSTR (R246). -/
def execQstr (q : BitVec 2) (a : BitVec 5) (c : BitVec 4) (w : BitVec 6) (n : BitVec 5) (s : State) :
    Host.Outcome State Fault Refusal :=
  go (issue (.qstr q a c w n) s fun s =>
    let r := s.cur.at_
    let u := (s.rx a).toNat
    match s.resvOn r n.toNat with
    | none => s.fault fOverrun (ringAddr u n.toNat)
    | some v =>
      withInst s v fun s =>
        let g := (s.core v.inst).ring n.toNat
        match v.slot u with
        | some x =>
          if x.handed ∧ w.toNat < g.rowsPer then
            let (k, row) := rowAt v.inst (g.slotRow u + w.toNat)
            issueQst s q c k row
          else s.fault fOverrun (ringAddr u n.toNat)
        | none => s.fault fOverrun (ringAddr u n.toNat))

/-! ## Ring instructions (R247, R248) -/

/-- Hand out the slot at RESV of an open-ended ring's instance (R248). -/
def rresOpen (s : State) (d n : BitVec 5) (inst : CoreRef) : State :=
  let g := (s.core inst).ring n.toNat
  if g.free = 0 then s.block .ringSlot
  else
    let p := g.resv
    let s := s.sideEffect
    let s := s.updCore inst fun c => c.updRing n.toNat RingInst.reserve
    let s := s.updTask s.cur.at_ fun t => t.updResv n.toNat fun v => { v with slots := v.slots ++ [⟨p, true, false⟩] }
    s.result d (BitVec.ofNat 64 (ptrIdx p))

/-- The first slot of a reservation not yet handed out is handed out. -/
def handOut : List RSlot → List RSlot
  | [] => []
  | x :: t => if x.handed then x :: handOut t else { x with handed := true } :: t

/-- RRES. -/
def execRres (d n : BitVec 5) (s : State) : Host.Outcome State Fault Refusal :=
  go (issue (.rres d n) s fun s =>
    let r := s.cur.at_
    let ring := n.toNat
    match s.production r ring with
    | some 0 =>
      match s.resvOn r ring with
      | some v => withInst s v fun s => rresOpen s d n v.inst
      | none =>
        match (s.pipeOf r).bind fun p => s.bestInst p ring with
        | some k => rresOpen (s.updTask r fun t => { t with resv := t.resv ++ [⟨ring, k, []⟩] }) d n k
        | none => s.block .ringSlot
    | _ =>
      match (s.resvOn r ring).bind fun v => v.slots.find? fun x => !x.handed with
      | none => s.fault fOverrun (ringAddr (((s.resvOn r ring).map fun v => ptrIdx ((s.core v.inst).ring ring).resv).getD 0) ring)
      | some x =>
        let s := s.sideEffect
        let s := s.updTask r fun t => t.updResv ring fun v => { v with slots := handOut v.slots }
        s.result d (BitVec.ofNat 64 (ptrIdx x.ptr)))

/-- The rows of a slot in an instance on a core, as cores and own rows. -/
def slotRows (inst : CoreRef) (g : RingInst) (i : Nat) : List (CoreRef × Nat) :=
  (List.range g.rowsPer).map fun k => rowAt inst (g.slotRow i + k)

/-- An outstanding QST or QSTR of the context, issued before number n, to one of these rows (R120). -/
def Context.writesRows (c : Context) (rows : List (CoreRef × Nat)) (n : Nat) : Bool :=
  c.out.any fun a => decide (a.seq < n) && match a.op with | .qst d r _ => decide ((d, r) ∈ rows) | _ => false

/-- RPUB: a release toward the consumer core. It does not hold its context: the slot becomes Published once the writes
that it covers have performed. -/
def execRpub (a n : BitVec 5) (s : State) : Host.Outcome State Fault Refusal :=
  go (issue (.rpub a n) s fun s =>
    let r := s.cur.at_
    let ring := n.toNat
    let u := (s.rx a).toNat
    match s.resvOn r ring with
    | none => s.fault fOverrun (ringAddr u ring)
    | some v =>
      withInst s v fun s =>
        match v.slot u with
        | none => s.fault fOverrun (ringAddr u ring)
        | some x =>
          let g := (s.core v.inst).ring ring
          let held := s.me.writesRows (slotRows v.inst g u) s.me.seq
          let s := s.sideEffect
          let s := s.updTask r fun t => t.updResv ring fun v => { v with slots := markSlot u (fun x => { x with published := true }) v.slots }
          let id := ((s.core r).task.map Task.pipe).getD 0
          if held then (s.issueAccess 0 (.rpub ring v.inst x.ptr) 0 []).goOn
          else (s.publish id ring v.inst x.ptr).goOn)

/-- A QLDR of the load context on a slot whose row has not entered its load queue (R247). -/
def Core.readsSlot (c : Core) (ring i : Nat) : Bool :=
  c.l.out.any fun a => match a.op with | .qld _ _ _ (some (k, j)) _ => k == ring && j == i | _ => false

/-- RPOP. -/
def execRpop (n : BitVec 5) (s : State) : Host.Outcome State Fault Refusal :=
  go (issue (.rpop n) s fun s =>
    let r := s.cur.at_
    let ring := n.toNat
    let g := s.myCore.ring ring
    if s.claimsOn r ring = 0 then s.fault fOverrun (ringAddr (ptrIdx g.head) ring)
    else if s.myCore.readsSlot ring (ptrIdx g.head) then s.block .ringRead
    else (s.sideEffect.popSlot r ring).goOn)

/-- RPEEK. -/
def execRpeek (d n : BitVec 5) (s : State) : Host.Outcome State Fault Refusal :=
  go (issue (.rpeek d n) s fun s =>
    let r := s.cur.at_
    let ring := n.toNat
    if s.consumes r ring then s.result d (s.myCore.ring ring).w1
    else match s.resvOn r ring with
      | some v => withInst s v fun s => s.result d ((s.core v.inst).ring ring).w1
      | none => s.fault fOverrun (ringAddr 0 ring))

/-- The other instances of a core. -/
def Core.otherRings (c : Core) (n : Nat) : List RingInst := ((List.range 32).filter (· != n)).map c.ring

/-- RCFG (R249). -/
def execRcfg (a n : BitVec 5) (s : State) : Host.Outcome State Fault Refusal :=
  go (issue (.rcfg a n) s fun s =>
    let w0 := s.rx a
    let c := s.myCore
    let fits := !bitAt w0 63 || ringOk w0 (s.rowLimit s.cur.at_) (c.otherRings n.toNat)
    if fits && (c.ring n.toNat).empty then
      (s.updMyCore fun c => c.updRing n.toNat fun _ => RingInst.define w0).goOn
    else s.fault fShape 0)

end Sys2Proof.Machine
end

