-- ==== Sys2Proof/Machine/Commands.lean ====
section
/-! DEFINITION. Command assembly and PUSH: R174's checks and steps, shape records (R250 to R252), the checks that each
command makes at PUSH (R256 to R275). -/

namespace Sys2Proof.Machine

/-! ## KSET, KLD, KST, SHAPE, SHLD -/

/-- Write a command register. -/
def Context.setK (c : Context) (k : BitVec 3) (v : CmdWord) : Context := { c with k := c.k.set k.toFin v }

/-- Write a shape register. -/
def Core.setH (c : Core) (h : BitVec 4) (v : CmdWord) : Core := { c with h := c.h.set h.toFin v }

/-- KSET (R250). -/
def execKset (k : BitVec 3) (a : BitVec 5) (w : BitVec 2) (s : State) : Host.Outcome State Fault Refusal :=
  go (issue (.kset k a w) s fun s =>
    let v := (s.rx a).toNat
    (s.updMe fun c => c.setK k (setFld c.k[k.toFin] (64 * w.toNat) 64 v)).goOn)

/-- ea of KLD, KST and SHLD (R250). -/
def cmdEa (s : State) (a : BitVec 5) (o : BitVec 12) : Nat := (s.rx a + BitVec.ofNat 64 (32 * o.toNat)).toNat

/-- The four words of 32 bytes. -/
def quad (ea : Nat) : List Nat := [ea, ea + 8, ea + 16, ea + 24]

/-- KLD. -/
def execKld (k : BitVec 3) (a : BitVec 5) (c : BitVec 4) (o : BitVec 12) (s : State) : Host.Outcome State Fault Refusal :=
  go (issue (.kld k a c o) s fun s => withAligned s (cmdEa s a o) 32 fun s =>
    issueLoad s (quad (cmdEa s a o)) 8 (clsBit c) (.k k))

/-- KST. -/
def execKst (k : BitVec 3) (a : BitVec 5) (c : BitVec 4) (o : BitVec 12) (s : State) : Host.Outcome State Fault Refusal :=
  go (issue (.kst k a c o) s fun s => withAligned s (cmdEa s a o) 32 fun s =>
    let w := s.me.k[k.toFin]
    issueStore s (clsBit c) ((quad (cmdEa s a o)).zipIdx.map fun x => (x.1, .store 8 (w.extractLsb' (64 * x.2) 64))))

/-! ## Shape records (R251, R252) -/

def shBase (h : CmdWord) : Nat := fld h 192 64
def shSbase (h : CmdWord) : Nat := fld h 128 64
def shStride1 (h : CmdWord) : Nat := fld h 96 32
def shStride2 (h : CmdWord) : Nat := fld h 64 32
/-- Rows per plane, elements per row and planes: the fields plus one. -/
def shRows (h : CmdWord) : Nat := fld h 48 16 + 1
def shCols (h : CmdWord) : Nat := fld h 32 16 + 1
def shPlanes (h : CmdWord) : Nat := fld h 16 16 + 1
def shFmt (h : CmdWord) : Nat := fld h 0 4
/-- Element bits of a format code; 8 for a code that names none. -/
def codeWidth (c : Nat) : Nat := ((Fmt.ofCode c).map Fmt.width).getD 8
/-- The bytes of a tile row. -/
def shRowBytes (h : CmdWord) : Nat := shCols h * codeWidth (shFmt h) / 8

/-- The checks of R252. -/
def shapeOk (s : State) (h : CmdWord) : Bool :=
  decide (shFmt h ≤ 12) && fmtFeature s (shFmt h) && decide (shCols h * codeWidth (shFmt h) % 128 = 0) &&
  (shFmt h != 7 || decide (shCols h % 32 = 0)) && decide (shStride1 h % 16 = 0) &&
  (decide (shRows h = 1) || decide (shRowBytes h ≤ shStride1 h)) && decide (shStride2 h % 16 = 0) &&
  (decide (shPlanes h = 1) || decide (shRows h * shStride1 h ≤ shStride2 h)) && fld h 4 12 == 0 &&
  (shFmt h == 7 || shSbase h == 0)

/-- SHAPE. -/
def execShape (h : BitVec 4) (k : BitVec 3) (s : State) : Host.Outcome State Fault Refusal :=
  go (issue (.shape h k) s fun s =>
    let v := s.me.k[k.toFin]
    if shapeOk s v then (s.updMyCore fun c => c.setH h v).goOn else s.fault fShape 0)

/-- SHLD: as KLD into a scratch copy, then the checks of R252. -/
def execShld (h : BitVec 4) (a : BitVec 5) (c : BitVec 4) (o : BitVec 12) (s : State) : Host.Outcome State Fault Refusal :=
  go (issue (.shld h a c o) s fun s => withAligned s (cmdEa s a o) 32 fun s =>
    issueLoad s (quad (cmdEa s a o)) 8 (clsBit c) (.h h))

/-! ## What a command is -/

/-- The header of a command. -/
def cmdHdrOf : Instr → CmdHdr
  | .mma h _ | .mmac h _ | .drain h _ | .tload h _ | .tgather h _ | .tcvt h _ | .prefetch h _ | .tstore h _
  | .gatomAdd h _ | .gatomFadd h _ | .gatomMax h _ | .gatomMin h _ | .gatomSwap h _ | .gatomCas h _ | .migrate h _
  | .scatAdd h _ | .scatMax h _ | .scatMin h _ | .rwrite h _ | .promote h _ | .chain h _ | .unchain h _ | .cntsnap h _
  | .qfence h _ => h
  | .zacc h _ _ _ => h
  | .semsig h | .semwait h => h
  | _ => ⟨0, 0, false, 0, false, 0, 0⟩

/-- The copy body of a copy command. -/
def copyBodyOf : Instr → Option CopyBody
  | .tload _ b | .tgather _ b | .tcvt _ b | .prefetch _ b | .tstore _ b => some b
  | _ => none

/-- The queues that a command enters. -/
def cmdQueues : Instr → List (Fin 6)
  | .qfence _ m => ([0, 1, 2, 3, 4, 5] : List (Fin 6)).filter fun e => bitAt m e.val
  | i => [Fin.ofNat 6 (cmdHdrOf i).eng.toNat]

/-- The entries of each queue (R172). -/
def queueCap (e : Fin 6) : Nat := match e.val with | 0 => 16 | 1 => 32 | 2 => 32 | _ => 16

/-- Whether a command selects stochastic rounding (R144). A copy with CVT = 0 rounds nothing, and the spec does not say
whether RM = 4 selects it all the same: the model says that it does not. DESIGN CHOICE (log 89). -/
def usesSr : Instr → Bool
  | .drain _ b => b.rm == 4
  | .tload _ b | .tgather _ b | .tcvt _ b | .tstore _ b => b.cvt && b.rm == 4
  | _ => false

/-- The tokens of a tile. -/
def shTokens (h : CmdWord) : Nat := shRows h * shPlanes h

/-- A MODE that a command defines for a reference (R253). -/
def refMode (r : OpRef) (modes : List Nat) : Bool := decide (r.mode.toNat ∈ modes)

/-- The stage rules of a copy (R269, R270) and its other checks at step 3. R252 checks a shape record as SHAPE and SHLD write
it; the model checks it again here, so that a shape register that was never written, all zeros, gives the illegal-shape fault.
DESIGN CHOICE (log 109). A field that must be 0 only under a condition (AMN with AE = 0, SPFMT with CVT = 0, STADDR with
STE = 0) is no matter of this step: decodeCmd has met it at step 1 (log 105). -/
def copyOkPush (s : State) (gather tcvt : Bool) (b : CopyBody) (h : CmdWord) : Bool :=
  let mx1 := shFmt h == 7
  let mx2 := b.spfmt == 7
  refMode b.sref [0, 1] && decide (b.rm.toNat ≤ 4) && (!b.ae || b.cvt) &&
  (!b.cvt || (decide (b.spfmt.toNat ≤ 11) && fmtFeature s b.spfmt.toNat && shFmt h != 12)) &&
  (b.bsc == (b.cvt && (mx1 != mx2))) && (b.gix == gather) && !(b.trn && (mx1 || (b.cvt && mx2))) &&
  (!gather || (decide (shPlanes h = 1) && refMode b.xref [0])) && (!tcvt || refMode b.xref [0, 1]) &&
  decide (shTokens h ≤ 65535) && shapeOk s h

/-- The number of steps of a matrix command. -/
def kSteps (b : MmaBody) : Nat := b.km1.toNat + 1

/-- The group size of a pair of format codes that are accepted. -/
def pairGroup (s : State) (b : MmaBody) : Option Nat :=
  match Fmt.ofCode b.afmt.toNat, Fmt.ofCode b.bfmt.toNat with
  | some x, some y => if fmtFeature s b.afmt.toNat && fmtFeature s b.bfmt.toNat then groupSize x y else none
  | _, _ => none

/-- The checks of MMA and MMAC at step 3 (R134, R261, R262). -/
def mmaOkPush (s : State) (b : MmaBody) (chained : Bool) : Bool :=
  match pairGroup s b with
  | none => false
  | some g =>
    decide (b.plog.toNat ≤ 8) && (g != 8 || decide (kSteps b % 4 = 0)) && (chained || refMode b.aref [0, 1]) && refMode b.bref [0, 1] &&
    (!chained || decide (kSteps b = 1024 / g))

/-- The formats that DRAIN writes (R264). -/
def drainFmts : List Nat := [0, 1, 2, 3, 4, 5, 6, 7]

/-- The checks of DRAIN at step 3 (R264, R265). -/
def drainOkPush (s : State) (r : CoreRef) (b : DrainBody) : Bool :=
  decide (b.rm.toNat ≤ 4) && decide (b.ofmt.toNat ∈ drainFmts) && fmtFeature s b.ofmt.toNat && b.layout != 3 &&
  (if b.dref.mode = 2 then b.ofmt == 0 && b.rm == 0 && !b.sat && b.layout == 0 && !b.ae
   else (b.layout != 0 || (b.ofmt != 7 && decide (s.strips r = 1))) && (b.layout != 2 || decide (b.ofmt.toNat ∈ [1, 3, 4, 5, 6, 7])))

/-- Destination rows per member of a DRAIN (R265). -/
def drainRows (ofmt : Nat) : Nat := if ofmt = 7 then 136 else 32 * codeWidth ofmt

/-- The fragment led by a core is leased to a task of a pipeline. -/
def State.leadOf (s : State) (r : CoreRef) (pipe : Nat) : Bool :=
  (((s.core r).task.map fun t => t.pipe == pipe && t.live).getD false) && s.role r == 1

/-- The checks of CHAIN at step 3 (R38, R267): F's outgoing link and G's incoming one are free, and G is chain-adjacent. -/
def chainOkPush (s : State) (r : CoreRef) (g : BitVec 3) : Bool :=
  let lead : CoreRef := ⟨r.site, g.toFin⟩
  let n := s.strips r
  decide (g.toNat = r.core.val + n) && decide (n ≥ 1) && s.strips lead == n &&
  (((s.core r).task.map fun t => s.leadOf lead t.pipe).getD false) &&
  (s.core r).linkOut.isNone && (s.core lead).linkIn.isNone

/-- The most a command's VCNT may be (R256). -/
def vcntMax (s : State) (r : CoreRef) (h : CmdWord) : Instr → Nat
  | .mma .. | .mmac .. | .promote .. | .zacc .. => 128 * s.strips r
  | .drain _ b => drainRows b.ofmt.toNat
  | .tload .. | .tgather .. | .tcvt .. | .tstore .. | .prefetch .. => shTokens h
  | .gatomAdd .. | .gatomFadd .. | .gatomMax .. | .gatomMin .. | .gatomSwap .. | .gatomCas .. | .migrate .. | .cntsnap .. => 1
  | .scatAdd _ b | .scatMax _ b | .scatMin _ b => b.nent.toNat + 1
  | .rwrite _ b => b.nrows.toNat + 1
  | _ => 0

/-- The other checks of step 3, command by command. -/
def bodyOkPush (s : State) (r : CoreRef) (h : CmdWord) : Instr → Bool
  | .mma _ b => mmaOkPush s b false
  | .mmac _ b => mmaOkPush s b true
  | .drain _ b => drainOkPush s r b
  | .chain _ g => chainOkPush s r g
  | .tload _ b => copyOkPush s false false b h
  | .tgather _ b => copyOkPush s true false b h
  | .tcvt _ b => copyOkPush s false true b h
  | .tstore _ b => copyOkPush s false false b h
  | .prefetch _ b => shapeOk s h && decide (shTokens h ≤ 65535) && decide (b.rm.toNat ≤ 4) && !b.ae
  | .migrate _ b => decide (b.dsl.toNat ≤ 11)
  | .scatAdd _ b | .scatMax _ b | .scatMin _ b =>
    decide (b.fmt.toNat ∈ [0, 1, 2, 9, 10, 11]) && refMode b.vref [0, 1] && refMode b.xref [0]
  | .cntsnap _ d => refMode d [0]
  | .rwrite _ b => refMode b.sref [0, 1] && (((s.pipeOf r).bind fun p => p.record.rmap[b.rent.toNat]?).map fun x => bitAt x.1 63).getD false
  | .qfence _ m => m != 0
  | .semsig h => h.sv
  | .semwait h => h.wv
  | _ => true

/-! ## The pages of a command (R75, R79) -/

/-- The byte range [a, a + n) of global memory and whether it is written. -/
structure Span where
  a  : Nat
  n  : Nat
  wr : Bool
  deriving DecidableEq, Repr

/-- The address of row r of plane p (R251). -/
def shRowAddr (h : CmdWord) (p r : Nat) : Nat := (shBase h + p * shStride2 h + r * shStride1 h) % 2 ^ 64

/-- The rows of a tile as spans. -/
def tileSpans (h : CmdWord) (wr : Bool) : List Span :=
  (List.range (shPlanes h)).flatMap fun p => (List.range (shRows h)).map fun r => ⟨shRowAddr h p r, shRowBytes h, wr⟩

/-- The scale bytes of an MXFP4 tile as a span (R251). -/
def scaleSpans (h : CmdWord) (wr : Bool) : List Span :=
  if shFmt h = 7 then [⟨shSbase h, shTokens h * (shCols h / 32), wr⟩] else []

/-- The spans of global memory that a command names. A MIGRATE's page is translated as for a write: R274 does not say with
which access. DESIGN CHOICE (log 113). -/
def cmdSpans (h : CmdWord) (i : Instr) : List Span :=
  let stamp (b : CopyBody) : List Span := if b.ste then [⟨b.staddr.toNat, 8, true⟩] else []
  match i with
  | .tload _ b | .tgather _ b => tileSpans h false ++ scaleSpans h false ++ stamp b
  | .prefetch _ _ => tileSpans h false ++ scaleSpans h false
  | .tstore _ b => tileSpans h true ++ scaleSpans h true ++ stamp b
  | .tcvt _ b => stamp b
  | .gatomAdd _ b | .gatomFadd _ b | .gatomMax _ b | .gatomMin _ b | .gatomSwap _ b | .gatomCas _ b => [⟨b.addr.toNat, 8, true⟩]
  | .migrate _ b => ⟨b.addr.toNat, 8, true⟩ :: if b.staddr = 0 then [] else [⟨b.staddr.toNat, 8, true⟩]
  | _ => []

/-- The pages of size 2^lg that a span touches. -/
def Span.pages (x : Span) (lg : Nat) : List Nat :=
  if x.n = 0 then [] else (List.range ((x.a + x.n - 1) / 2 ^ lg - x.a / 2 ^ lg + 1)).map fun k => x.a / 2 ^ lg + k

/-- The distinct pages of a list of spans, with whether any span writes them. -/
def spanPages (l : List Span) (lg : Nat) : List (Nat × Bool) :=
  l.foldl (fun acc x => (x.pages lg).foldl (fun acc p =>
    insertKey p (x.wr || getKey false p acc) acc) acc) []

/-- The addresses that a command needs aligned, with their alignment; the first misaligned one is named (R174 step 4). -/
def cmdAligns (h : CmdWord) (i : Instr) : List (Nat × Nat) :=
  let tile (b : CopyBody) : List (Nat × Nat) := [(shBase h, 16), (shSbase h, 16), (if b.ste then b.staddr.toNat else 0, 8)]
  match i with
  | .tload _ b | .tgather _ b | .tstore _ b | .prefetch _ b => tile b
  | .tcvt _ b => [(if b.ste then b.staddr.toNat else 0, 8)]
  | .gatomAdd _ b | .gatomFadd _ b | .gatomMax _ b | .gatomMin _ b | .gatomSwap _ b | .gatomCas _ b => [(b.addr.toNat, 8)]
  | .migrate _ b => [(b.addr.toNat, 65536), (b.staddr.toNat, 8)]
  | _ => []

/-! ## The instances that a command writes (R24, R275) -/

/-- The ring that a MODE 1 reference names. -/
def OpRef.ringNo (f : OpRef) : Nat := fld f.loc 0 5

/-- The fields of a remote-map entry's word 0 (R304). -/
def rmapPkg (w : Word) : Nat := fld w 21 12
def rmapRing (w : Word) : Fin 32 := Fin.ofNat 32 (fld w 16 5)
def rmapVcore (w : Word) : BitVec 6 := BitVec.ofNat 6 (fld w 0 6)

/-- The site of a virtual core of a pipeline. -/
def Pipe.vsite (p : Pipe) (v : Nat) : Option (Fin 6) := (siteOf p.bound (v / 8)).map (Fin.ofNat 6)

/-- Whether an entry names a core on a fenced die of this package (R354). -/
def State.rmapFenced (s : State) (w0 w1 : Word) : Bool :=
  rmapPkg w0 == s.fab.pkg &&
  match s.fe.pipes.find? fun p => p.handle == w1 with
  | some p => ((p.vsite (rmapVcore w0).toNat).map fun i => (vdieOf p.vdtab i.val).isNone).getD false
  | none => false

/-- The virtual die of a MODE 1 write into an instance whose binding a fence has cleared. -/
def State.refUnbound (s : State) (r : CoreRef) (f : OpRef) : Option Nat :=
  if f.mode = 1 then
    (s.resvOn r (OpRef.ringNo f)).bind fun v => if s.unbound r v.inst.site then some (s.vdieNo r v.inst.site) else none
  else none

/-- The unbound virtual die that a command names when it is pushed (R24). -/
def State.pushUnbound (s : State) (r : CoreRef) : Instr → Option Nat
  | .rwrite _ b =>
    ((s.pipeOf r).bind fun p => p.record.rmap[b.rent.toNat]?).bind fun e =>
      if s.rmapFenced e.1 e.2 then some ((rmapVcore e.1).toNat / 8) else none
  | .drain _ b => s.refUnbound r b.dref
  | .tload _ b | .tgather _ b => s.refUnbound r b.sref
  | .tcvt _ b => s.refUnbound r b.xref
  | _ => none

/-! ## PUSH (R174) -/

/-- What steps 1 to 4 find: a fault, or the command with its shape copy. -/
inductive PushCheck where
  | illegal
  | shape
  | misaligned (a : Nat)
  | unbound (d : Nat)
  | ok (i : Instr) (h : CmdWord)
  deriving DecidableEq, Repr

/-- A matrix command needs the lead core of a fragment (R257). -/
def engOk (s : State) (r : CoreRef) (i : Instr) : Bool :=
  match i with
  | .qfence .. => true
  | i => (cmdHdrOf i).eng != 0 || s.role r == 1

/-- The most placement pages that a command may touch (R79). -/
def pageMax : Nat := 1024

/-- Step 3. Placement pages are counted here as the 64 KiB pages of the host virtual addresses, since nothing is translated
before step 6; there the placement pages themselves are counted. DESIGN CHOICE (log 90). -/
def pushShapeOk (s : State) (r : CoreRef) (h : CmdWord) (i : Instr) : Bool :=
  engOk s r i && bodyOkPush s r h i && decide ((cmdHdrOf i).vcnt.toNat ≤ vcntMax s r h i) &&
  decide ((spanPages (cmdSpans h i) 16).length ≤ pageMax)

/-- Steps 1 to 4 on a command word, and then the bindings that the command samples (R24; log 91); held is the shape copy of
a PUSH that has reached step 5, and so has passed them. -/
def pushCheck (s : State) (c : CtxRef) (w : CmdWord) (held : Option CmdWord) : PushCheck :=
  match decodeCmd w with
  | .error (.value _) => .shape
  | .error _ => .illegal
  | .ok i =>
    if usesSr i && c.ctx != .compute then .illegal
    else
      match held with
      | some h => .ok i h
      | none =>
        let h := match copyBodyOf i with | some b => (s.core c.at_).h[b.sh.toFin] | none => 0
        if !pushShapeOk s c.at_ h i then .shape
        else match (cmdAligns h i).find? fun x => x.1 % x.2 ≠ 0 with
          | some x => .misaligned x.1
          | none => match s.pushUnbound c.at_ i with
            | some d => .unbound d
            | none => .ok i h

/-- QFENCEs of a core that have not released. -/
def Core.fencesOut (c : Core) : Nat :=
  (((c.eng.toList.flatMap fun q => q).filter QEntry.isFence).map QEntry.grp).eraseDups.length

/-- Step 5: every queue that the command enters has a free entry, and a QFENCE is at most the eighth (R258). -/
def pushRoom (c : Core) (i : Instr) : Bool :=
  (cmdQueues i).all (fun e => decide ((c.eng[e]).length < queueCap e)) &&
  match i with | .qfence .. => decide (c.fencesOut < 8) | _ => true

/-- A translation of one 4 KiB page, as a queue entry keeps it. -/
def pageXlat (pasid page dla : Nat) (wr : Bool) : Xlat := ⟨pasid, page * 4096, 12, dla, wr⟩

/-- Translate the pages of a command; skip what ATS refuses when it is a PREFETCH (R270). -/
def pushXlat (s : State) (u : XlatUser) (pasid : Nat) (skip : Bool) : List (Nat × Bool) → Except (XlatRes × Nat × Bool) (List Xlat)
  | [] => .ok []
  | (p, wr) :: t =>
    match s.lookupXlat u pasid (p * 4096) wr skip with
    | .hit d => match pushXlat s u pasid skip t with
      | .ok l => .ok (pageXlat pasid p d wr :: l)
      | .error e => .error e
    | .waiting => .error (.waiting, p * 4096, wr)
    | r => if skip then pushXlat s u pasid skip t else .error (r, p * 4096, wr)

/-- Whether a command takes pins: MIGRATE takes one for its status word alone (R274). -/
def cmdPins (i : Instr) (xs : List Xlat) : List Nat :=
  let pages (l : List Xlat) : List Nat := l.foldl (fun acc x => addNew (pageOf x.dla) acc) []
  match i with
  | .migrate _ b => if b.staddr = 0 then [] else pages (xs.filter fun x => x.serves x.pasid b.staddr.toNat true)
  | _ => pages xs

/-- A fault of PUSH: every one carries the command word (R339). -/
def State.pushFault (s : State) (code addr : Nat) (w : CmdWord) (info : Word := 0) : State :=
  s.ctxFault s.cur code addr info w

/-- Step 7: the command stands in its queues; its seed is LFSR after one step when it rounds by SR (R144). -/
def pushQueue (s : State) (w h : CmdWord) (i : Instr) (xs : List Xlat) (pages : List Nat) : State :=
  let sr := usesSr i
  let s := if sr then s.updMyCore fun c => { c with vf := { c.vf with lfsr := lfsrStep c.vf.lfsr } } else s
  let seed := s.myCore.vf.lfsr
  let (s, n) := s.takeSeq
  let e : QEntry := ⟨w, i, h, s.me.pc, s.cur.ctx, n, seed, xs, pages, s.myCore.pushes, none, .queued⟩
  let s := s.updMyCore fun c => { c with pushes := c.pushes + 1, eng := (cmdQueues i).foldl (fun v (q : Fin 6) => v.set q (v[q] ++ [e])) c.eng }
  (s.updMe fun c => { c with heldShape := none }).goOn

/-- Step 6: translate and pin, then step 7. -/
def pushTranslate (s : State) (w h : CmdWord) (i : Instr) : State :=
  let eng := (cmdHdrOf i).eng.toNat
  let u := XlatUser.engine s.cur.at_ eng
  let pasid := s.pasidOf s.cur.at_
  let skip := match i with | .prefetch .. => true | _ => false
  match pushXlat s u pasid skip (spanPages (cmdSpans h i) 12) with
  | .ok xs =>
    if pageMax < (cmdPins i xs).length then s.pushFault fShape 0 w
    else match s.pinAll (cmdPins i xs) with
      | some s => pushQueue s w h i xs (cmdPins i xs)
      | none => s.block .pin
  | .error (.refused, a, _) => (s.dropRefused u pasid a).pushFault fPage a w
  | .error (.paging, a, wr) => s.block (.translation (a / 4096) wr)
  | .error (_, a, wr) => (s.askXlat u pasid a wr skip).block (.translation (a / 4096) wr)

/-- PUSH. -/
def execPush (k : BitVec 3) (s : State) : Host.Outcome State Fault Refusal :=
  go (issue (.push k) s fun s =>
    let w := s.me.k[k.toFin]
    match pushCheck s s.cur w s.me.heldShape with
    | .illegal => s.pushFault fIllegal 0 w ((wordOfInstr (.push k)).setWidth 64)
    | .shape => s.pushFault fShape 0 w
    | .misaligned a => s.pushFault fMisCmd a w
    | .unbound d => s.pushFault fUnbound d w
    | .ok i h =>
      let s := s.sideEffect.updMe fun c => { c with heldShape := some h }
      if pushRoom s.myCore i then pushTranslate s w h i else s.block .engine)

end Sys2Proof.Machine
end

