-- ==== Sys2Proof/Machine/Engine.lean ====
section
/-! DEFINITION. How a queued command runs (R110 to R113, R253 to R256): its start, its references, what it writes,
and its completion (COMMAND_COMPLETE). -/

namespace Sys2Proof.Machine

/-! ## References (R253, R34, R35) -/

/-- What a reference resolves to: rows, each in the numbering of the core that stands with it, and the slots that a
ring read takes; or a fault with its ADDR. -/
inductive RefRes where
  | ok (rows : List (CoreRef × Nat)) (pops : Nat)
  | fault (code addr : Nat)
  deriving DecidableEq, Repr

/-- The slots that n rows need. -/
def RingInst.slotsFor (g : RingInst) (n : Nat) : Nat := (n + g.rowsPer - 1) / g.rowsPer

/-- The rows of consecutive slots. -/
def RingInst.rowsOf (g : RingInst) (slots : List Nat) : List Nat :=
  slots.flatMap fun i => (List.range g.rowsPer).map fun k => g.slotRow i + k

/-- n rows from one on, as a task names them. -/
def rowsFrom (s : State) (r : CoreRef) (first n : Nat) : RefRes :=
  match (List.range n).find? fun k => decide (s.rowLimit r ≤ first + k) with
  | some k => .fault fRange ((first + k) * 512)
  | none => .ok ((List.range n).map fun k => (r, first + k)) 0

/-- A ring read of n rows: claimed slots from HEAD on. -/
def ringRead (s : State) (r : CoreRef) (ring n : Nat) : RefRes :=
  let g := (s.core r).ring ring
  let k := g.slotsFor n
  if g.valid && s.consumes r ring && decide (k ≤ s.claimsOn r ring) then
    .ok (((g.rowsOf ((List.range k).map fun j => ptrIdx (g.advanceN g.head j))).take n).map fun x => (r, x)) k
  else .fault fOverrun (ringAddr (ptrIdx g.head) ring)

/-- A ring write of n rows from slot SLOT on: reserved, unpublished slots, in ring order. -/
def ringWrite (s : State) (r : CoreRef) (ring slot n : Nat) : RefRes :=
  match s.resvOn r ring with
  | none => .fault fOverrun (ringAddr slot ring)
  | some v =>
    if s.unbound r v.inst.site then .fault fUnbound (s.vdieNo r v.inst.site)
    else
      let g := (s.core v.inst).ring ring
      let idx := (List.range (g.slotsFor n)).map fun j => (slot + j) % g.slots
      if slot ≥ g.slots then .fault fOverrun (ringAddr slot ring)
      else match idx.find? fun i => (v.slot i).isNone with
        | some i => .fault fOverrun (ringAddr i ring)
        | none => .ok (((g.rowsOf idx).take n).map fun x => (v.inst, x)) 0

/-- Resolve a read of n rows. -/
def refRead (s : State) (r : CoreRef) (f : OpRef) (n : Nat) : RefRes :=
  if f.mode = 1 then ringRead s r (OpRef.ringNo f) n else rowsFrom s r f.loc.toNat n

/-- Resolve a write of n rows. -/
def refWrite (s : State) (r : CoreRef) (f : OpRef) (n : Nat) : RefRes :=
  if f.mode = 1 then ringWrite s r (OpRef.ringNo f) (fld f.loc 5 8) n else rowsFrom s r f.loc.toNat n

/-- The slots that a read pops when it completes. -/
def popsOf (f : OpRef) (n : Nat) : List (Nat × Nat) := if f.mode = 1 ∧ ¬ f.keep then [(OpRef.ringNo f, n)] else []

/-! ## Starting (R110, R111, R254) -/

/-- The queue that a command stands in. -/
def engOf (i : Instr) : Fin 6 := Fin.ofNat 6 (cmdHdrOf i).eng.toNat

/-- Whether a command reads or writes global memory or scratchpad (R110). -/
def touchesMemory : Instr → Bool
  | .semsig .. | .semwait .. | .qfence .. | .promote .. | .zacc .. | .chain .. | .unchain .. => false
  | _ => true

/-- Every access of the command's class that its context issued before the PUSH has performed (R110). R110 names no scope:
the model asks for package scope, at which the engines read and write. DESIGN CHOICE (log 92). -/
def State.classClear (s : State) (r : CoreRef) (q : QEntry) : Bool :=
  !touchesMemory q.cmd ||
  let m := clsBit (cmdHdrOf q.cmd).cls
  let c : CtxRef := ⟨r, q.ctx⟩
  !((s.ctx c).out.any fun a => decide (a.seq < q.seq) && a.pending && meets a.cls m && match a.op with | .fence _ => false | _ => true) &&
  !((s.core r).sideLog.any fun e => e.ctx == q.ctx && decide (e.seq < q.seq) && meets e.cls m) &&
  !((s.die r.site).buf.any fun w => w.ctx == c && decide (w.seq < q.seq) && meets w.cls m)

/-- Whether the semaphore that an entry waits for, if any, is non-zero (R254 step 2). -/
def semReady (c : Core) (i : Instr) : Bool := !(cmdHdrOf i).wv || c.semVal (cmdHdrOf i).wsem != 0

/-- Replace the head of a queue. -/
def Core.setHead (c : Core) (e : Fin 6) (q : QEntry) : Core := { c with eng := c.eng.set e (q :: (c.eng[e]).drop 1) }

/-- Remove the head of a queue. -/
def Core.dropHead (c : Core) (e : Fin 6) : Core := { c with eng := c.eng.set e ((c.eng[e]).drop 1) }

/-- The core's task has stopped for pre-emption: no entry starts until it resumes (R72, R255). -/
def Core.stopped (c : Core) : Bool := match c.task with | some t => t.phase == .stopped | none => false

/-- The entry for a command at the head of its queue, if it may start now. -/
def State.startable (s : State) (r : CoreRef) (i : Instr) : Option QEntry :=
  match (s.core r).eng[engOf i] with
  | [] => none
  | q :: _ =>
    if q.cmd = i ∧ q.state = .queued ∧ s.classClear r q = true ∧ semReady (s.core r) i = true ∧ (s.core r).stopped = false then some q
    else none

/-- An entry starts no earlier than the last SEMSIG, SEMWAIT or QFENCE lets its queue go on (R256); the decrement of R254
step 2. -/
def takeSem (s : State) (r : CoreRef) (i : Instr) : State :=
  let h := cmdHdrOf i
  let s := s.at_ (s.core r).engFree[engOf i]
  if h.wv then s.updCore r fun c => c.setSem h.wsem (c.semVal h.wsem - 1) else s

/-- THE START of a command of the core at hand: k runs on its queue entry. A command that stands nowhere, or may not
start, changes nothing (log 4). -/
def withStart (i : Instr) (s : State) (k : QEntry → State → State) : State :=
  match s.startable s.cur.at_ i with
  | some q => k q (takeSem s s.cur.at_ i)
  | none => s

/-- A fault at a command's start (R253): the task ends, and the entry, which has not started, is discarded. -/
def startFault (s : State) (q : QEntry) (code addr : Nat) : State := s.cmdFault s.cur.at_ (engOf q.cmd).val q code addr

/-- The entry has started: what it has yet to write, its stamp, its amax update and its pops (R113, R122, R152, R253). -/
def begun (s : State) (q : QEntry) (todo : List EngWrite) (stamp : Option EngWrite) (amax : Option (BitVec 33))
    (pops : List (Nat × Nat)) : State :=
  s.updCore s.cur.at_ fun c => c.setHead (engOf q.cmd) { q with state := .started s.now todo stamp amax pops }

/-- Rows in gated or waking banks stall the start, which wakes them (R101, R102). -/
def withRows (s : State) (rows : List (CoreRef × Nat)) (k : State → State) (else_ : State) : State :=
  if rows.any fun x => s.rowStalled x.1 x.2 then rows.foldl (fun s x => s.wakeRow x.1 x.2) else_ else k s

/-- The values of rows. -/
def State.rowVals (s : State) (rows : List (CoreRef × Nat)) : List Row := rows.map fun x => s.row x.1 x.2

/-- The first poisoned row of a list, as a scratchpad byte address. -/
def State.poisonRow (s : State) (rows : List (CoreRef × Nat)) : Option Nat :=
  (rows.find? fun x => s.rowPoisoned x.1 x.2).map fun x => x.2 * 512

/-- Writes of values to rows. -/
def rowWrites (rows : List (CoreRef × Nat)) (vals : List Row) : List EngWrite :=
  (rows.zip vals).map fun x => let (k, i) := rowAt x.1.1 x.1.2; .row k i x.2

/-- Rows that a copy which met poison covers hold free values (R349; log 7). -/
def spoilRows (s : State) (rows : List (CoreRef × Nat)) : State :=
  rows.foldl (fun s x => let (s, n) := s.draw; s.setRow x.1 x.2 (Config.freeRow n)) s

/-- A number made of k free rows (log 7). -/
def freeBits (n : Nat) : Nat → Nat
  | 0 => 0
  | k + 1 => freeBits n k * 2 ^ 4096 + (Config.freeRow (n + k)).toNat

/-- Draw k numbers for free values. -/
def State.drawN (s : State) (k : Nat) : State × Nat := ({ s with free := s.free + k }, s.free)

/-! ## Durations (R256) -/

/-- ⌈a ÷ b⌉. -/
def ceilDiv (a b : Nat) : Nat := (a + b - 1) / b

/-- P of an MMA (R261). -/
def mmaP (b : MmaBody) : Nat := 2 ^ (b.plog.toNat + 4)

/-- Width of the scratchpad side of a copy (R269). -/
def sideFmt (h : CmdWord) (b : CopyBody) : Nat := if b.cvt then b.spfmt.toNat else shFmt h

/-- Output rows of a stream and their length (R269). -/
def outRows (h : CmdWord) (b : CopyBody) : Nat × Nat :=
  if b.trn then (shPlanes h * shCols h, shRows h) else (shTokens h, shCols h)

/-- Scratchpad rows of the elements of a stream of format code f. -/
def elemRows (h : CmdWord) (b : CopyBody) (f : Nat) : Nat :=
  let (n, l) := outRows h b
  if b.zpd then n * ceilDiv (l * codeWidth f) 4096 else ceilDiv (n * l * codeWidth f) 4096

/-- The scale bytes of a token of a tile in the scratchpad: a block of 32 elements has one, and so does what is left of a row
(R130; log 95). -/
def scalesPer (h : CmdWord) : Nat := ceilDiv (shCols h) 32

/-- Scratchpad rows of the scales. -/
def scaleRows (h : CmdWord) (f : Nat) : Nat := if f = 7 then ceilDiv (shTokens h * scalesPer h) 512 else 0

/-- Scratchpad rows that the stream of a copy covers. -/
def streamRows (h : CmdWord) (b : CopyBody) : Nat := elemRows h b (sideFmt h b) + scaleRows h (sideFmt h b)

/-- A number of bclk in whole clk, rounded up (R7). -/
def bclkClk (n : Nat) : Nat := ceilDiv (n * tBclk) tClk

/-- The stage latencies of a copy (R268), each converted into clk by itself (log 93). -/
def stageLat (b : CopyBody) : Nat :=
  (if b.cvt then bclkClk 24 else 0) + (if b.trn then bclkClk 128 else 0) + (if b.bsc then bclkClk 48 else 0) +
  (if b.gix then bclkClk 64 else 0) + (if b.zpd then bclkClk 4 else 0)

/-- The duration of a command in ticks. The bytes of a PREFETCH's tile are counted as those of its elements, without the
scales of an MXFP4 tile: R256 says only the bytes of the tile. DESIGN CHOICE (log 112). -/
def durTicks (s : State) (r : CoreRef) (h : CmdWord) (i : Instr) : Nat :=
  match i with
  | .mma _ b => (48 + kSteps b + ceilDiv (kSteps b) (mmaP b)) * tClk
  | .mmac _ b => (48 + kSteps b + ceilDiv (kSteps b) (mmaP b)) * tClk
  | .promote .. => 16 * tClk
  | .zacc .. => 64 * tClk
  | .drain _ b =>
    if b.dref.mode = 2 then
      match (s.core r).linkOut.bind fun g => (s.core ⟨r.site, g⟩).eng[(0 : Fin 6)].head? with
      | some d => match d.cmd, d.state with
        | .mmac _ m, .started .. => (48 + kSteps m + ceilDiv (kSteps m) (mmaP m)) * tClk
        | _, _ => 0
      | none => 0
    else
    let other := b.dref.mode = 1 && ((s.resvOn r (OpRef.ringNo b.dref)).map fun v => v.inst != r).getD false
    (if other then 64 + 2 * s.strips r * drainRows b.ofmt.toNat else 32 + drainRows b.ofmt.toNat) * tClk
  | .chain .. | .unchain .. => 8 * tClk
  | .tload _ b | .tgather _ b | .tcvt _ b | .tstore _ b => (16 + streamRows h b + stageLat b) * tClk
  | .prefetch .. => (16 + ceilDiv (shTokens h * shRowBytes h) 512) * tClk
  | .gatomAdd .. | .gatomFadd .. | .gatomMax .. | .gatomMin .. | .gatomSwap .. | .gatomCas .. | .migrate .. => 8 * tClk
  | .scatAdd _ b | .scatMax _ b | .scatMin _ b => (32 + 3 * (b.nent.toNat + 1)) * tClk
  | .cntsnap .. => 16 * tClk
  | .rwrite _ b => (17 + b.nrows.toNat) * tClk
  | _ => tClk

/-! ## Writes of the engines -/

/-- The bits of a line that a byte mask names. -/
def maskBits (m : BitVec 128) : LineData := pack 1024 8 ((List.range 128).map fun i => if bitAt m i then 255 else 0)

/-- Write the bytes of a line that a mask names at its current home (R91): every die copy is given up first; a whole
line clears its poison, a partial one merges (R349). -/
def State.lineWrite (s : State) (l : Nat) (m : BitVec 128) (data : LineData) : State :=
  let s := s.recallLine l
  let old : LineData := BitVec.ofNat 1024 (s.homes.getN (l * 128) 128)
  let b := maskBits m
  let s := (((s.updHomes fun h => h.put (l * 128) 128 ((old &&& ~~~b) ||| (data &&& b)).toNat).touchLlc l).overwrite
    fun x => x / 16 == l && fld m (x % 16 * 8) 8 != 0).triggerAll l
  if m = BitVec.allOnes 128 then s.updHomes fun h => h.clearPoison l else s

/-- Perform one write of an engine of die i (R91, R98, R105). -/
def State.engWrite (s : State) (i : Fin 6) : EngWrite → State
  | .row dst row data => s.updCore dst fun c => c.setRow row data
  | .line l m data => (s.accept i [l]).lineWrite l m data
  | .remote _ | .buffered _ => s

/-- No write to a line waits in a die's list: an engine of the die acts at the home only behind what its die has performed
there (R105, R106, R288; log 119). -/
def Die.landed (d : Die) (l : Nat) : Bool := !d.buf.any fun w => lineOf w.dla == l

/-- Whether a write of an engine of die i can perform now: its bank is awake; its request stands at the page's current
home, where no die holds the line, behind its own die's writes of it. -/
def State.engWriteOk (s : State) (i : Fin 6) : EngWrite → Bool
  | .row dst row _ => !(s.core dst).rowStalled row
  | .line l _ _ => (s.die i).landed l && s.routed i (linePage l) && s.writeClear l
  | .remote _ | .buffered _ => false

/-- What a write that cannot perform yet brings about: a bank wakes (R102), or the home asks for the line's copies (R351). -/
def State.engAsk (s : State) (i : Fin 6) : EngWrite → State
  | .row dst row _ => s.wakeOwn dst row
  | .line l _ _ => if s.routed i (linePage l) then s.askWrite l else s
  | .remote _ | .buffered _ => s

/-- Perform the n-th pending write of the entry that runs in a queue; the stamp waits for the payload (R122). -/
def State.land (s : State) (r : CoreRef) (e : Fin 6) (n : Nat) : State :=
  match (s.core r).eng[e] with
  | [] => s
  | q :: _ =>
    match q.state with
    | .started t todo stamp am pops =>
      match todo[n]? with
      | some w => if s.engWriteOk r.site w then
          (s.engWrite r.site w).updCore r fun c => c.setHead e { q with state := .started t (dropAt n todo) stamp am pops }
        else s.engAsk r.site w
      | none => match todo, stamp with
        | [], some w => if s.engWriteOk r.site w then
            (s.engWrite r.site w).updCore r fun c => c.setHead e { q with state := .started t [] none am pops }
          else s.engAsk r.site w
        | _, _ => s
    | _ => s

/-! ## Completion (R113, R152, R253, R254) -/

/-- The amax register that a command names. -/
def amaxOf : Instr → Option (BitVec 4)
  | .drain _ b => if b.ae then some b.amn else none
  | .tload _ b | .tgather _ b | .tcvt _ b | .tstore _ b => if b.ae then some b.amn else none
  | _ => none

/-- Apply a command's amax update. -/
def Core.joinAmax (c : Core) (i : Instr) (a : Option (BitVec 33)) : Core :=
  match amaxOf i, a with
  | some n, some v => { c with vf := { c.vf with am := c.vf.am.set n.toFin (amaxJoin c.vf.am[n.toFin] v) } }
  | _, _ => c

/-- Signal SSEM (R254): past 65,535 it stays, and the task takes the semaphore-overflow fault. -/
def State.signal (s : State) (r : CoreRef) (q : QEntry) : State :=
  let h := cmdHdrOf q.cmd
  if h.sv then
    if (s.core r).semVal h.ssem = 65535 then s.cmdFault r (engOf q.cmd).val q fSemOver h.ssem.toNat
    else s.updCore r fun c => c.setSem h.ssem (c.semVal h.ssem + 1)
  else s

/-- Pop n slots of a ring, each of which the task must have claimed (R89); the ring's number if one is not. -/
def State.popClaimed (s : State) (r : CoreRef) (ring : Nat) : Nat → State × Option Nat
  | 0 => (s, none)
  | n + 1 => if s.claimsOn r ring = 0 then (s, some ring) else (s.popSlot r ring).popClaimed r ring n

/-- The pops of a command in turn. -/
def State.popRings (s : State) (r : CoreRef) : List (Nat × Nat) → State × Option Nat
  | [] => (s, none)
  | x :: t => match s.popClaimed r x.1 x.2 with
    | (s, none) => s.popRings r t
    | (s, some ring) => (s, some ring)

/-- What ends an entry: its pops, its amax update, its pins, its place and its signal. A pop of a slot that is claimed no
more is a fault: the command does not complete (R89, R254). -/
def State.finish (s : State) (r : CoreRef) (e : Fin 6) (q : QEntry) (am : Option (BitVec 33)) (pops : List (Nat × Nat)) : State :=
  match (s.updCore r fun c => c.dropHead e).popRings r pops with
  | (s, none) => (((s.updCore r fun c => c.joinAmax q.cmd am).unpin q.pages).signal r q).settle r
  | (s, some ring) =>
    ((s.cmdFault r e.val q fOverrun (ringAddr (ptrIdx ((s.core r).ring ring).head) ring)).unpin q.pages).settle r

/-- A queue goes on no earlier than 1 clk from now (R256). -/
def Core.holdQueue (c : Core) (e : Fin 6) (now : Nat) : Core := { c with engFree := c.engFree.set e (now + tClk) }

/-- An entry whose work has ended completes at the instant it starts, and holds its queue for 1 clk (R256, R258). -/
def finishNow (s : State) (q : QEntry) : State :=
  (s.updCore s.cur.at_ fun c => c.holdQueue (engOf q.cmd) s.now).finish s.cur.at_ (engOf q.cmd) q none []

end Sys2Proof.Machine
end

