-- ==== Sys2Proof/Machine/Matrix.lean ====
section
/-! DEFINITION. The matrix commands: MMA, MMAC, PROMOTE, ZACC, DRAIN, CHAIN and UNCHAIN (R257 to R267). -/

namespace Sys2Proof.Machine

/-! ## The bank halves and accumulators (R26, R37) -/

/-- A row of a bank half: half A, or half B. -/
def Stores.bank (t : Stores) (b : Bool) (m : Nat) : BankRow := getKey 0 m (if b then t.bankB else t.bankA)

/-- Write a row of a bank half. -/
def Stores.setBank (t : Stores) (b : Bool) (m : Nat) (v : BankRow) : Stores :=
  if b then { t with bankB := putKey 0 m v t.bankB } else { t with bankA := putKey 0 m v t.bankA }

/-- Mark a half dirty or clean (R257). -/
def Stores.setDirty (t : Stores) (b : Bool) (v : Bool) : Stores := if b then { t with dirtyB := v } else { t with dirtyA := v }

/-- A half with every value +0. -/
def Stores.zeroBank (t : Stores) (b : Bool) : Stores :=
  if b then { t with bankB := [], poisonB := [] } else { t with bankA := [], poisonA := [] }

/-- A row of PE accumulators. -/
def Stores.accRow (t : Stores) (m : Nat) : AccRow := getKey 0 m t.acc

/-- Write a row of PE accumulators. -/
def Stores.setAcc (t : Stores) (m : Nat) (v : AccRow) : Stores := { t with acc := putKey 0 m v t.acc }

/-- Change the stores of a core. -/
def State.updSt (s : State) (r : CoreRef) (f : Stores → Stores) : State := s.updCore r fun c => { c with st := f c.st }

/-- The output rows of member j below a valid count (R37, R56). -/
def activeRows (vcnt j : Nat) : List Nat := List.range (min 128 (vcnt - 128 * j))

/-- The members of the fragment of the executing core, by index. -/
def State.members (s : State) : List Nat := List.range (s.strips s.cur.at_)

/-- Member j of the executing core's fragment. -/
def State.memberAt (s : State) (j : Nat) : CoreRef := coreSouth s.cur.at_ j

/-- Change every active row of every member's stores; f takes the member and the row. -/
def eachRow (s : State) (vcnt : Nat) (f : Nat → Nat → Stores → Stores) : State :=
  s.members.foldl (fun s j => s.updSt (s.memberAt j) fun t => (activeRows vcnt j).foldl (fun t m => f j m t) t) s

/-- Mark a half of every member with an active row dirty (R257). -/
def dirtyAll (s : State) (vcnt : Nat) (b : Bool) : State :=
  s.members.foldl (fun s j => if 128 * j < vcnt then s.updSt (s.memberAt j) fun t => t.setDirty b true else s) s

/-! ## Operands (R259, R260) -/

/-- The operand of a matrix command: its format, its element rows and its scale rows. -/
structure Operand where
  fmt    : Fmt
  elems  : List Row
  scales : List Row
  deriving DecidableEq, Repr

/-- Element number p of rows. -/
def elemAt (w : Nat) (rows : List Row) (p : Nat) : Nat := lane (rows.getD (p / (4096 / w)) 0) w (p % (4096 / w))

/-- The E8M0 scale at byte p of scale rows; 1 where the format has none. -/
def scaleAt (o : Operand) (p : Nat) : Val :=
  if o.fmt = .mxfp4 then Fmt.e8m0.decode (elemAt 8 o.scales p) else .fin false 1 0 false

/-- Element (m, g s + t) of A in one member. -/
def aElem (o : Operand) (g : Nat) (ta : Bool) (m s t : Nat) : Val :=
  o.fmt.decode (elemAt o.fmt.width [o.elems.getD s 0] (if ta then t * 128 + m else m * g + t))

/-- Element (g s + t, n) of B. -/
def bElem (o : Operand) (g : Nat) (tb : Bool) (n s t : Nat) : Val :=
  o.fmt.decode (elemAt o.fmt.width ((o.elems.drop (8 * s)).take 8) (if tb then t * 1024 + n else n * g + t))

/-- dot_g of R135 for K-step s: the pairs of A row m and B column n, and the scales of their blocks. -/
def dotStep (a b : Operand) (g : Nat) (ta tb : Bool) (m n s : Nat) : Val :=
  let d := dotVal ((List.range g).map fun t => (aElem a g ta m s t, bElem b g tb n s t))
  if a.fmt = .mxfp4 then (d.mul (scaleAt a (s / 4 * 128 + m))).mul (scaleAt b (s / 4 * 1024 + n)) else d

/-- The loop of R261 for one element: the half's value and A26 after all K-steps. -/
def mmaElem (a b : Operand) (g ks p : Nat) (ta tb : Bool) (m n half acc : Nat) : Nat × Nat :=
  (List.range ks).foldl (fun x s =>
    let acc := addA26 x.2 (dotStep a b g ta tb m n s)
    if (s + 1) % p = 0 ∨ s + 1 = ks then (promote x.1 acc, 0) else (x.1, acc)) (half, acc)

/-- One output row of MMA. -/
def mmaRow (a b : Operand) (g ks p : Nat) (ta tb zf : Bool) (m : Nat) (half : BankRow) (acc : AccRow) : BankRow × AccRow :=
  let l := (List.range 1024).map fun n => mmaElem a b g ks p ta tb m n (if zf then 0 else lane half 32 n) (lane acc 26 n)
  (pack 32768 32 (l.map Prod.fst), pack 26624 26 (l.map Prod.snd))

/-- The rows of an operand: element rows and scale rows (R260). -/
def aCount (f : Fmt) (ks : Nat) : Nat := ks + if f = .mxfp4 then ceilDiv ks 16 else 0
def bCount (f : Fmt) (ks : Nat) : Nat := 8 * ks + if f = .mxfp4 then ks / 2 else 0

/-- Resolve an operand: rows of the lead's own strip window (R260). -/
def operandRows (s : State) (f : OpRef) (n : Nat) : RefRes :=
  match if f.mode = 1 then ringRead s s.cur.at_ (OpRef.ringNo f) n
        else .ok ((List.range n).map fun k => (s.cur.at_, f.loc.toNat + k)) 0 with
  | .ok rows k =>
    match rows.find? fun x => decide (x.2 < 2048 ∨ 32768 ≤ x.2) with
    | some x => .fault fRange (x.2 * 512)
    | none => .ok rows k
  | .fault c a => .fault c a

/-- The rows of member j that stand at the same offsets in its own strip window. -/
def memberRows (s : State) (j : Nat) (rows : List (CoreRef × Nat)) : List (CoreRef × Nat) := rows.map fun x => (s.memberAt j, x.2)

/-- The same rows in the lead's numbering (R34). -/
def leadRows (s : State) (j : Nat) (rows : List (CoreRef × Nat)) : List (CoreRef × Nat) := rows.map fun x => (s.cur.at_, x.2 + j * 30720)

/-- An operand from its rows. -/
def operandOf (s : State) (f : Fmt) (n : Nat) (rows : List (CoreRef × Nat)) : Operand :=
  let v := s.rowVals rows
  ⟨f, v.take n, v.drop n⟩

/-- Whether a bank row that a command reads is poisoned (R348, R349). -/
def bankPoisoned (s : State) (b : Bool) (vcnt : Nat) : Bool :=
  s.members.any fun j =>
    let t := (s.core (s.memberAt j)).st
    (activeRows vcnt j).any fun m => decide (m ∈ (if b then t.poisonB else t.poisonA))

/-- A DRAIN that met poison: the half of every member holds free values and is dirty (R349; log 7). -/
def spoilBank (s : State) (b : Bool) : State :=
  s.members.foldl (fun s j =>
    let s := (List.range 128).foldl (fun s m =>
      let (s, n) := s.drawN 8
      s.updSt (s.memberAt j) fun t => t.setBank b m (BitVec.ofNat 32768 (freeBits n 8))) s
    s.updSt (s.memberAt j) fun t => t.setDirty b true) s

/-- A matrix command that met poison: the half and the accumulators of every member with a row below VCNT hold free values,
and the half is dirty (R263, R349; log 7). -/
def spoilHalf (s : State) (b : Bool) (vcnt : Nat) : State :=
  (s.members.filter fun j => decide (128 * j < vcnt)).foldl (fun s j =>
    let s := (List.range 128).foldl (fun s m =>
      let (s, n) := s.drawN 15
      s.updSt (s.memberAt j) fun t => (t.setBank b m (BitVec.ofNat 32768 (freeBits n 8))).setAcc m (BitVec.ofNat 26624 (freeBits (n + 8) 7))) s
    s.updSt (s.memberAt j) fun t => t.setDirty b true) s

/-- The array's work on operands: a gives the operand of each member. -/
def arrayRun (s : State) (vcnt g ks p : Nat) (ta tb bank zf : Bool) (a : Nat → Operand) (b : Operand) : State :=
  dirtyAll (eachRow s vcnt fun j m t =>
    let x := mmaRow (a j) b g ks p ta tb zf m (t.bank bank m) (t.accRow m)
    (t.setBank bank m x.1).setAcc m x.2) vcnt bank

/-! ## MMA (R261) -/

/-- The formats of a command's operands. -/
def fmtOf (c : BitVec 4) : Fmt := (Fmt.ofCode c.toNat).getD .e4m3

/-- MMA. -/
def execMma (h : CmdHdr) (b : MmaBody) (s : State) : Host.Outcome State Fault Refusal :=
  go (withStart (.mma h b) s fun q s' =>
    let ks := kSteps b
    let v := h.vcnt.toNat
    let fa := fmtOf b.afmt
    let fb := fmtOf b.bfmt
    match operandRows s' b.aref (aCount fa ks), operandRows s' b.bref (bCount fb ks) with
    | .fault c a, _ => startFault s' q c a
    | _, .fault c a => startFault s' q c a
    | .ok ar ak, .ok br bk =>
      let js := s'.members.filter fun j => decide (128 * j < v)
      let all := (js.flatMap fun j => leadRows s' j ar) ++ if v = 0 then [] else br
      withRows s' all (fun s' =>
        match s'.poisonRow all with
        | some a => startFault (spoilHalf s' b.bank v) q fPoison a
        | none =>
          if !b.zf && bankPoisoned s' b.bank v then startFault (spoilHalf s' b.bank v) q fPoison 0
          else
            let s'' := arrayRun s' v ((groupSize fa fb).getD 4) ks (mmaP b) b.ta b.tb b.bank b.zf
              (fun j => operandOf s' fa ks (memberRows s' j ar)) (operandOf s' fb (8 * ks) br)
            begun s'' q [] none none (popsOf b.aref ak ++ popsOf b.bref bk)) s)

/-! ## PROMOTE and ZACC (R263) -/

/-- One row of PROMOTE. -/
def promoteRow (half : BankRow) (acc : AccRow) : BankRow :=
  pack 32768 32 ((List.range 1024).map fun n => promote (lane half 32 n) (lane acc 26 n))

/-- PROMOTE. -/
def execPromote (h : CmdHdr) (bank : Bool) (s : State) : Host.Outcome State Fault Refusal :=
  go (withStart (.promote h bank) s fun q s =>
    let v := h.vcnt.toNat
    let s := dirtyAll (eachRow s v fun _ m t => (t.setBank bank m (promoteRow (t.bank bank m) (t.accRow m))).setAcc m 0) v bank
    begun s q [] none none [])

/-- Clear one row of a half and its poison. -/
def Stores.clearBank (t : Stores) (b : Bool) (m : Nat) : Stores :=
  let t := t.setBank b m 0
  if b then { t with poisonB := t.poisonB.filter (· != m) } else { t with poisonA := t.poisonA.filter (· != m) }

/-- ZACC. -/
def execZacc (h : CmdHdr) (za zb zp : Bool) (s : State) : Host.Outcome State Fault Refusal :=
  go (withStart (.zacc h za zb zp) s fun q s =>
    let v := h.vcnt.toNat
    let s := eachRow s v fun _ m t =>
      let t := if za then t.clearBank false m else t
      let t := if zb then t.clearBank true m else t
      if zp then t.setAcc m 0 else t
    let s := if v = 128 * s.strips s.cur.at_ then
        s.members.foldl (fun s j => s.updSt (s.memberAt j) fun t =>
          let t := if za then t.setDirty false false else t
          if zb then t.setDirty true false else t) s
      else s
    begun s q [] none none [])

/-! ## DRAIN (R264 to R266) -/

/-- The group size of a drained format: elements of 32 bits (R134). -/
def drainG (f : Fmt) : Nat := 32 / f.width

/-- Element (m, n) at a position of the stream (R265). -/
def posElem (layout g p : Nat) : Nat × Nat :=
  match layout with
  | 0 => (p / 1024, p % 1024)
  | 1 => (p % 128, p / 128)
  | _ => (p % (128 * g) / g, p / (128 * g) * g + p % g)

/-- The FP32 value of element (m, n) of a half. -/
def halfVal (t : Stores) (b : Bool) (m n : Nat) : Nat := lane (t.bank b m) 32 n

/-- A drained value before rounding: scaled where SE asks for it (R146, R266 step 3). -/
def scaled (se : Bool) (c : BitVec 32) (x : Nat) : Val :=
  if se then (Fmt.fp32.decode x).mul (Fmt.fp32.decode c.toNat) else Fmt.fp32.decode x

/-- The block scale of block q of row m (R147). -/
def halfScale (t : Stores) (b : DrainBody) (m q : Nat) : Nat × Option Int :=
  blockScale ((List.range 32).map fun k => scaled b.se b.scale (halfVal t b.bank m (32 * q + k)))

/-- One drained element, with the generator stepped under SR. -/
def drainElem (t : Stores) (b : DrainBody) (f : Fmt) (rm : Rm) (g : BitVec 32) (m n : Nat) : Nat × BitVec 32 :=
  let g := if rm = .sr then lfsrStep g else g
  let u := if rm = .sr then lfsrU g else 0
  let y := scaled b.se b.scale (halfVal t b.bank m n)
  if f = .mxfp4 then
    let (sc, e) := halfScale t b m (n / 32)
    (blockElem sc e rm u y, g)
  else ((f.round rm b.sat u y).1, g)

/-- The codes of one destination row. -/
def drainRowCodes (t : Stores) (b : DrainBody) (f : Fmt) (rm : Rm) (k : Nat) (g : BitVec 32) : List Nat × BitVec 32 :=
  let w := f.width
  let l := 4096 / w
  let (codes, g) := (List.range l).foldl (fun x i =>
    let (m, n) := posElem b.layout.toNat (drainG f) (k * l + i)
    let (c, g) := drainElem t b f rm x.2 m n
    (c :: x.1, g)) (([] : List Nat), g)
  (codes.reverse, g)

/-- One scale row of an MXFP4 drain: byte q × 128 + m. -/
def drainScaleRow (t : Stores) (b : DrainBody) (k : Nat) : Row :=
  pack 4096 8 ((List.range 512).map fun i => (halfScale t b ((k * 512 + i) % 128) ((k * 512 + i) / 128)).1)

/-- The first v destination rows of one member. -/
def drainStream (t : Stores) (b : DrainBody) (f : Fmt) (rm : Rm) (seed : BitVec 32) (v : Nat) : List Row :=
  let er := if f = .mxfp4 then 128 else 32 * f.width
  let (rows, _) := (List.range (min v er)).foldl (fun x k =>
    let (c, g) := drainRowCodes t b f rm k x.2
    (pack 4096 f.width c :: x.1, g)) (([] : List Row), seed)
  rows.reverse ++ (List.range (v - er)).map fun k => drainScaleRow t b k

/-- The amax over the elements of the first v destination rows of one member (R151, R266 step 2). -/
def drainAmax (t : Stores) (b : DrainBody) (f : Fmt) (v : Nat) (a : BitVec 33) : BitVec 33 :=
  let er := if f = .mxfp4 then 128 else 32 * f.width
  (List.range (min v er * (4096 / f.width))).foldl (fun a p =>
    let (m, n) := posElem b.layout.toNat (drainG f) p
    amaxUpd a (Fmt.fp32.decode (halfVal t b.bank m n))) a

/-- After a DRAIN the half is clean, and +0 unless KEEP (R266). -/
def drainDone (s : State) (b : DrainBody) : State :=
  s.members.foldl (fun s j => s.updSt (s.memberAt j) fun t =>
    let t := t.setDirty b.bank false
    if b.keep then t else t.zeroBank b.bank) s

/-- The destination rows of every member (R265). -/
def drainDest (s : State) (b : DrainBody) : RefRes :=
  let r := s.cur.at_
  let nm := drainRows b.ofmt.toNat
  let n := s.strips r
  if b.dref.mode = 1 then refWrite s r b.dref (n * nm)
  else (List.range n).foldl (fun acc j => match acc, rowsFrom s r (b.dref.loc.toNat + j * 30720) nm with
    | .ok l _, .ok x _ => .ok (l ++ x) 0
    | .ok _ _, .fault c a => .fault c a
    | .fault c a, _ => .fault c a) (.ok [] 0)

/-- Whether bank row m feeds one of the first v destination rows of a DRAIN, or of the rows that a chain carries (R56). -/
def drainFeeds (b : DrainBody) (v m : Nat) : Bool :=
  if b.dref.mode = 2 then decide (8 * m < v)
  else
    let f := fmtOf b.ofmt
    let er := if f = .mxfp4 then 128 else 32 * f.width
    decide (er < v) || (List.range (min v er * (4096 / f.width))).any fun p => (posElem b.layout.toNat (drainG f) p).1 == m

/-- Whether a poisoned bank row feeds a destination row that a DRAIN writes (R349). -/
def drainPoisoned (s : State) (b : DrainBody) (v : Nat) : Bool :=
  s.members.any fun j =>
    let t := (s.core (s.memberAt j)).st
    (if b.bank then t.poisonB else t.poisonA).any (drainFeeds b v)

/-- A DRAIN into rows or ring slots. -/
def drainRun (s0 s : State) (q : QEntry) (b : DrainBody) (v : Nat) : State :=
  let f := fmtOf b.ofmt
  let rm := (Rm.ofCode b.rm.toNat).getD .rne
  let nm := drainRows b.ofmt.toNat
  match drainDest s b with
  | .fault c a => startFault s q c a
  | .ok dest _ =>
    let per (j : Nat) : List (CoreRef × Nat) := ((dest.drop (j * nm)).take nm).take v
    withRows s (s.members.flatMap per) (fun s =>
      if drainPoisoned s b v then startFault (spoilBank s b.bank) q fPoison 0
      else
        let st (j : Nat) : Stores := (s.core (s.memberAt j)).st
        let todo := s.members.flatMap fun j => rowWrites (per j) (drainStream (st j) b f rm (memberSeed q.seed j) v)
        let am := if b.ae then some (s.members.foldl (fun a j => drainAmax (st j) b f v a) 0) else none
        begun (drainDone s b) q todo none am []) s0

/-! ## Chains (R38, R138, R262, R265, R267) -/

/-- The lead core that a chain link names. -/
def linkCore (r : CoreRef) (g : Fin 8) : CoreRef := ⟨r.site, g⟩

/-- The MMAC at the head of a fragment's queue, ready to start. -/
def State.mmacAt (s : State) (r : CoreRef) : Option (QEntry × CmdHdr × MmaBody) :=
  match (s.core r).eng[(0 : Fin 6)] with
  | q :: _ => match q.cmd with
    | .mmac h b => (s.startable r (.mmac h b)).map fun q => (q, h, b)
    | _ => none
  | [] => none

/-- The DRAIN to a chain at the head of a fragment's queue, ready to start. -/
def State.chainDrainAt (s : State) (r : CoreRef) : Option (QEntry × CmdHdr × DrainBody) :=
  match (s.core r).eng[(0 : Fin 6)] with
  | q :: _ => match q.cmd with
    | .drain h b => if b.dref.mode = 2 then (s.startable r (.drain h b)).map fun q => (q, h, b) else none
    | _ => none
  | [] => none

/-- The codes of row m that the chain carries: RNE with saturation, or the block-scale rule; elements at or above the
DRAIN's valid count are free values (R56 leaves them open; log 7). With SE = 1 the spec does not say whether x × SCALE is
first rounded to the drained FP32 value: the model rounds once, to A's format. DESIGN CHOICE (log 97). -/
def chainCodes (t : Stores) (b : DrainBody) (f : Fmt) (v free m : Nat) : List Nat :=
  (List.range 1024).map fun n =>
    if (m * 1024 + n) / 128 < v then
      let y := scaled b.se b.scale (halfVal t b.bank m n)
      if f = .mxfp4 then
        let (sc, e) := halfScale t b m (n / 32)
        blockElem sc e .rne 0 y
      else (f.round .rne true 0 y).1
    else lane (Config.freeRow free) f.width (n % (4096 / f.width))

/-- The scales of row m that the chain carries. -/
def chainScales (t : Stores) (b : DrainBody) (v free m : Nat) : List Nat :=
  (List.range 32).map fun q =>
    if (m * 1024 + 32 * q + 31) / 128 < v then (halfScale t b m q).1 else lane (Config.freeRow (free + 1)) 8 q

/-- The A operand that the chain gives a member: K-step s holds element (m, g s + t) at m g + t. -/
def chainOperand (t : Stores) (b : DrainBody) (f : Fmt) (g v free : Nat) : Operand :=
  let codes := (List.range 128).map fun m => chainCodes t b f v free m
  let scales := (List.range 128).map fun m => chainScales t b v free m
  ⟨f,
   (List.range (1024 / g)).map fun s => pack 4096 f.width (codes.flatMap fun l => (l.drop (g * s)).take g),
   if f = .mxfp4 then (List.range 8).map fun k => pack 4096 8 ((List.range 512).map fun i =>
     (scales.getD ((k * 512 + i) % 128) []).getD ((k * 512 + i) / 128) 0) else []⟩

/-- A DRAIN to a chain on core u and the MMAC on core d that it feeds start together (R262); where one of the two faults at
its start, it alone has taken its semaphore (R254). TA of the MMAC says how A's rows lie in the scratchpad, and the chain
carries A in no such rows: R262 does not say what TA = 1 does, and the model ignores it. DESIGN CHOICE (log 110). -/
def chainStart (s0 : State) (u d : CoreRef) (uq : QEntry) (uh : CmdHdr) (ub : DrainBody) (dq : QEntry) (dh : CmdHdr) (db : MmaBody) : State :=
  let at_ (s : State) (r : CoreRef) : State := { s with cur := ⟨r, s.cur.ctx⟩ }
  let s := at_ (takeSem (takeSem s0 u (.drain uh ub)) d (.mmac dh db)) d
  let alone := at_ (takeSem s0 d (.mmac dh db)) d
  let ks := kSteps db
  let fa := fmtOf db.afmt
  let fb := fmtOf db.bfmt
  let g := (groupSize fa fb).getD 4
  let v := dh.vcnt.toNat
  let uv := uh.vcnt.toNat
  match operandRows s db.bref (bCount fb ks) with
  | .fault c a => startFault alone dq c a
  | .ok br bk =>
    let rows := if v = 0 then [] else br
    withRows s rows (fun s =>
      if drainPoisoned (at_ s u) ub uv then
        at_ (startFault (spoilBank (at_ (takeSem s0 u (.drain uh ub)) u) ub.bank) uq fPoison 0) d
      else match s.poisonRow rows with
        | some a => startFault (spoilHalf alone db.bank v) dq fPoison a
        | none =>
          if !db.zf && bankPoisoned s db.bank v then startFault (spoilHalf alone db.bank v) dq fPoison 0
          else
            let (s, free) := s.drawN 2
            let a (j : Nat) : Operand := chainOperand (s.core (coreSouth u j)).st ub fa g uv free
            let s := arrayRun s v g ks (mmaP db) false db.tb db.bank db.zf a (operandOf s fb (8 * ks) br)
            let s := begun s dq [] none none (popsOf db.bref bk)
            let s := begun (drainDone (at_ s u) ub) uq [] none none []
            at_ s d) (at_ s0 d)

/-- The executing core stays the one that it was. -/
def keepCur (s : State) (f : State → State) : State := { f s with cur := s.cur }

/-- DRAIN. To a chain it starts with the MMAC that it feeds; without a task downstream that can still issue one it
takes the illegal-shape fault (R267). So it does where its fragment has no outgoing link: R267 names a downstream task that
retires or faults, not a link that never was. DESIGN CHOICE (log 111). -/
def execDrain (h : CmdHdr) (b : DrainBody) (s : State) : Host.Outcome State Fault Refusal :=
  go (if b.dref.mode = 2 then
    keepCur s fun s =>
      match s.startable s.cur.at_ (.drain h b) with
      | none => s
      | some q =>
        match (s.core s.cur.at_).linkOut with
        | none => startFault (takeSem s s.cur.at_ (.drain h b)) q fShape 0
        | some g =>
          let d := linkCore s.cur.at_ g
          if ((s.core d).task.map Task.live).getD false then
            match s.mmacAt d with
            | some (dq, dh, db) => chainStart s s.cur.at_ d q h b dq dh db
            | none => s
          else startFault (takeSem s s.cur.at_ (.drain h b)) q fShape 0
  else withStart (.drain h b) s fun q s' => drainRun s s' q b h.vcnt.toNat)

/-- MMAC: with no incoming link it takes the illegal-shape fault; it starts with the upstream DRAIN (R262). -/
def execMmac (h : CmdHdr) (b : MmaBody) (s : State) : Host.Outcome State Fault Refusal :=
  go (keepCur s fun s =>
    match s.startable s.cur.at_ (.mmac h b) with
    | none => s
    | some q =>
      match (s.core s.cur.at_).linkIn with
      | none => startFault (takeSem s s.cur.at_ (.mmac h b)) q fShape 0
      | some g =>
        match s.chainDrainAt (linkCore s.cur.at_ g) with
        | some (uq, uh, ub) => chainStart s (linkCore s.cur.at_ g) s.cur.at_ uq uh ub q h b
        | none => s)

/-- Tear down the outgoing link of a fragment. -/
def State.unlinkOut (s : State) (r : CoreRef) : State :=
  match (s.core r).linkOut with
  | none => s
  | some g => (s.updCore r fun c => { c with linkOut := none }).updCore (linkCore r g) fun c => { c with linkIn := none }

/-- Tear down the incoming link of a fragment. -/
def State.unlinkIn (s : State) (r : CoreRef) : State :=
  match (s.core r).linkIn with
  | none => s
  | some g => (s.updCore r fun c => { c with linkIn := none }).updCore (linkCore r g) fun c => { c with linkOut := none }

/-- CHAIN. The PUSH has checked the two fragments; R267 does not say what the start does where, since then, G's task has
ended or a link has come to stand on a side: the model links them all the same. DESIGN CHOICE (log 123). -/
def execChain (h : CmdHdr) (glead : BitVec 3) (s : State) : Host.Outcome State Fault Refusal :=
  go (withStart (.chain h glead) s fun q s =>
    let r := s.cur.at_
    let s := (s.updCore r fun c => { c with linkOut := some glead.toFin }).updCore (linkCore r glead.toFin) fun c => { c with linkIn := some r.core }
    begun s q [] none none [])

/-- UNCHAIN. -/
def execUnchain (h : CmdHdr) (side : Bool) (s : State) : Host.Outcome State Fault Refusal :=
  go (withStart (.unchain h side) s fun q s =>
    begun (if side then s.unlinkIn s.cur.at_ else s.unlinkOut s.cur.at_) q [] none none [])

end Sys2Proof.Machine
end

