-- ==== Sys2Proof/Machine/Copy.lean ====
section
/-! DEFINITION. The copy engine: TLOAD, TGATHER, TCVT, PREFETCH and TSTORE (R268 to R270). -/

namespace Sys2Proof.Machine

/-! ## Global memory of a command -/

/-- The DLA that an entry's translations give (R75); none where PREFETCH skipped the page. -/
def QEntry.dla (q : QEntry) (hva : Nat) : Option Nat :=
  (q.xlat.find? fun x => x.hva / 4096 == hva / 4096).map fun x => x.apply hva

/-- The parts of n bytes from a on that fall within one line each: address and size. -/
def linePieces (a n : Nat) : List (Nat × Nat) :=
  if n = 0 then [] else
  (List.range ((a + n - 1) / 128 - a / 128 + 1)).map fun k =>
    let lo := max a ((a / 128 + k) * 128)
    (lo % 2 ^ 64, min (a + n) ((a / 128 + k + 1) * 128) - lo)

/-- The lines of n bytes from a on: host virtual address and DLA of each part. -/
def QEntry.parts (q : QEntry) (a n : Nat) : List (Nat × Nat × Nat) :=
  (linePieces a n).filterMap fun x => (q.dla x.1).map fun d => (x.1, d, x.2)

/-- The first DLA of a command that names no reachable package (R74). -/
def unreachableDla (s : State) (q : QEntry) : Option Nat :=
  (((cmdSpans q.shape q.cmd).flatMap fun x => linePieces x.a x.n).filterMap fun x => q.dla x.1).find? fun d => !s.dlaOk d

/-- The parts that a copy reads, in order: rows of active tokens, then their scales. -/
def QEntry.reads (q : QEntry) (spans : List (Nat × Nat)) : List (Nat × Nat × Nat) := spans.flatMap fun x => q.parts x.1 x.2

/-- Read n bytes from a on coherently, as a number (R91). -/
def readSpan (s : State) (q : QEntry) (a n : Nat) : Nat :=
  (q.parts a n).foldr (fun x acc => s.dieN s.cur.at_.site x.2.1 x.2.2 + 2 ^ (8 * x.2.2) * acc) 0

/-- Put bytes into a list of masked lines by rising line (R121). -/
def addBytes (acc : List (Nat × BitVec 128 × LineData)) (dla size data : Nat) : List (Nat × BitVec 128 × LineData) :=
  let (m, d) := getKey ((0 : BitVec 128), (0 : LineData)) (lineOf dla) acc
  insertKey (lineOf dla) (setFld m (dla % 128) size (2 ^ size - 1), setFld d (dla % 128 * 8) (size * 8) data) acc

/-- Put the n bytes of a number, from a on, into a list of masked lines. -/
def addSpan (q : QEntry) (acc : List (Nat × BitVec 128 × LineData)) (a n v : Nat) : List (Nat × BitVec 128 × LineData) :=
  (q.parts a n).foldl (fun acc x => addBytes acc x.2.1 x.2.2 (v / 2 ^ (8 * ((x.1 + 2 ^ 64 - a) % 2 ^ 64)))) acc

/-- Masked lines as writes. -/
def lineWrites (l : List (Nat × BitVec 128 × LineData)) : List EngWrite := l.map fun x => .line x.1 x.2.1 x.2.2

/-- The stamp of a copy (R122, R268). -/
def stampOf (q : QEntry) (b : CopyBody) : Option EngWrite :=
  if b.ste && (cmdHdrOf q.cmd).vcnt != 0 then (lineWrites (addSpan q [] b.staddr.toNat 8 b.stval.toNat)).head? else none

/-! ## Elements -/

/-- A source element: its code and the code of its E8M0 scale (127 where the format has none). -/
abbrev SrcElem := Nat × Nat

/-- The exact value of a source element. -/
def srcVal (f : Fmt) (x : SrcElem) : Val :=
  if f = .mxfp4 then (f.decode x.1).mul (Fmt.e8m0.decode x.2) else f.decode x.1

/-- What a copy does to elements: formats, whether it converts, mode, saturation, and whether it keeps an amax. -/
structure CopyCtl where
  src : Fmt
  dst : Fmt
  cvt : Bool
  rm  : Rm
  sat : Bool
  deriving DecidableEq, Repr

/-- The code of a container: bits 7:6 of a TAP6 container are ignored when read and 0 when written (R127). -/
def Fmt.clean (f : Fmt) (c : Nat) : Nat := if f = .tap6 then c % 64 else c

/-- Convert one element, the generator stepped under SR (R145). Where both sides are MXFP4 the codes and scales pass as
they are (log 83). -/
def CopyCtl.elem (k : CopyCtl) (x : SrcElem) (g : BitVec 32) : Nat × BitVec 32 :=
  if k.cvt && !(k.src = .mxfp4 && k.dst = .mxfp4) then
    let g := if k.rm = .sr then lfsrStep g else g
    let u := if k.rm = .sr then lfsrU g else 0
    if k.src = .mxfp4 then ((k.dst.round k.rm k.sat u (srcVal k.src x)).1, g)
    else ((convertElem k.src k.dst k.rm k.sat u x.1).1, g)
  else (k.dst.clean x.1, if k.cvt && k.rm = .sr then lfsrStep g else g)

/-- Convert the active elements of one output row, in order. Where TRN interleaves the elements of tokens from VCNT upwards with
those of active ones, R270 does not say whether the SR generator steps for their places: the model steps it for the elements of
active tokens alone. DESIGN CHOICE (log 126). -/
def CopyCtl.row (k : CopyCtl) (l : List (Option SrcElem)) (g : BitVec 32) : List (Option Nat) × BitVec 32 :=
  let (r, g) := l.foldl (fun acc x => match x with
    | none => (none :: acc.1, acc.2)
    | some e => let (c, g) := k.elem e acc.2; (some c :: acc.1, g)) (([] : List (Option Nat)), g)
  (r.reverse, g)

/-- Convert one block of 32 elements into MXFP4 (R147): codes and scale. -/
def CopyCtl.block (k : CopyCtl) (l : List SrcElem) (g : BitVec 32) : (List Nat × Nat) × BitVec 32 :=
  let vs := l.map (srcVal k.src)
  let (sc, e) := blockScale vs
  let (r, g) := vs.foldl (fun acc v =>
    let g := if k.rm = .sr then lfsrStep acc.2 else acc.2
    let u := if k.rm = .sr then lfsrU g else 0
    (blockElem sc e k.rm u v :: acc.1, g)) (([] : List Nat), g)
  ((r.reverse, sc), g)

/-- Split a list into blocks of n, at most k of them. -/
def blocksOf {α : Type} (n : Nat) : Nat → List α → List (List α)
  | 0, _ => []
  | k + 1, l => if l.isEmpty then [] else l.take n :: blocksOf n k (l.drop n)

/-- Convert one token into MXFP4: its codes and its scales. R147 does not say how a row whose length is no multiple of 32
is cut: the model forms a short last block. DESIGN CHOICE (log 95). -/
def CopyCtl.mxRow (k : CopyCtl) (l : List SrcElem) (g : BitVec 32) : (List Nat × List Nat) × BitVec 32 :=
  let (cs, ss, g) := (blocksOf 32 l.length l).foldl (fun acc x =>
    let ((c, sc), g) := k.block x acc.2.2
    (acc.1 ++ c, acc.2.1 ++ [sc], g)) (([] : List Nat), ([] : List Nat), g)
  ((cs, ss), g)

/-- A converted stream: output rows of codes, and per token the scales where the destination is MXFP4. -/
structure Stream where
  rows   : List (List (Option Nat))
  scales : List (Option (List Nat))
  deriving DecidableEq, Repr

/-- Whether blocks are formed: the destination is MXFP4 and the source is not. -/
def CopyCtl.blocks (k : CopyCtl) : Bool := k.cvt && k.dst = .mxfp4 && k.src != .mxfp4

/-- The scales that a token of an MXFP4 source already has. -/
def tokenScales (l : List SrcElem) : List Nat := (blocksOf 32 l.length l).map fun x => (x.headD (0, 0)).2

/-- Convert a stream of output rows in ascending order, by one generator (R270). -/
def CopyCtl.stream (k : CopyCtl) (rows : List (List (Option SrcElem))) (seed : BitVec 32) : Stream :=
  let (rs, ss, _) := rows.foldl (fun acc l =>
    if k.blocks then
      if l.any Option.isNone then (l.map (fun _ => none) :: acc.1, none :: acc.2.1, acc.2.2)
      else let ((c, sc), g) := k.mxRow (l.filterMap id) acc.2.2
           (c.map some :: acc.1, some sc :: acc.2.1, g)
    else
      let (c, g) := k.row l acc.2.2
      (c :: acc.1, (if l.any Option.isNone then none else some (tokenScales (l.filterMap id))) :: acc.2.1, g))
    (([] : List (List (Option Nat))), ([] : List (Option (List Nat))), seed)
  ⟨rs.reverse, ss.reverse⟩

/-- The amax of a copy over its active elements (R151). A scaled MXFP4 value may exceed the largest FP32 value, for which
R151 states no magnitude: the model rounds it to FP32 by RNE, so it is infinite. DESIGN CHOICE (log 96). -/
def streamAmax (f : Fmt) (rows : List (List (Option SrcElem))) : BitVec 33 :=
  rows.foldl (fun a l => l.foldl (fun a x => match x with | some e => amaxUpd a (srcVal f e) | none => a) a) 0

/-- Tokens to output rows, or back: for each plane, column c of rows tokens becomes an output row (R269). -/
def transpose {α : Type} (planes n m : Nat) (dflt : α) (l : List (List α)) : List (List α) :=
  (List.range planes).flatMap fun p =>
    let pl := (l.drop (p * n)).take n
    (List.range m).map fun c => pl.map fun t => t.getD c dflt

/-! ## The scratchpad side -/

/-- A lane of the scratchpad side: padding, or an element that is active or not. -/
inductive SideLane where
  | pad
  | keep
  | val (c : Nat)
  deriving DecidableEq, Repr

/-- Lanes of a list of elements, padded to whole rows of n lanes. -/
def padLanes (n : Nat) (l : List SideLane) : List SideLane := l ++ List.replicate ((n - l.length % n) % n) .pad

/-- An element as a lane. -/
def laneOf : Option Nat → SideLane
  | some c => .val c
  | none => .keep

/-- The lanes of a stream's elements (R269). -/
def elemLanes (w : Nat) (zpd : Bool) (rows : List (List (Option Nat))) : List SideLane :=
  let n := 4096 / w
  padLanes n (rows.flatMap fun l => if zpd then padLanes n (l.map laneOf) else l.map laneOf)

/-- The lanes of a stream's scale bytes. -/
def scaleLanes (perToken : Nat) (l : List (Option (List Nat))) : List SideLane :=
  padLanes 512 (l.flatMap fun x => match x with
    | some ss => ss.map SideLane.val
    | none => List.replicate perToken .keep)

/-- Whether a row of lanes is written: some element of it is active. -/
def laneActive (l : List SideLane) : Bool := l.any fun x => match x with | .val _ => true | _ => false

/-- A row with its active lanes replaced; padding is 0. -/
def layRow (w : Nat) (old : Row) (l : List SideLane) : Row :=
  pack 4096 w (l.zipIdx.map fun x => match x.1 with | .pad => 0 | .keep => lane old w x.2 | .val c => c)

/-- The rows of lanes with the width of each. -/
def sideRows (f : Nat) (zpd : Bool) (st : Stream) (perToken : Nat) : List (Nat × List SideLane) :=
  let w := codeWidth f
  let e := elemLanes w zpd st.rows
  ((blocksOf (4096 / w) e.length e).map fun l => (w, l)) ++
    if f = 7 then let x := scaleLanes perToken st.scales; (blocksOf 512 x.length x).map fun l => (8, l) else []

/-- The rows of a destination that hold an active element, with what they hold then. -/
def sideWrites (s : State) (dest : List (CoreRef × Nat)) (rows : List (Nat × List SideLane)) : List ((CoreRef × Nat) × Row) :=
  ((dest.zip rows).filter fun x => laneActive x.2.2).map fun x => (x.1, layRow x.2.1 (s.row x.1.1 x.1.2) x.2.2)

/-- Read a stream's element: output row o, place i. -/
def sideElem (w : Nat) (zpd : Bool) (l : Nat) (rows : List Row) (o i : Nat) : Nat :=
  elemAt w rows (if zpd then o * ceilDiv (l * w) 4096 * (4096 / w) + i else o * l + i)

/-- Whether token e is active. -/
def tokenOn (v e : Nat) : Bool := decide (e < v)

/-- The output rows that stand in scratchpad, as source elements: inactive tokens' elements are none. -/
def sideSource (h : CmdWord) (trn zpd : Bool) (f v : Nat) (rows : List Row) : List (List (Option SrcElem)) :=
  let w := codeWidth f
  let (n, l) := if trn then (shPlanes h * shCols h, shRows h) else (shTokens h, shCols h)
  let er := if zpd then n * ceilDiv (l * w) 4096 else ceilDiv (n * l * w) 4096
  let sc := rows.drop er
  (List.range n).map fun o => (List.range l).map fun i =>
    let e := if trn then o / shCols h * shRows h + i else o
    if tokenOn v e then
      some (sideElem w zpd l rows o i, if f = 7 then elemAt 8 sc (e * scalesPer h + i / 32) else 127)
    else none

/-- Which rows of a scratchpad source hold an active element. -/
def activeSide (h : CmdWord) (trn zpd : Bool) (f v : Nat) (n : Nat) : List Nat :=
  let st : Stream := ⟨(sideSource h trn zpd f v []).map fun l => l.map fun x => x.map Prod.fst,
    (List.range (shTokens h)).map fun e => if tokenOn v e then some (List.replicate (scalesPer h) 0) else none⟩
  ((List.range n).zip (sideRows f zpd st (scalesPer h))).filterMap fun x => if laneActive x.2.2 then some x.1 else none

/-! ## The global side -/

/-- The tile row that token e reads or writes: plane and row. -/
def tokenRow (h : CmdWord) (e : Nat) : Nat × Nat := (e / shRows h, e % shRows h)

/-- The address of the scales of a tile row (R251). -/
def scaleAddr (h : CmdWord) (t : Nat) : Nat := (shSbase h + t * (shCols h / 32)) % 2 ^ 64

/-- The spans that tile rows take: elements, and scales. -/
def rowSpans (h : CmdWord) (ts : List Nat) : List (Nat × Nat) :=
  (ts.map fun t => let (p, r) := tokenRow h t; (shRowAddr h p r, shRowBytes h)) ++
    if shFmt h = 7 then ts.map fun t => (scaleAddr h t, shCols h / 32) else []

/-- The elements of tile row t as they stand in global memory. -/
def globalRow (s : State) (q : QEntry) (t : Nat) : List SrcElem :=
  let h := q.shape
  let w := codeWidth (shFmt h)
  let (p, r) := tokenRow h t
  let v := readSpan s q (shRowAddr h p r) (shRowBytes h)
  let sc := if shFmt h = 7 then readSpan s q (scaleAddr h t) (shCols h / 32) else 0
  (List.range (shCols h)).map fun c =>
    ((v >>> (c * w)) % 2 ^ w, if shFmt h = 7 then (sc >>> (c / 32 * 8)) % 256 else 127)

/-- The first poisoned address among the parts a command reads: at the home, or in the die's own copy (R348, R349). -/
def poisonedPart (s : State) (ps : List (Nat × Nat × Nat)) : Option Nat :=
  (ps.find? fun x => let l := lineOf x.2.1
    s.homes.poisoned l || (s.die s.cur.at_.site).badLines.contains l).map Prod.fst

/-- The lines of the parts that a command reads. -/
def partLines (ps : List (Nat × Nat × Nat)) : List Nat := ps.map fun x => lineOf x.2.1

/-- A read of lines by an engine: its requests stand at the pages' current homes (R96 to R98), behind its die's own writes of
the lines, and each line is clear; else else_ stands, and the homes ask for the lines (R92, R351). -/
def withLines (s : State) (ps : List (Nat × Nat × Nat)) (else_ : State) (k : State → State) : State :=
  let i := s.cur.at_.site
  let ls := partLines ps
  if ls.all fun l => (s.die i).landed l && s.routed i (linePage l) then
    if ls.all (s.readClear (some i)) then k (ls.foldl State.touchLlc (s.accept i ls)) else withReads else_ (some i) ls id
  else else_

/-- The control of a copy from format a to format b. -/
def ctlOf (b : CopyBody) (src dst : Nat) : CopyCtl :=
  ⟨(Fmt.ofCode src).getD .e4m3, (Fmt.ofCode dst).getD .e4m3, b.cvt, (Rm.ofCode b.rm.toNat).getD .rne, b.sat⟩

/-- A copy whose source elements stand fixed writes its scratchpad side. -/
def toScratch (s : State) (q : QEntry) (b : CopyBody) (src : Nat) (dest : List (CoreRef × Nat)) (rows : List (List (Option SrcElem)))
    (pops : List (Nat × Nat)) : State :=
  let h := q.shape
  let f := sideFmt h b
  let k := ctlOf b src f
  let st := k.stream rows (memberSeed q.seed 0)
  let ws := sideWrites s dest (sideRows f b.zpd st (scalesPer h))
  begun s q (rowWrites (ws.map Prod.fst) (ws.map Prod.snd)) (stampOf q b) (if b.ae then some (streamAmax k.src rows) else none) pops

/-- The rows of the scratchpad side that active tokens touch. -/
def touched (q : QEntry) (b : CopyBody) (v : Nat) (dest : List (CoreRef × Nat)) : List (CoreRef × Nat) :=
  (activeSide q.shape b.trn b.zpd (sideFmt q.shape b) v dest.length).filterMap fun i => dest[i]?

/-- Output rows of tokens: transposed, or as they are. -/
def outOf (h : CmdWord) (b : CopyBody) (toks : List (List (Option SrcElem))) : List (List (Option SrcElem)) :=
  if b.trn then transpose (shPlanes h) (shRows h) (shCols h) none toks else toks

/-- TLOAD and TGATHER: token e, if active, reads tile row rowOf e, or zeros where that is none. -/
def loadRun (s0 s : State) (q : QEntry) (b : CopyBody) (v : Nat) (dest : List (CoreRef × Nat)) (rowOf : Nat → Option Nat) : State :=
  let h := q.shape
  let ps := q.reads (rowSpans h ((List.range (min v (shTokens h))).filterMap rowOf))
  let rows := touched q b v dest
  withRows s rows (fun s => withLines s ps s0 fun s =>
    match unreachableDla s q with
    | some a => startFault s q fUnreach a
    | none =>
      match poisonedPart s ps with
      | some a => startFault (spoilRows s rows) q fPoison a
      | none =>
        let toks := (List.range (shTokens h)).map fun e =>
          if tokenOn v e then (match rowOf e with
            | some t => (globalRow s q t).map some
            | none => List.replicate (shCols h) (some (0, 0)))
          else List.replicate (shCols h) none
        toScratch s q b (shFmt h) dest (outOf h b toks) []) s0

/-- TLOAD. -/
def execTload (h : CmdHdr) (b : CopyBody) (s : State) : Host.Outcome State Fault Refusal :=
  go (withStart (.tload h b) s fun q s' =>
    match refWrite s' s'.cur.at_ b.sref (streamRows q.shape b) with
    | .fault c a => startFault s' q c a
    | .ok dest _ => loadRun s s' q b h.vcnt.toNat dest some)

/-- TGATHER: token e reads tile row idx e; an index beyond ROWS gives zeros (R270). -/
def execTgather (h : CmdHdr) (b : CopyBody) (s : State) : Host.Outcome State Fault Refusal :=
  go (withStart (.tgather h b) s fun q s' =>
    let n := shTokens q.shape
    let v := h.vcnt.toNat
    match refWrite s' s'.cur.at_ b.sref (streamRows q.shape b), refRead s' s'.cur.at_ b.xref (ceilDiv (n * 4) 512) with
    | .fault c a, _ => startFault s' q c a
    | _, .fault c a => startFault s' q c a
    | .ok dest _, .ok xr _ =>
      let used := xr.take (ceilDiv (v * 4) 512)
      withRows s' used (fun s' =>
        match s'.poisonRow used with
        | some a => startFault (spoilRows s' (touched q b v dest)) q fPoison a
        | none =>
          let idx := s'.rowVals used
          loadRun s s' q b v dest fun e =>
            let t := elemAt 32 idx e
            if t < shRows q.shape then some t else none) s)

/-- TCVT: from the tile as it stands in SREF to XREF. -/
def execTcvt (h : CmdHdr) (b : CopyBody) (s : State) : Host.Outcome State Fault Refusal :=
  go (withStart (.tcvt h b) s fun q s' =>
    let r := s'.cur.at_
    let sh := q.shape
    let f := shFmt sh
    let v := h.vcnt.toNat
    let n := ceilDiv (shTokens sh * shCols sh * codeWidth f) 4096 + scaleRows sh f
    match refRead s' r b.sref n, refWrite s' r b.xref (streamRows sh b) with
    | .fault c a, _ => startFault s' q c a
    | _, .fault c a => startFault s' q c a
    | .ok src k, .ok dest _ =>
      let used := (activeSide sh false false f v src.length).filterMap fun i => src[i]?
      let rows := touched q b v dest
      withRows s' (used ++ rows) (fun s' =>
        match unreachableDla s' q with
        | some a => startFault s' q fUnreach a
        | none =>
          match s'.poisonRow used with
          | some a => startFault (spoilRows s' rows) q fPoison a
          | none => toScratch s' q b f dest (outOf sh b (sideSource sh false false f v (s'.rowVals src))) (popsOf b.sref k)) s)

/-- The tokens of a stream: codes of each, with its scales. -/
def tokensOf (h : CmdWord) (b : CopyBody) (st : Stream) : List (List (Option Nat)) :=
  if b.trn then transpose (shPlanes h) (shCols h) (shRows h) none st.rows else st.rows

/-- The lines that a TSTORE writes. -/
def storeLines (q : QEntry) (b : CopyBody) (v : Nat) (st : Stream) : List (Nat × BitVec 128 × LineData) :=
  let h := q.shape
  let w := codeWidth (shFmt h)
  let toks := (tokensOf h b st).zipIdx.filter fun x => tokenOn v x.2
  let l := toks.foldl (fun acc x =>
    let (p, r) := tokenRow h x.2
    addSpan q acc (shRowAddr h p r) (shRowBytes h) (packNat w (x.1.map fun c => c.getD 0))) []
  if shFmt h = 7 then
    (st.scales.zipIdx.filter fun x => tokenOn v x.2).foldl (fun acc x =>
      addSpan q acc (scaleAddr h x.2) (shCols h / 32) (packNat 8 (x.1.getD []))) l
  else l

/-- TSTORE. -/
def execTstore (h : CmdHdr) (b : CopyBody) (s : State) : Host.Outcome State Fault Refusal :=
  go (withStart (.tstore h b) s fun q s' =>
    let sh := q.shape
    let f := sideFmt sh b
    let v := h.vcnt.toNat
    match refRead s' s'.cur.at_ b.sref (streamRows sh b) with
    | .fault c a => startFault s' q c a
    | .ok src k =>
      let used := touched q b v src
      withRows s' used (fun s' =>
        match unreachableDla s' q with
        | some a => startFault s' q fUnreach a
        | none =>
          match s'.poisonRow used with
          | some a => startFault s' q fPoison a
          | none =>
            let rows := sideSource sh b.trn b.zpd f v (s'.rowVals src)
            let ctl := ctlOf b f (shFmt sh)
            let st := ctl.stream rows (memberSeed q.seed 0)
            begun s' q (lineWrites (storeLines q b v st)) (stampOf q b) (if b.ae then some (streamAmax ctl.src rows) else none)
              (popsOf b.sref k)) s)

/-- A PREFETCH would allocate a line into a way that is waking: no awake way has room for it (R101, R102). -/
def State.prefetchStall (s : State) (i : Fin 6) (lvl : Bool) (l : Nat) : Bool :=
  if lvl then ((s.die i).line l).isNone && !(s.die i).canFill && (s.die i).waking != 0 else s.llcStall l

/-- A line comes to stand in a die cache for a PREFETCH of level 1: not a poisoned line, nor one homed elsewhere. -/
def prefetchLine (s : State) (i : Fin 6) (l : Nat) : State :=
  if s.homes.poisoned l || !s.pageLocal (linePage l) || ((s.die i).line l).isSome || !s.canCache i l || !s.readClear (some i) l then s
  else
    let st : Moesi := if (s.heldElsewhere i l).isEmpty then .e else .s
    (s.forwardOthers i l).updDie i fun d => d.setLine l st

/-- The lines of a PREFETCH come to stand at the level that it names. -/
def prefetchLines (s : State) (i : Fin 6) (lvl : Bool) (ls : List Nat) : State :=
  ls.foldl (fun s l => if lvl then prefetchLine s i l else if s.homes.poisoned l then s else s.touchLlc l) s

/-- PREFETCH: it changes no value. Like a copy's reads, its requests reach the lines' current homes first, and it stalls on a
way that is waking. -/
def execPrefetch (h : CmdHdr) (b : CopyBody) (s0 : State) : Host.Outcome State Fault Refusal :=
  go (withStart (.prefetch h b) s0 fun q s =>
    let ps := q.reads (rowSpans q.shape (List.range (min h.vcnt.toNat (shTokens q.shape))))
    let i := s.cur.at_.site
    let ls := partLines ps
    match unreachableDla s q with
    | some a => startFault s q fUnreach a
    | none =>
      if (ls.any fun l => !s.routed i (linePage l)) || ls.any (s.prefetchStall i b.lvl) then s0
      else begun (prefetchLines (s.accept i ls) i b.lvl ls) q [] none none [])

end Sys2Proof.Machine
end

