-- ==== Sys2Proof/Machine/Atomics.lean ====
section
/-! DEFINITION. GATOM, MIGRATE, SCAT, CNTSNAP, RWRITE, QFENCE, SEMSIG and SEMWAIT (R258, R271 to R275), the start and
the end of a migration (R95, R355), and an RWRITE's arrival (R364 to R366). -/

namespace Sys2Proof.Machine

/-! ## GATOM (R273) -/

/-- A GATOM that makes the word f old: its read and write are one step at the current home, which its request has reached
behind its die's own writes of the line, and where no die holds the line. -/
def gatomRun (i : Instr) (b : GatomBody) (f : Word → Word) (s : State) : State :=
  withStart i s fun q s' =>
    if (cmdHdrOf i).vcnt = 0 then begun s' q [] none none []
    else match q.dla b.addr.toNat with
      | none => s
      | some d =>
        if !s'.dlaOk d then startFault s' q fUnreach d
        else if s'.homes.poisoned (lineOf d) then startFault s' q fPoison b.addr.toNat
        else if !(s'.die s'.cur.at_.site).landed (lineOf d) || !s'.routed s'.cur.at_.site (pageOf d) then s
        else if !s'.writeClear (lineOf d) then s.askWrite (lineOf d)
        else
          let s' := s'.accept s'.cur.at_.site [lineOf d]
          let old : Word := BitVec.ofNat 64 (s'.cohN d 8)
          let s' := s'.homeWrite d 8 (f old).toNat
          begun s' q (if b.res then [.row s'.cur.at_ b.rrow.toNat (old.setWidth 4096)] else []) none none []

/-- What a GATOM makes of a word (R273). -/
def gatomWord (i : Instr) (o : Word) : Word :=
  match i with
  | .gatomAdd _ b => o + b.opnd
  | .gatomFadd _ b => pack 64 32 [(fp32Add (lane o 32 0) (lane b.opnd 32 0)).1, (fp32Add (lane o 32 1) (lane b.opnd 32 1)).1]
  | .gatomMax _ b => if o.slt b.opnd then b.opnd else o
  | .gatomMin _ b => if b.opnd.slt o then b.opnd else o
  | .gatomSwap _ b => b.opnd
  | .gatomCas _ b => if o = b.cmpv then b.opnd else o
  | _ => o

/-- add. -/
def execGatomAdd (h : CmdHdr) (b : GatomBody) (s : State) : Host.Outcome State Fault Refusal :=
  go (gatomRun (.gatomAdd h b) b (gatomWord (.gatomAdd h b)) s)

/-- fadd: each 32-bit half. -/
def execGatomFadd (h : CmdHdr) (b : GatomBody) (s : State) : Host.Outcome State Fault Refusal :=
  go (gatomRun (.gatomFadd h b) b (gatomWord (.gatomFadd h b)) s)

/-- max, signed. -/
def execGatomMax (h : CmdHdr) (b : GatomBody) (s : State) : Host.Outcome State Fault Refusal :=
  go (gatomRun (.gatomMax h b) b (gatomWord (.gatomMax h b)) s)

/-- min, signed. -/
def execGatomMin (h : CmdHdr) (b : GatomBody) (s : State) : Host.Outcome State Fault Refusal :=
  go (gatomRun (.gatomMin h b) b (gatomWord (.gatomMin h b)) s)

/-- swap. -/
def execGatomSwap (h : CmdHdr) (b : GatomBody) (s : State) : Host.Outcome State Fault Refusal :=
  go (gatomRun (.gatomSwap h b) b (gatomWord (.gatomSwap h b)) s)

/-- cas. -/
def execGatomCas (h : CmdHdr) (b : GatomBody) (s : State) : Host.Outcome State Fault Refusal :=
  go (gatomRun (.gatomCas h b) b (gatomWord (.gatomCas h b)) s)

/-! ## Migration (R95, R274, R355) -/

/-- The entries of a home slice's forwarding-stub store (log 7). -/
def stubCap : Nat := 8 + Config.stubsBeyond8

/-- A stub store with n entries has room; with fewer than eight it has, whatever its size is. -/
def stubRoom (n : Nat) : Bool := decide (n < 8) || decide (n < stubCap)

/-- The running or waiting migration of a page that comes first. -/
def Homes.migOf (h : Homes) (page : Nat) : Option Migration := h.migs.find? fun m => m.page == page

/-- Change the first migration of a page. -/
def updFirst (page : Nat) (f : Migration → Migration) : List Migration → List Migration
  | [] => []
  | m :: t => if m.page = page then f m :: t else m :: updFirst page f t

/-- Remove the first migration of a page. -/
def dropFirst (page : Nat) : List Migration → List Migration
  | [] => []
  | m :: t => if m.page = page then t else m :: dropFirst page t

/-- Put ST of a page's placement record. -/
def Homes.setSt (h : Homes) (page : Nat) (st : BitVec 2) : Homes := h.setRec { h.placeRec page with st := st }

/-- How the first migration of a page begins: its status if it ends at once; none if it starts copying or waits. A page that
comes from another package needs a key slot of its owner here (R367), and any page a place in the stack (R39); what another
package has, its answer says. The spec does not say which status wins where a page is at its destination already and that
package cannot be reached: the model gives 1. DESIGN CHOICE (log 125). -/
def State.migVerdict (s : State) (m : Migration) : Option Nat :=
  let cur := s.homes.curHome m.page
  if cur = m.dest then some 1
  else if !s.reachable cur.pkg then some 6
  else if !s.reachable m.dest.pkg then some 5
  else if m.dest.pkg == s.fab.pkg && ((cur.pkg != s.fab.pkg && s.homes.noKey m.page) || s.homes.stackFull m.dest) then some 5
  else none

/-- A migration whose status word stands has ended: the log of the driver's, the MIGRATE command (R274, R355). -/
def State.dropMig (s : State) (m : Migration) (status : Nat) : State :=
  let s := s.updHomes fun h => { h with migs := dropFirst m.page h.migs }
  let s := if m.driver ∧ 2 ≤ status then s.logErr 0x49 (s.homes.curHome m.page).sl 0 (m.page * 65536) status else s
  match m.core with
  | none => s
  | some r =>
    match (s.core r).eng[(2 : Fin 6)] with
    | q :: _ => match q.state with
      | .started t _ _ _ _ => (s.at_ (t + 8 * tClk)).finish r 2 q none []
      | _ => s
    | [] => s

/-- A write of the die of a migration's command to a line waits to perform: the status word goes behind it, as every write of an
engine does (R288; log 119). -/
def State.statWaits (s : State) (m : Migration) (line : Nat) : Bool :=
  match m.core with
  | some r => !(s.die r.site).landed line
  | none => false

/-- A migration ends with a status: its status word is written at its home, once no die holds the line (R274, R351); until
then it is ending. -/
def State.endMig (s : State) (m : Migration) (status : Nat) : State :=
  match m.stat with
  | none => s.dropMig m status
  | some d =>
    let s := s.updHomes fun h => { h with migs := updFirst m.page (fun m => { m with phase := .ending status }) h.migs }
    if s.statWaits m (lineOf d) then s else withWrites s [lineOf d] fun s => (s.homeWrite d 8 status).dropMig m status

/-- The stubs that a home's store holds or will hold: those of its running migrations as well (R95 step 1). -/
def Homes.stubsDue (h : Homes) (x : Home) : Nat :=
  (h.stubs.filter fun y => y.at_ == x).length +
  (h.migs.filter fun m => m.old == x && m.phase.runs).length

/-- The first migration of a page begins if nothing holds it, and those behind it that end at once end; over at most n. -/
def State.tryMig (s : State) (page : Nat) : Nat → State
  | 0 => s
  | n + 1 =>
    match s.homes.migOf page with
    | none => s
    | some m =>
      if m.phase = .queued then
        match s.migVerdict m with
        | some st => (s.endMig m st).tryMig page n
        | none =>
          let cur := s.homes.curHome page
          if stubRoom (s.homes.stubsDue cur) then
            s.updHomes fun h => { (h.setSt page 1) with
              migs := updFirst page (fun m => { m with phase := .copying, old := cur, st0 := (h.placeRec page).st }) h.migs }
          else s
      else s

/-- A migration is requested: it waits behind those of its page (R95). -/
def State.askMig (s : State) (m : Migration) : State :=
  let s := s.updHomes fun h => { h with migs := h.migs ++ [m] }
  s.tryMig m.page (s.homes.migs.length + 1)

/-- A migration aborts: ST returns to its value before step 2 (R355). -/
def State.abortMig (s : State) (m : Migration) (status : Nat) : State :=
  let s := (s.updHomes fun h => h.setSt m.page m.st0).endMig m status
  s.tryMig m.page (s.homes.migs.length + 1)

/-- MIGRATE. With VCNT = 0 and an ADDR whose package cannot be reached, R256 has it perform nothing and R274 has it fault at its
start: the model takes the fault. DESIGN CHOICE (log 124). -/
def execMigrate (h : CmdHdr) (b : MigrateBody) (s : State) : Host.Outcome State Fault Refusal :=
  go (withStart (.migrate h b) s fun q s' =>
    match q.dla b.addr.toNat with
    | none => s
    | some d =>
      if !s'.dlaOk d then startFault s' q fUnreach d
      else
        let s'' := begun s' q [] none none []
        if h.vcnt = 0 then s''
        else
          let page := pageOf d
          s''.askMig ⟨page, ⟨b.dpkg.toNat, b.dsl.toNat⟩, s''.homes.curHome page, (s''.homes.placeRec page).st, [], .queued,
            some s''.cur.at_, if b.staddr = 0 then none else q.dla b.staddr.toNat, false⟩)

/-! ## SCAT and CNTSNAP (R271, R272) -/

/-- max or min of two values; a NaN gives NaN, and of two zeros of unlike signs the sign is free. -/
def pickVal (mx : Bool) (a b : Val) : Val :=
  if a.isNan || b.isNan then .nan
  else if a.cmp b = 0 then (if a.sign == b.sign then a else if Config.scatZeroSign mx a.sign == a.sign then a else b)
  else if mx == decide (a.cmp b < 0) then b else a

/-- One lane: the old row lane and the lanes of the window's entries of one index, in ascending entry order. The entries add
as fp32_add_rne does (R137); the last sum, rounded to the row's format, is +0 where it is an exact zero (R140). -/
def scatLane (f : Fmt) (op : Nat) (old : Nat) (vs : List Nat) : Nat :=
  if f.isInt then
    let o := toSigned f.width old
    let xs := vs.map (toSigned f.width)
    ofSigned f.width (match op with
      | 0 => xs.foldl (· + ·) o
      | 1 => xs.foldl max o
      | _ => xs.foldl min o)
  else
    match vs.map f.decode with
    | [] => old
    | v :: t =>
      let sum (a x : Val) : Val := Fmt.fp32.decode (Fmt.fp32.round .rne false 0 (a.add false x)).1
      let v := t.foldl (fun a x => if op = 0 then sum a x else pickVal (op = 1) a x) v
      let o := f.decode old
      (f.round .rne false 0 (if op = 0 then o.sum false v else pickVal (op = 1) o v)).1

/-- The row that the entries of one index make. -/
def scatRow (f : Fmt) (op : Nat) (old : Row) (vs : List Row) : Row :=
  pack 4096 f.width ((List.range (4096 / f.width)).map fun i => scatLane f op (lane old f.width i) (vs.map fun v => lane v f.width i))

/-- Count entries into a routing counter. -/
def Core.count (c : Core) (q n : Nat) : Core :=
  let i : Fin 256 := Fin.ofNat 256 q
  { c with cnt := c.cnt.set i (BitVec.ofNat 32 (min (c.cnt[i].toNat + n) (2 ^ 32 - 1))) }

/-- One window of entries: what it leaves, or its fault. -/
def scatWindow (s : State) (b : ScatBody) (op : Nat) (vrows : List (CoreRef × Nat)) (idx : Nat → Nat) (es : List Nat) :
    Except (Nat × Nat) State :=
  let r := s.cur.at_
  let f := fmtOf b.fmt
  let dst (q : Nat) : Nat := b.drow.toNat + q
  let qs := (es.map idx).eraseDups
  let vr (e : Nat) : CoreRef × Nat := vrows.getD e (r, 0)
  match qs.find? fun q => decide (s.rowLimit r ≤ dst q) with
  | some q => .error (fRange, dst q * 512)
  | none =>
    match s.poisonRow (es.map vr ++ qs.map fun q => (r, dst q)) with
    | some a => .error (fPoison, a)
    | none =>
      .ok (qs.foldl (fun s q =>
        let mine := es.filter fun e => idx e == q
        let s := s.setRow r (dst q) (scatRow f op (s.row r (dst q)) (mine.map fun e => s.row (vr e).1 (vr e).2))
        if b.ce then s.updCore r fun c => c.count q mine.length else s) s)

/-- Windows in ascending order; a fault leaves the earlier ones applied. -/
def scatWindows (s : State) (b : ScatBody) (op : Nat) (vrows : List (CoreRef × Nat)) (idx : Nat → Nat) (v : Nat) :
    List Nat → State × Option (Nat × Nat)
  | [] => (s, none)
  | k :: t =>
    match scatWindow s b op vrows idx ((List.range (min 64 (v - 64 * k))).map fun e => 64 * k + e) with
    | .error e => (s, some e)
    | .ok s => scatWindows s b op vrows idx v t

/-- SCAT with operation op. -/
def scatRun (i : Instr) (b : ScatBody) (op : Nat) (s : State) : State :=
  withStart i s fun q s' =>
    let r := s'.cur.at_
    let n := b.nent.toNat + 1
    let v := (cmdHdrOf i).vcnt.toNat
    match refRead s' r b.vref n, refRead s' r b.xref (ceilDiv (4 * n) 512) with
    | .fault c a, _ => startFault s' q c a
    | _, .fault c a => startFault s' q c a
    | .ok vr k, .ok xr _ =>
      let used := xr.take (ceilDiv (4 * v) 512)
      withRows s' (used ++ vr.take v) (fun s' =>
        match s'.poisonRow used with
        | some a => startFault s' q fPoison a
        | none =>
          let x := s'.rowVals used
          let idx (e : Nat) : Nat := elemAt 32 x e
          let dests := ((List.range v).map fun e => (r, b.drow.toNat + idx e)).filter fun d => decide (d.2 < s'.rowLimit r)
          withRows s' dests (fun s' =>
            match scatWindows s' b op vr idx v (List.range (ceilDiv v 64)) with
            | (s', some (c, a)) => startFault s' q c a
            | (s', none) => begun s' q [] none none (popsOf b.vref k)) s) s

/-- add. -/
def execScatAdd (h : CmdHdr) (b : ScatBody) (s : State) : Host.Outcome State Fault Refusal := go (scatRun (.scatAdd h b) b 0 s)
/-- max. -/
def execScatMax (h : CmdHdr) (b : ScatBody) (s : State) : Host.Outcome State Fault Refusal := go (scatRun (.scatMax h b) b 1 s)
/-- min. -/
def execScatMin (h : CmdHdr) (b : ScatBody) (s : State) : Host.Outcome State Fault Refusal := go (scatRun (.scatMin h b) b 2 s)

/-- Half k of the routing counters as a row. -/
def Core.cntRow (c : Core) (k : Nat) : Row :=
  pack 4096 32 ((List.range 128).map fun i => (c.cnt[Fin.ofNat 256 (128 * k + i)]).toNat)

/-- CNTSNAP. -/
def execCntsnap (h : CmdHdr) (dref : OpRef) (s : State) : Host.Outcome State Fault Refusal :=
  go (withStart (.cntsnap h dref) s fun q s' =>
    let r := s'.cur.at_
    match refWrite s' r dref 2 with
    | .fault c a => startFault s' q c a
    | .ok rows _ =>
      if h.vcnt = 0 then begun s' q [] none none []
      else withRows s' rows (fun s' =>
        let c := s'.core r
        let s' := (rows.zipIdx).foldl (fun s x => s.setRow x.1.1 x.1.2 (c.cntRow x.2)) s'
        begun (s'.updCore r fun c => { c with cnt := Vector.replicate 256 0 }) q [] none none []) s)

/-! ## RWRITE and its arrival (R275, R364 to R366) -/

/-- RWRITE: its rows are fixed at its start. -/
def execRwrite (h : CmdHdr) (b : RwriteBody) (s : State) : Host.Outcome State Fault Refusal :=
  go (withStart (.rwrite h b) s fun q s' =>
    let r := s'.cur.at_
    let n := b.nrows.toNat + 1
    match (s'.pipeOf r).bind fun p => (p.record.rmap[b.rent.toNat]?).map fun e => (p, e), refRead s' r b.sref n with
    | none, _ => startFault s' q fShape 0
    | _, .fault c a => startFault s' q c a
    | some (p, w0, w1), .ok rows k =>
      if s'.rmapFenced w0 w1 then startFault s' q fUnbound ((rmapVcore w0).toNat / 8)
      else if !s'.reachable (rmapPkg w0) then startFault s' q fUnreach (rmapPkg w0 * 2 ^ 45)
      else
        let used := rows.take h.vcnt.toNat
        withRows s' used (fun s' =>
          let w : RemoteWrite := ⟨w1, rmapRing w0, rmapVcore w0, BitVec.ofNat 12 s'.fab.pkg,
            BitVec.ofNat 6 (vcoreOf p.vdtab r), b.nrows, s'.rowVals used⟩
          begun s' q (if rmapPkg w0 = s'.fab.pkg then [.remote w] else []) none none (popsOf b.sref k)) s)

/-- What becomes of an RWRITE that arrives; one that waits may start the wake of its slot's banks (R102). -/
inductive ArriveRes where
  | applied (s : State)
  | waits (s : State)
  | refused
  deriving DecidableEq, Repr

/-- Write a row of a saved member, in the numbering of its lead (R34). -/
def Saved.setRow (v : Saved) (row : Nat) (x : Row) : Saved :=
  if row < 32768 then { v with lead := v.lead.setRow row x }
  else
    let j := (row - 2048) / 30720
    let i := 2048 + (row - 2048) % 30720
    { v with members := v.members.zipIdx.map fun m =>
        if m.2 + 1 = j then { m.1 with rows := putKey 0 i x m.1.rows, poison := m.1.poison.filter (· != i) } else m.1 }

/-- A held write goes into a free slot of the saved image of its instance (R366). -/
def Saved.apply (v : Saved) (w : RemoteWrite) : Saved :=
  let ring := w.ring.val
  let g := v.lead.ring ring
  let p := g.resv
  let v := { v with lead := v.lead.updRing ring fun g => g.reserve.publish p }
  (w.rows.zipIdx).foldl (fun v x => v.setRow (g.slotRow (ptrIdx p) + x.2) x.1) v

/-- Whether an instance takes a write: defined, open, and wide enough (R364). -/
def instTakes (g : RingInst) (w : RemoteWrite) : Bool := g.valid && g.rem && decide (w.nrows.toNat + 1 ≤ g.rowsPer)

/-- A token becomes visible in a saved instance: its ring closes (R332, R333). -/
def savedClose (p : Pipe) (v v' : Saved) (ring : Nat) : Pipe :=
  let g := v'.lead.ring ring
  let row (i : Nat) : Row :=
    let n := g.slotRow i
    if n < 32768 then v'.lead.row n
    else getKey 0 (2048 + (n - 2048) % 30720) ((v'.members.map Stores.rows).getD ((n - 2048) / 30720 - 1) [])
  if (g.passed (v.lead.ring ring).tail g.tail).any fun i => tokenVisible p.record.eos (row i) then
    { p with closed := setFld p.closed ring 1 1 } else p

/-- The saved member that holds the instance that a write names. -/
def Pipe.savedFor (p : Pipe) (w : RemoteWrite) : Option Saved :=
  p.saved.find? fun v => v.vnum == w.vcore.toNat && p.record.consumer w.ring.val == some v.stage

/-- A write goes into a saved slot, and what becomes visible there closes its ring. -/
def Pipe.applySaved (p : Pipe) (v : Saved) (w : RemoteWrite) : Pipe :=
  { savedClose p v (v.apply w) w.ring.val with
    saved := mapIf (fun x => x.vnum == v.vnum && x.stage == v.stage) (fun x => x.apply w) p.saved }

/-- An earlier write to the same instance waits in the remote-write buffer (R365). -/
def State.laterWrite (s : State) (w : RemoteWrite) : Bool :=
  (s.fab.rwbuf.takeWhile fun x => x != w).any fun x => x.handle == w.handle && x.ring == w.ring && x.vcore == w.vcore

/-- THE ARRIVAL of an RWRITE (R364 to R366). From the save until its members are restored, the instance that counts is the
saved one. -/
def State.arrive (s : State) (w : RemoteWrite) : ArriveRes :=
  match s.fe.pipes.find? fun p => p.handle == w.handle && !p.ended && p.shut.isNone with
  | none => .refused
  | some p =>
    let ring := w.ring.val
    match p.savedFor w with
    | some v =>
      let g := v.lead.ring ring
      if !instTakes g w then .refused
      else if g.free = 0 || s.laterWrite w then .waits s
      else .applied (s.updPipe p.id fun p => p.applySaved v w)
    | none =>
      match p.pool.find? fun m => m.vnum == w.vcore.toNat && p.record.consumer ring == some m.stage with
      | none => .refused
      | some m =>
        let g := (s.core m.at_).ring ring
        if !instTakes g w then .refused
        else if p.pre != .none || g.free = 0 || s.laterWrite w then .waits s
        else if s.slotStalled m.at_ g (ptrIdx g.resv) w.rows.length then .waits (s.wakeSlot m.at_ g (ptrIdx g.resv) w.rows.length)
        else .applied (s.applyWrite p.id m.at_ w)

/-- A write takes its place in the remote-write buffer, if it has one (R365). -/
def State.bufferWrite (s : State) (w : RemoteWrite) : Option State :=
  if s.fab.rwbuf.length < 1024 then some { s with fab := { s.fab with rwbuf := s.fab.rwbuf ++ [w] } } else none

/-- Writes of other packages whose operator has ended leave the buffer, refused. -/
def State.purgeWrites (s : State) : State :=
  let dead (w : RemoteWrite) : Bool := w.srcPkg.toNat != s.fab.pkg && !s.fe.pipes.any fun p => p.handle == w.handle && !p.ended
  let n := (s.fab.rwbuf.filter dead).length
  (List.range n).foldl (fun s _ => s.logErr 0x4C 0 0 0 1) { s with fab := { s.fab with rwbuf := s.fab.rwbuf.filter fun w => !dead w } }

/-- The remote-map entry that a queued RWRITE names. -/
def QEntry.rent (q : QEntry) : Option (BitVec 6) := match q.cmd with | .rwrite _ b => some b.rent | _ => none

/-- The destination of a queued RWRITE of a core: handle, package, ring and virtual core of its remote-map entry. -/
def State.rwriteDest (s : State) (r : CoreRef) (q : QEntry) : Option (Word × Nat × Fin 32 × BitVec 6) :=
  q.rent.bind fun n => ((s.pipeOf r).bind fun p => p.record.rmap[n.toNat]?).map fun e => (e.2, rmapPkg e.1, rmapRing e.1, rmapVcore e.1)

/-- An earlier RWRITE of the core to the same instance has not published (R124). -/
def State.earlierRwrite (s : State) (r : CoreRef) (q : QEntry) : Bool :=
  (((s.core r).eng[(4 : Fin 6)]) ++ ((s.core r).eng[(5 : Fin 6)])).any fun x =>
    x.rent.isSome && s.rwriteDest r x == s.rwriteDest r q && decide (x.grp < q.grp)

/-- An RWRITE's refusal has reached its core: the task ends with its fault, and the entry is gone (R275). -/
def State.rwriteRefused (s : State) (r : CoreRef) (e : Fin 6) (q : QEntry) : State :=
  let s := s.cmdFault r e.val q fRwRefused (match q.rent with | some n => n.toNat | none => 0)
  ((s.unpin q.pages).updCore r fun c => c.dropHead e).settle r

/-- What is still to be done of the entry at the head of a queue. -/
def State.setTodo (s : State) (r : CoreRef) (e : Fin 6) (q : QEntry) (todo : List EngWrite) : State :=
  match q.state with
  | .started t _ stamp am pops => s.updCore r fun c => c.setHead e { q with state := .started t todo stamp am pops }
  | _ => s

/-- The RWRITE at the head of a queue completes: on this package its slot becomes Published (R124, R275), after a wait in
the remote-write buffer if it must (R365); a refusal ends the task; to another package the completion is the
destination's answer. -/
def State.rwriteDone (s : State) (r : CoreRef) (e : Fin 6) (q : QEntry) (t : Nat) (todo : List EngWrite) (pops : List (Nat × Nat)) : State :=
  if s.earlierRwrite r q then s
  else
    let s1 := s.at_ (t + durTicks s r q.shape q.cmd)
    match todo with
    | .remote w :: _ =>
      match s1.arrive w with
      | .applied s2 => s2.finish r e q none pops
      | .waits s2 => ((s2.bufferWrite w).map fun s3 => s3.setTodo r e q [.buffered w]).getD s2
      | .refused => (s1.logErr 0x4C 0 0 0 1).rwriteRefused r e q
    | .buffered w :: _ =>
      if s.fab.rwbuf.contains w then
        match s1.arrive w with
        | .applied s2 => ({ s2 with fab := { s2.fab with rwbuf := s2.fab.rwbuf.erase w } } : State).finish r e q none pops
        | .waits s2 => s2
        | .refused => (({ s1 with fab := { s1.fab with rwbuf := s1.fab.rwbuf.erase w } } : State).logErr 0x4C 0 0 0 1).rwriteRefused r e q
      else s1.finish r e q none pops
    | _ => s1.finish r e q none pops

/-! ## QFENCE, SEMSIG and SEMWAIT (R112, R258) -/

/-- The head of a queue is the QFENCE of a group. -/
def Core.fenceAt (c : Core) (e : Fin 6) (grp : Nat) : Bool :=
  match c.eng[e] with
  | q :: _ => q.isFence && q.grp == grp
  | [] => false

/-- Mark a QFENCE at the head of a queue as reached. -/
def Core.reach (c : Core) (e : Fin 6) (grp : Nat) : Core :=
  if c.fenceAt e grp then { c with eng := c.eng.set e (mapIf (fun q => q.grp == grp) (fun q => { q with state := .reached }) c.eng[e]) } else c

/-- The queues of a mask. -/
def maskQueues (m : BitVec 6) : List (Fin 6) := ([0, 1, 2, 3, 4, 5] : List (Fin 6)).filter fun e => bitAt m e.val

/-- QFENCE: the queues that have reached it stop; once every named queue has, all go on, SSEM is signalled once, and each
queue is held for 1 clk (R256). -/
def execQfence (h : CmdHdr) (m : BitVec 6) (s : State) : Host.Outcome State Fault Refusal :=
  let r := s.cur.at_
  let es := maskQueues m
  go (match es.findSome? fun e => ((s.core r).eng[e]).head?.bind fun q => if q.cmd = .qfence h m then some q else none with
    | none => s
    | some q =>
      let s := es.foldl (fun s e => s.updCore r fun c => c.reach e q.grp) s
      if es.all fun e => (s.core r).fenceAt e q.grp then
        let s := es.foldl (fun s e => s.at_ (s.core r).engFree[e]) s
        let s := es.foldl (fun s e => s.updCore r fun c => (c.dropHead e).holdQueue e s.now) s
        (s.signal r q).settle r
      else s)

/-- SEMSIG completes at its start. -/
def execSemsig (h : CmdHdr) (s : State) : Host.Outcome State Fault Refusal := go (withStart (.semsig h) s fun q s => finishNow s q)

/-- SEMWAIT completes at its start. -/
def execSemwait (h : CmdHdr) (s : State) : Host.Outcome State Fault Refusal := go (withStart (.semwait h) s fun q s => finishNow s q)

/-! ## COMMAND_COMPLETE (R254, R256) -/

/-- COMMAND_COMPLETE: the pending writes perform, the stamp last; the command completes no earlier than its duration
after its start. A MIGRATE that moves a page completes with its migration, a QFENCE as its queues go on. -/
def execCommandComplete (r : CoreRef) (e : BitVec 3) (s : State) : Host.Outcome State Fault Refusal :=
  let k : Fin 6 := Fin.ofNat 6 e.toNat
  go (match (s.core r).eng[k] with
    | [] => s
    | q :: _ =>
      match q.state with
      | .started t todo stamp am pops =>
        match q.cmd with
        | .qfence .. => s
        | .rwrite .. => s.rwriteDone r k q t todo pops
        | .migrate h _ => if h.vcnt = 0 then (s.at_ (t + durTicks s r q.shape q.cmd)).finish r k q am pops else s
        | _ =>
          let all := todo ++ stamp.toList
          if all.all (s.engWriteOk r.site) then
            (all.foldl (fun s w => s.engWrite r.site w) (s.at_ (t + durTicks s r q.shape q.cmd))).finish r k q am pops
          else (all.filter fun w => !s.engWriteOk r.site w).foldl (fun s w => s.engAsk r.site w) s
      | _ => s)

/-- REMOTE_WRITE_REFUSED: a refusal reaches the sending core (R275). -/
def execRemoteWriteRefused (r : CoreRef) (e : BitVec 3) (s : State) : Host.Outcome State Fault Refusal :=
  let k : Fin 6 := Fin.ofNat 6 e.toNat
  go (match (s.core r).eng[k] with
    | [] => s
    | q :: _ =>
      match q.state, q.rent with
      | .started _ [] _ _ _, some _ => s.rwriteRefused r k q
      | _, _ => s)

/-- REMOTE_WRITE_ARRIVAL from another package: applied, buffered, held or refused. -/
def execRemoteWriteArrival (w : RemoteWrite) (s : State) : Host.Outcome State Fault Refusal :=
  let s := s.purgeWrites
  go (match s.arrive w with
    | .applied s => s
    | .waits s => (s.bufferWrite w).getD s
    | .refused => s.logErr 0x4C 0 0 0 1)

end Sys2Proof.Machine
end

