-- ==== Sys2Proof/Machine/Turns.lean ====
section
/-! DEFINITION. What the turns of the agenda do that are no instruction of their own (log 3): the issue slots (R42), the
fetch, an outstanding access that performs at die scope (R103 to R109), an engine's write, a read or write of the host. -/

namespace Sys2Proof.Machine

/-! ## Issue (R42, R155, R195, R196) -/

/-- Whether the clk with a number belongs to a context (R42). -/
def slotOf (c : CtxName) (k : Nat) : Bool :=
  match c with
  | .load => k % 4 == 0
  | .compute => k % 4 == 1 || k % 4 == 2
  | .store => k % 4 == 3

/-- The first clk from k on that belongs to a context. -/
def nextClk (c : CtxName) (k : Nat) : Nat :=
  if slotOf c k then k else if slotOf c (k + 1) then k + 1 else if slotOf c (k + 2) then k + 2 else k + 3

/-- The tick of the next slot of a context: not in the past, and after the core's last issue. -/
def State.slotTick (s : State) (c : CtxRef) : Nat :=
  let t0 := (s.die c.at_.site).t0
  let k := (s.now - t0 + tClk - 1) / tClk
  let k := match (s.core c.at_).lastIssue with | some t => max k ((t - t0) / tClk + 1) | none => k
  t0 + tClk * nextClk c.ctx k

/-- Whether a context may issue in its slot. -/
def Context.canIssue (c : Context) : Bool :=
  !c.frozen && match c.status with
  | .running | .waiting _ => true
  | _ => false

/-- The word that a context issues next: the repeat under way, the instruction that it has issued and that waits, whatever has
become of its cached word (R43, R66), or the word at its program counter. -/
def State.fetch (s : State) (c : CtxRef) : Option CtlWord :=
  let x := s.ctx c
  match x.rep, x.status with
  | some u, _ => stepWord u.word u.mask u.j
  | none, .waiting (.fetch ..) => s.cached c.at_ x.pc.toNat
  | none, .waiting _ => x.word <|> s.cached c.at_ x.pc.toNat
  | none, _ => s.cached c.at_ x.pc.toNat

/-- The slot of a context arrives: time moves, and the context becomes the one that executes. -/
def State.slot (s : State) (c : CtxRef) : State := { s.at_ (s.slotTick c) with cur := c }

/-- The context issues in its slot. -/
def State.issued (s : State) (c : CtxRef) : State :=
  (s.slot c).updCore c.at_ fun k =>
    { k.updCtx c.ctx fun x => { x with fresh := false, word := s.fetch c } with lastIssue := some (s.slotTick c) }

/-- A context that misses the instruction cache waits for the word at its program counter. -/
def Context.miss (x : Context) : Context :=
  match x.status with
  | .waiting (.fetch ..) => x
  | _ => { x with status := .waiting (.fetch x.pc.toNat none), fresh := false }

/-- An instruction-cache miss: the context waits for the word (R43). -/
def State.missed (s : State) (c : CtxRef) : State := (s.slot c).updCtx c Context.miss

/-- What a store does, as a side log keeps it, with its DLA once it is translated. -/
def AccOp.logged : AccOp → Option (Option Nat × LogOp)
  | .store dla size data => some (some dla, .store size data)
  | .rel dla data scope mask => some (some dla, .rel data scope mask)
  | .fput dla data => some (some dla, .fput data)
  | .freset dla => some (some dla, .freset)
  | .untranslated _ op => some (none, op)
  | _ => none

/-- The stores of a list that go into the side log behind entries of some classes: each that meets them, or one of those
(R341). -/
def logBehind (m : BitVec 16) : List Access → List Access
  | [] => []
  | a :: t => if a.op.logged.isSome && meets a.cls m then a :: logBehind (m ||| a.cls) t else logBehind m t

/-- A store of a context with the later ones that go into the side log behind it. -/
def State.logRun (s : State) (c : CtxRef) (a : Access) : List Access :=
  a :: logBehind a.cls ((s.ctx c).out.filter fun b => decide (a.seq < b.seq))

/-- A store of the context whose translation came after its issue can go no further, and holds it: it can take no pin (R79),
or its page is requested and the side log is full (R100). -/
def State.storeHeld (s : State) (c : CtxRef) : Bool :=
  (s.ctx c).out.any fun a => match a.op with
    | .untranslated pasid _ => match s.lookupXlat (.engine c.at_ ctxEng) pasid a.hva.toNat true with
      | .hit d => !s.homes.canPin s.fab.pkg (pageOf d)
      | .paging => !(s.core c.at_).logRoom (s.logRun c a).length
      | _ => false
    | _ => false

/-- An FGET of another context of the core is out: it has issued and has no answer yet. -/
def State.fgetOut (s : State) (c : CtxRef) : Bool :=
  ctxNames.any fun n => n != c.ctx && (s.ctx ⟨c.at_, n⟩).begun == some .fget

/-- An instruction of R65 does not issue while an FGET of its task is out: the answer may squash the task, and nothing that a
squashed task did may be seen (R66, R125). DEDUCED (log 104). -/
def State.heldBack (s : State) (c : CtxRef) (i : Instr) : Bool := isSideEffect i && s.fgetOut c

/-- Whether a context may issue now: it can, and no store of its waits for a pin or for room in the side log. -/
def State.mayGo (s : State) (c : CtxRef) : Bool := (s.ctx c).canIssue && !s.storeHeld c

/-- Whether a row of the opcode table is a tile command. -/
def isCommand (i : Instr) : Bool :=
  match i with
  | .mma .. | .mmac .. | .promote .. | .drain .. | .zacc .. | .chain .. | .unchain .. | .tload .. | .tgather .. | .tcvt ..
  | .prefetch .. | .tstore .. | .gatomAdd .. | .gatomFadd .. | .gatomMax .. | .gatomMin .. | .gatomSwap .. | .gatomCas ..
  | .migrate .. | .scatAdd .. | .scatMax .. | .scatMin .. | .cntsnap .. | .rwrite .. | .qfence .. | .semsig .. | .semwait .. => true
  | _ => false

/-- Whether a row of the opcode table is an event: neither a control word nor a tile command. -/
def isEvent (i : Instr) : Bool := groupOf i == .none && !isCommand i

/-- The command at the head of a queue, its core's context at hand. -/
def State.headCmd (s : State) (r : CoreRef) (e : Fin 6) : Option (State × Instr) :=
  ((s.core r).eng[e].head?).map fun q => ({ s with cur := ⟨r, q.ctx⟩ }, q.cmd)

/-! ## Accesses that perform at die scope -/

/-- Drop the FENCEs of a context's core that hold nothing back any more. -/
def State.sweep (s : State) (c : CtxRef) : State := s.updCore c.at_ Core.sweep

/-- An outstanding access is gone. -/
def State.dropAccess (s : State) (c : CtxRef) (seq : Nat) : State :=
  ((s.updCtx c fun x => { x with out := x.out.filter fun a => a.seq != seq }).sweep c).settle c.at_

/-- An outstanding access takes another form. -/
def State.setAccess (s : State) (c : CtxRef) (a : Access) : State :=
  s.updCtx c fun x => { x with out := mapIf (fun b => b.seq == a.seq) (fun _ => a) x.out }

/-- The task takes a fault for an outstanding access, which is gone (R338, R339). -/
def State.accessFault (s : State) (c : CtxRef) (a : Access) (code addr : Nat) : State :=
  (s.takeFault c.at_ ⟨code, ctxCode c.ctx, 0, a.rep, a.pc, addr, 0, 0⟩).dropAccess c a.seq

/-- Every earlier access of its classes has performed (R107). -/
def State.oldest (s : State) (c : CtxRef) (a : Access) : Bool := s.drainedBefore c a.cls a.seq

/-- The first entry of a load queue that awaits its row gets it (R245). -/
def fillFirst (v : Row) : List (Option Row) → List (Option Row)
  | [] => []
  | none :: t => some v :: t
  | x :: t => x :: fillFirst v t

/-- Rows that have been read enter a load queue in issue order: up to the first access of the queue that has still to read
(R245). -/
def deliver (q : Fin 4) : List Access → List (Option Row) → List Access × List (Option Row)
  | [], l => ([], l)
  | a :: t, l =>
    let on (l : List (Option Row)) : List Access × List (Option Row) := (a :: (deliver q t l).1, (deliver q t l).2)
    match a.op with
    | .qld p _ _ _ got =>
      if p = q then
        match got with
        | some v => deliver q t (fillFirst v l)
        | none => (a :: t, l)
      else on l
    | _ => on l

/-- The rows read for a load queue of a core enter it. -/
def Core.deliver (c : Core) (q : Fin 4) : Core :=
  let x := Sys2Proof.Machine.deliver q c.l.out c.lq[q]
  { c with l := { c.l with out := x.1 }, lq := c.lq.set q x.2 }

/-- A write performs at die scope: it stands in the die's list until it performs at package scope (R105). -/
def State.dieWrite (s : State) (c : CtxRef) (a : Access) (dla size : Nat) (data : Word) (rel : Option RelInfo) : State :=
  let w : DieWrite :=
    { ctx := c, seq := a.seq, cls := a.cls, dla, size, data, rel, vis := [], pages := a.pages, route := none, fwd := 0
      pc := a.pc, rep := a.rep, hva := a.hva, pasid := s.pasidOf c.at_
      gang := s.gangOf c.at_, since := s.now, asked := none }
  let s := s.updDie c.at_.site fun d => { d with
    buf := d.buf ++ [w]
    rels := match rel with
      | some ri => insertKey (wordOf dla) (c, ri) d.rels
      | none => eraseKey (wordOf dla) d.rels }
  s.triggerDie c.at_.site (lineOf dla)

/-- A QLD or QLDR reads its row: in any order among the classes; it enters the queue in issue order (R245). -/
def State.qldArrives (s : State) (c : CtxRef) (a : Access) (q : Fin 4) (src : CoreRef) (row : Nat) (slot : Option (Nat × Nat)) : State :=
  if (s.core src).rowStalled row then s.wakeOwn src row
  else (((s.setAccess c { a with op := .qld q src row slot (some ((s.core src).row row)) }).updCore c.at_ fun k => k.deliver q).sweep c).settle
    c.at_

/-- A write to a word stands in a die's list. -/
def Die.writing (d : Die) (dla : Nat) : Bool := d.buf.any fun w => wordOf w.dla == wordOf dla

/-- FPUT at its cell's home (R67, R282): a release at package scope that a full cell turns into a fault. -/
def State.fputHome (s : State) (c : CtxRef) (a : Access) (dla : Nat) (v : Word) : State :=
  let i := c.at_.site
  if !s.flushedBefore c allCls a.seq || (s.die i).writing dla || !s.reachable (s.homes.slice dla).pkg || !s.routed i (pageOf dla) then s
  else withWrites s [lineOf dla] fun s =>
    let s := ((s.accept i [lineOf dla]).commitCovered c allCls).unpin a.pages
    if s.homes.tagFull dla then s.accessFault c a fFull a.hva.toNat
    else (s.fillCell dla v).dropAccess c a.seq

/-- FRESET at its cell's home (R282). -/
def State.fresetHome (s : State) (c : CtxRef) (a : Access) (dla : Nat) : State :=
  let i := c.at_.site
  if (s.die i).writing dla || !s.reachable (s.homes.slice dla).pkg || !s.routed i (pageOf dla) then s
  else withWrites s [lineOf dla] fun s =>
    (((s.accept i [lineOf dla]).resetCell dla).unpin a.pages).dropAccess c a.seq

/-- An entry takes its place in a side log: before the later ones of its context (R342). -/
def logInsert (e : LogEntry) : List LogEntry → List LogEntry
  | [] => [e]
  | x :: t => if x.ctx == e.ctx && decide (e.seq < x.seq) then e :: x :: t else x :: logInsert e t

/-- A store as an entry of the side log, of a task of a pipeline and gang; one that is translated keeps its pin. -/
def Access.entry (a : Access) (n : CtxName) (pasid : Nat) (gang : Option (Nat × Nat)) : Option LogEntry :=
  a.op.logged.map fun x => ⟨n, a.cls, a.hva, pasid, x.2, a.pc, a.seq, x.1, x.1.isSome, a.rep, none, gang⟩

/-- A store whose page is requested goes to the side log, and the later stores of its classes behind it (R100, R341), if the
log has room for them all; else it holds its context. -/
def State.logAccess (s : State) (c : CtxRef) (a : Access) (pasid : Nat) : State :=
  let l := s.logRun c a
  if (s.core c.at_).logRoom l.length then
    let es := l.filterMap fun b => b.entry c.ctx pasid (s.gangOf c.at_)
    l.foldl (fun s b => s.dropAccess c b.seq)
      (s.updCore c.at_ fun k => { k with sideLog := es.foldl (fun log e => logInsert e log) k.sideLog })
  else s

/-- A store whose translation was outstanding: it is translated, pinned and checked (R188), goes to the side log when its
page is requested (R100), or its task takes the page fault. One that can take no pin holds its context (R79). -/
def State.translateAccess (s : State) (c : CtxRef) (a : Access) (pasid : Nat) (op : LogOp) : State :=
  let u := XlatUser.engine c.at_ ctxEng
  let hva := a.hva.toNat
  match s.lookupXlat u pasid hva true with
  | .hit d => match s.pinAll [pageOf d] with
    | none => s
    | some s' => if s.dlaOk d then s'.setAccess c { a with op := op.access d, pages := [pageOf d] } else s.accessFault c a fUnreach d
  | .refused => (s.dropRefused u pasid hva).accessFault c a fPage hva
  | .paging => s.logAccess c a pasid
  | .waiting => s.askXlat u pasid hva true

/-- A release of every class that its context has left behind takes effect once what it covers has performed (R120). -/
def State.lateRelease (s : State) (c : CtxRef) (a : Access) (wide : Bool) (k : State → State) : State :=
  if s.lateReady c a.seq wide then k (if wide then s.commitCovered c allCls else s) else s

/-- SEMS of a context that has left it behind (R288). -/
def State.semsLate (s : State) (c : CtxRef) (a : Access) (n : BitVec 6) : State :=
  let v := (s.core c.at_).semVal n
  if v = 65535 then s.accessFault c a fSemOver n.toNat
  else (s.updCore c.at_ fun k => k.setSem n (v + 1)).dropAccess c a.seq

/-- The pipeline number of the task on a core. -/
def State.pipeNo (s : State) (r : CoreRef) : Nat := ((s.core r).task.map Task.pipe).getD 0

/-- A store or a release goes to a page to which a request of the die is relayed (R98). -/
def State.behindRelay (s : State) (c : CtxRef) (op : AccOp) : Bool :=
  match op with
  | .store dla .. | .rel dla .. => (s.die c.at_.site).relayed.contains (pageOf dla)
  | _ => false

/-- An outstanding access performs, if nothing holds it back. -/
def State.performAccess (s : State) (c : CtxRef) (a : Access) : State :=
  match a.op with
  | .untranslated pasid op => s.translateAccess c a pasid op
  | .evsig e => s.lateRelease c a true fun s => (s.setEvents (s.pipeNo c.at_) (1 <<< e.toNat)).dropAccess c a.seq
  | .sems n => s.lateRelease c a false fun s => s.semsLate c a n
  | .rpub ring inst p =>
    let g := (s.core inst).ring ring
    if (s.ctx c).writesRows (slotRows inst g (ptrIdx p)) a.seq then s
    else (s.publish (s.pipeNo c.at_) ring inst p).dropAccess c a.seq
  | op =>
    if !s.oldest c a || s.behindRelay c op then s
    else match op with
    | .store dla size data => (s.dieWrite c a dla size data none).dropAccess c a.seq
    | .rel dla data scope mask => (s.dieWrite c a dla 8 data (some ⟨scope, mask, a.seq⟩)).dropAccess c a.seq
    | .fence _ => s.dropAccess c a.seq
    | .qld q src row slot none => s.qldArrives c a q src row slot
    | .qst dst row data =>
      if (s.core dst).rowStalled row then s.wakeOwn dst row
      else (s.updCore dst fun k => k.setRow row data).dropAccess c a.seq
    | .fput dla v => s.fputHome c a dla v
    | .freset dla => s.fresetHome c a dla
    | _ => s

/-- The n-th outstanding access of a context performs. -/
def State.perform (s : State) (c : CtxRef) (n : Nat) : State :=
  match (s.ctx c).out[n]? with
  | some a => s.performAccess c a
  | none => s

/-- An access that reads a row for a load queue and has not read it. -/
def Access.awaits (a : Access) (q : Fin 4) : Bool := match a.op with | .qld p _ _ _ none => p == q | _ => false

/-- QLD_ROW_ARRIVAL: the oldest row awaited by a load queue enters it. -/
def execQldRowArrival (r : CoreRef) (q : BitVec 2) (s : State) : Host.Outcome State Fault Refusal :=
  let c : CtxRef := ⟨r, .load⟩
  go (match (s.ctx c).out.find? fun a => a.awaits q.toFin with
    | some a => s.performAccess c a
    | none => s)

/-- A write of the host port within one 8-byte word (R103, R121); in recovery the host writes no memory (R385). -/
def State.hostWrite (s : State) (dla size : Nat) (data : Word) : State :=
  if s.mgmt.mode = 2 then s
  else withWrites s [lineOf dla] fun s => s.homeWrite dla (min size (8 - dla % 8)) data.toNat

/-- A read of the host port: a die that holds the line in M forwards it, and the home commits it (R92, R103, R116). -/
def State.hostRead (s : State) (dla : Nat) : State :=
  if s.mgmt.mode = 2 then s else withReads s none [lineOf dla] fun s => s.touchLlc (lineOf dla)

/-- Nothing happens for a clk. -/
def State.idle (s : State) : State := s.at_ (s.now + tClk)

end Sys2Proof.Machine
end

