-- ==== Sys2Proof/Machine/Coherence.lean ====
section
/-! DEFINITION. Loads, writes and releases at the home slices: values that return, routes and redirects, snoops and
forwards, forced publishes (R81, R91 to R98, R105, R114 to R118, R189, R208). -/

namespace Sys2Proof.Machine

/-! ## A word of a held load -/

/-- The newest write of a die's list to the location of an address: its 8-byte word (R106). -/
def Die.lastWrite (d : Die) (dla : Nat) : Option DieWrite := d.buf.reverse.find? fun w => wordOf w.dla == wordOf dla

/-- A write covers a word of a load whole. -/
def DieWrite.serves (x : DieWrite) (w : LoadWord) : Bool := decide (x.dla ≤ w.dla) && decide (w.dla + w.size ≤ x.dla + x.size)

/-- A release is awaited by another die, of this package or another, on the line (R117). -/
def Homes.noteElsewhere (h : Homes) (l : Nat) (i : Fin 6) : Bool :=
  (h.notes.any fun n => n.line == l && n.site != i) || h.awayNotes.any fun n => n.1 == l

/-- Whether a load is an ACQ, and one of package or fabric scope (R115). -/
def HeldLoad.isAcq (l : HeldLoad) : Bool := match l.dest with | .acq .. => true | _ => false
def HeldLoad.wideAcq (l : HeldLoad) : Bool := match l.dest with | .acq _ sc _ => decide (2 ≤ sc.toNat) | _ => false

/-- Whether the value of a word can return to its die now. While a request of the die to its page is relayed, only that
request's own load goes on (R98). The die's newest write of the location serves a read that it covers whole, but for an ACQ of
package or fabric scope (R115); a read of a location that a write of the die waits to reach otherwise waits for it, so that
every value is one that the location has held, in its coherence order (R105 to R107, R121; log 119). A copy serves an ACQ once
no other die's release is noted on its line (R117). -/
def State.wordReady (s : State) (c : CtxRef) (l : HeldLoad) (w : LoadWord) : Bool :=
  let d := s.die c.at_.site
  let line := lineOf w.dla
  w.home.isSome ||
  (l.route.isSome || !d.relayed.contains (pageOf w.dla)) &&
  match d.lastWrite w.dla with
  | some x => x.serves w && !l.wideAcq
  | none => (d.line line).isSome && (!l.isAcq || !s.homes.noteElsewhere line c.at_.site)

/-- The value of a word: what its home has fixed, or else what the die sees. -/
def State.wordValue (s : State) (c : CtxRef) (w : LoadWord) : Word :=
  match w.home with
  | some v => v
  | none => BitVec.ofNat 64 (s.dieN c.at_.site w.dla w.size)

/-- Whether a word that its home has not fixed meets poison: at the home, or in the die's copy (R348, R349). -/
def State.wordBad (s : State) (c : CtxRef) (w : LoadWord) : Bool :=
  w.home.isNone && (s.homes.poisoned (lineOf w.dla) || (s.die c.at_.site).badLines.contains (lineOf w.dla))

/-! ## What a load does when its last value has returned -/

/-- 256 bits from four words. -/
def quadVal (l : List Word) : CmdWord := pack 256 64 (l.map BitVec.toNat)

/-- A segment of a segment image (R242). -/
def segOf (l : List Word) : Segment :=
  let at_ (k : Nat) : BitVec 32 := BitVec.ofNat 32 (fld (l.getD (k / 2) 0) (32 * (k % 2)) 32)
  ⟨at_ 0, at_ 1, at_ 2, at_ 3, at_ 4⟩

/-- A task record from the 16 words of its image (R46). -/
def recOf (l : List Word) : TaskRec :=
  let c := l.getD 0 0
  ⟨fld c 0 4, bitAt c 16, bitAt c 17, Vector.ofFn fun k => l.getD (2 + k.val) 0, l.getD 10 0, l.getD 11 0, l.getD 12 0, l.getD 13 0⟩

/-- The reserved fields of a record are 0 (R46, R47). -/
def recClean (l : List Word) : Bool :=
  let c := l.getD 0 0
  fld c 18 46 == 0 && fld c 4 12 == 0 && l.getD 1 0 == 0 && l.getD 14 0 == 0 && l.getD 15 0 == 0

/-- An acquire of a context with an issue number: what the release whose value stands at the word covered becomes visible to
it (R115); a mask of 0 acquires nothing (R205). -/
def State.acquireAt (s : State) (c : CtxRef) (dla : Nat) (m : BitVec 16) (n : Nat) : State :=
  match lookup (wordOf dla) (s.die c.at_.site).rels with
  | some (rc, ri) => if m = 0 then s else s.updDie c.at_.site fun d => d.acquire rc ri c m n
  | none => s

/-- What the read of a load does beyond its value, as it performs: an ACQ acquires (R115), MON arms the monitor (R208). -/
def State.readEffect (s : State) (c : CtxRef) (l : HeldLoad) (w : LoadWord) : State :=
  match l.dest with
  | .acq _ _ m => s.acquireAt c w.dla m l.seq
  | .mon => s.updCtx c fun x => { x with mon := ⟨some (lineOf w.dla), false⟩ }
  | _ => s

/-- What a translation of an address of a spawn image gives. -/
inductive SpawnAddr where
  | ok (dla : Nat)
  | stop (s : State)
  deriving DecidableEq, Repr

/-- Translate JOINADDR or FUTREF of a spawn image (R276). -/
def spawnAddr (s : State) (used : Bool) (a : Word) : SpawnAddr :=
  if !used then .ok a.toNat
  else
    let u := XlatUser.engine s.cur.at_ ctxEng
    let pasid := s.pasidOf s.cur.at_
    match s.lookupXlat u pasid a.toNat true with
    | .hit d => if s.dlaOk d then .ok d else .stop (s.fault fUnreach d)
    | .refused => .stop ((s.dropRefused u pasid a.toNat).fault fPage a.toNat)
    | .paging => .stop s
    | .waiting => .stop (s.askXlat u pasid a.toNat true)

/-- The record that a spawn image makes is checked: the stage, and that it is a spawn target and no gang stage. -/
def spawnStageOk (s : State) (t : TaskRec) : Bool :=
  match s.pipeOf s.cur.at_, s.stageOf s.cur.at_ with
  | some p, some d => bitAt d.spawn t.stage && match p.record.stages[t.stage]? with
    | some x => decide (x.gang = 1)
    | none => false
  | _, _ => false

/-- The image of a SPAWN has returned: it is checked and translated, and the context goes on (R276). Among the checks the spec
gives no order: the model looks at the alignment of JOINADDR and FUTREF first, then at the reserved fields and the stage.
DESIGN CHOICE (log 114). -/
def spawnReturn (s : State) (l : HeldLoad) (vals : List Word) (m : BitVec 16) (no : Nat) : State :=
  let t := recOf vals
  if t.j ∧ t.joinAddr.toNat % 8 ≠ 0 then s.fault fMisaligned t.joinAddr.toNat
  else if t.f ∧ t.futRef.toNat % 8 ≠ 0 then s.fault fMisaligned t.futRef.toNat
  else if !recClean vals || !spawnStageOk s t then s.fault fRecord ((l.words.map LoadWord.dla).headD 0)
  else match spawnAddr s t.j t.joinAddr with
    | .stop s => s
    | .ok j => match spawnAddr s t.f t.futRef with
      | .stop s => s
      | .ok f =>
        let pages := (if t.j then [pageOf j] else []) ++ if t.f then [pageOf f] else []
        match s.pinAll pages with
        | none => s
        | some s =>
          let t := { t with joinAddr := BitVec.ofNat 64 j, futRef := BitVec.ofNat 64 f }
          ((s.unpin l.pages).issueAccess 0 (.spawn t m no) 0 pages).goOn

/-- The destination of a load is written, and the context goes on (R189, R205, R208, R242, R250). -/
def loadDone (s : State) (l : HeldLoad) (vals : List Word) : State :=
  let v := vals.headD 0
  match l.dest with
  | .x rd sg =>
    let n := 8 * (l.words.map LoadWord.size).headD 8
    ((s.unpin l.pages).wx rd (if sg then BitVec.ofInt 64 (toSigned n v.toNat) else v)).goOn
  | .acq rd _ _ => ((s.unpin l.pages).wx rd v).goOn
  | .mon => (s.unpin l.pages).goOn
  | .k r => ((s.unpin l.pages).updMe fun c => c.setK r (quadVal vals)).goOn
  | .h r =>
    if shapeOk s (quadVal vals) then ((s.unpin l.pages).updMyCore fun c => c.setH r (quadVal vals)).goOn
    else s.fault fShape 0
  | .ppu n =>
    ((s.unpin l.pages).updMyCore fun c => { c with vf := { c.vf with
      ppuN := n, ppu := (List.range n).map fun k => segOf ((vals.drop (4 * k)).take 4), ppuSet := true } }).goOn
  | .spawn m no => spawnReturn s l vals m no

/-- Every earlier access of a held load's classes has performed (R107, R108). -/
def State.loadOldest (s : State) (c : CtxRef) (l : HeldLoad) : Bool := s.drainedBefore c l.cls l.seq

/-- LOAD_VALUE_RETURN: every value of a held load returns, if each can and every earlier access of its classes has
performed (R107, R189); poison is a fault (R349). -/
def execLoadValueReturn (c : CtxRef) (s : State) : Host.Outcome State Fault Refusal :=
  go (match (s.ctx c).status with
    | .held l =>
      if !s.loadOldest c l then s
      else
        let s1 := { s with cur := c }
        match l.words.find? fun w => s.wordBad c w with
        | some w => s1.fault fPoison w.hva.toNat
        | none =>
          if l.words.all fun w => s.wordReady c l w then
            let vals := l.words.map (s.wordValue c)
            loadDone ((l.words.filter fun w => w.home.isNone).foldl (fun s w => s.readEffect c l w) s1) l vals
          else s
    | _ => s)

/-! ## Routes (R96 to R98) -/

/-- The owner caches' entries (R96). -/
def ownerCap : Agent → Nat
  | .die _ => 4096
  | .port _ => 1024

/-- Fill or replace an entry of an owner cache of n entries; a full one loses its first. -/
def fillOwner (n page : Nat) (h : Home) (l : List (Nat × Home)) : List (Nat × Home) :=
  if (lookup page l).isSome || decide (l.length < n) then insertKey page h l else insertKey page h (l.drop 1)

/-- A stub of a page at a home. -/
def Homes.stubAt (h : Homes) (page : Nat) (at_ : Home) : Option Stub := h.stubs.find? fun x => x.page == page && x.at_ == at_

/-- A stub has served a requester, which its mask names from then on, while it reclaims as well (R99). -/
def Homes.serveStub (h : Homes) (page : Nat) (at_ : Home) (a : Agent) (now : Nat) : Homes :=
  let due (l : List (Agent × Nat)) : List (Agent × Nat) := if l.any fun y => y.1 == a then l else l ++ [(a, now)]
  let served (x : Stub) : Stub := { x with mask := addNew a x.mask, last := now, reclaiming := x.reclaiming.map due }
  { h with stubs := mapIf (fun x => x.page == page && x.at_ == at_) served h.stubs }

/-- What a home that does not home the page does with a request (R97): where it goes, with which count, and whether the
requester is sent a redirect. Steps 7 and 8 of a migration are one step here (log 99), so the birth home always relays to the
current home of its record. -/
def Homes.relay (h : Homes) (page : Nat) (at_ : Home) (fwd : Nat) : Home × Nat × Bool :=
  let birth := birthHome page
  match h.stubAt page at_ with
  | some x =>
    if at_ = birth then (h.curHome page, fwd, true)
    else if fwd < 2 then (x.to_, fwd + 1, true) else (birth, fwd, false)
  | none => if at_ = birth then (h.curHome page, fwd, true) else (birth, fwd, false)

/-- A request of a die stands at a home that does not home its page: where it goes on to. -/
def State.relayDie (s : State) (i : Fin 6) (page : Nat) (at_ : Home) (fwd : Nat) : State × Home × Nat :=
  let (to_, n, red) := s.homes.relay page at_ fwd
  let s := s.updHomes fun h =>
    let h := h.serveStub page at_ (.die i) s.now
    if red then { h with redirects := h.redirects ++ [(.die i, page, to_)] } else h
  (s.updDie i fun d => { d with relayed := addNew page d.relayed }, to_, n)

/-! ## Forced publishes (R117, R118) -/

/-- A note's forced publish is sent, or has been. -/
def Note.send (now : Nat) (n : Note) : Note := { n with sent := some (n.sent.getD now) }

/-- The home sends the standing holder of a line a forced publish. -/
def Homes.force (now : Nat) (h : Homes) (l : Nat) : Homes :=
  { h with
    notes := mapIf (fun n => n.line == l) (Note.send now) h.notes
    awayNotes := mapIf (fun n => n.1 == l) (fun n => (n.1, n.2.1, true)) h.awayNotes }

/-- The same, now. -/
def State.force (s : State) (l : Nat) : State := s.updHomes fun h => h.force s.now l

/-- A note of a die of another package stands on a line. -/
def Homes.awayNoted (h : Homes) (l : Nat) : Bool := h.awayNotes.any fun n => n.1 == l

/-- A note stands on a line. -/
def Homes.noted (h : Homes) (l : Nat) : Bool := (h.notes.any fun n => n.line == l) || h.awayNoted l

/-- A buffered write performs at its home, which accepts its request if that was relayed (R98): every copy of its line is given
up. -/
def State.publishWrite (s : State) (w : DieWrite) : State :=
  let s := (s.homeWrite w.dla w.size w.data.toNat).unpin w.pages
  if w.route.isSome then s.accept w.ctx.at_.site [lineOf w.dla] else s

/-- Whether a write of a list must perform before a write x of it may: it stands earlier and writes the same word, or x is a
release that covers it. -/
def DieWrite.precedes (l : List DieWrite) (w x : DieWrite) : Bool :=
  (wordOf w.dla == wordOf x.dla && (l.takeWhile fun y => y != x).contains w) ||
  match x.rel with
  | some ri => w.covered x.ctx ri.mask ri.seq
  | none => false

/-- The writes of a list that must perform with those of a set, over at most n rounds. -/
def publishRun (l : List DieWrite) (run : List DieWrite) : Nat → List DieWrite
  | 0 => run
  | n + 1 => publishRun l (l.filter fun w => run.contains w || run.any fun x => DieWrite.precedes l w x) n

/-- The writes of a list that a release covers, with all that must perform before them, in the list's order. -/
def coveredRun (rc : CtxRef) (ri : RelInfo) (l : List DieWrite) : List DieWrite :=
  publishRun l (l.filter fun w => w.covered rc ri.mask ri.seq) l.length

/-- Where the request of a buffered write of a die stands, or is sent first (R96). -/
def State.writeAt (s : State) (w : DieWrite) : Home := w.route.getD (s.sendTo w.ctx.at_.site (pageOf w.dla))

/-- A buffered write may send its own request: no other request of its die to the page is relayed (R98). -/
def State.writeFree (s : State) (w : DieWrite) : Bool :=
  w.route.isSome || !(s.die w.ctx.at_.site).relayed.contains (pageOf w.dla)

/-- The request of a write of a run stands at the current home of its page, which can be reached; a relayed request of its
die to the page, if there is one, is that of another write of the run (R96 to R98). -/
def State.atHome (s : State) (run : List DieWrite) (w : DieWrite) : Bool :=
  let other (x : DieWrite) : Bool := x.ctx.at_.site == w.ctx.at_.site && pageOf x.dla == pageOf w.dla && x.route.isSome
  s.writeAt w == s.homes.curHome (pageOf w.dla) && s.reachable (s.writeAt w).pkg && (s.writeFree w || run.any other)

/-- The request of a write of a run stands at its home, which takes it, and no other die holds the line. -/
def State.publishOpen (s : State) (run : List DieWrite) (w : DieWrite) : Bool :=
  s.atHome run w && s.lineOpen (lineOf w.dla) && (s.heldElsewhere w.ctx.at_.site (lineOf w.dla)).isEmpty

/-- The request of the n-th write of a die's list stands at a home that does not home the page, and is relayed (R97). -/
def State.relayWrite (s : State) (i : Fin 6) (n : Nat) (w : DieWrite) : State :=
  let (s, to_, f) := s.relayDie i (pageOf w.dla) (s.writeAt w) w.fwd
  s.updDie i fun d => { d with buf := d.buf.set n { w with route := some to_, fwd := f } }

/-- The request of a buffered write goes one home on, or its home asks the other dies that hold the line to give it up. -/
def State.askPublish (s : State) (run : List DieWrite) (w : DieWrite) : State :=
  let i := w.ctx.at_.site
  if s.atHome run w then
    if s.lineOpen (lineOf w.dla) then
      (s.heldElsewhere i (lineOf w.dla)).foldl (fun s j => s.addSnoop j (lineOf w.dla) none false) s
    else s
  else if s.writeAt w != s.homes.curHome (pageOf w.dla) && s.writeFree w && s.reachable (s.writeAt w).pkg then
    match (s.die i).buf.findIdx? fun x => x == w with
    | some n => s.relayWrite i n w
    | none => s
  else s

/-- The lines on which the releases of a list write. -/
def relLines (l : List DieWrite) : List Nat := (l.filter fun w => w.rel.isSome).map fun w => lineOf w.dla

/-- Commit what a release and the releases of a list cover. -/
def State.commitRun (s : State) (n : Note) (run : List DieWrite) : State :=
  run.foldl (fun s w => match w.rel with | some ri => s.commitCovered w.ctx ri.mask | none => s) (s.commitCovered n.ctx n.mask)

/-- What the holder of a note has to publish. -/
def State.noteRun (s : State) (n : Note) : List DieWrite := coveredRun n.ctx ⟨1, n.mask, n.seq⟩ (s.die n.site).buf

/-- The notes that publish with some: a holder that is noted on a line on which a release of another's run writes publishes as
well (R118), over at most n rounds. -/
def State.noteClosure (s : State) (ns : List Note) : Nat → List Note
  | 0 => ns
  | k + 1 => s.noteClosure (s.homes.notes.filter fun x => ns.contains x || ns.any fun n => (relLines (s.noteRun n)).contains x.line) k

/-- A release of a published run stands at its line: the note there is gone, and a narrow one is noted (R117, R118). -/
def Homes.noteRel (h : Homes) (w : DieWrite) : Homes :=
  match w.rel with
  | none => h
  | some ri =>
    let line := lineOf w.dla
    let rest := h.notes.filter fun n => n.line != line
    if 2 ≤ ri.scope.toNat then { h with notes := rest }
    else { h with notes := rest ++ [⟨line, w.ctx.at_.site, w.ctx, ri.mask, ri.seq, none, false⟩] }

/-- The holder of a note publishes, and acknowledges. -/
def State.publishNote (s : State) (n : Note) : State :=
  let run := s.noteRun n
  let s := run.foldl State.publishWrite s
  let s := s.updDie n.site fun d => { d with buf := d.buf.filter fun w => !(run.contains w) }
  (s.commitRun n run).updHomes fun h => run.foldl Homes.noteRel
    { h with notes := mapIf (fun x => x == n) (fun x => { x with acked := true }) h.notes }

/-- FORCED_PUBLISH: the holder makes every write that its release covered perform at package scope, each once its request
stands at its page's current home, commits the lines that hold one, and acknowledges. A release among these writes performs
together with all that it covers in turn. Where it writes on a line that has a standing holder, that one publishes at the
same instant, and the release is noted in its place (R118); a holder on another package publishes first. -/
def execForcedPublish (line : Nat) (s : State) : Host.Outcome State Fault Refusal :=
  go (match s.homes.notes.find? fun n => n.line == line && n.sent.isSome && !n.acked with
    | none => s
    | some n =>
      let ns := s.noteClosure [n] s.homes.notes.length
      let run := ns.flatMap s.noteRun
      let away := (relLines run).filter s.homes.awayNoted
      if !away.isEmpty then away.foldl State.force s
      else if run.all (s.publishOpen run) then ns.foldl State.publishNote s
      else (run.filter fun w => !s.publishOpen run w).foldl (fun s w => s.askPublish run w) s)

/-- FORCED_PUBLISH_ACK: the note is cleared; the request that waited goes on. -/
def execForcedPublishAck (line : Nat) (s : State) : Host.Outcome State Fault Refusal :=
  go (s.updHomes fun h => { h with notes := h.notes.filter fun n => !(n.line == line && n.acked) })

/-! ## Requests at a home (R81) -/

/-- A home has accepted the request of a held load for its k-th word (R98). -/
def State.loadAccepted (s : State) (c : CtxRef) (l : HeldLoad) (k : Nat) (w : LoadWord) (v : Option Word) : State :=
  let l' := { l with route := none, fwd := 0, asked := none, words := l.words.set k { w with home := v } }
  (s.updDie c.at_.site fun d => d.accepted (pageOf w.dla)).updCtx c fun x => { x with status := .held l' }

/-- A load of a die at the current home of its word: a forced publish, a forward, or the line or value (R92, R94, R117). -/
def State.loadAtHome (s : State) (c : CtxRef) (l : HeldLoad) (k : Nat) (w : LoadWord) : State :=
  let i := c.at_.site
  let line := lineOf w.dla
  let here := s.pageLocal (pageOf w.dla)
  if l.isAcq && s.homes.noteElsewhere line i then s.force line
  else match s.mHolder line with
    | some j =>
      if here && s.canCache i line then (s.addSnoop j line (some i) false).loadAccepted c l k w none
      else s.addSnoop j line (some j) false
    | none =>
      if s.llcStall line then s
      else if !here || (s.die i).cacheOff then
        if s.homes.poisoned line then s.ctxFault c fPoison w.hva.toNat
        else (((s.touchLlc line).loadAccepted c l k w (some (BitVec.ofNat 64 (s.cohN w.dla w.size)))).readEffect c l w)
      else if s.canCache i line then
        let s := (s.touchLlc line).forwardOthers i line
        (s.updDie i fun d => d.setLine line (if (s.heldElsewhere i line).isEmpty then .e else .s)).loadAccepted c l k w none
      else s

/-- The request of a held load for its first value that is not at hand, once every earlier access of its classes has
performed (R107); one that waits for its die's own writes sends none. To another package it waits for an answer from its first
sending on (R360). -/
def State.loadRequest (s : State) (c : CtxRef) (l : HeldLoad) : State :=
  match l.words.zipIdx.find? fun x => !s.wordReady c l x.1 with
  | none => s
  | some (w, k) =>
    let i := c.at_.site
    let page := pageOf w.dla
    let at_ := l.route.getD (s.sendTo i page)
    if !s.loadOldest c l || ((s.die i).lastWrite w.dla).isSome then s
    else if l.route.isNone ∧ page ∈ (s.die i).relayed then s
    else
    let l := if s.pageLocal page then l else { l with asked := some (l.asked.getD s.now) }
    let s := if s.pageLocal page then s else s.updCtx c fun x => { x with status := .held l }
    if !s.reachable at_.pkg then s
    else if at_ = s.homes.curHome page then
      if s.homes.held page || s.homes.snoopDue (lineOf w.dla) then s else s.loadAtHome c l k w
    else
      let (s, to_, n) := s.relayDie i page at_ l.fwd
      s.updCtx c fun x => { x with status := .held { l with route := some to_, fwd := n } }

/-- Earlier writes of a die's list to the same word. -/
def earlierSame (l : List DieWrite) (n : Nat) (w : DieWrite) : Bool := (l.take n).any fun x => wordOf x.dla == wordOf w.dla

/-- Whether writes that a wide release covers still wait at die scope (R114). -/
def State.relWaits (s : State) (i : Fin 6) (w : DieWrite) (ri : RelInfo) : Bool :=
  (s.die i).buf.any fun x => x.covered w.ctx ri.mask ri.seq

/-- The data of a line as a die would hold it for a write. -/
def State.lineData (s : State) (i : Fin 6) (l : Nat) : LineData :=
  match (s.die i).line l with
  | some (.m d _) => d
  | _ => BitVec.ofNat 1024 (s.homes.getN (l * 128) 128)

/-- The tags of a line that a die holds in M. -/
def Die.tags (d : Die) (l : Nat) : List (CtxRef × BitVec 16) :=
  match d.line l with
  | some (.m _ t) => t
  | _ => []

/-- The words of a write: those within 8 bytes of one another. -/
def inWords (a size x : Nat) : Bool := decide (wordOf a ≤ x) && decide (x * 8 < a + size)

/-- A release that performs at package scope: a wide one commits what it covers; a narrow one is noted at its line's home
(R114, R117). -/
def State.relPerforms (s : State) (line : Nat) (w : DieWrite) : State :=
  match w.rel with
  | some ri =>
    if 2 ≤ ri.scope.toNat then s.commitCovered w.ctx ri.mask
    else s.updHomes fun h => { h with notes := h.notes ++ [(⟨line, w.ctx.at_.site, w.ctx, ri.mask, ri.seq, none, false⟩ : Note)] }
  | none => s

/-- A write performs at package scope: the die holds its line in M, or a home accepts it (R92, R94, R105). -/
def State.writePerforms (s : State) (i : Fin 6) (n : Nat) (w : DieWrite) : State :=
  let line := lineOf w.dla
  let s := s.relPerforms line w
  let s :=
    if s.pageLocal (pageOf w.dla) && s.canCache i line then
      let data := setFld (s.lineData i line) (w.dla % 128 * 8) (8 * w.size) w.data.toNat
      let tags := w.vis.foldl (fun t x => addNew (x.1, x.2.1) t) (addNew (w.ctx, w.cls) ((s.die i).tags line))
      ((s.updDie i fun d => d.setLine line (.m data tags)).overwrite (inWords w.dla w.size)).triggerAll line
    else s.homeWrite w.dla w.size w.data.toNat
  let s := s.updDie i fun d => { d.accepted (pageOf w.dla) with buf := dropAt n d.buf }
  (s.unpin w.pages).settle w.ctx.at_

/-- An earlier write of the list to the same page of another package takes the same path, which delivers in order; it goes
first (R359). -/
def State.behindPath (s : State) (i : Fin 6) (n : Nat) (w : DieWrite) : Bool :=
  !s.pageLocal (pageOf w.dla) &&
    ((s.die i).buf.take n).any fun x => pageOf x.dla == pageOf w.dla && s.portOf x.dla == s.portOf w.dla

/-- The request of the n-th write of a die's list. To another package it waits for an answer from its first sending on
(R360). -/
def State.writeRequest (s : State) (i : Fin 6) (n : Nat) (w : DieWrite) : State :=
  let page := pageOf w.dla
  let line := lineOf w.dla
  let at_ := s.writeAt w
  let wide := match w.rel with | some ri => decide (2 ≤ ri.scope.toNat) | none => false
  let relHeld := match w.rel with | some ri => s.relWaits i w ri | none => false
  if earlierSame (s.die i).buf n w || s.behindPath i n w then s
  else if wide && relHeld then s
  else if w.route.isNone ∧ page ∈ (s.die i).relayed then s
  else
  let w := if s.pageLocal page then w else { w with asked := some (w.asked.getD s.now) }
  let s := if s.pageLocal page then s else s.updDie i fun d => { d with buf := d.buf.set n w }
  if !s.reachable at_.pkg then s
  else if at_ = s.homes.curHome page then
    if !s.lineOpen line then s
    else if w.rel.isSome && s.homes.noted line then s.force line
    else if s.pageLocal page && !s.canCache i line && !(s.die i).cacheOff then s
    else
      let others := s.heldElsewhere i line
      if others.isEmpty then s.writePerforms i n w
      else others.foldl (fun s j => s.addSnoop j line none false) s
  else s.relayWrite i n w

/-- A snoop-filter eviction: the standing holder publishes first; then every copy is back-invalidated (R93, R118). -/
def State.evictRequest (s : State) (line : Nat) : State :=
  if s.homes.noted line then s.force line
  else (sites.filter fun i => ((s.die i).line line).isSome).foldl (fun s i => s.addSnoop i line none true) s

/-! ## Requests of a die's engines and fetches (R96 to R98) -/

/-- The page whose current home an access acts at. -/
def Access.homePage (a : Access) : Option Nat :=
  match a.op with
  | .fput d _ | .freset d => some (pageOf d)
  | .spawn t _ _ => if t.j then some (pageOf t.joinAddr.toNat) else none
  | _ => none

/-- A word that a context fetches stands on a page. -/
def State.fetches (s : State) (c : CtxRef) (hva page : Nat) : Bool :=
  match s.lookupXlat (.engine c.at_ ctxEng) (s.pasidOf c.at_) hva false with
  | .hit d => pageOf d == page
  | _ => false

/-- Whether a context of a core waits for a home at a page: for an FGET, a JOIN or a fetch, or with an access. -/
def State.ctxWants (s : State) (c : CtxRef) (page : Nat) : Bool :=
  (match (s.ctx c).status with
   | .waiting (.home (some d) _) | .waiting (.join _ d) => pageOf d == page
   | .waiting (.fetch hva _) => s.fetches c hva page
   | _ => false) || (s.ctx c).out.any fun a => a.homePage == some page

/-- Whether a translation reaches a placement page. -/
def Xlat.reaches (x : Xlat) (page : Nat) : Bool := decide (x.dla < (page + 1) * 65536) && decide (page * 65536 < x.dla + 2 ^ x.lg)

/-- The pages of the counter and the cell of a task (R52). -/
def Task.homePages (t : Task) : List Nat :=
  (if t.record.j then [pageOf t.record.joinAddr.toNat] else []) ++ if t.record.f then [pageOf t.record.futRef.toNat] else []

/-- A logged store has been translated to a page. -/
def LogEntry.onPage (e : LogEntry) (page : Nat) : Bool := e.dla.map pageOf == some page

/-- Whether a core of a die has a request to a page other than a load or a store: of a context, of the command at the head
of a queue, of a retirement, of a logged store, that of a saved member included. -/
def State.wantsPage (s : State) (i : Fin 6) (page : Nat) : Bool :=
  (s.fe.pipes.any fun p => p.saved.any fun v => v.at_.site == i && v.lead.sideLog.any fun e => e.onPage page) ||
  coreIdxs.any fun k =>
    let r : CoreRef := ⟨i, k⟩
    ((s.core r).sideLog.any fun e => e.onPage page) ||
    (ctxNames.any fun n => s.ctxWants ⟨r, n⟩ page) ||
    ((s.core r).eng.toList.any fun q => (q.head?.map fun e => e.xlat.any fun x => x.reaches page).getD false) ||
    ((s.core r).task.map fun t => t.homePages.contains page).getD false

/-- Entries of its class stand earlier in the log (R342). -/
def loggedBefore (before : List LogEntry) (e : LogEntry) : Bool := before.any fun b => meets b.cls e.cls

/-- What an entry of a context waits for on its die: the earlier accesses of its classes, earlier writes of its word, and,
for a release, what it covers at its scope (R107, R114, R207). live says that the context is still on its core. -/
def State.replayReady (s : State) (c : CtxRef) (live : Bool) (e : LogEntry) (d : Nat) : Bool :=
  !(live && (s.ctx c).out.any fun a => decide (a.seq < e.seq) && a.pending && meets a.cls e.cls) &&
  !(s.die c.at_.site).writing d &&
  match e.op with
  | .rel _ scope mask => decide (scope.toNat < 2) || s.flushedBefore c mask e.seq
  | .fput _ => s.flushedBefore c allCls e.seq
  | _ => true

/-- The logged stores of a page that nothing holds back have sent their requests. -/
def State.askLog (s : State) (r : CoreRef) (live : Bool) (page : Nat) (l : List LogEntry) : List LogEntry :=
  l.zipIdx.map fun x =>
    if x.1.onPage page && x.1.asked.isNone && !loggedBefore (l.take x.2) x.1 &&
        ((x.1.dla.map fun d => s.replayReady ⟨r, x.1.ctx⟩ live x.1 d).getD false)
    then { x.1 with asked := some s.now } else x.1

/-- An access at a home sends its request: nothing that must perform before it is left. -/
def State.accessSends (s : State) (c : CtxRef) (a : Access) : Bool :=
  match a.op with
  | .fput d _ => s.oldest c a && s.flushedBefore c allCls a.seq && !(s.die c.at_.site).writing d
  | .freset d => s.oldest c a && !(s.die c.at_.site).writing d
  | .spawn t m _ => s.drainedBefore c m a.seq && !(s.die c.at_.site).writing t.joinAddr.toNat
  | _ => false

/-- A context's requests to a page have been sent: its fetch, its FGET, its JOIN once every SPAWN that it waits for has made its
increment, and its accesses. -/
def State.askCtx (s : State) (page : Nat) (c : CtxRef) (x : Context) : Context :=
  let x := { x with out := x.out.map fun (a : Access) =>
    if a.homePage == some page && a.asked.isNone && s.accessSends c a then { a with asked := some s.now } else a }
  match x.status, x.joining with
  | .waiting (.fetch hva none), _ => if s.fetches c hva page then { x with status := .waiting (.fetch hva (some s.now)) } else x
  | .waiting (.home (some d) none), _ => if pageOf d = page then { x with status := .waiting (.home (some d) (some s.now)) } else x
  | .waiting (.join _ d), some j =>
    if pageOf d = page ∧ j.watch = none ∧ !((s.core c.at_).spawns.any fun n => decide (n < j.upto)) then
      { x with joining := some { j with asked := some (j.asked.getD s.now) } }
    else x
  | _, _ => x

/-- The retirement of a task has sent a request to a page: that of its counter, or that of its cell once the counter's has come
to its home (R52). -/
def State.askRetire (s : State) (page : Nat) (r : CoreRef) (t : Task) : Task :=
  let j := pageOf t.record.joinAddr.toNat
  let f := pageOf t.record.futRef.toNat
  let asks := (t.record.j && j == page) || (t.record.f && f == page && (!t.record.j || s.pageLocal j || s.routed r.site j))
  if asks && (s.core r).drainedTask t && t.unpopped.isNone && s.coreReleased r && t.asked.map Prod.fst != some page then
    { t with asked := some (page, s.now) }
  else t

/-- The head of a queue has sent its request. -/
def QEntry.ask (now : Nat) : List QEntry → List QEntry
  | [] => []
  | q :: t => { q with asked := some (q.asked.getD now) } :: t

/-- The command at the head of a queue reads a page now: it may start, and its translations reach the page. -/
def State.headAsks (s : State) (page : Nat) (r : CoreRef) (e : Fin 6) : Option QEntry :=
  ((s.core r).eng[e]).head?.bind fun q => (s.startable r q.cmd).filter fun q => q.xlat.any fun x => x.reaches page

/-- The heads of a core's queues that read a page now have sent their requests. -/
def State.askHeads (s : State) (page : Nat) (r : CoreRef) : State :=
  ([0, 1, 2, 3, 4, 5] : List (Fin 6)).foldl (fun t e =>
    if (s.headAsks page r e).isSome then t.updCore r fun c => { c with eng := c.eng.set e (QEntry.ask s.now c.eng[e]) } else t) s

/-- The requests of a die to a page of another package are sent: from now on they wait for an answer (R360). -/
def State.markAsked (s : State) (i : Fin 6) (page : Nat) : State :=
  if s.pageLocal page then s
  else
    let core (r : CoreRef) (c : Core) : Core :=
      { c with
        l := s.askCtx page ⟨r, .load⟩ c.l, c := s.askCtx page ⟨r, .compute⟩ c.c, s := s.askCtx page ⟨r, .store⟩ c.s
        sideLog := s.askLog r true page c.sideLog, task := c.task.map (s.askRetire page r) }
    let saved (v : Saved) : Saved :=
      if v.at_.site = i then { v with lead := { v.lead with sideLog := s.askLog v.at_ false page v.lead.sideLog } } else v
    (coreIdxs.foldl (fun t k => (t.askHeads page ⟨i, k⟩).updCore ⟨i, k⟩ (core ⟨i, k⟩)) s).updFe fun e =>
      { e with pipes := e.pipes.map fun p => { p with saved := p.saved.map saved } }

/-- A request of a die's engines or fetches for a page moves one home on (R96, R97); one that nobody wants any more is
accepted where it belongs. -/
def State.engineHop (s : State) (i : Fin 6) (page : Nat) : State :=
  let known := lookup page (s.die i).engReqs
  if known.isNone && ((s.die i).relayed.contains page || !s.wantsPage i page) then s
  else
    let (at_, fwd) := known.getD (s.sendTo i page, 0)
    let s := s.markAsked i page
    if !s.reachable at_.pkg then s
    else if at_ = s.homes.curHome page then (if s.wantsPage i page then s else s.updDie i fun d => d.accepted page)
    else
      let (s, to_, n) := s.relayDie i page at_ fwd
      s.updDie i fun d => { d with engReqs := insertKey page (to_, n) d.engReqs }

/-- A die evicts a line from its cache, its M data going to the home (R28, R210). -/
def State.castout (s : State) (i : Fin 6) (line : Nat) : State :=
  if s.lineOpen line && ((s.die i).line line).isSome then (s.recallFrom i line).disarmDie i line else s

/-- The message of a request, as a link may lose it (R350). -/
def State.msgOf (s : State) (q : HomeReq) : Option LostMsg :=
  match q with
  | .load c => some (.load c)
  | .write i n => ((s.die i).buf[n]?).map fun w => .write w.ctx w.seq
  | .evict line => some (.evict line)
  | .engine .. | .castout .. | .access .. | .rwrite .. => none

/-- A message has been lost and not sent again. -/
def Homes.isLost (h : Homes) (m : LostMsg) : Bool := h.lost.any fun x => x.2 == m

/-- A slice accepts messages of a die: the die is not fenced, or the slice has still to apply its fence (R353). -/
def State.accepts (s : State) (i : Fin 6) (page : Nat) : Bool :=
  !(s.die i).fenced || (s.pageLocal page && s.homes.fenceDue.contains ((s.homes.curHome page).sl, i))

/-- HOME_REQUEST. -/
def execHomeRequest (q : HomeReq) (s : State) : Host.Outcome State Fault Refusal :=
  go (if ((s.msgOf q).map s.homes.isLost).getD false then s
    else match q with
    | .load c => match (s.ctx c).status with
      | .held l => s.loadRequest c l
      | _ => s
    | .write i n => match (s.die i).buf[n]? with
      | some w => if s.accepts i (pageOf w.dla) then s.writeRequest i n w else s
      | none => s
    | .evict line => s.evictRequest line
    | .engine i page => s.engineHop i page
    | .castout i line => s.castout i line
    | .access c n => s.perform c n
    | .rwrite .. => s)

/-! ## Snoops (R92, R93, R351) -/

/-- A die answers a snoop: it forwards the line, to a reader that then holds it as well unless it names itself, or gives it
up. -/
def State.answer (s : State) (x : Snoop) : State :=
  let s := s.updHomes fun h => { h with snoops := h.snoops.erase x }
  match x.forward with
  | some i =>
    let s := s.forwardLine x.site x.line
    if i != x.site && s.canCache i x.line then s.updDie i fun d => d.setLine x.line .s else s
  | none =>
    let s := s.recallFrom x.site x.line
    if x.release then s.disarmDie x.site x.line else s

/-- The snoop due from a die on a line. -/
def Homes.snoopAt (h : Homes) (i : Fin 6) (line : Nat) : Option Snoop := h.snoops.find? fun x => x.site == i && x.line == line

/-- SNOOP_RESPONSE. -/
def execSnoopResponse (site : Fin 6) (line : Nat) (s : State) : Host.Outcome State Fault Refusal :=
  go (match s.homes.snoopAt site line with
    | some x => if s.homes.isLost (.inv site line) then s else s.answer x
    | none => s)

/-- OWNER_FORWARD: the owning die forwards the line and the home commits it. -/
def execOwnerForward (site : Fin 6) (line : Nat) (s : State) : Host.Outcome State Fault Refusal :=
  go (match s.homes.snoopAt site line with
    | some x => if x.forward.isSome && !s.homes.isLost (.inv site line) then s.answer x else s
    | none => s)

/-! ## Other arrivals -/

/-- MWAIT_TIMEOUT: the time limit has passed (R209). -/
def execMwaitTimeout (c : CtxRef) (s : State) : Host.Outcome State Fault Refusal :=
  go (match (s.ctx c).status with
    | .waiting (.mwait t) => ({ s.at_ t with cur := c } : State).mwaitDone
    | _ => s)

/-- A request that came by a fabric port stands at a home: the homes here that do not home the page pass it on, and send the
port redirects (R96, R97, R359), over at most n of them. It gives where the request stands then, and its forward count. -/
def State.inwardHops (s : State) (p : Fin 64) (page : Nat) : Nat → Home → Nat → State × Home × Nat
  | 0, h, fwd => (s, h, fwd)
  | n + 1, h, fwd =>
    if h = s.homes.curHome page ∨ h.pkg ≠ s.fab.pkg then (s, h, fwd)
    else
      let (to_, f, red) := s.homes.relay page h fwd
      let s := s.updHomes fun x =>
        let x := x.serveStub page h (.port p) s.now
        if red then { x with redirects := x.redirects ++ [(.port p, page, to_)] } else x
      s.inwardHops p page n to_ f

/-- Where a fabric port sends a request for a page (R96). -/
def State.portSends (s : State) (p : Fin 64) (page : Nat) : Home :=
  ((s.homes.portOwners.find? fun x => x.1 == p.val && x.2.1 == page).map fun x => x.2.2).getD (birthHome page)

/-- What another package asks for performs at the word's current home here (R66, R94, R115, R117, R118, R273, R277, R282). -/
def State.inwardAt (s : State) (p : Fin 64) (dla : Nat) (op : InwardOp) : State :=
  let line := lineOf dla
  let a := dla / 8 * 8
  let read (k : State → State) : State := withReads s none [line] fun s => k (s.touchLlc line)
  let write (k : State → State) : State := withWrites s [line] k
  match op with
  | .read => read id
  | .write m data => write fun s => s.lineWrite line m data
  | .acq => if s.homes.noted line then s.force line else read id
  | .rel v narrow =>
    if s.homes.noted line then s.force line
    else write fun s =>
      (s.homeWrite a 8 v.toNat).updHomes fun h => if narrow then { h with awayNotes := h.awayNotes ++ [(line, p.val, false)] } else h
  | .fput v => write fun s => if s.homes.tagFull a then s else s.fillCell a v
  | .freset => write fun s => s.resetCell a
  | .fget t => read fun s =>
    if s.homes.poisoned line || s.homes.tagFull a || !s.homes.parkRoom a then s
    else s.updHomes fun h => { h with parked := h.parked ++ [⟨a, 0, t, [], 1, none, h.parked.length, true⟩] }
  | .count up => write fun s => s.homeWrite a 8 (((if up then s.cohN a 8 + 1 else s.cohN a 8 + 2 ^ 64 - 1)) % 2 ^ 64)
  | .gatom i => if s.homes.poisoned line then s else write fun s => s.homeWrite a 8 (gatomWord i (BitVec.ofNat 64 (s.cohN a 8))).toNat

/-- Whether what another package asks for can perform at the word's current home here now. -/
def State.inwardOpen (s : State) (dla : Nat) (op : InwardOp) : Bool :=
  let line := lineOf dla
  let a := dla / 8 * 8
  match op with
  | .read => s.readClear none line
  | .acq => !s.homes.noted line && s.readClear none line
  | .rel .. => !s.homes.noted line && s.writeClear line
  | .fget _ => s.readClear none line && (s.homes.poisoned line || s.homes.tagFull a || s.homes.parkRoom a)
  | .gatom _ => s.homes.poisoned line || s.writeClear line
  | _ => s.writeClear line

/-- A request that came by a fabric port stands at a home, with a forward count. At its word's current home here it performs, or
asks for what it waits for (R94, R121, R360). One that has been relayed and is not accepted yet is held as such (R98). -/
def State.inwardOn (s : State) (p : Fin 64) (dla : Nat) (op : InwardOp) (at_ : Home) (fwd : Nat) (relayed : Bool) : State :=
  let page := pageOf dla
  let (s, h, f) := s.inwardHops p page 5 at_ fwd
  let hold (s : State) (r : Option (Nat × InwardOp)) : State :=
    s.updHomes fun x => { x with portHeld := x.portHeld ++ [⟨p, page, h, f, r⟩] }
  if h.pkg ≠ s.fab.pkg then hold s none
  else
    let s' := if h = s.homes.curHome page then s.inwardAt p dla op else s
    if h = s.homes.curHome page ∧ s.inwardOpen dla op then s'
    else if relayed || h != at_ then hold s' (some (dla, op)) else s'

/-- An access that another package sends comes in by a fabric port: of its own, behind those of the port that have been relayed
and not accepted (R98), where the port's owner cache names its home (R96); or one that a home elsewhere relays to a slice here,
with its forward count (R97). -/
def State.inward (s : State) (p : Fin 64) (via : Option (Fin 12 × Nat)) (dla : Nat) (op : InwardOp) : State :=
  let page := pageOf dla
  if !bitAt s.fab.up p.val || s.mgmt.mode == 2 then s
  else match via with
    | some (sl, fwd) => s.inwardOn p dla op ⟨s.fab.pkg, sl.val⟩ fwd true
    | none =>
      if s.homes.portHeld.any fun x => x.port == p && x.page == page then s
      else s.inwardOn p dla op (s.portSends p page) 0 false

/-- A die of another package acknowledges a forced publish: its note is cleared (R117). -/
def State.inwardPublished (s : State) (p : Fin 64) (line : Nat) : State :=
  s.updHomes fun h => { h with awayNotes := h.awayNotes.filter fun n => !(n.1 == line && n.2.1 == p.val && n.2.2) }

/-- REDIRECT: it fills or replaces the requester's owner-cache entry (R97). -/
def execRedirect (n : Nat) (s : State) : Host.Outcome State Fault Refusal :=
  go (match s.homes.redirects[n]? with
    | none => s
    | some (a, page, h) =>
      let s := s.updHomes fun x => { x with redirects := dropAt n x.redirects }
      match a with
      | .die i => s.updDie i fun d => { d with owners := fillOwner (ownerCap a) page h d.owners }
      | .port p => s.updHomes fun x =>
          let mine := fillOwner (ownerCap a) page h ((x.portOwners.filter fun y => y.1 == p.val).map Prod.snd)
          { x with portOwners := (x.portOwners.filter fun y => y.1 != p.val) ++ mine.map fun y => (p.val, y) })

/-- The words of an instruction cache: 64 KiB (R26). -/
def icacheWords : Nat := 16384

/-- A word enters an instruction cache, as the newest; a full one loses its oldest (log 10). -/
def Core.fillIcache (c : Core) (tag : Nat) (w : CtlWord) : Core :=
  { c with icache := ((tag, w) :: c.icache.filter fun x => x.1 != tag).take icacheWords }

/-- A word of an instruction cache is filled from global memory (R155, R195): the request is routed to the page's current
home, which has another die forward the line if it must. -/
def State.fetchFill (s : State) (c : CtxRef) (hva dla : Nat) : State :=
  if !s.dlaOk dla then s.ctxFault c fUnreach dla
  else if !s.routed c.at_.site (pageOf dla) || !s.reachable (s.homes.slice dla).pkg then s
  else withReads s (some c.at_.site) [lineOf dla] fun s =>
    let s := (s.accept c.at_.site [lineOf dla]).touchLlc (lineOf dla)
    if s.homes.poisoned (lineOf dla) || (s.die c.at_.site).badLines.contains (lineOf dla) then s.ctxFault c fPoison hva
    else
      (s.updCore c.at_ fun k => k.fillIcache (s.icTag c.at_ hva) (BitVec.ofNat 32 (s.cohN dla 4))).updCtx c fun x =>
        { x with status := .running }

/-- INSTRUCTION_FETCH_RETURN: the missing word is the one at pc, or, for a REP at pc, the one after it. Where that one is
refused, poisoned or unreachable, the fault record's PC is the REP's: the spec names the PC of a target and of an instruction,
not of the word that a REP takes. DESIGN CHOICE (log 70). -/
def execInstructionFetchReturn (c : CtxRef) (s : State) : Host.Outcome State Fault Refusal :=
  go (match (s.ctx c).status with
    | .waiting (.fetch hva _) =>
      let u := XlatUser.engine c.at_ ctxEng
      let pasid := s.pasidOf c.at_
      match s.lookupXlat u pasid hva false with
      | .hit d => s.fetchFill c hva d
      | .refused => (s.dropRefused u pasid hva).ctxFault c fPage hva
      | .paging => s
      | .waiting => s.askXlat u pasid hva false
    | _ => s)

end Sys2Proof.Machine
end

