-- ==== Sys2Proof/Machine/Translate.lean ====
section
/-! DEFINITION. Translation (R75 to R78): ATS completions and invalidations, page requests, the replay of the side log
(R100, R341 to R343); and the queuing of a spawned child (R276 to R278). -/

namespace Sys2Proof.Machine

/-! ## Replay of the side log -/

/-- What the home knows of an entry that is due: it performs, leaving a state; it must wait, having asked for what it waits
for; or it faults. -/
inductive Replayed where
  | done (s : State)
  | waits (s : State)
  | fault (code addr : Nat)
  deriving DecidableEq, Repr

/-- A logged REL performs: its value stands at its word for the acquirers of its die; a narrow one is noted (R115, R117,
R207). -/
def State.replayRel (s : State) (c : CtxRef) (e : LogEntry) (d : Nat) (data : Word) (scope : BitVec 2) (mask : BitVec 16) : State :=
  let ri : RelInfo := ⟨scope, mask, e.seq⟩
  let s := if 2 ≤ scope.toNat then s.commitCovered c mask else s
  let s := (s.homeWrite d 8 data.toNat).updDie c.at_.site fun x => { x with rels := insertKey (wordOf d) (c, ri) x.rels }
  if 2 ≤ scope.toNat then s
  else s.updHomes fun h => { h with notes := h.notes ++ [⟨lineOf d, c.at_.site, c, mask, e.seq, none, false⟩] }

/-- An entry of a context performs at its line's current home, to which its request is relayed (R97, R342); a fenced die's are
the base's own, and go there at once (R341). -/
def State.replayAt (s : State) (c : CtxRef) (e : LogEntry) (d : Nat) : Replayed :=
  let i := c.at_.site
  if !s.dlaOk d then .fault fUnreach d
  else if !(if (s.die i).fenced then s.reachable (s.homes.slice d).pkg else s.routed i (pageOf d)) then .waits s
  else
    let s := s.accept i [lineOf d]
    let isRel := match e.op with | .rel .. => true | _ => false
    if isRel && s.homes.noted (lineOf d) then .waits (s.force (lineOf d))
    else if !s.writeClear (lineOf d) then .waits (s.askWrite (lineOf d))
    else match e.op with
      | .store size data => .done (s.homeWrite d size data.toNat)
      | .rel data scope mask => .done (s.replayRel c e d data scope mask)
      | .fput data =>
        if s.homes.tagFull d then .fault fFull e.hva.toNat else .done ((s.commitCovered c allCls).fillCell d data)
      | .freset => .done (s.resetCell d)

/-- Replay the log of a core's contexts: every entry that is due performs, in order; one that must wait stays, and holds
those of its class. It gives the entries kept and, if one faulted, the fault. -/
def replayLog (r : CoreRef) (live : Bool) (s : State) (kept : List LogEntry) :
    List LogEntry → State × List LogEntry × Option (LogEntry × Nat × Nat)
  | [] => (s, kept, none)
  | e :: t =>
    match e.dla with
    | none => replayLog r live s (kept ++ [e]) t
    | some d =>
      if loggedBefore kept e || !s.replayReady ⟨r, e.ctx⟩ live e d then replayLog r live s (kept ++ [e]) t
      else
        match s.replayAt ⟨r, e.ctx⟩ e d with
        | .waits s => replayLog r live s (kept ++ [e]) t
        | .done s => replayLog r live (if e.pinned then s.unpin [pageOf d] else s) kept t
        | .fault code addr =>
          ((e :: t).foldl (fun s x => if loggedBefore [e] x && x.pinned then s.unpin (x.dla.map pageOf).toList else s) s,
           kept ++ t.filter (fun x => !loggedBefore [e] x), some (e, code, addr))

/-- A saved member runs a task of a gang that has not faulted. -/
def Saved.inGang (v : Saved) (g : Nat) : Bool := match v.task with
  | some u => u.live && (u.gangId == g)
  | none => false

/-- The task of the n-th saved member, if it has not faulted. -/
def Pipe.savedTask (p : Pipe) (n : Nat) : Option Task := ((p.saved[n]?).bind Saved.task).filter Task.live

/-- The pins of the entries that the fault of a saved task discards (R338). -/
def Pipe.savedPages (p : Pipe) (n : Nat) : List Nat :=
  match p.savedTask n with
  | none => []
  | some t => (p.saved.filter fun v => v.inGang t.gangId).flatMap fun v => v.lead.unstartedPages

/-- A task saved by pre-emption ends as faulted; its gang ends with it (R58, R343). -/
def Pipe.faultSaved (p : Pipe) (n : Nat) (f : FaultInfo) : Pipe :=
  match p.savedTask n with
  | none => p
  | some t =>
      let mine (v : Saved) : Bool := v.inGang t.gangId
      let rec_ (v : Saved) (u : Task) (first : Bool) : FaultRec :=
        { code := BitVec.ofNat 8 f.code, ctx := if first then BitVec.ofNat 3 f.ctx else 0, eng := 0,
          rep := if first then f.rep.map (BitVec.ofNat 6) else none,
          stage := BitVec.ofNat 4 u.record.stage, member := BitVec.ofNat 6 u.member, first := BitVec.ofNat 6 t.member,
          peer := !first, vcore := BitVec.ofNat 6 v.vnum, pc := if first then f.pc else 0,
          addr := if first then BitVec.ofNat 64 f.addr else 0, info := 0, data := 0 }
      let others := p.saved.zipIdx.filter fun x => x.2 != n && mine x.1
      let recs := (p.saved[n]?.toList.map fun v => rec_ v t true) ++
        others.filterMap fun x => x.1.task.map fun u => rec_ x.1 u false
      let ended (v : Saved) : Saved := { v with task := v.task.map fun u => { u with phase := .faulted }, lead := v.lead.halt }
      { p with
        faults := p.faults ++ recs
        faulted := p.faulted + recs.length
        saved := p.saved.zipIdx.map fun x => if x.2 = n || mine x.1 then ended x.1 else x.1 }

/-- Map a logged entry: its page is pinned where it can be (R79, R188); where it cannot, the entry stays as it is. -/
def mapEntry (pkg : Nat) (x : Xlat) (h : Homes) (e : LogEntry) : Homes × LogEntry :=
  let d := x.apply e.hva.toNat
  if e.dla.isNone && x.serves e.pasid e.hva.toNat true && h.canPin pkg (pageOf d) then
    (h.pin (pageOf d), { e with dla := some d, pinned := true })
  else (h, e)

/-- Map the entries of a log that a translation serves. -/
def mapLog (pkg : Nat) (x : Xlat) (h : Homes) : List LogEntry → Homes × List LogEntry
  | [] => (h, [])
  | e :: t => ((mapLog pkg x (mapEntry pkg x h e).1 t).1, (mapEntry pkg x h e).2 :: (mapLog pkg x (mapEntry pkg x h e).1 t).2)

/-- Replace the side log of the n-th saved member of a pipeline. -/
def Pipe.setSavedLog (p : Pipe) (n : Nat) (l : List LogEntry) : Pipe :=
  { p with saved := p.saved.zipIdx.map fun x => if x.2 = n then { x.1 with lead := { x.1.lead with sideLog := l } } else x.1 }

/-- A side log: that of a core, or of a member that a pipeline saved, which stood on a core. -/
inductive LogRef where
  | core (r : CoreRef)
  | saved (pipe n : Nat)
  deriving DecidableEq, Repr

/-- The entries of a side log. -/
def State.log (s : State) : LogRef → List LogEntry
  | .core r => (s.core r).sideLog
  | .saved id n => (((s.pipe? id).bind fun p => p.saved[n]?).map fun v => v.lead.sideLog).getD []

/-- Replace a side log. -/
def State.setLog (s : State) (k : LogRef) (l : List LogEntry) : State :=
  match k with
  | .core r => s.updCore r fun c => { c with sideLog := l }
  | .saved id n => s.updPipe id fun p => p.setSavedLog n l

/-- The core on which the contexts of a side log stand or stood. -/
def State.logCore (s : State) : LogRef → CoreRef
  | .core r => r
  | .saved id n => (((s.pipe? id).bind fun p => p.saved[n]?).map Saved.at_).getD ⟨0, 0⟩

/-- Whether the contexts of a side log are still on their core. -/
def LogRef.live : LogRef → Bool
  | .core _ => true
  | .saved .. => false

/-- Every side log of the package. -/
def State.logs (s : State) : List LogRef :=
  allCores.map LogRef.core ++ s.fe.pipes.flatMap fun p => (List.range p.saved.length).map fun n => .saved p.id n

/-- The pipeline and stage of the task of a saved member that has not faulted. -/
def State.savedStage (s : State) (id n : Nat) : Option (Nat × Nat) :=
  (((s.pipe? id).bind fun p => p.saved[n]?).bind Saved.task).bind fun t => if t.live then some (id, t.record.stage) else none

/-- The task of a saved member ends as faulted; the entries that it had not started release their pins (R338). -/
def State.faultSaved (s : State) (id n : Nat) (f : FaultInfo) : State :=
  (s.unpin (((s.pipe? id).map fun p => p.savedPages n).getD [])).updPipe id fun p => p.faultSaved n f

/-- The pipeline and gang of the task that stands with a side log. -/
def State.logGang (s : State) : LogRef → Option (Nat × Nat)
  | .core r => s.gangOf r
  | .saved id n => ((s.pipe? id).bind fun p => p.savedTask n).map fun t => (t.pipe, t.gangId)

/-- A fault of the task that issued a logged entry, or of the one that stands with a side log. -/
structure TaskFault where
  log  : LogRef
  gang : Option (Nat × Nat)
  info : FaultInfo
  deriving DecidableEq, Repr

/-- Faults at one instant: the tasks that they name end, on their cores or where pre-emption saved them, and the pipelines'
shutdown begins (R334, R343). A task that has ended and left its core faults no more: the fault of its logged entry ends no
other task. -/
def State.logFaults (s : State) (l : List TaskFault) : State :=
  let l := l.filter fun x => s.logGang x.log == x.gang
  let hit := l.filterMap fun x => match x.log with
    | .core r => s.liveStage r
    | .saved id n => s.savedStage id n
  let s := l.foldl (fun s x => match x.log with
    | .core r => (s.endGang r x.info).settle r
    | .saved id n => s.faultSaved id n x.info) s
  (hit.map Prod.fst).eraseDups.foldl (fun s p =>
    s.beginShutdown p 0x01 ((hit.filter fun x => x.1 == p).map Prod.snd)) s

/-- The fault of a logged entry (R343). -/
def logFault (k : LogRef) (e : LogEntry) (code addr : Nat) : TaskFault := ⟨k, e.gang, ⟨code, ctxCode e.ctx, 0, e.rep, e.pc, addr, 0, 0⟩⟩

/-- A side log replays what is due. -/
def State.replayOf (s : State) (k : LogRef) : State :=
  let (s, kept, bad) := replayLog (s.logCore k) k.live s [] (s.log k)
  let s := s.setLog k kept
  let s := match bad with | some (e, code, addr) => s.logFaults [logFault k e code addr] | none => s
  match k with
  | .core r => (s.updCore r Core.sweep).settle r
  | .saved .. => s

/-- Map the entries of every side log that a translation serves. -/
def State.mapLogs (s : State) (x : Xlat) : State :=
  s.logs.foldl (fun s k =>
    let (h, l) := mapLog s.fab.pkg x s.homes (s.log k)
    ({ s with homes := h } : State).setLog k l) s

/-- Every side log of the package replays what is due. -/
def State.replayAll (s : State) : State := s.logs.foldl State.replayOf s

/-- An entry of a core's log whose page is not mapped is looked up again: it is mapped, or asked for. -/
def State.retryEntry (s : State) (r : CoreRef) (e : LogEntry) : State :=
  if e.dla.isSome then s
  else match (s.xlats (.engine r ctxEng)).find? fun x => x.serves e.pasid e.hva.toNat true with
    | some x => s.mapLogs x
    | none => if s.lookupXlat (.engine r ctxEng) e.pasid e.hva.toNat true == .waiting
        then s.askXlat (.engine r ctxEng) e.pasid e.hva.toNat true else s

/-- A side log goes on: entries that are not mapped are looked up again, and what is due replays. -/
def State.replay (s : State) (k : LogRef) : State :=
  ((s.log k).foldl (fun s e => s.retryEntry (s.logCore k) e) s).replayOf k

/-! ## ATS and page requests (R76, R78) -/

/-- Put a translation into a cache of n entries, a full one losing its first. -/
def addXlat (n : Nat) (x : Xlat) (l : List Xlat) : List Xlat :=
  let l := l.filter fun y => y != x
  (if l.length < n then l else l.drop 1) ++ [x]

/-- Fill the caches of a requester. -/
def State.fillXlat (s : State) (u : XlatUser) (x : Xlat) : State :=
  match u with
  | .frontEnd => s.updHomes fun h => { h with feXlat := addXlat 16384 x h.feXlat }
  | .engine r e =>
    let s := s.updCore r fun c =>
      let mine := addXlat 512 x ((c.xlat.filter fun y => y.1 == e).map Prod.snd)
      { c with xlat := (c.xlat.filter fun y => y.1 != e) ++ mine.map fun y => (e, y) }
    s.updDie r.site fun d => { d with xlat := addXlat 16384 x d.xlat }

/-- The page request limit (R372). -/
def priMax : Nat := 512

/-- Whether a context waits for the answer to a request of its core: for a translation, a fetch, the addresses of a SPAWN, or
with a store that is not translated. -/
def State.ctxAwaits (s : State) (c : CtxRef) (q : XlatReq) : Bool :=
  let x := s.ctx c
  (match x.status with
   | .waiting (.translation p wr) => p == q.page && wr == q.wr
   | .waiting (.fetch hva _) => hva / 4096 == q.page && !q.wr
   | .held l => match l.dest with | .spawn .. => q.wr | _ => false
   | _ => false) ||
  x.out.any fun a => match a.op with | .untranslated .. => a.hva.toNat / 4096 == q.page && q.wr | _ => false

/-- Whether anyone still waits for the answer to a request. -/
def State.awaits (s : State) (q : XlatReq) : Bool :=
  match q.user with
  | .engine r _ => ctxNames.any fun n => s.ctxAwaits ⟨r, n⟩ q
  | .frontEnd => true

/-- The answer to a request is a refusal: it is kept until whoever waits has met it. -/
def State.refuse (s : State) (q : XlatReq) : State :=
  if s.awaits q then s.updHomes fun h => { h with refused := h.refused ++ [q] } else s

/-- ATS_COMPLETION: the n-th request is answered with a range of 2^lg bytes. An answer that does not grant the access
asked for sends a page request, of which at most 512 are outstanding (R372); a PREFETCH's sends none (R270). -/
def execAtsCompletion (n : Nat) (granted : Bool) (lg dla : Nat) (wr : Bool) (s : State) : Host.Outcome State Fault Refusal :=
  go (match s.homes.ats[n]? with
    | none => s
    | some q =>
      let s1 := s.updHomes fun h => { h with ats := dropAt n h.ats }
      if !granted || (q.wr && !wr) then
        if q.skip then s1.refuse q
        else if priMax ≤ s.homes.pri.length then s
        else s1.updHomes fun h => { h with pri := h.pri ++ [q] }
      else if lg < 12 ∨ 30 < lg then s
      else
        let hva := q.page * 4096
        let x : Xlat := ⟨q.pasid, hva / 2 ^ lg * 2 ^ lg, lg, dla / 2 ^ lg * 2 ^ lg, wr⟩
        let s2 := s1.fillXlat q.user x
        if q.wr then (s2.mapLogs x).replayAll else s2)

/-- The entries of a log that a refused page takes with it: those of the page, and every later one of their classes (R343). -/
def logCut (pasid page : Nat) : List LogEntry → List LogEntry → List LogEntry
  | _, [] => []
  | cut, e :: t =>
    if (e.pasid == pasid && e.hva.toNat / 4096 == page && e.dla.isNone) || loggedBefore cut e then logCut pasid page (cut ++ [e]) t
    else e :: logCut pasid page cut t

/-- The first entry of a log on a refused page. -/
def logRefused (pasid page : Nat) (l : List LogEntry) : Option LogEntry :=
  l.find? fun e => e.pasid == pasid && e.hva.toNat / 4096 == page && e.dla.isNone

/-- The refusal of a page request meets a side log: its core sent the request, or it has none of its own out for the page. -/
def State.refusedAt (s : State) (q : XlatReq) (k : LogRef) : Bool :=
  let u := XlatUser.engine (s.logCore k) ctxEng
  q.user == u || !(s.homes.ats ++ s.homes.pri).any fun x => x.user == u && x.pasid == q.pasid && x.page == q.page && x.wr

/-- The host refuses a page request: the logged entries that it stands for, with the later ones of their classes, are gone, and
their tasks end (R343). -/
def State.refusePage (s : State) (q : XlatReq) : State :=
  let pasid := q.pasid
  let page := q.page
  let hit := (s.logs.filter (s.refusedAt q)).filterMap fun k => (logRefused pasid page (s.log k)).map fun e => (k, e)
  let s := hit.foldl (fun s x =>
    let l := s.log x.1
    let kept := logCut pasid page [] l
    (s.unpin ((l.filter fun e => e.pinned && !kept.contains e).filterMap fun e => e.dla.map pageOf)).setLog x.1 kept) s
  s.logFaults (hit.map fun x => logFault x.1 x.2 fPage x.2.hva.toNat)

/-- PAGE_REQUEST_RESPONSE: the page stands at dla, and logged stores replay (R342); or the host refuses it. -/
def execPageRequestResponse (n : Nat) (ok : Bool) (dla : Nat) (s : State) : Host.Outcome State Fault Refusal :=
  go (match s.homes.pri[n]? with
    | none => s
    | some q =>
      let s1 := s.updHomes fun h => { h with pri := dropAt n h.pri }
      if ok then
        if q.wr then (s1.mapLogs ⟨q.pasid, q.page * 4096, 12, dla / 4096 * 4096, true⟩).replayAll else s1
      else
        let s2 := s1.refuse q
        if q.wr then (s2.refusePage q).replayAll else s2)

/-! ## Invalidations (R77) -/

/-- Whether a translation meets an invalidated range. -/
def Xlat.inRange (x : Xlat) (pasid hva lg : Nat) : Bool :=
  x.pasid == pasid && decide (x.hva / 2 ^ x.lg * 2 ^ x.lg < hva / 2 ^ lg * 2 ^ lg + 2 ^ lg) &&
  decide (hva / 2 ^ lg * 2 ^ lg < x.hva / 2 ^ x.lg * 2 ^ x.lg + 2 ^ x.lg)

/-- Every translation of the package. -/
def State.allXlats (s : State) : List Xlat :=
  (sites.flatMap fun i => (s.die i).xlat ++ coreIdxs.flatMap fun c => (s.core ⟨i, c⟩).xlat.map Prod.snd) ++ s.homes.feXlat

/-- Remove the matching entries from every translation cache. -/
def State.dropXlats (s : State) (pasid hva lg : Nat) : State :=
  let s := sites.foldl (fun s i => s.updDie i fun d =>
    { d with xlat := d.xlat.filter fun x => !x.inRange pasid hva lg
             cores := d.cores.map fun c => { c with xlat := c.xlat.filter fun x => !x.2.inRange pasid hva lg } }) s
  s.updHomes fun h => { h with feXlat := h.feXlat.filter fun x => !x.inRange pasid hva lg }

/-- What an invalidation takes away: a range of addresses of a PASID, and the translations that it removes. -/
structure Removed where
  pasid : Nat
  hva   : Nat
  lg    : Nat
  gone  : List Xlat
  deriving DecidableEq, Repr

/-- Whether an address of a PASID lies in what is removed: in the range, or in the range of a translation that is removed
because it meets it. -/
def Removed.at_ (v : Removed) (pasid hva : Nat) : Bool :=
  pasid == v.pasid && (hva / 2 ^ v.lg == v.hva / 2 ^ v.lg || v.gone.any fun x => hva / 2 ^ x.lg == x.hva / 2 ^ x.lg)

/-- Whether a page that a queue entry keeps lies in what is removed. -/
def Removed.keeps (v : Removed) (x : Xlat) : Bool := x.inRange v.pasid v.hva v.lg || v.at_ x.pasid x.hva

/-- Whether a DLA lies in a removed translation. -/
def Removed.holds (v : Removed) (d : Nat) : Bool := v.gone.any fun x => decide (x.dla ≤ d) && decide (d < x.dla + 2 ^ x.lg)

/-- The issue numbers of a context's accesses that were translated in what is removed: outstanding ones, a load that holds
it, and an FGET or a JOIN, which stand under the number that the context issues next. -/
def State.ctxUses (s : State) (v : Removed) (c : CtxRef) : List Nat :=
  let x := s.ctx c
  let pasid := s.pasidOf c.at_
  ((x.out.filter fun a => match a.op with
    | .store .. | .rel .. | .fput .. | .freset _ => v.at_ pasid a.hva.toNat
    | .spawn t _ _ => (t.j && v.holds t.joinAddr.toNat) || (t.f && v.holds t.futRef.toNat)
    | _ => false).map Access.seq) ++
  match x.status with
  | .held l => if l.words.any fun w => v.at_ pasid w.hva.toNat then [l.seq] else []
  | .waiting (.home (some d) _) | .waiting (.join _ d) => if v.holds d then [x.seq] else []
  | _ => []

/-- The uses of a core's queue entries and of a side log of it, by context and issue number. -/
def coreUses (v : Removed) (c : Core) : List (CtxName × Nat) :=
  ((c.eng.toList.flatMap fun q => q.filter fun e => e.xlat.any v.keeps).map fun e => (e.ctx, e.seq)) ++
  ((c.sideLog.filter fun e => e.dla.isSome && v.at_ e.pasid e.hva.toNat).map fun e => (e.ctx, e.seq))

/-- Every access and command that was translated in what is removed and has not completed. -/
def State.usesOf (s : State) (v : Removed) : List (Option Nat × CtxRef × Nat) :=
  (allCores.flatMap fun r =>
    (ctxNames.flatMap fun n => (s.ctxUses v ⟨r, n⟩).map fun k => (none, ⟨r, n⟩, k)) ++
    (coreUses v (s.core r)).map fun x => (none, ⟨r, x.1⟩, x.2)) ++
  (sites.flatMap fun i => ((s.die i).buf.filter fun w => v.at_ w.pasid w.hva.toNat).map fun w => (none, w.ctx, w.seq)) ++
  s.fe.pipes.flatMap fun p => p.saved.flatMap fun m => (coreUses v m.lead).map fun x => (some p.id, ⟨m.at_, x.1⟩, x.2)

/-- Outstanding invalidations of the host (R372). -/
def invalMax : Nat := 32

/-- ATS_INVALIDATION: every matching entry goes; what was translated through them is noted. -/
def execAtsInvalidation (pasid hva lg : Nat) (s : State) : Host.Outcome State Fault Refusal :=
  go (if invalMax ≤ s.homes.invals.length then s
    else
      let v : Removed := ⟨pasid, hva, lg, s.allXlats.filter fun x => x.inRange pasid hva lg⟩
      (s.dropXlats pasid hva lg).updHomes fun h => { h with invals := h.invals ++ [⟨pasid, hva, lg, s.usesOf v⟩] })

/-- Whether an access or a command that an invalidation waits for has still to complete. -/
def State.inUse (s : State) (u : Option Nat × CtxRef × Nat) : Bool :=
  let (p, c, n) := u
  let onCore (k : Core) : Bool :=
    (k.eng.toList.any fun q => q.any fun e => e.ctx == c.ctx && e.seq == n) || k.sideLog.any fun e => e.ctx == c.ctx && e.seq == n
  match p with
  | some id => ((s.pipe? id).map fun q => q.saved.any fun m => m.at_ == c.at_ && onCore m.lead).getD false
  | none =>
    let x := s.ctx c
    x.out.any (fun a => a.seq == n) || onCore (s.core c.at_) || ((s.die c.at_.site).buf.any fun w => w.ctx == c && w.seq == n) ||
    match x.status with
    | .held l => l.seq == n
    | .waiting (.home (some _) _) | .waiting (.join ..) => x.seq == n
    | _ => false

/-- What invalidations wait for moves with a task that is saved or restored. -/
def State.moveUses (s : State) (f : Option Nat × CtxRef × Nat → Option Nat × CtxRef × Nat) : State :=
  s.updHomes fun h => { h with invals := h.invals.map fun v => { v with uses := v.uses.map f } }

/-- ATS_INVALIDATION_DONE: the completion of the n-th invalidation is returned. -/
def execAtsInvalidationDone (n : Nat) (s : State) : Host.Outcome State Fault Refusal :=
  go (match s.homes.invals[n]? with
    | none => s
    | some v => if v.uses.any s.inUse then s else s.updHomes fun h => { h with invals := dropAt n h.invals })

/-! ## The queuing of a child (R276 to R278) -/

/-- A task record leaves its context for the local task queue: the release has performed, the join counter is raised,
and the child is pending. -/
def State.enqueue (s : State) (c : CtxRef) (a : Access) (t : TaskRec) (m : BitVec 16) : State :=
  let j := t.joinAddr.toNat
  let s := if t.j then (s.accept c.at_.site [lineOf j]).homeWrite j 8 ((s.cohN j 8 + 1) % 2 ^ 64) else s
  let s := match (s.core c.at_).task with
    | none => s
    | some k =>
      if ((s.pipe? k.pipe).bind fun p => p.modes[t.stage]?) == some StageMode.stopped then s
      else (s.updCore c.at_ fun x => { x with kids := x.kids ++ [(⟨k.pipe, t, s.fe.order, k.gangId, c, ⟨1, m, a.seq⟩, false⟩ : Child)] }).updFe fun e => { e with order := e.order + 1 }
  (s.unpin a.pages).dropAccess c a.seq

/-- SPAWN_ENQUEUE: the oldest SPAWN of a context, once what it releases has performed at die scope. Its increment is atomic
at the counter's current home (R277). -/
def execSpawnEnqueue (c : CtxRef) (s : State) : Host.Outcome State Fault Refusal :=
  go (match (s.ctx c).out.find? fun a => match a.op with | .spawn .. => true | _ => false with
    | none => s
    | some a =>
      match a.op with
      | .spawn t m _ =>
        let j := t.joinAddr.toNat
        let i := c.at_.site
        if !s.drainedBefore c m a.seq || decide ((s.core c.at_).kids.length ≥ 64) then s
        else if t.j then
          if (s.die i).writing j || !s.reachable (s.homes.slice j).pkg || !s.routed i (pageOf j) then s
          else withWrites s [lineOf j] fun s => s.enqueue c a t m
        else s.enqueue c a t m
      | _ => s)

end Sys2Proof.Machine
end

