-- ==== Sys2Proof/Machine/Pools.lean ====
section
/-! DEFINITION. Pools and their members, ring instances on them (R84), moves of the Reel (R329 to R331), what a stage still
has to do, and the end of a pipeline (R61, R333, R336). -/

namespace Sys2Proof.Machine

/-! ## Leases and members -/

/-- The lead or only core of a lease. -/
def LeaseKind.lead : LeaseKind → Fin 8
  | .frag lead _ => lead
  | .bare c _ => c

/-- The lease of a pipeline on a core of a die. -/
def Die.leaseOf (d : Die) (pipe : Nat) (c : Fin 8) : Option Lease := d.leases.find? fun l => l.pipe == pipe && l.kind.lead == c

/-- Change the lease of a pipeline on a core. -/
def State.updLease (s : State) (pipe : Nat) (r : CoreRef) (f : Lease → Lease) : State :=
  s.updDie r.site fun d => { d with leases := mapIf (fun l => l.pipe == pipe && l.kind.lead == r.core) f d.leases }

/-- Whether a lease is zeroed and in use (R316). -/
def Lease.usable (l : Lease) : Bool := l.zeroUntil.isNone && l.scrubUntil.isNone && !l.returning

/-- A member is free: its lease is in use, and its core runs no task and has nothing left of one (R329). -/
def State.memberFree (s : State) (pipe : Nat) (r : CoreRef) : Bool :=
  (((s.die r.site).leaseOf pipe r.core).map Lease.usable).getD false && !(s.die r.site).fenced &&
  (s.core r).task.isNone && (s.core r).quiet

/-- A member with a lower virtual core number comes first. -/
def insertBy (vd : Word) (m : Member) : List Member → List Member
  | [] => [m]
  | h :: t => if vcoreOf vd m.at_ < vcoreOf vd h.at_ then m :: h :: t else h :: insertBy vd m t

/-- The members of a stage by rising virtual core number. -/
def Pipe.membersOf (p : Pipe) (stage : Nat) : List Member :=
  (p.pool.filter fun m => m.stage == stage).foldr (insertBy p.vdtab) []

/-! ## Ring instances -/

/-- Define an instance of each input ring of a stage on a core, from the ring table's word 0 (R84, R304). -/
def State.defineRings (s : State) (p : Pipe) (stage : Nat) (r : CoreRef) : State :=
  match p.record.stages[stage]? with
  | none => s
  | some d => d.ins.foldl (fun s x => match p.record.rings[x.1]? with
    | some (w, _) => s.updCore r fun c => c.updRing x.1 fun _ => RingInst.define w
    | none => s) s

/-- Every instance of a core is undefined. -/
def Core.undefineRings (c : Core) : Core := { c with rings := Vector.replicate 32 RingInst.reset }

/-- Undefine the instances of a stage's input rings on a core. -/
def State.undefineStage (s : State) (p : Pipe) (stage : Nat) (r : CoreRef) : State :=
  match p.record.stages[stage]? with
  | none => s
  | some d => d.ins.foldl (fun s x => s.updCore r fun c => c.updRing x.1 fun _ => RingInst.reset) s

/-- The defined instances of a core. -/
def Core.defined (c : Core) : List RingInst := c.rings.toList.filter RingInst.valid

/-! ## Moves (R329 to R331, R363) -/

/-- A member that the donor may give. -/
def State.givable (s : State) (p : Pipe) (m : Member) : Bool :=
  s.memberFree p.id m.at_ && m.moved == 0 && (s.core m.at_).kids.isEmpty &&
  (s.core m.at_).defined.all fun g => g.empty && !g.rem

/-- A move takes effect (R330). -/
def State.move (s : State) (p : Pipe) (m : Member) (to_ : Nat) : State :=
  let s := s.undefineStage p m.stage m.at_
  let s := s.defineRings p to_ m.at_
  let s := s.updLease p.id m.at_ fun l => { l with stage := to_ }
  s.updPipe p.id fun p => { p with pool := mapIf (fun x => x.at_ == m.at_) (fun x => { x with stage := to_, moved := 2 }) p.pool }

/-- The members of a stage above its minimum (R328, R57). -/
def Pipe.spare (p : Pipe) (j : Nat) (d : StageDecl) : Nat := (p.membersOf j).length - max 1 d.gang

/-- Whether a stage stands above its minimum. -/
def Pipe.canGive (p : Pipe) (j : Nat) : Bool :=
  match p.record.stages[j]? with
  | some d => decide (0 < p.spare j d)
  | none => false

/-- The member on a core has become free: a marked donor that stands above its minimum gives it if it qualifies (R329,
R331). -/
def State.afterFree (s : State) (id : Nat) (r : CoreRef) : State :=
  match s.pipe? id with
  | none => s
  | some p =>
    match p.mark with
    | none => s
    | some (donor, to_) =>
      if p.shut.isSome || p.pre != .none || !p.canGive donor then s
      else match p.pool.find? fun m => m.at_ == r && m.stage == donor && s.givable p m with
        | none => s
        | some m => (s.move p m to_).updPipe id fun p => { p with mark := none }

/-! ## What a stage has to do (R61, R333) -/

/-- Whether seed records of a stage have not been read. -/
def Pipe.unread (p : Pipe) (j : Nat) : Bool := p.seeds.any fun x => x.1 == j

/-- The address of a seed record (R304). -/
def Pipe.seedHva (p : Pipe) (stage n : Nat) : Nat :=
  (((p.record.stages[stage]?).map StageDecl.seeds).getD 0 + BitVec.ofNat 64 (128 * n)).toNat

/-- Whether a stage is stopped. -/
def Pipe.isStopped (p : Pipe) (j : Nat) : Bool := p.modes[j]? == some StageMode.stopped

/-- A task of a stage is pending. -/
def State.pendingIn (s : State) (p : Pipe) (j : Nat) : Bool :=
  !p.isStopped j &&
  (p.unread j || p.seedRecs.any (fun x => x.1 == j) || p.replays.any (fun t => t.record.stage == j) ||
   allCores.any fun r => (s.core r).kids.any fun k => k.pipe == p.id && k.record.stage == j)

/-- A task of a stage runs, retires, is being squashed, or stands pre-empted. -/
def State.runningIn (s : State) (p : Pipe) (j : Nat) : Bool :=
  (allCores.any fun r => match (s.core r).task with
    | some t => t.pipe == p.id && t.record.stage == j && t.live
    | none => false) ||
  p.saved.any fun v => match v.task with
    | some t => t.record.stage == j && t.live
    | none => false

/-- A stage has a task that is pending, parked, running or pre-empted. -/
def State.busyIn (s : State) (p : Pipe) (j : Nat) : Bool :=
  s.pendingIn p j || s.runningIn p j || s.homes.parked.any fun x => x.pipe == p.id && x.record.stage == j

/-- The producers of a ring. -/
def OpRecord.producers (o : OpRecord) (ring : Nat) : List Nat :=
  (List.range o.stages.length).filter fun j => match o.stages[j]? with
    | some d => d.outs.any fun x => x.1 == ring
    | none => false

/-- Some instance of an input ring of a stage holds the per-task consumption of Visible unclaimed slots (R333; log 100). -/
def State.canConsume (s : State) (p : Pipe) (j : Nat) : Bool :=
  match p.record.stages[j]? with
  | none => false
  | some d => (p.membersOf j).any fun m => d.ins.any fun x =>
      let g := (s.core m.at_).ring x.1
      g.valid && decide (x.2 ≤ g.dist g.claim g.tail)

/-- The generation of a stage has ended, or, with no template, the stage is finished with its input, given the stages that
have ended (R333). R333 does not say what holds for a ring that no stage produces (R60): the model counts it as one whose every
producer has ended. DESIGN CHOICE (log 131). -/
def State.genOver (s : State) (p : Pipe) (fin : List Nat) (j : Nat) : Bool :=
  p.isStopped j ||
  match p.record.stages[j]? with
  | some d =>
    !p.tmplDue.contains j && !s.canConsume p j && d.ins.all fun x =>
      let prods := p.record.producers x.1
      ((p.record.eos != 0 && bitAt p.closed x.1) || prods.all fun k => fin.contains k) && prods.all fun k => !s.busyIn p k
  | none => true

/-- The stages that have ended, found in n rounds. -/
def State.finished (s : State) (p : Pipe) : Nat → List Nat
  | 0 => []
  | n + 1 =>
    let fin := s.finished p n
    (List.range p.record.stages.length).filter fun j => !s.busyIn p j && s.genOver p fin j

/-- A pipeline that is not shutting down has ended (R61). -/
def State.allDone (s : State) (p : Pipe) : Bool :=
  (s.finished p p.record.stages.length).length == p.record.stages.length

/-! ## The end of a pipeline -/

/-- A strip leaves the state Leased for Returning. -/
def StripState.toReturning (x : StripState) : StripState := match x with | .zeroing u => .zeroing u | _ => .returning

/-- The leases of a pipeline enter Returning; a strip that is Zeroing does so when it has been zeroed (R315, R316). -/
def State.returnLeases (s : State) (id : Nat) : State :=
  sites.foldl (fun s i => s.updDie i fun d =>
    let mine := d.leases.filter fun l => l.pipe == id
    { d with
      leases := mapIf (fun l => l.pipe == id) (fun l => { l with returning := true }) d.leases
      strips := mine.foldl (fun v l => match l.kind with
        | .frag lead n => (List.range n).foldl (fun v k => v.set (Fin.ofNat 8 (lead.val + k)) v[Fin.ofNat 8 (lead.val + k)].toReturning) v
        | .bare .. => v) d.strips }) s

/-- A pipeline ends: what is parked is discarded and counted, its requests are dropped, its leases return (R61, R67, R314). -/
def State.endPipe (s : State) (id : Nat) : State :=
  let lost := (s.homes.parked.filter fun x => x.pipe == id).length
  let s := s.updHomes fun h => { h with parked := h.parked.filter fun x => x.pipe != id }
  let s := s.updFe fun e => { e with reqs := e.reqs.filter fun q => q.pipe != id }
  let s := s.updPipe id fun p => { p with
    ended := true, discarded := p.discarded + lost, replays := [], seeds := [], seedRecs := [], tmplDue := [], mark := none }
  let s := allCores.foldl (fun s r => s.updCore r fun c => { c with kids := c.kids.filter fun k => k.pipe != id }) s
  (s.returnLeases id).purgeWrites

/-- A pipeline ends if nothing of it is pending, parked, running or pre-empted and no generation is possible (R61). -/
def State.endIfDone (s : State) (id : Nat) : State :=
  match s.pipe? id with
  | none => s
  | some p => if !p.ended && p.shut.isNone && p.pre == .none && s.allDone p then s.endPipe id else s

end Sys2Proof.Machine
end

