-- ==== Sys2Proof/Machine/Lifecycle.lean ====
section
/-! DEFINITION. The life of a task (R45 to R67, R278, R324, R325): its start, its retirement, the end of its squash; the fault
ring (R339, R340); join deadlock and shutdown (R64, R334 to R336). -/

namespace Sys2Proof.Machine

/-! ## Taking and making ready a core (R48, R49, R51, R84) -/

/-- A context at a task's start (R48, R69). -/
def Context.start (c : Context) (entry vdtab : Word) (args : Vector Word 8) : Context :=
  { Context.reset with
    pc := entry
    x := Vector.ofFn fun (i : Fin 32) => if h : 1 ≤ i.val ∧ i.val ≤ 8 then args[i.val - 1] else 0
    vdtab := vdtab
    status := .running
    entry := entry
    inputs := 0xFF
    seq := c.seq + 1 }

/-- A core at a task's start: L, C and S begin at the three words of the entry triple (R48, R180; R143, R149, R150, R170,
R222, R241, R272). -/
def Core.start (entry vdtab : Word) (t : Task) (c : Core) : Core :=
  { c with
    l := c.l.start entry vdtab t.record.args
    c := c.c.start (entry + 4) vdtab t.record.args
    s := c.s.start (entry + 8) vdtab t.record.args
    vf := VectorFile.reset
    cnt := Vector.replicate 256 0
    h := Vector.replicate 16 0
    lq := Vector.replicate 4 []
    sq := Vector.replicate 4 []
    sem := Vector.replicate 64 0
    snap := ⟨0, 1, 1, [⟨0, 0, 0, 0, 0⟩], false⟩
    closed := false
    task := some { t with lfsr0 := 1 } }

/-- The instance on a member's core holds enough Visible slots that no task has claimed, for every input ring (R49). -/
def State.inputsReady (s : State) (d : StageDecl) (r : CoreRef) : Bool :=
  d.ins.all fun x =>
    let g := (s.core r).ring x.1
    g.valid && decide (x.2 ≤ g.dist g.claim g.tail)

/-- Reserve the productions of a start, ring after ring, each in one instance (R49, R84); none if one cannot be. -/
def reserveOuts (p : Pipe) (held : List Resv) (s : State) : List (Nat × Nat) → Option (State × List Resv)
  | [] => some (s, held)
  | (ring, n) :: t =>
    if n = 0 ∨ held.any (fun v => v.ring == ring) then reserveOuts p held s t
    else match s.bestInst p ring with
      | none => none
      | some r =>
        let g := (s.core r).ring ring
        if g.free < n then none
        else
          let (ptrs, g') := g.reserveN n
          let v : Resv := ⟨ring, r, ptrs.map fun x => ⟨x, false, false⟩⟩
          match reserveOuts p held (s.updCore r fun c => c.updRing ring fun _ => g') t with
          | none => none
          | some (s, l) => some (s, l ++ [v])

/-- Claim the consumption of every input ring; the claims. -/
def claimIns (d : StageDecl) (r : CoreRef) (s : State) : State × List (Nat × Nat) :=
  (d.ins.foldl (fun s x => s.updCore r fun c => c.updRing x.1 fun g => { g with claim := g.advanceN g.claim x.2 }) s, d.ins)

/-- The member on which a task of a stage starts: the free one with the lowest virtual core number that holds its claims
(R278, R324). -/
def State.startMember (s : State) (p : Pipe) (d : StageDecl) (stage : Nat) (site : Option (Fin 6)) : Option CoreRef :=
  ((p.membersOf stage).find? fun m =>
    s.memberFree p.id m.at_ && ((site.map fun i => m.at_.site == i).getD true) && s.inputsReady d m.at_).map Member.at_

/-- THE START of one task, if it is admissible (R49). relBy is the release of the SPAWN that made a child (R51, R63). -/
def State.tryStart (s : State) (p : Pipe) (stage : Nat) (site : Option (Fin 6)) (t : TaskRec) (kind : TaskKind)
    (member size : Nat) (held : List Resv) (relBy : Option (CtxRef × RelInfo)) : Option State :=
  match p.record.stages[stage]? with
  | none => none
  | some d =>
    if t.waitEv &&& ~~~p.events ≠ 0 then none
    else match s.startMember p d stage site with
      | none => none
      | some r =>
        match reserveOuts p held s d.outs with
        | none => none
        | some (s, resv) =>
          let (s, claims) := claimIns d r s
          let gang := ((s.pipe? p.id).map Pipe.gangs).getD 0
          let task : Task := ⟨p.id, t, kind, member, size, gang, false, claims, resv, .running, 0, 0, .load, 0, false, 0, none⟩
          let s := (s.updCore r (Core.start d.entry p.vdtab task)).dropRefusals fun u => match u with | .engine k _ => k == r | _ => false
          some (match relBy with
            | some (rc, ri) => s.updDie r.site fun k =>
                ctxNames.foldl (fun k n => k.acquire rc ri ⟨r, n⟩ allCls ((s.ctx ⟨r, n⟩).seq - 1)) k
            | none => s)

/-- A gang is numbered. -/
def State.nextGang (s : State) (id : Nat) : State := s.updPipe id fun p => { p with gangs := p.gangs + 1 }

/-- A gang starts at one instant: one record for each member (R57). -/
def State.tryGang (s : State) (p : Pipe) (stage : Nat) (kind : TaskKind) (size : Nat) : Nat → List TaskRec → Option State
  | _, [] => some (s.nextGang p.id)
  | j, t :: l => (s.tryStart p stage none t kind j size [] none).bind fun s => s.tryGang p stage kind size (j + 1) l

/-! ## Which task starts (R324, R325) -/

/-- The queued children of a stage, with their cores. -/
def State.kidsOf (s : State) (p : Pipe) (stage : Nat) : List (CoreRef × Child) :=
  allCores.flatMap fun r => ((s.core r).kids.filter fun k => k.pipe == p.id && k.record.stage == stage).map fun k => (r, k)

/-- A child earlier in the order of appends comes first. -/
def insertChild (x : CoreRef × Child) : List (CoreRef × Child) → List (CoreRef × Child)
  | [] => [x]
  | y :: t => if x.2.order < y.2.order then x :: y :: t else y :: insertChild x t

/-- The die on which a queued child may start; none for any (R278). -/
def kidSite (x : CoreRef × Child) : Option (Fin 6) := if x.2.anyDie then none else some x.1.site

/-- A child starts. -/
def State.startChild (s : State) (p : Pipe) (stage : Nat) : Option State :=
  (((s.kidsOf p stage).foldr insertChild [])).findSome? fun x =>
    (s.tryStart p stage (kidSite x) x.2.record .child 0 1 [] (some (x.2.relBy, x.2.rel))).map fun s =>
      (s.updCore x.1 fun c => { c with kids := c.kids.erase x.2 }).nextGang p.id

/-- A task pending again after parking starts (R67). -/
def State.startReplay (s : State) (p : Pipe) (stage : Nat) : Option State :=
  (p.replays.filter fun t => t.record.stage == stage).findSome? fun t =>
    (s.tryStart p stage none t.record .replay 0 1 t.resv none).map fun s =>
      (s.updPipe p.id fun p => { p with replays := p.replays.erase t }).nextGang p.id

/-- The groups of n records of a list, a rest left out. -/
def groupsOf {α : Type} (n : Nat) : Nat → List α → List (List α)
  | 0, _ => []
  | k + 1, l => if n = 0 ∨ l.length < n then [] else l.take n :: groupsOf n k (l.drop n)

/-- Seed records that have been read start, in table order: n together in a stage of gang size n, none of which is left
unread. -/
def State.startSeed (s : State) (p : Pipe) (stage gang : Nat) : Option State :=
  let recs := p.seedRecs.filter fun x => x.1 == stage && (gang == 1 || !p.seeds.any fun y => y.1 == stage && decide (y.2 < x.2.1))
  (groupsOf gang recs.length recs).findSome? fun g =>
    (s.tryGang p stage .seed gang 0 (g.map fun x => x.2.2)).map fun s =>
      s.updPipe p.id fun p => { p with seedRecs := p.seedRecs.filter fun x => !(g.contains x) }

/-- Generated tasks start from the stage's template. -/
def State.startGenerated (s : State) (p : Pipe) (stage gang : Nat) : Option State :=
  match lookup stage p.tmpls with
  | some t => s.tryGang p stage .generated gang 0 (List.replicate gang t)
  | none => none

/-! ## Reading records (R47, R305) -/

/-- The lines of n words from a DLA on. -/
def wordLines (dla n : Nat) : List Nat := ((List.range n).map fun k => lineOf (dla + 8 * k)).eraseDups

/-- The words of a record of n words at a DLA. -/
def State.wordsAt (s : State) (dla n : Nat) : List Word := (List.range n).map fun k => BitVec.ofNat 64 (s.cohN (dla + 8 * k) 8)

/-- A record passes R47 as a seed record or template of a stage. -/
def recordOk (l : List Word) (stage : Nat) : Bool :=
  let t := recOf l
  recClean l && t.stage == stage && (!t.j || t.joinAddr.toNat % 8 == 0) && (!t.f || t.futRef.toNat % 8 == 0)

/-- What the front end finds at an address under a PASID. -/
inductive FeRead where
  | ok (dla : Nat)
  | wait (s : State)
  | refused
  deriving DecidableEq, Repr

/-- Translate an address of the front end (R321). -/
def State.feXlat (s : State) (pasid hva : Nat) (wr : Bool) : FeRead :=
  match s.lookupXlat .frontEnd pasid hva wr with
  | .hit d => .ok d
  | .refused => .refused
  | .paging => .wait s
  | .waiting => .wait (s.askXlat .frontEnd pasid hva wr)

/-- What the front end makes of the unread seed records of a pipeline: those read, those that are not run, those left. -/
structure SeedReads where
  got  : List (Nat × Nat × TaskRec)
  bad  : List BadRec
  left : List (Nat × Nat)
  deriving DecidableEq, Repr

/-- Read every seed record of a list of (stage, number) pairs whose page can be read (R305); the others are asked for. -/
def State.readEach (s : State) (p : Pipe) : List (Nat × Nat) → State × SeedReads
  | [] => (s, ⟨[], [], []⟩)
  | (stage, n) :: t =>
    let hva := p.seedHva stage n
    match s.feXlat p.pasid hva false with
    | .wait s => let (s, r) := s.readEach p t; (s, { r with left := (stage, n) :: r.left })
    | .refused => let (s, r) := (s.dropRefused .frontEnd p.pasid hva).readEach p t; (s, { r with bad := ⟨stage, fPage, hva⟩ :: r.bad })
    | .ok dla =>
      let ls := (wordLines dla 16).filter fun l => !s.readClear none l
      if !ls.isEmpty then
        let (s, r) := (ls.foldl State.askRead s).readEach p t
        (s, { r with left := (stage, n) :: r.left })
      else
      let w := s.wordsAt dla 16
      let (s, r) := s.readEach p t
      (s, if recordOk w stage then { r with got := (stage, n, recOf w) :: r.got } else { r with bad := ⟨stage, fRecord, dla⟩ :: r.bad })

/-- A seed record takes its place in seed-table order. -/
def insertSeed (x : Nat × Nat × TaskRec) : List (Nat × Nat × TaskRec) → List (Nat × Nat × TaskRec)
  | [] => [x]
  | y :: t => if x.2.1 < y.2.1 then x :: y :: t else y :: insertSeed x t

/-- Read the seed records of a pipeline that can be read; whether any was. -/
def State.readSeeds (s : State) (p : Pipe) : State × Bool :=
  let (s, r) := s.readEach p p.seeds
  if r.got.isEmpty && r.bad.isEmpty then (s, false)
  else
    ((s.updPipe p.id fun p => { p with seeds := r.left, seedRecs := r.got.foldl (fun l x => insertSeed x l) p.seedRecs }).recordFaults p.id r.bad, true)

/-- What the front end makes of the templates of a pipeline that it has not read. -/
structure TmplReads where
  got  : List (Nat × TaskRec)
  bad  : List BadRec
  left : List Nat
  deriving DecidableEq, Repr

/-- Read every template of a list of stages whose page can be read (R305); the others are asked for. -/
def State.readTmplEach (s : State) (p : Pipe) : List Nat → State × TmplReads
  | [] => (s, ⟨[], [], []⟩)
  | j :: t =>
    let hva := ((p.record.stages[j]?.map StageDecl.tmpl).getD 0).toNat
    match s.feXlat p.pasid hva false with
    | .wait s => let (s, r) := s.readTmplEach p t; (s, { r with left := j :: r.left })
    | .refused => let (s, r) := (s.dropRefused .frontEnd p.pasid hva).readTmplEach p t; (s, { r with bad := ⟨j, fPage, hva⟩ :: r.bad })
    | .ok dla =>
      let ls := (wordLines dla 16).filter fun l => !s.readClear none l
      if !ls.isEmpty then
        let (s, r) := (ls.foldl State.askRead s).readTmplEach p t
        (s, { r with left := j :: r.left })
      else
      let w := s.wordsAt dla 16
      let (s, r) := s.readTmplEach p t
      (s, if recordOk w j then { r with got := (j, recOf w) :: r.got } else { r with bad := ⟨j, fRecord, dla⟩ :: r.bad })

/-- Read the templates of a pipeline that can be read; whether any was. -/
def State.readTmpls (s : State) (p : Pipe) : State × Bool :=
  let (s, r) := s.readTmplEach p p.tmplDue
  if r.got.isEmpty && r.bad.isEmpty then (s, false)
  else ((s.updPipe p.id fun p => { p with tmplDue := r.left, tmpls := p.tmpls ++ r.got }).recordFaults p.id r.bad, true)

/-- Read the seed records and templates of a pipeline that can be read; whether any was. -/
def State.readRecords (s : State) (p : Pipe) : State × Bool :=
  let (s, a) := s.readSeeds p
  match s.pipe? p.id with
  | none => (s, a)
  | some p => let (s, b) := s.readTmpls p; (s, a || b)

/-- The first admissible start of a stage in the order of R324. -/
def State.nextStart (s : State) (p : Pipe) (stage : Nat) : Option State :=
  match p.record.stages[stage]? with
  | none => none
  | some d =>
    if p.isStopped stage || p.ended || p.pre != .none then none
    else ((s.startChild p stage <|> s.startReplay p stage) <|> s.startSeed p stage d.gang) <|> s.startGenerated p stage d.gang

/-- What a stage does next when it is asked to start a task: records are read as they can be, or its first
admissible start takes place. -/
def State.startNext (s : State) (p : Pipe) (stage : Nat) : Option State :=
  match p.record.stages[stage]? with
  | none => none
  | some _ =>
    if p.isStopped stage || p.ended || p.pre != .none then none
    else
      let (s, got) := s.readRecords p
      if got then some s
      else
        let next := s.nextStart p stage
        if p.seeds.isEmpty && p.tmplDue.isEmpty then next else next <|> some s

/-- A stage with a lower number has an admissible start: it comes first (R84). -/
def State.lowerStarts (s : State) (p : Pipe) (stage : Nat) : Bool := (List.range stage).any fun i => (s.nextStart p i).isSome

/-- TASK_START: of the starts of one instant, those of lower-numbered stages come first (R84). -/
def execTaskStart (p : Nat) (stage : Fin 16) (s : State) : Host.Outcome State Fault Refusal :=
  go (match s.pipe? p with
    | none => s
    | some q => if s.lowerStarts q stage.val then s else (s.startNext q stage.val).getD s)

/-! ## Retirement (R52) -/

/-- A fault of a task at its retirement raised by a check of R52. -/
def State.exitFault (s : State) (r : CoreRef) (t : Task) (code addr : Nat) : State :=
  s.takeFault r ⟨code, ctxCode t.exitCtx, 0, none, t.exitPc, addr, 0, 0⟩

/-- A task leaves its core: its links come down, and a marked donor may give its member. -/
def State.leaveCore (s : State) (r : CoreRef) (id : Nat) : State :=
  (((s.unlinkOut r).unlinkIn r).updCore r fun c => { c.updCtxs (fun x => { x with status := .stopped }) with task := none }).afterFree id r

/-- Step 5. -/
def State.retired (s : State) (r : CoreRef) (id : Nat) : State :=
  ((s.updPipe id fun p => { p with retired := p.retired + 1 }).leaveCore r id).endIfDone id

/-- A join counter goes down by 1. -/
def State.countDown (s : State) (j : Nat) : State := s.homeWrite j 8 ((s.cohN j 8 + 2 ^ 64 - 1) % 2 ^ 64)

/-- Step 4. -/
def State.retireFill (s : State) (r : CoreRef) (t : Task) : State :=
  let f := t.record.futRef.toNat
  if !t.record.f then s.retired r t.pipe
  else if !s.dlaOk f then s.feFault r fUnreach f
  else if s.homes.tagFull f then s.feFault r fFull f
  else (s.fillCell f t.x1AtExit).retired r t.pipe

/-- Steps 2 and 3. -/
def State.retireSteps (s : State) (r : CoreRef) (t : Task) : State :=
  let s := s.setEvents t.pipe t.record.sigEv
  let j := t.record.joinAddr.toNat
  if !t.record.j then s.retireFill r t
  else if !s.dlaOk j then s.feFault r fUnreach j
  else (s.countDown j).retireFill r t

/-- The counter and the cell that a retirement writes, where they can be reached. -/
def State.retireAddrs (s : State) (t : Task) : List Nat :=
  ((if t.record.j then [t.record.joinAddr.toNat] else []) ++ if t.record.f then [t.record.futRef.toNat] else []).filter s.dlaOk

/-- A retirement's writes reach the current homes (R96, R98, R285). -/
def State.retireRouted (s : State) (r : CoreRef) (a : Nat) : Bool :=
  s.routed r.site (pageOf a) && s.reachable (s.homes.slice a).pkg && !(s.die r.site).writing a

/-- What a core's contexts have written is committed to the base, as the release of R52 step 1 does. -/
def State.commitTask (s : State) (r : CoreRef) : State := ctxNames.foldl (fun s n => s.commitCovered ⟨r, n⟩ allCls) s

/-- TASK_RETIRE: a Retiring task whose queues have drained and whose release at package scope can perform. -/
def execTaskRetire (r : CoreRef) (s : State) : Host.Outcome State Fault Refusal :=
  go (match (s.core r).task with
    | none => s
    | some t =>
      if !(s.core r).drainedTask t then s
      else match t.unpopped with
        | some n => s.exitFault r t fOverrun (ringAddr (ptrIdx ((s.core r).ring n).head) n)
        | none =>
          let as := s.retireAddrs t
          if !s.coreReleased r || !(as.all fun a => s.retireRouted r a) then s
          else withWrites s (as.map lineOf) fun s => ((s.accept r.site (as.map lineOf)).commitTask r).retireSteps r t)

/-! ## Squash (R66, R284) -/

/-- TASK_SQUASH: the squash finishes: claims go back, LFSR is restored, and the core is free. -/
def execTaskSquash (r : CoreRef) (s : State) : Host.Outcome State Fault Refusal :=
  go (match (s.core r).task with
    | none => s
    | some t =>
      if t.phase != .squashing then s
      else
        let s := t.claims.foldl (fun s x => s.updCore r fun c => c.updRing x.1 fun g => { g with claim := g.head }) s
        let s := s.updCore r fun c => { c with vf := { c.vf with lfsr := t.lfsr0 } }
        let s := s.updHomes fun h => { h with parked := mapIf (fun p => p.squash == some r) (fun p => { p with squash := none }) h.parked }
        (s.leaveCore r t.pipe).wakeParked)

/-! ## The fault ring (R339, R340) -/

/-- HEAD of a fault record. -/
def FaultRec.head (f : FaultRec) : Nat :=
  f.code.toNat * 2 ^ 56 + f.ctx.toNat * 2 ^ 53 + f.eng.toNat * 2 ^ 50 + (match f.rep with | some j => 2 ^ 49 + j.toNat * 2 ^ 43 | none => 0) +
  f.stage.toNat * 2 ^ 39 + f.member.toNat * 2 ^ 33 + f.first.toNat * 2 ^ 27 + (if f.peer then 2 ^ 26 else 0) + f.vcore.toNat * 2 ^ 20

/-- The eight words of a fault record. -/
def FaultRec.words (f : FaultRec) : List Nat :=
  [f.head, f.pc.toNat, f.addr.toNat, f.info.toNat] ++ (List.range 4).map fun k => fld f.data (64 * k) 64

/-- Write words from a DLA up. -/
def State.writeWords (s : State) (dla : Nat) (l : List Nat) : State :=
  (l.zipIdx).foldl (fun s x => s.homeWrite (dla + 8 * x.2) 8 x.1) s

/-- Change a work queue. -/
def State.updQueue (s : State) (q : Nat) (f : WorkQueue → WorkQueue) : State :=
  s.updFe fun e => { e with queues := mapIf (fun x => x.no == q) f e.queues }

/-- A queue stops (R294): while it is stopped, a further condition changes nothing of it. It reads no slot any more: when it
goes on, a slot that it finds unwritten is read again from then on (R298). -/
def State.stopQueue (s : State) (q err idx : Nat) : State :=
  match s.fe.queues.find? fun x => x.no == q with
  | none => s
  | some x =>
    if x.stop then s
    else (s.updQueue q fun x =>
      { x with stop := true, err := BitVec.ofNat 8 err, idx := BitVec.ofNat 8 idx, repoll := none }).raiseIrq x.vec.toNat

/-- A chain of the front end. -/
def State.chain? (s : State) (id : Nat) : Option Chain := s.fe.chains.find? fun c => c.id == id

/-- The index in its batch of the packet that started a chain. -/
def State.pktIdx (s : State) (c : Chain) : Nat :=
  (((s.fe.queues.find? fun q => q.no == c.queue).bind fun q => q.pkts.find? fun p => p.chain == some c.id).map Packet.idx).getD 0

/-- The fault ring of a pipeline is lost: its page was refused (R294, R321). -/
def State.loseRing (s : State) (p : Pipe) : State :=
  (s.updPipe p.id fun p => { p with record := { p.record with fring := 0, fringLog := none } }).stopQueue p.queue 0x08
    (((s.chain? p.chain).map s.pktIdx).getD 0)

/-- The first record that waits is written, or counted as dropped. -/
def State.writeFault (s : State) (p : Pipe) (f : FaultRec) (logn : Nat) : State :=
  let base := p.record.fring.toNat
  let rest (s : State) : State := s.updPipe p.id fun p => { p with faults := p.faults.drop 1 }
  let at_ := base + 0x40 + 64 * p.written
  let full := decide (2 ^ logn ≤ p.written)
  match s.feXlat p.pasid base true, if full then s.feXlat p.pasid base true else s.feXlat p.pasid at_ true with
  | .wait s, _ => s
  | _, .wait s => s
  | .refused, _ => ((s.dropRefused .frontEnd p.pasid base).loseRing p)
  | _, .refused => ((s.dropRefused .frontEnd p.pasid at_).loseRing p)
  | .ok b, .ok d =>
    withWrites s [lineOf b, lineOf d] fun s =>
      if full then (rest (s.homeWrite (b + 0x10) 8 (p.dropped + 1))).updPipe p.id fun p => { p with dropped := p.dropped + 1 }
      else (rest ((s.writeWords d f.words).homeWrite (b + 8) 8 (p.written + 1))).updPipe p.id fun p => { p with written := p.written + 1 }

/-- FAULT_RECORD. -/
def execFaultRecord (p : Nat) (s : State) : Host.Outcome State Fault Refusal :=
  go (match s.pipe? p with
    | none => s
    | some q =>
      match q.faults with
      | [] => s
      | f :: _ =>
        match q.record.fringLog with
        | some logn => s.writeFault q f logn
        | none => s.updPipe p fun q => { q with faults := q.faults.drop 1 })

/-! ## Tasks that can go no further (R64, R335) -/

/-- A context waits in JOIN on a counter that is not 0. -/
def State.inJoin (s : State) (c : CtxRef) : Bool :=
  match (s.ctx c).status with
  | .waiting (.join _ dla) => s.cohN dla 8 != 0
  | _ => false

/-- A context waits in EVWAIT on an event that is not set. -/
def State.inEvwait (s : State) (c : CtxRef) : Bool :=
  match (s.ctx c).status with
  | .waiting (.evwait e) => !((s.pipeOf c.at_).map fun p => bitAt p.events e.toNat).getD false
  | _ => false

/-- Of the queue ports that a mask names, one holds no row to read or has no room. -/
def Core.portsShort (c : Core) (m : BitVec 8) : Bool :=
  queueNos.any fun q => (bitAt m q.val && !c.lqReady q) || (bitAt m (4 + q.val) && decide (8 ≤ c.sq[q].length))

/-- A context has exited, or is blocked on a load or store queue, a semaphore or a region barrier (R64). -/
def State.stuck (s : State) (c : CtxRef) : Bool :=
  let k := s.core c.at_
  match (s.ctx c).status with
  | .parked => true
  | .waiting (.loadQueue _ m) => k.portsShort m
  | .waiting (.storeQueue q m) => if c.ctx = .store then (k.sq[q]).isEmpty else k.portsShort m
  | .waiting (.loadRoom q) => decide (8 ≤ (k.lq[q]).length)
  | .waiting (.semw n) => k.semVal n == 0
  | .waiting .barrier => !k.barrierMet
  | _ => false

/-- A task is blocked: a context waits in JOIN, or in EVWAIT where ev says so, and none can issue until such a wait ends. -/
def State.blockedTask (s : State) (ev : Bool) (r : CoreRef) : Bool :=
  let waits (n : CtxName) : Bool := s.inJoin ⟨r, n⟩ || (ev && s.inEvwait ⟨r, n⟩)
  ctxNames.any waits && (ctxNames.all fun n => waits n || s.stuck ⟨r, n⟩) &&
  (s.core r).eng.toList.all List.isEmpty && ctxNames.all fun n => (s.ctx ⟨r, n⟩).loadsOut == 0 && s.storesOut ⟨r, n⟩ == 0

/-- The cores that run a task of a pipeline. -/
def State.runningCores (s : State) (id : Nat) : List CoreRef :=
  allCores.filter fun r => match (s.core r).task with
    | some t => t.pipe == id && t.live
    | none => false

/-- The end of a blocked task: its lowest-lettered context that waits. -/
def State.endBlocked (s : State) (code : Nat) (ev : Bool) (r : CoreRef) : State :=
  match ctxNames.find? fun n => s.inJoin ⟨r, n⟩ || (ev && s.inEvwait ⟨r, n⟩) with
  | none => s
  | some n =>
    let x := s.ctx ⟨r, n⟩
    let addr := match x.status with | .waiting (.join hva _) => if ev then 0 else hva.toNat | _ => 0
    s.endTask r ⟨code, ctxCode n, 0, none, x.pc, addr, 0, 0⟩ none

/-- The stages of the tasks on cores. -/
def State.stagesOf (s : State) (l : List CoreRef) : List Nat :=
  l.foldl (fun acc r => match (s.core r).task with | some t => addNew t.record.stage acc | none => acc) []

/-- JOIN_DEADLOCK: every running task is blocked in JOIN, and a child of one of them is pending and cannot start. -/
def execJoinDeadlock (p : Nat) (s : State) : Host.Outcome State Fault Refusal :=
  go (match s.pipe? p with
    | none => s
    | some q =>
      let run := s.runningCores p
      let mine (k : Child) : Bool := k.pipe == p && run.any fun r => match (s.core r).task with
        | some t => t.gangId == k.parent
        | none => false
      let kids := allCores.flatMap fun r => ((s.core r).kids.filter mine).map fun k => (r, k)
      let cannot (x : CoreRef × Child) : Bool :=
        (s.tryStart q x.2.record.stage (kidSite x) x.2.record .child 0 1 [] none).isNone
      if q.pre == .none && !run.isEmpty && run.all (s.blockedTask false) && kids.any cannot then
        let stages := s.stagesOf run
        (run.foldl (fun s r => s.endBlocked fJoinDead false r) s).beginShutdown p 0x03 stages
      else s)

/-- Some stage of a pipeline can start a task, or has a record to read. -/
def State.canStart (s : State) (p : Pipe) : Bool := (List.range p.record.stages.length).any fun j => (s.startNext p j).isSome

/-- SHUTDOWN_FAULT. -/
def execShutdownFault (p : Nat) (s : State) : Host.Outcome State Fault Refusal :=
  go (match s.pipe? p with
    | none => s
    | some q =>
      let run := s.runningCores p
      if q.shut.isSome && q.pre == .none && !run.isEmpty && run.all (s.blockedTask true) && !s.canStart q then
        let stages := s.stagesOf run
        (run.foldl (fun s r => s.endBlocked fShutdown true r) s).beginShutdown p 0x01 stages
      else s)

/-- SHUTDOWN_COMPLETE. -/
def execShutdownComplete (p : Nat) (s : State) : Host.Outcome State Fault Refusal :=
  go (match s.pipe? p with
    | none => s
    | some q =>
      if q.shut.isSome && !q.ended && q.pre == .none && (s.runningCores p).isEmpty && !s.canStart q then s.endPipe p else s)

end Sys2Proof.Machine
end

