-- ==== Sys2Proof/Machine/Reel.lean ====
section
/-! DEFINITION. The Reel (R322, R326 to R331). -/

namespace Sys2Proof.Machine

/-! ## Parameters (R322) -/

def reelEn (p : Pipe) : Bool := bitAt p.record.reel0 63
def reelPin (p : Pipe) (j : Nat) : Bool := bitAt p.record.reel0 (32 + j)
def reelHi (p : Pipe) : Nat := fld p.record.reel0 24 8
def reelLo (p : Pipe) : Nat := fld p.record.reel0 16 8
/-- The interval in clk. -/
def reelClk (p : Pipe) : Nat := (if fld p.record.reel0 0 16 = 0 then 32 else fld p.record.reel0 0 16) * 256
/-- The interval in ticks, a whole number of bclk (R7, R326). -/
def reelTicks (p : Pipe) : Nat := ceilDiv (reelClk p * tClk) tBclk * tBclk

/-! ## A sample (R326, R327) -/

/-- CAP, WAIT and USED of a ring. -/
structure RingSum where
  cap  : Nat
  wait : Nat
  used : Nat
  deriving DecidableEq, Repr

/-- A ring summed over its instances. -/
def State.ringSum (s : State) (p : Pipe) (ring : Nat) : RingSum :=
  ((s.instances p ring).map fun r => (s.core r).ring ring).foldl (fun a g =>
    ⟨a.cap + g.slots, a.wait + g.dist g.claim g.tail, a.used + g.dist g.head g.resv⟩) ⟨0, 0, 0⟩

/-- The input rings of a stage that take part. -/
def State.inSums (s : State) (p : Pipe) (d : StageDecl) : List RingSum :=
  (d.ins.map fun x => s.ringSum p x.1).filter fun a => a.cap != 0

/-- Backed up. -/
def State.backedUp (s : State) (p : Pipe) (d : StageDecl) : Bool :=
  d.outs.any fun x =>
    let a := s.ringSum p x.1
    a.cap != 0 && decide (reelHi p * a.cap ≤ a.used * 256)

/-- Hungry. -/
def State.hungry (s : State) (p : Pipe) (j : Nat) (d : StageDecl) : Bool :=
  let ins := s.inSums p d
  if ins.isEmpty then !s.pendingIn p j else ins.all fun a => decide (a.wait * 256 ≤ reelLo p * a.cap)

/-- A pending record is admissible on every count of R49 except a free member. -/
def State.startableRec (s : State) (p : Pipe) (d : StageDecl) (n : Nat) (held : List Resv) (t : TaskRec) : Bool :=
  t.waitEv &&& ~~~p.events == 0 &&
  ((List.range n).foldl (fun (acc : Option State) _ => acc.bind fun s => (reserveOuts p held s d.outs).map Prod.fst) (some s)).isSome

/-- The seed records of a stage that the front end has not read, as they stand, with their numbers. -/
def State.unreadRecs (s : State) (p : Pipe) (j : Nat) : List (Nat × Nat × TaskRec) :=
  (p.seeds.filter fun x => x.1 == j).filterMap fun x =>
    match s.lookupXlat .frontEnd p.pasid (p.seedHva j x.2) false with
    | .hit dla => some (x.1, x.2, recOf (s.wordsAt dla 16))
    | _ => none

/-- The pending records that start together are all admissible but for free members: the events of each, and the
reservations of all (R49). -/
def State.startableGang (s : State) (p : Pipe) (d : StageDecl) (g : List TaskRec) : Bool := g.all (s.startableRec p d g.length [])

/-- Some pending task of a stage, or gang of a gang stage, is admissible but for a free member. -/
def State.wantsMember (s : State) (p : Pipe) (j : Nat) (d : StageDecl) : Bool :=
  (s.kidsOf p j).any (fun x => s.startableRec p d 1 [] x.2.record) ||
  (p.replays.filter fun t => t.record.stage == j).any (fun t => s.startableRec p d 1 t.resv t.record) ||
  let recs := (s.unreadRecs p j).foldr insertSeed (p.seedRecs.filter fun x => x.1 == j)
  (groupsOf d.gang recs.length recs).any fun g => s.startableGang p d (g.map fun x => x.2.2)

/-- A stage's lease request has been granted. -/
def State.granted (s : State) (p : Pipe) (j : Nat) : Bool := !s.fe.reqs.any fun q => q.pipe == p.id && q.stage == j

/-- What a stage is at a sample: not part of it, starved, congested with its largest WAIT and CAP, or neither. -/
inductive ReelClass where
  | starved
  | congested (wait cap : Nat)
  | neither
  deriving DecidableEq, Repr

/-- Of two ratios, the larger; the first on a tie. -/
def maxRatio (a b : Nat × Nat) : Nat × Nat := if a.1 * b.2 < b.1 * a.2 then b else a

/-- Class a stage. -/
def State.classOf (s : State) (p : Pipe) (j : Nat) (d : StageDecl) : ReelClass :=
  if !s.granted p j then .neither
  else if s.backedUp p d || s.hungry p j d then .starved
  else
    let ins := s.inSums p d
    let hot := ins.filter fun a => decide (reelHi p * a.cap ≤ a.wait * 256)
    match hot.map fun a => (a.wait, a.cap) with
    | h :: t => let (w, c) := t.foldl maxRatio h; .congested w c
    | [] => if ins.isEmpty && s.wantsMember p j d then .congested 0 0 else .neither

/-! ## Moves (R328, R329) -/

/-- The recipient: of the congested stages, the one with the largest ratio, the lowest number on a tie; one with no input
ring, which stands here with CAP 0, below every other. -/
def pickRecipient : List (Nat × ReelClass) → Option (Nat × Nat × Nat)
  | [] => none
  | (j, k) :: t =>
    match k, pickRecipient t with
    | .congested w c, some (i, w', c') => if (c = 0 ∧ c' ≠ 0) ∨ (c ≠ 0 ∧ c' ≠ 0 ∧ w * c' < w' * c) then some (i, w', c') else some (j, w, c)
    | .congested w c, none => some (j, w, c)
    | _, r => r

/-- The donor: of these stages, the one with most members above its minimum, the highest number on a tie. -/
def pickDonor (p : Pipe) : List (Nat × StageDecl) → Option (Nat × Nat)
  | [] => none
  | (j, d) :: t =>
    match pickDonor p t with
    | some (i, n) => if n < p.spare j d then some (j, p.spare j d) else some (i, n)
    | none => some (j, p.spare j d)

/-- The donor and recipient of a sample. -/
def State.reelPair (s : State) (p : Pipe) : Option (Nat × Nat) :=
  let st := p.record.stages.zipIdx.map fun x => (x.2, x.1)
  let cls := st.map fun x => (x.1, s.classOf p x.1 x.2)
  match pickRecipient cls with
  | none => none
  | some (j, _, _) =>
    let c := (p.record.stages[j]?.map StageDecl.cls).getD 0
    match pickDonor p (st.filter fun x => x.2.cls == c && cls.any fun y => y.1 == x.1 && y.2 == .starved) with
    | some (i, n) => if n = 0 ∨ reelPin p i ∨ reelPin p j then none else some (i, j)
    | none => none

/-- The starts of a stage at an instant: its admissible starts one after another, at most n. -/
def State.startsNow (s : State) (id j : Nat) : Nat → State
  | 0 => s
  | n + 1 =>
    match (s.pipe? id).bind fun p => s.nextStart p j with
    | some s => s.startsNow id j n
    | none => s

/-- The member that the donor of a sample gives: it does not start a task in the sample's own bclk (R329). The stages start
their tasks in rising number, so those below the donor's reserve first (R84). -/
def State.sampleGift (s : State) (p : Pipe) (donor : Nat) : Option Member :=
  let after := (List.range (donor + 1)).foldl (fun s j => s.startsNow p.id j (p.membersOf j).length) s
  ((p.membersOf donor).filter fun m => s.givable p m && (after.core m.at_).task.isNone).getLast?

/-- REEL_SAMPLE: it sees the state before its bclk, since no turn that comes to that bclk runs before it (R326; log 101,
log 115). -/
def execReelSample (p : Nat) (s : State) : Host.Outcome State Fault Refusal :=
  go (match s.pipe? p with
    | none => s
    | some q =>
      if !reelEn q || q.ended || q.pre != .none then s
      else
        let t := q.sampleAt + reelTicks q
        let q := { q with sampleAt := t, mark := none, pool := q.pool.map fun m => { m with moved := m.moved - 1 } }
        let s := (s.at_ t).updPipe p fun _ => q
        if q.shut.isSome then s
        else match s.reelPair q with
          | none => s
          | some (i, j) =>
            match s.sampleGift q i with
            | some m => s.move q m j
            | none => s.updPipe p fun q => { q with mark := some (i, j) })

end Sys2Proof.Machine
end

