-- ==== Sys2Proof/Machine/Operators.lean ====
section
/-! DEFINITION. Operator records: how the front end reads and checks them (R60, R85, R303 to R305, R322, R323, R340), how an
operator starts (R306, R307, R309, R362), and how a chain ends (R320, R321). -/

namespace Sys2Proof.Machine

/-! ## Reading words of host memory -/

/-- Words that the front end reads: all of them, or a page is still asked for, or one is refused. -/
inductive WordsFound where
  | ok (l : List Word)
  | wait (s : State)
  | refused (s : State)
  deriving DecidableEq, Repr

/-- Read the 8 bytes at an address under a PASID. -/
def State.readWord (s : State) (pasid hva : Nat) : WordsFound :=
  match s.feXlat pasid hva false, s.feXlat pasid (hva + 7) false with
  | .wait s, _ => .wait s
  | .refused, _ => .refused (s.dropRefused .frontEnd pasid hva)
  | _, .wait s => .wait s
  | _, .refused => .refused (s.dropRefused .frontEnd pasid (hva + 7))
  | .ok a, .ok b =>
    let ls := [lineOf a, lineOf b].filter fun l => !s.readClear none l
    if !ls.isEmpty then .wait (ls.foldl State.askRead s)
    else .ok [BitVec.ofNat 64 (packNat 8 ((List.range 8).map fun k =>
      (s.cohByte (if (hva + k) / 4096 = hva / 4096 then a + k else b + k - 7)).toNat))]

/-- Read n words from an address up. -/
def State.readWords (s : State) (pasid hva : Nat) : Nat → WordsFound
  | 0 => .ok []
  | n + 1 =>
    match s.readWord pasid hva with
    | .ok l => match s.readWords pasid (hva + 8) n with
      | .ok t => .ok (l ++ t)
      | r => r
    | r => r

/-! ## Tables (R304) -/

/-- The valid entries of eight 16-bit IN or OUT entries: ring and slots per task. -/
def portList (w0 w1 : Word) : List (Nat × Nat) :=
  ((List.range 8).map fun k => if k < 4 then fld w0 (16 * k) 16 else fld w1 (16 * (k - 4)) 16).filterMap fun e =>
    if natBit e 15 then some (e / 2 ^ 10 % 32, e % 256) else none

/-- The reserved bits of eight entries are 0. -/
def portsClean (w0 w1 : Word) : Bool :=
  (List.range 4).all fun k => fld w0 (16 * k + 8) 2 == 0 && fld w1 (16 * k + 8) 2 == 0

/-- A stage-table entry from its eight words. -/
def stageOf (l : List Word) : StageDecl :=
  let w (k : Nat) : Word := l.getD k 0
  let c := w 3
  { entry := w 0, seeds := w 1, tmpl := w 2, spawn := BitVec.ofNat 16 (fld c 48 16), gang := fld c 42 6 + 1, pool := fld c 36 6 + 1,
    cls := fld c 33 3, save := fld c 15 18, nseed := fld c 0 15, ins := portList (w 4) (w 5), outs := portList (w 6) (w 7) }

/-- The reserved bits and alignments of a stage-table entry. -/
def stageClean (l : List Word) : Bool :=
  let w (k : Nat) : Nat := (l.getD k 0).toNat
  w 0 % 4 == 0 && w 1 % 128 == 0 && w 2 % 128 == 0 && portsClean (l.getD 4 0) (l.getD 5 0) && portsClean (l.getD 6 0) (l.getD 7 0)

/-- Cut a list into pieces of n. -/
def pieces {α : Type} (n : Nat) (l : List α) : List (List α) := groupsOf n l.length l

/-- A list of words as pairs. -/
def pairsOf : List Word → List (Word × Word)
  | a :: b :: t => (a, b) :: pairsOf t
  | _ => []

/-! ## Checks (R60, R85, R305) -/

/-- The dies of a site mask that are present and unfenced. -/
def State.liveSites (s : State) (m : BitVec 6) : List (Fin 6) :=
  sites.filter fun i => bitAt m i.val && (s.die i).present && !(s.die i).fenced

/-- The first row past those of a stage's members (R34, R35). -/
def clsLimit (cls : Nat) : Nat := if cls = 0 then 32768 else 2048 + 30720 * clsStrips cls

/-- The stages that depend on rings of a stage, in n rounds: a stage among them stands on a cycle. -/
def OpRecord.reaches (o : OpRecord) (from_ to_ : Nat) : Bool :=
  match o.stages[from_]? with
  | none => false
  | some d => (o.downstream (d.outs.filterMap fun x => o.rings[x.1]?.map Prod.snd) o.stages.length).contains to_

/-- The instances of a stage's input rings. -/
def OpRecord.insts (o : OpRecord) (j : Nat) : List RingInst :=
  (o.rings.filter fun x => x.2 == j).map fun x => RingInst.define x.1

/-- Every ring is well formed on a member of its consumer stage (R85), and lists itself among its consumer's inputs. -/
def OpRecord.ringsOk (o : OpRecord) : Bool :=
  o.rings.zipIdx.all fun x =>
    let (w, j) := x.1
    bitAt w 63 && match o.stages[j]? with
    | none => false
    | some d =>
      let others := (o.rings.zipIdx.filter fun y => y.2 != x.2 && y.1.2 == j).map fun y => RingInst.define y.1.1
      ringOk w (clsLimit d.cls) others && d.ins.any fun p => p.1 == x.2

/-- The checks of one stage (R60, R305). -/
def OpRecord.stageOk (o : OpRecord) (dies : Nat) (j : Nat) (d : StageDecl) : Bool :=
  decide (d.cls ≤ 4) && decide (d.gang ≤ 48) && decide (d.gang ≤ d.pool) &&
  (d.ins.all fun p => decide (0 < p.2) && (o.rings[p.1]?.map fun x => x.2 == j).getD false) &&
  (d.outs.all fun p => decide (p.1 < o.rings.length)) &&
  ((d.ins ++ d.outs).all fun p => (o.rings[p.1]?.map fun x => decide (p.2 ≤ (RingInst.define x.1).slots)).getD false) &&
  ((List.range 16).all fun k => !bitAt d.spawn k || ((o.stages[k]?.map fun x => decide (x.gang = 1)).getD false)) &&
  (d.tmpl == 0 || !d.ins.isEmpty) && decide (d.pool ≤ dies * (if d.cls = 0 then 8 else 8 / clsStrips d.cls)) && !o.reaches j j

/-- A stage's effective save extent (R305). -/
def OpRecord.extent (o : OpRecord) (j : Nat) (d : StageDecl) : Nat :=
  (o.insts j).foldl (fun n g => max n (g.extent.2 - 2048)) d.save

/-- A stage's member save size (R305). -/
def OpRecord.memberSize (o : OpRecord) (j : Nat) (d : StageDecl) : Nat :=
  2 ^ 20 + 3 * 2 ^ 19 * clsStrips d.cls + 512 * o.extent j d + 65536

/-- The save size of an operator: for every pool member, the largest size among the stages of its class. -/
def OpRecord.needSave (o : OpRecord) : Nat :=
  (o.stages.map fun d => d.pool * (o.stages.zipIdx.foldl (fun n x => if x.1.cls = d.cls then max n (o.memberSize x.2 x.1) else n) 0)).sum

/-- The Reel's words (R322, R323). -/
def reelOk (w : Word) : Bool :=
  fld w 48 15 == 0 && (!bitAt w 63 || (decide (fld w 16 8 < fld w 24 8) && !([1, 2, 3].contains (fld w 0 16))))

/-- Every check of a record but its fault ring's and its reserved bits. -/
def State.opOk (s : State) (o : OpRecord) : Bool :=
  let dies := (s.liveSites o.sites).length
  decide (0 < dies) && decide (o.rings.length ≤ 32) && decide (o.rmap.length ≤ 64) && o.ringsOk &&
  (o.stages.zipIdx.all fun x => o.stageOk dies x.2 x.1) && decide (o.needSave ≤ o.saveSz) && reelOk o.reel0 &&
  (o.rmap.all fun x => fld x.1 33 30 == 0 && fld x.1 6 10 == 0)

/-! ## Reading a record (R305) -/

/-- What the reading of a record gives. -/
inductive OpFound where
  | ok (r : OpRecord)
  | rejected (s : State)
  | wait (s : State)
  deriving DecidableEq, Repr

/-- What the reading of a fault ring's CFG gives: LOGN, or none where there is no ring; its page is refused; the record is
rejected; a wait. -/
inductive RingRead where
  | ok (logn : Option Nat)
  | lost (s : State)
  | rejected
  | wait (s : State)
  deriving DecidableEq, Repr

/-- The fault ring's CFG, read once as the operator starts (R340). -/
def State.readRing (s : State) (pasid : Nat) (o : OpRecord) : RingRead :=
  if o.fring = 0 then .ok none
  else match s.readWord pasid o.fring.toNat with
    | .wait s => .wait s
    | .refused s => .lost s
    | .ok l =>
      let c := l.headD 0
      if fld c 4 60 = 0 ∧ fld c 0 4 ≤ 12 then .ok (some (fld c 0 4)) else .rejected

/-- The record from its words and its tables' words. -/
def opOf (w st rg rm : List Word) : OpRecord :=
  let g (k : Nat) : Word := w.getD k 0
  { next := g 1, lcls := fld (g 0) 20 3, sites := BitVec.ofNat 6 (fld (g 0) 14 6), stages := (pieces 8 st).map stageOf,
    rings := (pairsOf rg).map fun x => (x.1, fld x.2 0 4), rmap := pairsOf rm, save := g 5, saveSz := (g 6).toNat, fring := g 7,
    fringLog := none, reel0 := g 8, eos := g 9 }

/-- The reserved bits and alignments of the record and its tables. follows says that its NEXT is read. -/
def opClean (w st rg : List Word) (follows : Bool) : Bool :=
  let g (k : Nat) : Nat := (w.getD k 0).toNat
  fld (w.getD 0 0) 40 24 == 0 && fld (w.getD 0 0) 0 14 == 0 && (!follows || g 1 % 256 == 0) && g 2 % 64 == 0 && g 3 % 16 == 0 &&
  g 5 % 4096 == 0 && g 7 % 4096 == 0 && ((w.drop 10).all fun x => x == 0) && (pieces 8 st).all stageClean && (pairsOf rg).all fun x => fld x.2 4 60 == 0

/-- Read and check an operator record at a host virtual address. -/
def State.readOp (s : State) (pasid hva : Nat) (follows : Bool) : OpFound :=
  match s.readWords pasid hva 32 with
  | .wait s => .wait s
  | .refused s => .rejected s
  | .ok w =>
    let g (k : Nat) : Nat := (w.getD k 0).toNat
    let c := w.getD 0 0
    if 32 < fld c 30 6 ∨ 64 < fld c 23 7 then .rejected s
    else match s.readWords pasid (g 2) (8 * (fld c 36 4 + 1)) with
      | .wait s => .wait s
      | .refused s => .rejected s
      | .ok st =>
        match s.readWords pasid (g 3) (2 * fld c 30 6) with
        | .wait s => .wait s
        | .refused s => .rejected s
        | .ok rg =>
          match s.readWords pasid (g 4) (2 * fld c 23 7) with
          | .wait s => .wait s
          | .refused s => .rejected s
          | .ok rm =>
            let o := opOf w st rg rm
            if opClean w st rg follows && s.opOk o then .ok o else .rejected s

/-! ## The start of an operator (R306, R307, R309) -/

/-- VDTAB of an operator: its sites in ascending order, densely from virtual die 0 (R306). -/
def bindSites (l : List (Fin 6)) : Word :=
  BitVec.ofNat 64 (packNat 8 (l.map fun i => 128 + i.val))

/-- The handle of a chain's operators (R362). -/
def Chain.handle (c : Chain) : Word := BitVec.ofNat 64 (c.key.toNat * 2 ^ 48 + c.queue * 2 ^ 32 + c.tag.toNat)

/-- The pipeline of an operator at its start. -/
def Chain.pipe (c : Chain) (id now : Nat) (vdtab : Word) (r : OpRecord) : Pipe where
  id := id
  chain := c.id
  queue := c.queue
  handle := c.handle
  key := c.key
  pasid := c.pasid
  lcls := max r.lcls c.cls
  record := r
  vdtab := vdtab
  bound := vdtab
  events := 0
  closed := 0
  pool := []
  seeds := r.stages.zipIdx.flatMap fun x => (List.range x.1.nseed).map fun n => (x.2, n)
  seedRecs := []
  tmpls := []
  tmplDue := (r.stages.zipIdx.filter fun x => x.1.tmpl != 0).map Prod.snd
  replays := []
  modes := r.stages.map fun _ => .open_
  shut := none
  faults := []
  written := 0
  dropped := 0
  retired := 0
  faulted := 0
  discarded := 0
  ud := false
  ended := false
  coreRep := []
  dieRep := []
  pre := .none
  saved := []
  mark := none
  sampleAt := now / tBclk * tBclk
  gangs := 0
  gbarDone := []

/-- Every instruction cache of the package is invalidated (R155). -/
def State.clearIcaches (s : State) : State :=
  allCores.foldl (fun s r => s.updCore r fun c => { c with icache := [] }) s

/-- The Sett receives a request for each stage (R309). -/
def State.sendRequests (s : State) (id lcls : Nat) (l : List (Nat × Nat × Nat)) : State :=
  s.updFe fun e => l.foldl (fun e x =>
    { e with reqs := e.reqs ++ [⟨id, x.1, x.2.1, x.2.2, lcls, s.now, e.order, [], 0⟩], order := e.order + 1 }) e

/-- Change a chain. -/
def State.updChain (s : State) (id : Nat) (f : Chain → Chain) : State :=
  s.updFe fun e => { e with chains := mapIf (fun c => c.id == id) f e.chains }

/-- An operator stands: its pipeline, its requests to the Sett, and its templates, which are read at once where their pages
are at hand (R305, R307). -/
def State.beginOp (s : State) (c : Chain) (idx : Nat) (r : OpRecord) : State :=
  let id := s.fe.nextId
  let p := c.pipe id s.now (bindSites (s.liveSites r.sites)) r
  let s := s.clearIcaches
  let s := s.updFe fun e => { e with nextId := e.nextId + 1, pipes := e.pipes ++ [p] }
  let s := s.updChain c.id fun c => { c with active := some id, shadow := none, opIdx := idx, next := r.next, ops := c.ops.drop 1 }
  let s := s.sendRequests id p.lcls (r.stages.zipIdx.map fun x => (x.2, x.1.cls, x.1.pool))
  (s.readTmpls p).1

/-! ## The end of a chain (R320, R321) -/

/-- The words of a completion record. -/
def Chain.record (c : Chain) (status now : Nat) : List Nat :=
  [c.tag.toNat * 2 ^ 32 + status * 2 ^ 24 + c.opIdx % 256 * 2 ^ 16 + (if c.ud then 1 else 0), c.done,
   c.faulted % 2 ^ 32 * 2 ^ 32 + c.discarded % 2 ^ 32, now]

/-- The chain is complete: its interrupt is raised, its packet has completed, and it is gone. -/
def State.closeChain (s : State) (c : Chain) : State :=
  let s := if c.irq then s.raiseIrq c.vec else s
  let s := s.updQueue c.queue fun q => { q with pkts := q.pkts.filter fun p => p.chain != some c.id }
  s.updFe fun e => { e with chains := e.chains.filter fun x => x.id != c.id, pipes := e.pipes.filter fun p => p.chain != c.id }

/-- A write of a chain's tasks has still to perform at package scope (R320). -/
def State.chainWrites (s : State) (c : Chain) : Bool :=
  let ids := (s.fe.pipes.filter fun p => p.chain == c.id).map Pipe.id
  sites.any fun i => (s.die i).buf.any fun w => match w.gang with | some (p, _) => ids.contains p | none => false

/-- A chain that has ended waits for its completion record. -/
def State.keepChain (s : State) (c : Chain) : State := s.updChain c.id fun _ => c

/-- A chain ends with a status: its completion record is written once every write of its tasks has performed, unless its
page is refused; until then the chain stands, its end decided (R320). -/
def State.endChain (s : State) (c : Chain) (status : Nat) : State :=
  let t := c.doneAt.getD s.bclk
  let c := { c with doneAt := some t, ending := some status }
  if s.chainWrites c then s.keepChain c
  else if c.cmp = 0 then s.closeChain c
  else match s.feXlat c.pasid c.cmp.toNat true with
    | .wait s => s.keepChain c
    | .refused => ((s.dropRefused .frontEnd c.pasid c.cmp.toNat).stopQueue c.queue 0x08 (s.pktIdx c)).closeChain c
    | .ok d =>
      if s.writeClear (lineOf d) then (s.writeWords d (c.record status t)).closeChain c
      else (s.askWrite (lineOf d)).keepChain c

/-- A record is rejected outside a batch, or as its operator starts: its queue stops with error 0x07 and its chain ends with
status 0x02 at it (R305, R340). -/
def State.rejectChain (s : State) (c : Chain) (idx : Nat) : State :=
  (s.stopQueue c.queue 0x07 (s.pktIdx c)).endChain { c with opIdx := idx } 0x02

/-- The expansion of a chain's next operator: read earlier, or read now. -/
def State.expand (s : State) (c : Chain) (idx : Nat) : OpFound :=
  match c.ops with
  | r :: _ => .ok r
  | [] => s.readOp c.pasid c.next.toNat (decide (idx + 1 < c.nops))

/-- An operator swaps in and starts: its fault ring's CFG is read, which may reject it (R340; log 67), and it stands. While
CFG's page is asked for, the record that has been read is kept, and it is not read again (R305). -/
def State.startOp (s : State) (c : Chain) (idx : Nat) (r : OpRecord) : State :=
  match s.readRing c.pasid r with
  | .wait s => if c.shadow.isSome then s else s.updChain c.id fun c => { c with ops := if c.ops.isEmpty then [r] else c.ops }
  | .rejected => s.rejectChain c idx
  | .lost s => (s.stopQueue c.queue 0x08 (s.pktIdx c)).beginOp c idx { r with fring := 0 }
  | .ok n => s.beginOp c idx { r with fringLog := n }

/-- EXPANSION_STEP: into the active bank if no operator of the chain runs, else into the shadow bank; a chain that has ended
tries to write its completion record. Where the shadow bank rejects operator n + 1 while n still runs, R305 and R307 fix the
status that follows n and not when the queue stops with 0x07: the model stops it at the rejection. DESIGN CHOICE (log 127). -/
def execExpansionStep (id : Nat) (s : State) : Host.Outcome State Fault Refusal :=
  go (match s.chain? id with
    | none => s
    | some c =>
      match c.ending with
      | some st => s.endChain c st
      | none =>
        match c.active, c.shadow with
        | none, none =>
          match s.expand c c.opIdx with
          | .wait s => s
          | .rejected s => s.rejectChain c c.opIdx
          | .ok r => s.startOp c c.opIdx r
        | none, some (.ok r) => s.startOp c c.opIdx r
        | none, some .rejected => s.endChain c 0x02
        | some _, none =>
          if c.opIdx + 1 < c.nops then
            match s.expand c (c.opIdx + 1) with
            | .wait s => s
            | .rejected s => (s.stopQueue c.queue 0x07 (s.pktIdx c)).updChain id fun c => { c with shadow := some .rejected }
            | .ok r => s.updChain id fun c => { c with shadow := some (.ok r) }
          else s
        | some _, some _ => s)

end Sys2Proof.Machine
end

