-- ==== Sys2Proof/Machine/Completion.lean ====
section
/-! DEFINITION. The completion tree (R307, R319, R320). -/

namespace Sys2Proof.Machine

/-- A core held work of a pipeline. -/
def Pipe.held (p : Pipe) (r : CoreRef) : Bool := p.pool.any fun m => m.at_ == r

/-- Nothing of a pipeline is left on a core, its bare lease included. -/
def State.coreDone (s : State) (p : Pipe) (r : CoreRef) : Bool :=
  !(((s.core r).task.map fun t => t.pipe == p.id).getD false) &&
  !((s.die r.site).leases.any fun l => l.pipe == p.id && l.kind.lead == r.core && match l.kind with | .bare .. => true | .frag .. => false)

/-- Every core of a die that held work has reported, and no lease of the pipeline stands there. -/
def State.dieDone (s : State) (p : Pipe) (i : Fin 6) : Bool :=
  (p.pool.all fun m => m.at_.site != i || p.coreRep.contains m.at_) && !((s.die i).leases.any fun l => l.pipe == p.id)

/-- The operator completes at the top (R307): its counts go to the chain, and the chain ends or its banks swap. -/
def State.operatorDone (s : State) (p : Pipe) (c : Chain) : State :=
  let status := (p.shut.map BitVec.toNat).getD 0
  let c := { c with done := c.done + p.retired, faulted := c.faulted + p.faulted, discarded := c.discarded + p.discarded,
                    ud := c.ud || (p.ud && status == 0) }
  if status ≠ 0 then s.endChain c status
  else if c.nops ≤ c.opIdx + 1 then s.endChain c 0
  else
    let c := { c with active := none, opIdx := c.opIdx + 1 }
    let s' := s.updFe fun e => { e with pipes := e.pipes.filter fun x => x.id != p.id, chains := mapIf (fun x => x.id == c.id) (fun _ => c) e.chains }
    match c.shadow with
    | some (.ok r) => s'.startOp c c.opIdx r
    | some .rejected => s'.endChain c 0x02
    | none => s'

/-- COMPLETION_REPORT: each level reports once. -/
def execCompletionReport (p : Nat) (lvl : CompLevel) (s : State) : Host.Outcome State Fault Refusal :=
  let s := s.endIfDone p
  go (match s.pipe? p with
    | none => s
    | some q =>
      match lvl with
      | .core r =>
        if q.ended && q.held r && s.coreDone q r then s.updPipe p fun q => { q with coreRep := addNew r q.coreRep } else s
      | .die i =>
        if q.ended && s.dieDone q i then s.updPipe p fun q => { q with dieRep := addNew i q.dieRep } else s
      | .package =>
        if q.ended && q.faults.isEmpty && q.pool.all fun m => q.dieRep.contains m.at_.site then
          match s.chain? q.chain with
          | some c => match c.ending with
            | some st => s.endChain c st
            | none => s.operatorDone q c
          | none => s
        else s)

end Sys2Proof.Machine
end

