-- ==== Sys2Proof/Machine/Sett.lean ====
section
/-! DEFINITION. The Sett (R308 to R318): grants, zeroing, reservations, returns, scrubs and rejoins. -/

namespace Sys2Proof.Machine

/-! ## The buddy tree (R29, R30, R310, R317) -/

/-- The layout bits of the ancestors of a node of n strips. -/
def ancestors (lead n : Nat) : List Nat :=
  match n with
  | 8 => []
  | 4 => [0]
  | 2 => [0, 1 + lead / 4]
  | _ => [0, 1 + lead / 4, 3 + lead / 2]

/-- The layout bit of a node; none for a strip. -/
def nodeBit (lead n : Nat) : Option Nat :=
  match n with
  | 8 => some 0
  | 4 => some (1 + lead / 4)
  | 2 => some (3 + lead / 2)
  | _ => none

/-- The layout word after a node is granted. -/
def layoutGrant (w : BitVec 7) (lead n : Nat) : BitVec 7 :=
  let w := (ancestors lead n).foldl (fun w b => setFld w b 1 1) w
  match nodeBit lead n with
  | some b => setFld w b 1 0
  | none => w

/-- Strips a to a + n - 1 are all Free. -/
def Die.freeRun (d : Die) (a n : Nat) : Bool := (List.range n).all fun k => d.strips[Fin.ofNat 8 (a + k)] == .free

/-- Rejoin the quarters, then the halves, then the root (R317). -/
def Die.rejoin (d : Die) : Die :=
  let clear (w : BitVec 7) (b : Nat) (ok : Bool) : BitVec 7 := if ok then setFld w b 1 0 else w
  let w := [0, 1, 2, 3].foldl (fun w q => clear w (3 + q) (d.freeRun (2 * q) 2)) d.layout
  let w := [0, 1].foldl (fun w h => clear w (1 + h) (!bitAt w (3 + 2 * h) && !bitAt w (4 + 2 * h) && d.freeRun (4 * h) 4)) w
  { d with layout := clear w 0 (!bitAt w 1 && !bitAt w 2 && d.freeRun 0 8) }

/-! ## What a request can take (R310, R311) -/

/-- The bare lease on a core. -/
def Die.bareOn (d : Die) (c : Fin 8) : Bool :=
  d.leases.any fun l => match l.kind with | .bare k _ => k == c | .frag .. => false

/-- The dies on which a request may be granted: those of its operator that are not fenced, and not reserved for another. -/
def State.reqSites (s : State) (q : SettReq) : List (Fin 6) :=
  match s.pipe? q.pipe with
  | none => []
  | some p => sites.filter fun i =>
      (vdieOf p.vdtab i.val).isSome && (s.die i).present && !(s.die i).fenced && !(s.die i).training &&
      !(s.fe.reqs.any fun x => x.order != q.order && x.reserved.contains i)

/-- The available positions of n strips on a die, by lead strip (R310). -/
def Die.positions (d : Die) (n : Nat) : List Nat :=
  ((List.range (8 / n)).map fun k => k * n).filter fun a =>
    d.freeRun a n && (List.range n).all fun k => !d.bareOn (Fin.ofNat 8 (a + k))

/-- The fragments that a request takes, first fit; fewer than its count if it cannot be granted. -/
def State.fragPicks (s : State) (q : SettReq) : List (Fin 6 × Nat) :=
  ((s.reqSites q).flatMap fun i => ((s.die i).positions (clsStrips q.cls)).map fun a => (i, a)).take q.count

/-- Cores with Free strips, by rising site and falling index. -/
def State.freeCores (s : State) (l : List (Fin 6)) : List (CoreRef × Bool) :=
  l.flatMap fun i => (coreIdxs.reverse.filter fun c => (s.die i).strips[c] == .free && !(s.die i).bareOn c).map fun c => (⟨i, c⟩, true)

/-- Lent cores, by rising site and index. -/
def State.lentCores (s : State) (l : List (Fin 6)) : List (CoreRef × Bool) :=
  l.flatMap fun i => (coreIdxs.filter fun c =>
    (s.die i).strips[c] == .leased && !(s.die i).bareOn c &&
    match (s.die i).fragOf c with | some (lead, _) => lead != c | none => false).map fun c => (⟨i, c⟩, false)

/-- The cores that a stage of class none can take on dies, in order, each with whether its strip comes with it (R311). -/
def State.barePool (s : State) (q : SettReq) (l : List (Fin 6)) : List (CoreRef × Bool) :=
  let ins := ((s.pipe? q.pipe).bind fun p => p.record.stages[q.stage]?).any fun d => !d.ins.isEmpty
  if ins then s.freeCores l else s.lentCores l ++ s.freeCores l

/-! ## A grant (R310 to R313) -/

/-- Zero a strip window, both halves and the PE accumulators. -/
def Stores.zeroStrip (t : Stores) : Stores :=
  { t with
    rows := t.rows.filter fun x => decide (x.1 < 2048), poison := t.poison.filter (· < 2048)
    bankA := [], bankB := [], acc := [], poisonA := [], poisonB := [] }

/-- Zero a private region. -/
def Stores.zeroPrivate (t : Stores) : Stores :=
  { t with rows := t.rows.filter fun x => decide (2048 ≤ x.1), poison := t.poison.filter (2048 ≤ ·) }

/-- What a grant does to a core that it takes, with its strip where strip is set: zero what another owned, wake gated banks,
undefine rings, and leave both halves clean. -/
def Core.taken (c : Core) (zeroCore zeroStrip strip : Bool) : Core :=
  let c := { c with rings := Vector.replicate 32 RingInst.reset }
  let c := if zeroCore then { c with st := c.st.zeroPrivate, cnt := Vector.replicate 256 0 } else c
  let c := if zeroStrip then { c with st := c.st.zeroStrip } else c
  if strip then { c with st := { c.st with dirtyA := false, dirtyB := false, waking := c.st.waking ||| c.st.gated, gated := 0 } } else c

/-- Take one core of a die for an owner; whether anything is zeroed. -/
def Die.take (d : Die) (key : BitVec 8) (strip : Bool) (c : Fin 8) : Die × Bool :=
  let zc := d.coreOwner[c] != some key
  let zs := strip && d.stripOwner[c] != some key
  ({ d.updCore c fun k => k.taken zc zs strip with
     coreOwner := d.coreOwner.set c (some key)
     stripOwner := if strip then d.stripOwner.set c (some key) else d.stripOwner }, zc || zs)

/-- Take several cores with their strips; whether anything is zeroed, and the strips that are. -/
def Die.takeAll (d : Die) (key : BitVec 8) : List (Fin 8) → Die × Bool × List (Fin 8)
  | [] => (d, false, [])
  | c :: t =>
    let zs := if d.stripOwner[c] != some key then [c] else []
    let (d, a) := d.take key true c
    let (d, b, l) := d.takeAll key t
    (d, a || b, zs ++ l)

/-- The clk that zeroing takes (R313). -/
def zeroClk : Nat := 2048

/-- The strips of a fragment. -/
def stripsOf (lead n : Nat) : List (Fin 8) := (List.range n).map fun k => Fin.ofNat 8 (lead + k)

/-- A grant has started the wake of the gated banks of the strips that it took from s (R102, R313). -/
def State.grantWakes (t s : State) (i : Fin 6) (l : List (Fin 8)) : State :=
  if l.any fun c => (s.core ⟨i, c⟩).st.gated != 0 then t.waking else t

/-- Lease a fragment to a stage: each strip of another or unknown owner is Zeroing, each other strip Leased (R316). -/
def State.leaseFrag (s : State) (p : Pipe) (stage n : Nat) (i : Fin 6) (lead : Nat) : State :=
  State.grantWakes (s := s) (i := i) (l := stripsOf lead n) <| s.updDie i fun d =>
    let (d, z, zs) := d.takeAll p.key (stripsOf lead n)
    let until_ := s.now + zeroClk * tClk
    { d with
      grantAt := some s.now
      layout := layoutGrant d.layout lead n
      strips := (stripsOf lead n).foldl (fun v (c : Fin 8) => v.set c (if c ∈ zs then .zeroing until_ else .leased)) d.strips
      leases := d.leases ++ [⟨p.id, stage, .frag (Fin.ofNat 8 lead) n, if z then some until_ else none, none, false, false⟩] }

/-- Lease a core to a stage. -/
def State.leaseBare (s : State) (p : Pipe) (stage : Nat) (r : CoreRef) (strip : Bool) : State :=
  State.grantWakes (s := s) (i := r.site) (l := if strip then [r.core] else []) <| s.updDie r.site fun d =>
    let (d, z) := d.take p.key strip r.core
    { d with grantAt := some s.now, leases := d.leases ++ [⟨p.id, stage, .bare r.core strip, if z then some (s.now + zeroClk * tClk) else none, none, false, false⟩] }

/-- A stage of a pipeline that resumes has saved members to place (R345). -/
def Pipe.resumesStage (p : Pipe) (stage : Nat) : Bool := p.pre == .resuming && p.saved.any fun v => v.stage == stage

/-- A core joins the pool of a stage; its ring instances stand once it is zeroed, but for a saved member's. -/
def State.joinPool (s : State) (p : Pipe) (stage : Nat) (r : CoreRef) : State :=
  let s := s.updPipe p.id fun q => { q with pool := q.pool ++ [⟨stage, r, 0, vcoreOf p.vdtab r⟩] }
  if !p.resumesStage stage && (((s.die r.site).leaseOf p.id r.core).map fun l => l.zeroUntil.isNone).getD false then s.defineRings p stage r else s

/-- A request goes. -/
def State.dropReq (s : State) (q : SettReq) : State := s.updFe fun e => { e with reqs := e.reqs.filter fun x => x.order != q.order }

/-- Grant these fragments to a request. -/
def State.grantFrags (s : State) (p : Pipe) (q : SettReq) (l : List (Fin 6 × Nat)) : State :=
  (l.foldl (fun s x => (s.leaseFrag p q.stage (clsStrips q.cls) x.1 x.2).joinPool p q.stage ⟨x.1, Fin.ofNat 8 x.2⟩) s).dropReq q

/-- Grant these cores to a request. -/
def State.grantCores (s : State) (p : Pipe) (q : SettReq) (l : List (CoreRef × Bool)) : State :=
  (l.foldl (fun s x => (s.leaseBare p q.stage x.1 x.2).joinPool p q.stage x.1) s).dropReq q

/-! ## Chain-linked members that resume (R345) -/

/-- The saved members of a pipeline that feed another, as indices of the list. -/
def Pipe.pairs (p : Pipe) : List (Nat × Nat) := p.saved.zipIdx.filterMap fun x => x.1.partner.map fun j => (x.2, j)

/-- The saved members in runs of chain-linked ones, each from its first member. -/
def Pipe.runFrom (p : Pipe) (i : Nat) : Nat → List Nat
  | 0 => []
  | n + 1 => match (p.saved[i]?).bind Saved.partner with
    | some j => i :: p.runFrom j n
    | none => [i]

/-- Every run: members fed by no other come first in theirs. -/
def Pipe.runs (p : Pipe) : List (List Nat) :=
  ((List.range p.saved.length).filter fun i => !(p.pairs.any fun x => x.2 == i)).map fun i => p.runFrom i p.saved.length

/-- Place runs of n-strip fragments, first fit, each run on consecutive positions of one die. -/
def placeRuns (avail : List (Fin 6 × Nat)) (n : Nat) : List (List Nat) → Option (List (Nat × Fin 6 × Nat))
  | [] => some []
  | run :: t =>
    match avail.find? fun x => (List.range run.length).all fun k => avail.contains (x.1, x.2 + k * n) with
    | none => none
    | some x =>
      let mine := run.zipIdx.map fun y => (y.1, x.1, x.2 + y.2 * n)
      (placeRuns (avail.filter fun a => !(mine.any fun y => y.2 == a)) n t).map fun l => mine ++ l

/-- The class of a saved member. -/
def Pipe.savedCls (p : Pipe) (i : Nat) : Nat :=
  ((p.saved[i]?).bind fun v => p.record.stages[v.stage]?.map StageDecl.cls).getD 0

/-- The stages whose saved members are linked with those of a stage, itself included. -/
def Pipe.linkedStages (p : Pipe) (stage : Nat) : List Nat :=
  let of_ (i : Nat) : Option Nat := p.saved[i]?.map Saved.stage
  let step (l : List Nat) : List Nat := p.runs.foldl (fun l run =>
    if run.any fun i => match of_ i with | some j => l.contains j | none => false then (run.filterMap of_).foldl (fun l j => addNew j l) l else l) l
  (List.range 16).foldl (fun l _ => step l) [stage]

/-- Grant the requests of linked stages of a pipeline that resumes at one instant: every run on one die, in order. The
members join the pool in the order of the saved list, so that the k-th of a stage takes the k-th saved of it. -/
def State.grantLinked (s : State) (p : Pipe) (q : SettReq) : Option State :=
  let stages := p.linkedStages q.stage
  let reqs := s.fe.reqs.filter fun x => x.pipe == p.id && stages.contains x.stage
  let n := clsStrips q.cls
  let mine (i : Nat) : Bool := ((p.saved[i]?).map fun v => stages.contains v.stage).getD false
  let avail := (s.reqSites q).flatMap fun i => ((s.die i).positions n).map fun a => (i, a)
  if reqs.length ≠ stages.length then none
  else match placeRuns avail n (p.runs.filter fun r => r.any mine) with
    | none => none
    | some l =>
      let s := (List.range p.saved.length).foldl (fun s i =>
        match l.find? fun y => y.1 == i, p.saved[i]? with
        | some (_, die, lead), some v => (s.leaseFrag p v.stage n die lead).joinPool p v.stage ⟨die, Fin.ofNat 8 lead⟩
        | _, _ => s) s
      some (reqs.foldl State.dropReq s)

/-! ## The order of consideration (R312) -/

/-- A pipeline is sliced: its KEY stands in the slice table (R370). -/
def State.sliced (s : State) (p : Pipe) : Bool :=
  s.fab.sliceEn && (List.range (s.fab.sliceN.toNat + 1)).any fun e => byteOf s.fab.slKeys e == p.key

/-- A pipeline's tenant is sliced and outside its slice (R370). -/
def State.slicedOut (s : State) (p : Pipe) : Bool :=
  let n := s.fab.sliceN.toNat + 1
  match s.fab.sliceNo with
  | some k => s.sliced p && byteOf s.fab.slKeys (k % n) != p.key
  | none => false

/-- A request may be considered: its operator runs or resumes, inside its slice. -/
def State.considered (s : State) (q : SettReq) : Bool :=
  match s.pipe? q.pipe with
  | none => false
  | some p => !p.ended && (p.pre == .none || p.pre == .resuming) && !s.slicedOut p

/-- Whether a request comes before another. -/
def SettReq.before (a b : SettReq) : Bool :=
  match a.reserved.isEmpty, b.reserved.isEmpty with
  | false, true => true
  | true, false => false
  | false, false => decide (a.resAt < b.resAt)
  | true, true => decide (a.lcls < b.lcls) || (a.lcls == b.lcls && decide (a.order < b.order))

/-- Put a request into its place. -/
def insertReq (q : SettReq) : List SettReq → List SettReq
  | [] => [q]
  | x :: t => if q.before x then q :: x :: t else x :: insertReq q t

/-- The pending requests in the order of R312. -/
def State.reqOrder (s : State) : List SettReq := (s.fe.reqs.filter s.considered).foldr insertReq []

/-- Grant a request, if it can be granted whole. -/
def State.grant (s : State) (q : SettReq) : Option State :=
  match s.pipe? q.pipe with
  | none => none
  | some p =>
    if q.cls = 0 then
      let l := (s.barePool q (s.reqSites q)).take q.count
      if l.length = q.count then some (s.grantCores p q l) else none
    else if p.resumesStage q.stage then s.grantLinked p q
    else
      let l := s.fragPicks q
      if l.length = q.count then some (s.grantFrags p q l) else none

/-- SETT_GRANT: the first request in order that can be granted is granted, whole. -/
def execSettGrant (s : State) : Host.Outcome State Fault Refusal := go (((s.reqOrder).findSome? s.grant).getD s)

/-! ## Zeroing (R313, R316) -/

/-- The earliest end of zeroing on a die. -/
def Die.zeroEnd (d : Die) : Option Nat := (d.leases.filterMap Lease.zeroUntil).min?

/-- A lease that has been zeroed by a tick. -/
def Lease.zeroedBy (l : Lease) (t : Nat) : Bool := match l.zeroUntil with | some u => decide (u ≤ t) | none => false

/-- ZEROING_DONE: the strips that were zeroed first are Leased, and their ring instances stand; those of a lease whose operator
has ended go on to Returning. -/
def execZeroingDone (site : Fin 6) (s : State) : Host.Outcome State Fault Refusal :=
  go (match (s.die site).zeroEnd with
    | none => s
    | some t =>
      let s := s.at_ t
      let done := (s.die site).leases.filter fun l => l.zeroedBy t
      let s := s.updDie site fun d => { d with
        strips := done.foldl (fun v l => match l.kind with
          | .frag lead n => if l.returning then (stripsOf lead.val n).foldl (fun v (c : Fin 8) => v.set c .returning) v else v
          | .bare .. => v) (d.strips.map fun x => match x with | .zeroing u => if u ≤ t then .leased else .zeroing u | y => y)
        leases := mapIf (fun l => l.zeroedBy t) (fun l => { l with zeroUntil := none }) d.leases }
      done.foldl (fun s l => match s.pipe? l.pipe with
        | some p => if !p.resumesStage l.stage && !l.returning then s.defineRings p l.stage ⟨site, l.kind.lead⟩ else s
        | none => s) s)

/-! ## Reservations (R314) -/

/-- Fragments of a request's class, or cores, that a die could hold once its leases return. -/
def SettReq.perDie (q : SettReq) : Nat := if q.cls = 0 then 8 else 8 / clsStrips q.cls

/-- How far a die is from satisfying a request that lacks n (R314). -/
def State.distance (s : State) (q : SettReq) (n : Nat) (i : Fin 6) : Nat :=
  let d := s.die i
  if q.cls = 0 then n - (s.barePool q [i]).length
  else
    let k := clsStrips q.cls
    ((stripsOf 0 (min n q.perDie * k)).filter fun c => match d.strips[c] with
      | .free => d.bareOn c
      | .fenced => false
      | _ => true).length

/-- The nearest of some dies; the lower site on a tie. -/
def State.nearest (s : State) (q : SettReq) (n : Nat) : List (Fin 6) → Option (Fin 6)
  | [] => none
  | i :: t => match s.nearest q n t with
    | some j => if s.distance q n j < s.distance q n i then some j else some i
    | none => some i

/-- Reserve dies, nearest first, until they could hold the whole request, over at most n dies. -/
def State.reserveFor (s : State) (q : SettReq) : Nat → List (Fin 6)
  | 0 => q.reserved
  | n + 1 =>
    let have_ := q.reserved.length * q.perDie
    if q.count ≤ have_ then q.reserved
    else match s.nearest q (q.count - have_) ((s.reqSites q).filter fun i => !q.reserved.contains i) with
      | none => q.reserved
      | some i => s.reserveFor { q with reserved := q.reserved ++ [i] } n

/-- SETT_RESERVE: the n-th request has waited longer than SETTAGE. -/
def execSettReserve (n : Nat) (s : State) : Host.Outcome State Fault Refusal :=
  go (match s.fe.reqs[n]? with
    | none => s
    | some q =>
      if !s.considered q then s
      else
        let s := s.at_ (q.since + s.mgmt.settAge.toNat * tUs)
        let l := s.reserveFor q 6
        s.updFe fun e => { e with
          order := e.order + 1
          reqs := mapIf (fun x => x.order == q.order) (fun x =>
            { x with reserved := l, resAt := if x.reserved.isEmpty then e.order else x.resAt }) e.reqs })

/-! ## Returns and scrubs (R315 to R317) -/

/-- The cores of a lease's strips. -/
def Lease.cores (l : Lease) : List (Fin 8) :=
  match l.kind with
  | .frag lead n => stripsOf lead.val n
  | .bare c _ => [c]

/-- A lease is gone: its strips are Free and rejoin. -/
def State.freeLease (s : State) (i : Fin 6) (l : Lease) : State :=
  let s := s.updCore ⟨i, l.kind.lead⟩ Core.undefineRings
  s.updDie i fun d =>
    { d with
      leases := d.leases.erase l
      strips := match l.kind with
        | .frag .. => l.cores.foldl (fun v (c : Fin 8) => v.set c .free) d.strips
        | .bare .. => d.strips }.rejoin

/-- Drain rules 2 to 5 hold. -/
def State.drainedFrag (s : State) (i : Fin 6) (l : Lease) : Bool :=
  let lead := s.core ⟨i, l.kind.lead⟩
  (l.cores.all fun c =>
    let t := (s.core ⟨i, c⟩).st
    t.acc.isEmpty && !t.dirtyA && !t.dirtyB) &&
  lead.linkOut.isNone && lead.linkIn.isNone && lead.defined.all RingInst.empty

/-- A returning lease led by a core, zeroed and not under a scrub. -/
def State.returningAt (s : State) (r : CoreRef) : Option Lease :=
  (s.die r.site).leases.find? fun l => l.kind.lead == r.core && l.returning && l.zeroUntil.isNone && l.scrubUntil.isNone

/-- The clk that a scrub takes (R315). -/
def scrubClk : Nat := 128

/-- LEASE_RETURN: no command of the lead core is queued or runs; the lease is freed, or scrubbed. -/
def execLeaseReturn (r : CoreRef) (s : State) : Host.Outcome State Fault Refusal :=
  go (match s.returningAt r with
    | none => s
    | some l =>
      if (s.core r).task.isSome || !(s.core r).quiet then s
      else
        let clean := match l.kind with | .bare .. => true | .frag .. => l.noScrub || s.drainedFrag r.site l
        if clean then s.freeLease r.site l
        else
          let s := s.updPipe l.pipe fun p => { p with ud := true }
          s.updDie r.site fun d => { d with leases := mapIf (fun x => x == l) (fun x => { x with scrubUntil := some (s.now + scrubClk * tClk) }) d.leases })

/-- Zero A26 and both halves of a strip. -/
def Stores.scrub (t : Stores) : Stores :=
  { t with acc := [], bankA := [], bankB := [], poisonA := [], poisonB := [], dirtyA := false, dirtyB := false }

/-- What a scrub or the cleaning of a pre-emption does to a fragment. -/
def State.cleanFrag (s : State) (i : Fin 6) (l : Lease) : State :=
  let s := l.cores.foldl (fun s c => s.updSt ⟨i, c⟩ Stores.scrub) s
  (((s.unlinkOut ⟨i, l.kind.lead⟩).unlinkIn ⟨i, l.kind.lead⟩)).updCore ⟨i, l.kind.lead⟩ Core.undefineRings

/-- SCRUB_DONE. -/
def execScrubDone (r : CoreRef) (s : State) : Host.Outcome State Fault Refusal :=
  go (match (s.die r.site).leases.find? fun l => l.kind.lead == r.core && l.scrubUntil.isSome with
    | none => s
    | some l => (((s.at_ (l.scrubUntil.getD 0)).cleanFrag r.site l).freeLease r.site l))

end Sys2Proof.Machine
end

