-- ==== Sys2Proof/Machine/Preempt.lean ====
section
/-! DEFINITION. Pre-emption, resumption and time slices (R71 to R73, R255, R344 to R346, R366, R369, R370). -/

namespace Sys2Proof.Machine

/-! ## The request (R344 steps 1 and 2) -/

/-- A running task is to stop: at once where its region is open, else at its next barrier; gangs stop together. -/
def State.preempt (s : State) (id : Nat) : State :=
  match s.pipe? id with
  | none => s
  | some p =>
    if p.ended || p.pre != .none then s
    else
      let s := s.updPipe id fun p => { p with pre := .stopping, mark := none }
      let mine := allCores.filter fun r => match (s.core r).task with
        | some t => t.pipe == id && t.phase == .running
        | none => false
      let s := mine.foldl (fun s r => s.updTask r fun t => { t with phase := .stopping }) s
      mine.foldl State.stopGang s

/-- A stopped pipeline asks for its members back (R345 step 1). -/
def State.resume (s : State) (id : Nat) : State :=
  match s.pipe? id with
  | none => s
  | some p =>
    if p.pre != .stopped || s.slicedOut p then s
    else
      let s := s.updPipe id fun p => { p with pre := .resuming }
      s.sendRequests id p.lcls ((p.record.stages.zipIdx.map fun x => (x.2, x.1.cls, (p.saved.filter fun v => v.stage == x.2).length)).filter
        fun x => x.2.2 != 0)

/-! ## Saving (R72, R255, R344 steps 3 to 5) -/

/-- An entry is a MIGRATE, which pre-emption detaches (R255). -/
def QEntry.isMigrate (e : QEntry) : Bool := match e.cmd with | .migrate .. => true | _ => false

/-- No command of a core runs but a MIGRATE. -/
def Core.engStopped (c : Core) : Bool := c.eng.toList.all fun q => q.all fun e => !e.started || e.isMigrate

/-- A release of a child's SPAWN has nothing left to perform at package scope. -/
def State.kidFlushed (s : State) (r : CoreRef) (k : Child) : Bool :=
  !(s.die r.site).buf.any fun w => w.covered k.relBy k.rel.mask k.rel.seq

/-- A core is ready to be saved: its task has stopped, no command runs, its accesses and its children's releases have
performed at package scope. -/
def State.savable (s : State) (r : CoreRef) : Bool :=
  let c := s.core r
  (match c.task with | some t => t.phase == .stopped | none => true) && c.engStopped &&
  (ctxNames.all fun n => (c.ctx n).out.isEmpty && s.flushed ⟨r, n⟩ allCls) && c.kids.all (s.kidFlushed r)

/-- Detach a core's started MIGRATEs. -/
def State.detach (s : State) (r : CoreRef) : State :=
  let gone := ((s.core r).eng.toList.flatMap id).filter fun e => e.started && e.isMigrate
  let s := s.unpin (gone.flatMap QEntry.pages)
  let s := s.updCore r fun c => { c with eng := c.eng.map fun q => q.filter fun e => !(e.started && e.isMigrate) }
  s.updHomes fun h => { h with migs := mapIf (fun m => m.core == some r) (fun m => { m with core := none }) h.migs }

/-- A QFENCE that its queue had reached is queued again. -/
def QEntry.unreach (e : QEntry) : QEntry := if e.state = .reached then { e with state := .queued } else e

/-- The cores of the further strips of a member. -/
def State.furtherCores (s : State) (id : Nat) (r : CoreRef) : List CoreRef :=
  match (s.die r.site).leaseOf id r.core with
  | some ⟨_, _, .frag _ n, _, _, _, _⟩ => (List.range (n - 1)).map fun k => coreSouth r (k + 1)
  | _ => []

/-- Whether a member's lease holds the strip of its core: a fragment's does, a core's where its Free strip came with it. -/
def State.ownsStrip (s : State) (id : Nat) (r : CoreRef) : Bool :=
  match ((s.die r.site).leaseOf id r.core).map Lease.kind with
  | some (.frag ..) => true
  | some (.bare _ strip) => strip
  | none => false

/-- What is saved of a member; a core whose strip is another's saves its private region alone (R35, R72). -/
def State.saveOf (s : State) (p : Pipe) (m : Member) : Saved :=
  let c := s.core m.at_
  let c := if s.ownsStrip p.id m.at_ then c else { c with st := c.st.zeroStrip }
  { stage := m.stage
    vnum := m.vnum
    task := c.task
    at_ := m.at_
    lead := { c with eng := c.eng.map fun q => q.map QEntry.unreach }
    members := (s.furtherCores p.id m.at_).map fun r => (s.core r).st
    partner := c.linkOut.bind fun g => p.pool.findIdx? fun x => x.at_ == ⟨m.at_.site, g⟩ }

/-- Commit what a core's contexts and its children's releases cover. -/
def State.commitCore (s : State) (r : CoreRef) : State :=
  let s := s.commitTask r
  (s.core r).kids.foldl (fun s k => s.commitCovered k.relBy k.rel.mask) s

/-- A member is cleaned, and its lease returns without a scrub. -/
def State.cleanMember (s : State) (id : Nat) (r : CoreRef) : State :=
  let s := match (s.die r.site).leaseOf id r.core with
    | some l => match l.kind with
      | .frag .. => s.cleanFrag r.site l
      | .bare .. => s.updCore r Core.undefineRings
    | none => s
  let s := s.updCore r fun c => { c.updCtxs (fun x => { x with status := .stopped }) with
    task := none, kids := [], eng := Vector.replicate 6 [], sideLog := [], linkOut := none, linkIn := none }
  s.updLease id r fun l => { l with noScrub := true }

/-- The pipelines of a list that are stopping. -/
def State.stoppingOf (s : State) (l : List Nat) : List Nat :=
  l.filter fun id => (s.pipe? id).any fun p => p.pre == .stopping && !p.ended

/-- After a slice boundary, the pipelines of the incoming KEY resume once those that boundaries have pre-empted have stopped
(R370 step 2). A pre-emption that is not a boundary's holds nothing back and resumes nothing. -/
def State.resumeSlice (s : State) : State :=
  match s.fab.switching with
  | none => s
  | some l =>
    if s.fab.sliceNo.isNone || !s.fab.sliceEn || !(s.stoppingOf l).isEmpty then s
    else (s.fe.pipes.filter fun p => s.sliced p && p.pre == .stopped && !s.slicedOut p).foldl (fun s p => s.resume p.id)
      { s with fab := { s.fab with switching := none } }

/-- The 4 KiB pages that a save writes: SAVE and on, as far as the save size of R305 goes. -/
def OpRecord.savePages (o : OpRecord) : List Nat :=
  (List.range ((min o.needSave o.saveSz + 4095) / 4096)).map fun k => (o.save.toNat + 4096 * k) % 2 ^ 64

/-- What the translation of the save area gives: the DLAs of its pages, less those that the host refuses, or a wait. -/
inductive SaveXlat where
  | ok (dlas : List Nat)
  | wait (s : State)
  deriving DecidableEq, Repr

/-- Translate the pages of a save area (R321). -/
def State.xlatSave (s : State) (pasid : Nat) : List Nat → SaveXlat
  | [] => .ok []
  | a :: t =>
    match s.feXlat pasid a true with
    | .wait s => .wait s
    | .refused => s.xlatSave pasid t
    | .ok d => match s.xlatSave pasid t with
      | .ok l => .ok (d :: l)
      | r => r

/-- The lines of the 4 KiB that hold an address. -/
def saveLines (d : Nat) : List Nat := (List.range 32).map fun k => d / 4096 * 32 + k

/-- The lines of 4 KiB are written at their home: lines of a page that is being copied are marked (R95), notes on their
words stand no longer, and monitors on them see the write (R123). -/
def State.writePage (s : State) (n d : Nat) : State :=
  let s := (s.updHomes fun h =>
    if h.noKey (pageOf d) then h
    else (saveLines d).foldl Homes.markLine { h with mem := h.mem.freePage (d / 4096) n }).overwrite fun x => x / 512 == d / 4096
  (saveLines d).foldl (fun s l => (s.touchLlc l).triggerAll l) s

/-- The save area is written (R72): the manual gives it no layout, so its bytes are free (log 38). -/
def State.writeSave (s : State) (dlas : List Nat) : State :=
  if dlas.isEmpty then s
  else
    let (s, n) := s.draw
    dlas.foldl (fun s d => s.writePage n d) s

/-- Writes that wait for saved instances of an operator go into those that have a free slot, in order (R366). -/
def State.applyBuffered (s : State) (h : Word) : State :=
  (s.fab.rwbuf.filter fun w => w.handle == h).foldl (fun s w => match s.arrive w with
    | .applied s => { s with fab := { s.fab with rwbuf := s.fab.rwbuf.erase w } }
    | _ => s) s

/-- What an invalidation waits for on a lead core moves into the saved state of a pipeline (R77). -/
def useSaved (p : Nat) (cores : List CoreRef) (u : Option Nat × CtxRef × Nat) : Option Nat × CtxRef × Nat :=
  if u.1.isNone && cores.contains u.2.1.at_ then (some p, u.2) else u

/-- A pipeline's members are saved, cleaned and returned (R344 steps 3 to 5). -/
def State.saveAll (s : State) (q : Pipe) (p : Nat) (dlas : List Nat) : State :=
  let cores := q.pool.map Member.at_
  let s := cores.foldl (fun s r => (s.detach r).commitCore r) s
  let saved := q.pool.map (s.saveOf q)
  let s := (s.writeSave dlas).moveUses (useSaved p cores)
  let s := (cores.foldl (fun s r => s.cleanMember p r) s).returnLeases p
  ((s.updPipe p fun q => { q with pool := [], saved := saved, pre := .stopped }).applyBuffered q.handle).resumeSlice

/-- No lease of a pipeline is being zeroed. -/
def State.zeroedAll (s : State) (p : Nat) : Bool := !sites.any fun i => (s.die i).leases.any fun l => l.pipe == p && l.zeroUntil.isSome

/-- PREEMPTION_COMPLETE. -/
def execPreemptionComplete (p : Nat) (s : State) : Host.Outcome State Fault Refusal :=
  go (match s.pipe? p with
    | none => s
    | some q =>
      let left := allCores.any fun r => match (s.core r).task with
        | some t => t.pipe == p && t.phase != .stopped
        | none => false
      if q.pre != .stopping || left || !s.zeroedAll p || !(q.pool.map Member.at_).all s.savable then s
      else match s.xlatSave q.pasid q.record.savePages with
        | .wait s => s
        | .ok dlas => withWrites s (dlas.flatMap saveLines) fun s => s.saveAll q p dlas)

/-! ## Resumption (R73, R345, R366) -/

/-- The k-th saved member of each stage takes the k-th member of the pool of that stage. -/
def matchMembers (pool : List Member) : List Saved → List (Saved × CoreRef)
  | [] => []
  | v :: t => match pool.find? fun m => m.stage == v.stage with
    | some m => (v, m.at_) :: matchMembers (pool.erase m) t
    | none => matchMembers pool t

/-- The core that stands for another after the resumption. -/
def newCore (l : List (Saved × CoreRef)) (r : CoreRef) : CoreRef := ((l.find? fun x => x.1.at_ == r).map Prod.snd).getD r

/-- Reservations name their instances' new cores. -/
def moveResv (l : List (Saved × CoreRef)) (v : List Resv) : List Resv := v.map fun x => { x with inst := newCore l x.inst }

/-- The own rows of a member j of a fragment that a save extent of n rows covers. -/
def coveredRow (j n i : Nat) : Bool := decide (2048 ≤ i) && decide (i - 2048 < n - j * 30720)

/-- Rows of a member after its restore: the saved private region on the lead, the saved covered rows, and the rest as they
stand. -/
def restoreRows {α : Type} (lead : Bool) (j n : Nat) (key : α → Nat) (old new : List α) : List α :=
  ((if lead then old else new).filter fun x => decide (key x < 2048)) ++ (old.filter fun x => coveredRow j n (key x)) ++
  new.filter fun x => decide (2048 ≤ key x) && !coveredRow j n (key x)

/-- The stores of member j after its restore. -/
def restoreStores (lead : Bool) (j n : Nat) (old new : Stores) : Stores :=
  { old with
    rows := restoreRows lead j n Prod.fst old.rows new.rows
    poison := restoreRows lead j n id old.poison new.poison
    gated := new.gated
    waking := new.waking }

/-- The stores of a core after the restore of a bare member: its private region, and of the strip, where its lease holds
it, the covered rows. -/
def restoreBare (strip : Bool) (n : Nat) (old new : Stores) : Stores :=
  { new with
    rows := restoreRows true 0 (if strip then n else 0) Prod.fst old.rows new.rows
    poison := restoreRows true 0 (if strip then n else 0) id old.poison new.poison }

/-- A child whose parent has retired may start on any die of its allocation once its pipeline resumes (R278). -/
def Child.resumed (v : Saved) (k : Child) : Child :=
  { k with anyDie := k.anyDie || !(v.task.map fun t => t.gangId == k.parent).getD false }

/-- A saved context goes on, unless its task has faulted (R338). -/
def Context.restored (live : Bool) (old new : Context) : Context :=
  { old with status := if live && old.status == .stopped then .running else old.status, seq := max old.seq new.seq }

/-- The lead core of a member after its restore: what R72 saves of it, and the rest as it stands (R72, R345). -/
def restoreLead (l : List (Saved × CoreRef)) (n : Nat) (v : Saved) (new : Core) : Core :=
  let old := v.lead
  let run (a b : Context) : Context := match v.task with | some t => Context.restored t.live a b | none => b
  { new with
    l := run old.l new.l
    c := run old.c new.c
    s := run old.s new.s
    vf := old.vf
    h := old.h
    lq := old.lq
    sq := old.sq
    sem := old.sem
    cnt := if v.task.isSome then old.cnt else new.cnt
    st := restoreStores true 0 n old.st new.st
    rings := old.rings
    eng := old.eng
    linkOut := v.lead.linkOut.map fun g => (newCore l ⟨v.at_.site, g⟩).core
    linkIn := v.lead.linkIn.map fun g => (newCore l ⟨v.at_.site, g⟩).core
    kids := old.kids.map (Child.resumed v)
    snap := old.snap
    closed := false
    sideLog := new.sideLog ++ old.sideLog
    pushes := max old.pushes new.pushes
    task := v.task.map fun t => { t with phase := if t.phase == .stopped then .running else t.phase, resv := moveResv l t.resv } }

/-- A member is restored. -/
def State.restore (s : State) (l : List (Saved × CoreRef)) (p : Pipe) (x : Saved × CoreRef) : State :=
  let n := ((p.record.stages[x.1.stage]?).map fun d => p.record.extent x.1.stage d).getD 0
  let s := s.updCore x.2 fun c =>
    let c' := restoreLead l n x.1 c
    match ((s.die x.2.site).leaseOf p.id x.2.core).map Lease.kind with
    | some (.bare _ strip) => { c' with st := restoreBare strip n x.1.lead.st c.st }
    | _ => c'
  let s := (x.1.members.zipIdx).foldl (fun s y => s.updSt (coreSouth x.2 (y.2 + 1)) (restoreStores false (y.2 + 1) n y.1)) s
  s.settle x.2

/-- Writes that waited for instances of a core are applied. -/
def State.applyHeld (s : State) (r : CoreRef) : State :=
  (List.range 32).foldl (fun s k => s.applyWaiting r k s.fab.rwbuf.length) s

/-- What an invalidation waits for in the saved state of a pipeline moves to the cores that take it up (R77). -/
def useResumed (p : Nat) (l : List (Saved × CoreRef)) (u : Option Nat × CtxRef × Nat) : Option Nat × CtxRef × Nat :=
  if u.1 == some p then (none, ⟨newCore l u.2.1.at_, u.2.1.ctx⟩, u.2.2) else u

/-- Members that a grant gave a pipeline while it resumed, to stages that had none saved, stay (R345). R330 does not say whether
a member that moved just before the pre-emption may move at once after the resumption, which gives it a new lease: the model
forgets the move. DESIGN CHOICE (log 128). -/
def Pipe.poolResumed (p : Pipe) (l : List (Saved × CoreRef)) : List Member :=
  l.map (fun x => ⟨x.1.stage, x.2, 0, x.1.vnum⟩) ++ p.pool.filter fun m => !p.saved.any fun v => v.stage == m.stage

/-- RESUMPTION: every request for saved members is granted and zeroed; all members are restored and every task goes on. -/
def execResumption (p : Nat) (s : State) : Host.Outcome State Fault Refusal :=
  go (match s.pipe? p with
    | none => s
    | some q =>
      let l := matchMembers q.pool q.saved
      if q.pre != .resuming || s.slicedOut q || (s.fe.reqs.any fun x => x.pipe == p && q.resumesStage x.stage) || !s.zeroedAll p || l.length ≠ q.saved.length then s
      else
        let s := s.updPipe p fun q => { q with
          pre := .none
          saved := []
          sampleAt := s.bclk * tBclk
          pool := q.poolResumed l
          replays := q.replays.map fun t => { t with resv := moveResv l t.resv } }
        let s := s.updHomes fun h => { h with parked := mapIf (fun k => k.pipe == p) (fun k => { k with resv := moveResv l k.resv }) h.parked }
        let s := l.foldl (fun s x => s.restore l q x) (s.moveUses (useResumed p l))
        l.foldl (fun s x => s.applyHeld x.2) s)

/-! ## Time slices (R368 to R370) -/

/-- Fabric time in ns. -/
def State.fabricTime (s : State) : Nat := s.fab.ftime + (s.now - s.fab.ftimeAt) / 336

/-- The tick at which fabric time reaches a count. -/
def State.fabricTick (s : State) (ns : Nat) : Nat := s.fab.ftimeAt + (ns - s.fab.ftime) * 336

/-- Time outside its slice does not count toward SETTAGE: a waiting request of a tenant outside its slice is as old as
before the slice that ends. -/
def State.ageStops (s : State) (len : Nat) : State :=
  s.updFe fun e => { e with reqs := e.reqs.map fun q => match s.pipe? q.pipe with
    | some p => if s.slicedOut p then { q with since := min s.now (q.since + len) } else q
    | none => q }

/-- SLICE_BOUNDARY: the next slice begins. -/
def execSliceBoundary (s : State) : Host.Outcome State Fault Refusal :=
  go (if !s.fab.sliceEn then s
    else
      let k := match s.fab.sliceNo with | some n => n + 1 | none => 0
      let s := s.at_ (s.fabricTick (s.fab.slEpoch.toNat + k * s.fab.sliceLen.toNat * 1000))
      let s := s.ageStops (s.fab.sliceLen.toNat * tUs)
      let s : State := { s with fab := { s.fab with sliceNo := some k } }
      let out := (s.fe.pipes.filter fun p => s.slicedOut p && p.pre == .none).map Pipe.id
      let left := s.stoppingOf (s.fab.switching.getD [])
      let s : State := { s with fab := { s.fab with switching := some (left ++ out) } }
      (out.foldl State.preempt s).resumeSlice)

end Sys2Proof.Machine
end

