-- ==== Sys2Proof/Machine/Placement.lean ====
section
/-! DEFINITION. Migrations after they have started (R95, R355, R356), stubs and owner-cache invalidations (R99), and the
power-gating of banks and ways (R101, R102). -/

namespace Sys2Proof.Machine

/-! ## Migrations (R95, R355) -/

/-- The lines of a page that some die holds, each with the die. -/
def State.heldLines (s : State) (page : Nat) : List (Fin 6 × Nat) :=
  sites.flatMap fun i => ((s.die i).cache.filter fun x => linePage x.1 == page).map fun x => (i, x.1)

/-- A migration's first one on a page moves to another phase. -/
def State.setPhase (s : State) (page : Nat) (ph : MigPhase) : State :=
  s.updHomes fun h => { h with migs := updFirst page (fun m => { m with phase := ph }) h.migs }

/-- MIGRATION_COPY_DONE: step 3 ends, and the pin wait begins. -/
def execMigrationCopyDone (page : Nat) (s : State) : Host.Outcome State Fault Refusal :=
  go (match s.homes.migOf page with
    | some m => if m.phase = .copying then s.setPhase page (.pinWait s.now) else s
    | none => s)

/-- The home forces a publish of every holder noted on a page (R118). -/
def Homes.forcePage (now : Nat) (h : Homes) (page : Nat) : Homes :=
  { h with
    notes := mapIf (fun n => linePage n.line == page) (Note.send now) h.notes
    awayNotes := mapIf (fun n => linePage n.1 == page) (fun n => (n.1, n.2.1, true)) h.awayNotes }

/-- A holder is noted on a line of a page. -/
def Homes.pageNoted (h : Homes) (page : Nat) : Bool :=
  (h.notes.any fun n => linePage n.line == page) || h.awayNotes.any fun n => linePage n.1 == page

/-- Every die copy of a page is recalled (R95 step 5). -/
def State.recallPage (s : State) (page : Nat) : State := (s.heldLines page).foldl (fun s x => s.addSnoop x.1 x.2 none true) s

/-- MIGRATION_PINS_CLEARED: standing holders publish first; then step 5 begins: requests are held, and every die copy is
recalled. -/
def execMigrationPinsCleared (page : Nat) (s : State) : Host.Outcome State Fault Refusal :=
  go (match s.homes.migOf page with
    | none => s
    | some m =>
      match m.phase with
      | .pinWait _ =>
        if getKey 0 page s.homes.pins ≠ 0 then s
        else if s.homes.pageNoted page then s.updHomes fun h => h.forcePage s.now page
        else (s.setPhase page .switching).recallPage page
      | _ => s)

/-- MIGRATION_PIN_TIMEOUT: the pins have not cleared after 1 ms; the migration aborts with status 2. -/
def execMigrationPinTimeout (page : Nat) (s : State) : Host.Outcome State Fault Refusal :=
  go (match s.homes.migOf page with
    | none => s
    | some m =>
      match m.phase with
      | .pinWait t => if getKey 0 page s.homes.pins = 0 then s else (s.at_ (t + 1000 * tUs)).abortMig m 2
      | _ => s)

/-- The placement record after a page has moved (R82, R95 step 8). -/
def PlaceRec.moved (r : PlaceRec) (dest : Home) : PlaceRec :=
  { r with gen := r.gen + 1, cur := dest, st := if dest = birthHome r.page then 0 else 2 }

/-- Publish a stub, in place of an older one of the page at the home. -/
def Homes.publishStub (h : Homes) (page : Nat) (at_ to_ : Home) (now : Nat) : Homes :=
  { h with stubs := (h.stubs.filter fun x => !(x.page == page && x.at_ == at_)) ++ [⟨page, at_, to_, [], now, none⟩] }

/-- MIGRATION_ACCEPT: steps 6 to 8, once every recalled copy has come back; a copy that a forward due before the switch has
left behind is recalled as well. A migration that is ending writes its status word once it can. -/
def execMigrationAccept (page : Nat) (s : State) : Host.Outcome State Fault Refusal :=
  go (match s.homes.migOf page with
    | none => s
    | some m =>
      match m.phase with
      | .ending st => (s.endMig m st).tryMig page (s.homes.migs.length + 1)
      | .switching =>
        if s.homes.snoops.any fun x => linePage x.line == page then s
        else if !(s.heldLines page).isEmpty then s.recallPage page
        else
          let s := s.updHomes fun h => ({ h with llc := h.llc.filter fun l => linePage l != page }.publishStub page m.old m.dest s.now).setRec
            ((h.placeRec page).moved m.dest)
          let s := s.endMig m 0
          s.tryMig page (s.homes.migs.length + 1)
      | _ => s)

/-- Whether the host reaches the management registers: not in recovery (R385). -/
def State.regsOpen (s : State) : Bool := s.mgmt.mode != 2 && s.flash.powered

/-- DRIVER_STARTED_MIGRATION, not in recovery (R385; R375 gives feature 6 no effect when it is not accepted). -/
def execDriverStartedMigration (page : Nat) (dpkg : BitVec 12) (dsl : BitVec 4) (s : State) : Host.Outcome State Fault Refusal :=
  go (if s.regsOpen && decide (dsl.toNat ≤ 11) then
      s.askMig ⟨page, ⟨dpkg.toNat, dsl.toNat⟩, s.homes.curHome page, (s.homes.placeRec page).st, [], .queued, none, none, true⟩
    else s)

/-- The destination of a page's migration answers that it has no space, or no key slot for the page's owner (R355, R367). -/
def State.migNoSpace (s : State) (page : Nat) : State :=
  match s.homes.migOf page with
  | some m => if m.phase.runs then s.abortMig m 5 else s
  | none => s

/-- The copy engine of a page's migration faults (R274, R355). -/
def State.migCopyFault (s : State) (page : Nat) : State :=
  match s.homes.migOf page with
  | some m => if m.phase = .copying ∨ m.phase = .switching then s.abortMig m 4 else s
  | none => s

/-- A migration whose home or destination cannot be reached any more aborts (R355): status 6 before its step 2, else 5. -/
def State.abortLost (s : State) : State :=
  (s.homes.migs.filter fun m => m.phase.runs && !s.reachable m.dest.pkg).foldl (fun s m => s.abortMig m 5) s

/-! ## Pins of other packages (R367) -/

/-- Another package pins a page, at the PUSH of a command that touches it: one homed here, or one that is homed elsewhere and
whose pins a migration that this package runs or waits for counts as well (R95 step 4). -/
def State.remotePin (s : State) (page : Nat) : State :=
  if s.homes.canPin s.fab.pkg page then s.updHomes fun h => { h.pin page with remotePins := page :: h.remotePins } else s

/-- Such a command has completed: its pin is released. -/
def State.remoteUnpin (s : State) (page : Nat) : State :=
  if s.homes.remotePins.contains page then s.updHomes fun h => { h.unpin page with remotePins := h.remotePins.erase page } else s

/-! ## Stubs (R99) -/

/-- A relayed request of a die to a page has not been accepted: a load's or a store's, or one of its engines and fetches
that has not come to the current home. -/
def State.relaying (s : State) (i : Fin 6) (page : Nat) : Bool :=
  (s.die i).relayed.contains page || match lookup page (s.die i).engReqs with
    | some (h, _) => h != s.homes.curHome page
    | none => false

/-- A relayed request of an agent to a page has not been accepted. -/
def State.agentBusy (s : State) (a : Agent) (page : Nat) : Bool :=
  match a with
  | .die i => s.relaying i page
  | .port p => s.homes.portHeld.any fun x => x.port == p && x.page == page

/-- A relayed request to a page is outstanding. -/
def State.relayOut (s : State) (page : Nat) : Bool :=
  (sites.any fun i => s.relaying i page) || s.homes.portHeld.any fun x => x.page == page

/-- Free the stubs whose reclamation has ended, and start the migrations that waited for room. -/
def State.freeStubs (s : State) : State :=
  let done (x : Stub) : Bool := x.reclaiming == some [] && !s.relayOut x.page
  let s' := s.updHomes fun h => { h with stubs := h.stubs.filter fun x => !done x }
  if s.homes.stubs.any done then s'.homes.migs.foldl (fun s m => s.tryMig m.page (s.homes.migs.length + 1)) s' else s'

/-- The n-th stub is the oldest of its home, whose store is 7/8 full. -/
def Homes.crowded (h : Homes) (n : Nat) (x : Stub) : Bool :=
  let n8 := 8 * (h.stubs.filter fun y => y.at_ == x.at_).length
  decide (7 * 8 ≤ n8) && decide (7 * stubCap ≤ n8) && !(h.stubs.take n).any fun y => y.at_ == x.at_ && y.reclaiming.isNone

/-- The oldest relayed request of a fabric port to a page goes on: a home elsewhere accepts it, or, where it stands here, it
performs if it can (R98). -/
def State.inwardDone (s : State) (p : Fin 64) (page : Nat) : State :=
  match s.homes.portHeld.find? fun x => x.port == p && x.page == page with
  | none => s
  | some x =>
    let s := s.updHomes fun h => { h with portHeld := h.portHeld.erase x }
    (match x.req with
     | none => s
     | some (dla, op) => s.inwardOn p dla op x.at_ x.fwd true).freeStubs

/-- STUB_AGE_EXPIRY: the n-th stub enters Reclaiming; one that is there already is freed once nothing relayed is out. -/
def execStubAgeExpiry (n : Nat) (s : State) : Host.Outcome State Fault Refusal :=
  go (match s.homes.stubs[n]? with
    | none => s
    | some x =>
      if x.reclaiming.isSome then s.freeStubs
      else
        let s := if s.homes.crowded n x then s else s.at_ (x.last + s.mgmt.stubAge.toNat * tUs)
        (s.updHomes fun h => { h with stubs := h.stubs.set n { x with reclaiming := some (x.mask.map fun a => (a, s.now)) } }).freeStubs)

/-- An agent's owner cache forgets a page. -/
def State.forgetOwner (s : State) (a : Agent) (page : Nat) : State :=
  match a with
  | .die i => s.updDie i fun d => { d with owners := eraseKey page d.owners }
  | .port p => s.updHomes fun h => { h with portOwners := h.portOwners.filter fun x => !(x.1 == p.val && x.2.1 == page) }

/-- OWNER_CACHE_INVALIDATION: the agent drops its entry; it acknowledges once its own requests have been accepted. -/
def execOwnerCacheInvalidation (n : Nat) (a : Agent) (s : State) : Host.Outcome State Fault Refusal :=
  go (match s.homes.stubs[n]? with
    | none => s
    | some x =>
      if x.reclaiming.isSome && x.mask.contains a && !s.agentBusy a x.page then
        (s.forgetOwner a x.page).updHomes fun h => { h with stubs := h.stubs.set n { x with mask := x.mask.filter (· != a) } }
      else s)

/-- STUB_ACK. -/
def execStubAck (n : Nat) (a : Agent) (s : State) : Host.Outcome State Fault Refusal :=
  go (match s.homes.stubs[n]? with
    | none => s
    | some x =>
      match x.reclaiming with
      | some due =>
        if (due.any fun y => y.1 == a) && !x.mask.contains a then
          (s.updHomes fun h => { h with stubs := h.stubs.set n { x with reclaiming := some (due.filter fun y => y.1 != a) } }).freeStubs
        else s
      | none => s)

/-! ## GATECMD (R101, R102) -/

def gcOp (v : Word) : Nat := fld v 62 2
def gcUnit (v : Word) : Nat := fld v 56 2
def gcSlice (v : Word) : Nat := fld v 48 4
def gcSite (v : Word) : Nat := fld v 42 3
def gcCore (v : Word) : Nat := fld v 32 3
def gcMask (v : Word) : Nat := fld v 0 32

/-- Reserved fields are 0 and every field is in range. -/
def gcFieldsOk (v : Word) : Bool :=
  fld v 58 4 == 0 && fld v 52 4 == 0 && fld v 45 3 == 0 && fld v 35 7 == 0 &&
  match gcUnit v with
  | 0 => gcSlice v == 0 && decide (gcSite v < 6) && decide (gcMask v < 2 ^ 16)
  | 1 => gcSlice v == 0 && decide (gcSite v < 6) && gcCore v == 0 && decide (gcMask v < 2 ^ 16)
  | 2 => decide (gcSlice v < 12) && gcSite v == 0 && gcCore v == 0 && decide (gcMask v < 2 ^ 24)
  | _ => false

/-- The core that a GATECMD names. -/
def gcRef (v : Word) : CoreRef := ⟨Fin.ofNat 6 (gcSite v), Fin.ofNat 8 (gcCore v)⟩

/-- The banks of a strip may be gated. -/
def State.bankGateOk (s : State) (r : CoreRef) : Bool :=
  (match (s.die r.site).strips[r.core] with | .free => true | .fenced => true | _ => false) && (s.core r).task.isNone && !(s.die r.site).bareOn r.core

/-- A GATECMD is refused: nothing changes but ERR. -/
def State.gateRefused (s : State) : State := { s with mgmt := { s.mgmt with gateErr := true } }

/-- A GATECMD is accepted. -/
def State.gateTaken (s : State) (v : Word) : State := { s with mgmt := { s.mgmt with gateErr := false, gateBusy := some v } }

/-- Gate banks of a strip window: they lose their contents. -/
def Stores.gate (t : Stores) (m : BitVec 16) : Stores :=
  let kept (i : Nat) : Bool := match bankOfRow i with | some b => !bitAt m b | none => true
  { t with rows := t.rows.filter fun x => kept x.1, poison := t.poison.filter kept, gated := t.gated ||| m, waking := t.waking &&& ~~~m }

/-- Wake gated banks. -/
def Stores.wake (t : Stores) (m : BitVec 16) : Stores :=
  { t with waking := t.waking ||| (t.gated &&& m), gated := t.gated &&& ~~~m }

/-- A die gates ways: its M and O lines are written back, and its lines are dropped (log 23). -/
def State.gateWays (s : State) (i : Fin 6) (m : BitVec 16) : State :=
  let lines := (s.die i).cache.map Prod.fst
  let s := if m = 0 then s else lines.foldl (fun s l => (s.recallFrom i l).disarmDie i l) s
  s.updDie i fun d => { d with gated := d.gated ||| m, waking := d.waking &&& ~~~m }

/-- The lines of a slice's last-level cache that its awake ways hold; the rest stand in the stack (log 84). -/
def Homes.trimLlc (h : Homes) (sl : Nat) (pkg : Nat) : Homes :=
  let mine := h.llc.filter fun l => h.curHome (linePage l) == ⟨pkg, sl⟩
  let lost := mine.drop (h.llcWays sl * wayLines)
  { h with llc := h.llc.filter fun l => !lost.contains l }

/-- Gate what a command names. -/
def State.gate (s : State) (v : Word) : State :=
  match gcUnit v with
  | 0 => s.updSt (gcRef v) fun t => t.gate (BitVec.ofNat 16 (gcMask v))
  | 1 => s.gateWays (gcRef v).site (BitVec.ofNat 16 (gcMask v))
  | _ => s.updHomes fun h => ({ h with
      gatedLlc := insertKey (gcSlice v) (getKey 0 (gcSlice v) h.gatedLlc ||| BitVec.ofNat 24 (gcMask v)) h.gatedLlc
      wakingLlc := insertKey (gcSlice v) (getKey 0 (gcSlice v) h.wakingLlc &&& ~~~(BitVec.ofNat 24 (gcMask v))) h.wakingLlc }).trimLlc
        (gcSlice v) s.fab.pkg

/-- Start waking what a command names. -/
def State.wake (s : State) (v : Word) : State :=
  let m := BitVec.ofNat 16 (gcMask v)
  let k := BitVec.ofNat 24 (gcMask v)
  State.waking <| match gcUnit v with
  | 0 => s.updSt (gcRef v) fun t => t.wake m
  | 1 => s.updDie (gcRef v).site fun d => { d with waking := d.waking ||| (d.gated &&& m), gated := d.gated &&& ~~~m }
  | _ => s.updHomes fun h => { h with
      wakingLlc := insertKey (gcSlice v) (getKey 0 (gcSlice v) h.wakingLlc ||| (getKey 0 (gcSlice v) h.gatedLlc &&& k)) h.wakingLlc
      gatedLlc := insertKey (gcSlice v) (getKey 0 (gcSlice v) h.gatedLlc &&& ~~~k) h.gatedLlc }

/-- GATECMD_GATE. -/
def execGatecmdGate (v : BitVec 64) (s : State) : Host.Outcome State Fault Refusal :=
  go (if !s.regsOpen then s else if gcOp v = 1 && gcFieldsOk v && (gcUnit v != 0 || s.bankGateOk (gcRef v)) then (s.gate v).gateTaken v else s.gateRefused)

/-- GATECMD_WAKE. -/
def execGatecmdWake (v : BitVec 64) (s : State) : Host.Outcome State Fault Refusal :=
  go (if !s.regsOpen then s else if gcOp v = 2 && gcFieldsOk v then (s.wake v).gateTaken v else s.gateRefused)

/-- GATE_DONE: what was gating or waking has finished, 1.5 us after the oldest wake at the latest (R101); writes that waited for
banks of a slot are applied. -/
def execGateDone (s : State) : Host.Outcome State Fault Refusal :=
  let s := allCores.foldl (fun s r => s.updSt r fun t => { t with waking := 0 }) s
  let s := sites.foldl (fun s i => s.updDie i fun d => { d with waking := 0 }) s
  let s : State := { s.updHomes (fun h => { h with wakingLlc := [] }) with mgmt := { s.mgmt with gateBusy := none, wakeAt := none } }
  go (if s.fab.rwbuf.isEmpty then s else allCores.foldl State.applyHeld s)

end Sys2Proof.Machine
end

