-- ==== Sys2Proof/Machine/FrontEnd.lean ====
section
/-! DEFINITION. Work queues and their packets (R291 to R302, R321): kicks, reads and re-reads of slots, batches, and what
each packet does as it starts. -/

namespace Sys2Proof.Machine

/-! ## Work queues (R291, R292) -/

/-- A work queue as reset leaves it (R292 to R294). -/
def WorkQueue.reset (no : Nat) : WorkQueue where
  no := no
  base := 0
  vec := 0
  key := 0
  cls := 0
  en := false
  pasid := 0
  logn := 0
  kick := 0
  cons := 0
  stop := false
  err := 0
  idx := 0
  pkts := []
  batch := none
  repoll := none

/-- A work queue; one that lists nothing stands as reset leaves it. -/
def State.queue (s : State) (q : BitVec 14) : WorkQueue := (s.fe.queues.find? fun x => x.no == q.toNat).getD (WorkQueue.reset q.toNat)

/-- Put a work queue. -/
def State.setQueue (s : State) (x : WorkQueue) : State :=
  s.updFe fun e => { e with queues := x :: e.queues.filter fun y => y.no != x.no }

/-- Whether a queue starts packets (R292, R294). -/
def WorkQueue.live (q : WorkQueue) : Bool := q.en && !q.stop

/-- N (R291). -/
def WorkQueue.slots (q : WorkQueue) : Nat := 2 ^ q.logn.toNat

/-- The host virtual address of the slot at CONS. -/
def WorkQueue.slotHva (q : WorkQueue) : Nat := (q.base + BitVec.ofNat 64 (64 * (q.cons.toNat % q.slots))).toNat

/-- The expected phase (R291). -/
def WorkQueue.phase (q : WorkQueue) : Bool := q.cons.toNat / q.slots % 2 == 0

/-- The first packet of a queue that has not started (R297). -/
def WorkQueue.nextPkt (q : WorkQueue) : Option Packet := q.pkts.find? fun p => !p.started

/-- Whether the front end reads a queue's next slot: nothing consumed still waits to start (log 33). -/
def WorkQueue.reads (q : WorkQueue) : Bool :=
  q.live && q.cons != q.kick && q.nextPkt.isNone && !((q.batch.map Batch.ready).getD false)

/-! ## Packets (R295, R296) -/

def pktType (w0 : Word) : Nat := fld w0 56 8
def Packet.type (p : Packet) : Nat := pktType p.w0

/-- A packet is malformed (R296), given its eight words and whether it is read inside a batch. -/
def malformed (l : List Word) (inBatch : Bool) : Bool :=
  let w (k : Nat) : Nat := (l.getD k 0).toNat
  let zero (k : Nat) : Bool := w k == 0
  !(fld (l.getD 0 0) 32 23 == 0 && zero 4 && zero 5 && zero 6 && zero 7 &&
    match pktType (l.getD 0 0) with
    | 1 => w 1 % 256 == 0 && decide (w 2 < 2 ^ 9) && w 3 % 32 == 0
    | 2 => !inBatch && decide (1 ≤ w 1) && decide (w 1 ≤ 254) && zero 2 && zero 3
    | 3 => inBatch && zero 1 && zero 2 && zero 3
    | 4 => zero 1 && zero 2 && zero 3
    | 5 => w 1 % 8 == 0 && decide (w 3 < 2)
    | 6 => w 1 % 8 == 0 && w 3 / 4 % 2 ^ 30 == 0 && w 3 % 4 != 3
    | 7 => zero 1 && zero 2 && zero 3
    | _ => false)

/-- A packet from its words. -/
def packetOf (l : List Word) (idx : Nat) (bad : Bool) : Packet :=
  ⟨l.getD 0 0, l.getD 1 0, l.getD 2 0, l.getD 3 0, idx, false, none, false, none, [], bad⟩

/-! ## Reading slots (R291, R298, R299) -/

/-- What the read of the slot at CONS gives. -/
inductive SlotRead where
  | current (l : List Word)
  | old
  | wait (s : State)
  | refused (s : State)
  deriving DecidableEq, Repr

/-- Read the slot at CONS as one 64-byte read. -/
def State.readSlot (s : State) (q : WorkQueue) : SlotRead :=
  match s.feXlat q.pasid.toNat q.slotHva false with
  | .wait s => .wait s
  | .refused => .refused (s.dropRefused .frontEnd q.pasid.toNat q.slotHva)
  | .ok d =>
    if !s.readClear none (lineOf d) then .wait (s.askRead (lineOf d))
    else
      let l := s.wordsAt d 8
      if bitAt (l.getD 0 0) 55 = q.phase then .current l else .old

/-- The index in its batch of the packet that a queue reads next; 0 outside a batch (R294). -/
def WorkQueue.readIdx (q : WorkQueue) : Nat := match q.batch with | some b => b.seen.length + 1 | none => 0

/-- A packet is consumed: into its batch, or to start next; a malformed one outside a batch stops the queue. -/
def State.consume (s : State) (q : WorkQueue) (l : List Word) : State :=
  let q1 : WorkQueue := { q with cons := q.cons + 1, repoll := none }
  match q.batch with
  | some b =>
    let seen := b.seen ++ [packetOf l (b.seen.length + 1) (malformed l true)]
    s.setQueue { q1 with batch := some { b with seen := seen, ready := decide (b.nmem + 1 ≤ seen.length) } }
  | none =>
    if malformed l false then (s.setQueue q1).stopQueue q.no 0x03 0
    else s.setQueue { q1 with pkts := q1.pkts ++ [packetOf l 0 false] }

/-- Read packets from CONS up to KICK, as far as they can be read, at most n. -/
def State.readOn (s : State) (no : BitVec 14) : Nat → State
  | 0 => s
  | n + 1 =>
    let q := s.queue no
    if !q.reads || q.repoll.isSome then s
    else match s.readSlot q with
      | .wait s => s
      | .refused s => s.stopQueue q.no 0x06 q.readIdx
      | .old => s.setQueue { q with repoll := some (s.now, 0) }
      | .current l => (s.consume q l).readOn no n

/-- The most packets that one kick event reads: those of the largest batch. -/
def maxRead : Nat := 256

/-- KICK_EVENT. -/
def execKickEvent (q : BitVec 14) (s : State) : Host.Outcome State Fault Refusal := go (s.readOn q maxRead)

/-- The ticks between two re-reads: 125 ns (R298). -/
def repollTicks : Nat := 42000

/-- PACKET_REPOLL: re-read k comes k intervals after the first read; the sixteenth that finds the phase old stops the queue. -/
def execPacketRepoll (no : BitVec 14) (s : State) : Host.Outcome State Fault Refusal :=
  let q := s.queue no
  go (match q.repoll with
    | none => s
    | some (t0, n) =>
      if !q.reads then s
      else
        let k := n + 1
        let s := s.at_ (t0 + k * repollTicks)
        match s.readSlot q with
        | .wait s => s
        | .refused s => s.stopQueue q.no 0x06 q.readIdx
        | .current l => (s.consume q l).readOn no maxRead
        | .old =>
          if 16 ≤ k then s.stopQueue q.no 0x01 q.readIdx
          else s.setQueue { q with repoll := some (t0, k) })

/-! ## Starting packets (R297) -/

/-- The packet that a queue starts next, if it is of a type. -/
def State.toStart (s : State) (no : BitVec 14) (ty : Nat) : Option Packet :=
  let q := s.queue no
  if q.live then (q.nextPkt).filter fun p => p.type == ty else none

/-- Every packet before the next one has completed (R297). -/
def State.allDoneBefore (s : State) (no : BitVec 14) : Bool :=
  match (s.queue no).pkts with
  | p :: _ => !p.started
  | [] => true

/-- Change the first packet that has not started. -/
def updNext (f : Packet → Packet) : List Packet → List Packet
  | [] => []
  | p :: t => if p.started then p :: updNext f t else f p :: t

/-- Remove the first packet that has not started: it has completed. -/
def dropNext : List Packet → List Packet
  | [] => []
  | p :: t => if p.started then p :: dropNext t else t

/-- The homes keep no watch for a queue any longer. -/
def State.unwatch (s : State) (no : Nat) : State := s.updHomes fun h => { h with watches := h.watches.filter fun w => w.queue != no }

/-- The next packet has started and completed; a WAIT's watch goes with it. -/
def State.completeNext (s : State) (no : BitVec 14) : State :=
  let q := s.queue no
  (s.setQueue { q with pkts := dropNext q.pkts }).unwatch no.toNat

/-- OPCHAIN: its operator chain starts. -/
def execOpchain (no : BitVec 14) (s : State) : Host.Outcome State Fault Refusal :=
  go (match s.toStart no 1 with
    | none => s
    | some p =>
      let q := s.queue no
      let id := s.fe.nextId
      let c : Chain :=
        { id := id, queue := q.no, pasid := q.pasid.toNat, key := q.key, cls := q.cls.toNat, vec := q.vec.toNat,
          tag := BitVec.ofNat 32 (fld p.w0 0 32), nops := fld p.w2 0 8 + 1, irq := bitAt p.w2 8, cmp := p.w3, next := p.w1,
          ops := p.ops, opIdx := 0, shadow := none, active := none, done := 0, faulted := 0, discarded := 0, ud := false, doneAt := none,
          ending := none }
      (s.setQueue { q with pkts := updNext (fun p => { p with started := true, chain := some id }) q.pkts }).updFe fun e =>
        { e with chains := e.chains ++ [c], nextId := e.nextId + 1 })

/-- FENCE. -/
def execFencePacket (no : BitVec 14) (s : State) : Host.Outcome State Fault Refusal :=
  go (match s.toStart no 4 with
    | none => s
    | some _ => if s.allDoneBefore no then s.completeNext no else s)

/-- NOP. -/
def execNopPacket (no : BitVec 14) (s : State) : Host.Outcome State Fault Refusal :=
  go (match s.toStart no 7 with
    | none => s
    | some _ => s.completeNext no)

/-- SIGNAL: a write at its word's home with a release, then the queue's vector. -/
def execSignal (no : BitVec 14) (s : State) : Host.Outcome State Fault Refusal :=
  go (match s.toStart no 5 with
    | none => s
    | some p =>
      let q := s.queue no
      let hva := p.w1.toNat
      if !s.allDoneBefore no then s
      else match s.feXlat q.pasid.toNat hva true with
        | .wait s => s
        | .refused => ((s.dropRefused .frontEnd q.pasid.toNat hva).completeNext no).stopQueue q.no 0x08 p.idx
        | .ok d =>
          if !s.writeClear (lineOf d) then s.askWrite (lineOf d)
          else if s.homes.noted (lineOf d) then s.force (lineOf d)
          else
            let s := (s.homeWrite d 8 p.w2.toNat).completeNext no
            if bitAt p.w3 0 then s.raiseIrq q.vec.toNat else s)

/-! ## WAIT (R297, R321) -/

/-- A WAIT reads its word: the condition is met, or it is not, and the home watches the word; the read waits for something; or
its page is refused. -/
inductive WaitRead where
  | met (b : Bool) (w : Watch)
  | later (s : State)
  | refused (s : State)
  deriving DecidableEq, Repr

/-- The read of a WAIT, an acquire at package scope. -/
def State.waitRead (s : State) (q : WorkQueue) (p : Packet) : WaitRead :=
  let hva := p.w1.toNat
  match s.feXlat q.pasid.toNat hva false with
  | .wait s => .later s
  | .refused => .refused (s.dropRefused .frontEnd q.pasid.toNat hva)
  | .ok d =>
    if !s.readClear none (lineOf d) then .later (s.askRead (lineOf d))
    else if s.homes.noted (lineOf d) then .later (s.force (lineOf d))
    else .met (condMet (fld p.w3 0 2) (BitVec.ofNat 64 (s.cohN d 8)) p.w2) ⟨q.no, d, fld p.w3 0 2, p.w2, false, none⟩

/-- The tick at which a WAIT that starts now times out. -/
def State.waitDue (s : State) (p : Packet) : Option Nat := if fld p.w3 32 32 = 0 then none else some (s.now + fld p.w3 32 32 * tUs)

/-- A WAIT reads its word at its home: it ends where the condition is met or its page is refused; else the home watches the
word. -/
def State.tryWait (s : State) (no : BitVec 14) (p : Packet) : State :=
  match s.waitRead (s.queue no) p with
  | .later s => s
  | .refused s => (s.completeNext no).stopQueue no.toNat 0x08 p.idx
  | .met true _ => s.completeNext no
  | .met false w => s.updHomes fun h => { h with watches := h.watches ++ [w] }

/-- The home's watch for a queue. -/
def State.watchOf (s : State) (no : BitVec 14) : Option Watch := s.homes.watches.find? fun w => w.queue == no.toNat

/-- WAIT: it starts, and its time with it; it ends at once, or once its word can be read and meets its condition. -/
def execWaitPacket (no : BitVec 14) (s : State) : Host.Outcome State Fault Refusal :=
  go (match s.toStart no 6 with
    | none => s
    | some p =>
      let q := s.queue no
      if p.watch then s
      else (s.setQueue { q with pkts := updNext (fun p => { p with watch := true, due := s.waitDue p }) q.pkts }).tryWait no p)

/-- The WAIT that has started and holds its queue, whether or not the queue has stopped since. -/
def State.watching (s : State) (no : BitVec 14) : Option Packet := ((s.queue no).nextPkt).filter Packet.watch

/-- A WAIT whose watched word has met the condition ends once the line is forwarded and committed, as for any read at its home
(R116), and the run of a release noted there has published (R117). -/
def State.waitMet (s : State) (no : BitVec 14) (w : Watch) : State :=
  if s.homes.noted (lineOf w.dla) then s.force (lineOf w.dla)
  else withReads s none [lineOf w.dla] fun s => s.completeNext no

/-- WAIT_PACKET_SATISFIED: the watched word has met the condition (R279, R297); a WAIT whose word has not been read yet reads
it. -/
def execWaitPacketSatisfied (no : BitVec 14) (s : State) : Host.Outcome State Fault Refusal :=
  go (match s.watching no with
    | none => s
    | some p =>
      match s.watchOf no with
      | some w => if w.hit then s.waitMet no w else s
      | none => s.tryWait no p)

/-- WAIT_PACKET_TIMEOUT: TMO passes before the word has met the condition. -/
def execWaitPacketTimeout (no : BitVec 14) (s : State) : Host.Outcome State Fault Refusal :=
  go (match s.watching no with
    | none => s
    | some p =>
      match p.due.filter fun _ => !(s.watchOf no).any Watch.hit with
      | some t => (((s.at_ t).completeNext no).stopQueue (s.queue no).no 0x05 p.idx)
      | none => s)

/-! ## Batches (R299, R300) -/

/-- BATCH_BEGIN: the batch is read from here on. -/
def execBatchBegin (no : BitVec 14) (s : State) : Host.Outcome State Fault Refusal :=
  go (match s.toStart no 2 with
    | none => s
    | some p =>
      let q := s.queue no
      s.setQueue { q with pkts := dropNext q.pkts, batch := some ⟨p.w1.toNat, [], false⟩ })

/-- What validation makes of a part of a batch. -/
inductive Validated (α : Type) where
  | ok (a : α)
  | fail (s : State)
  | wait (s : State)
  deriving DecidableEq, Repr

/-- Read and check n operators of a chain, along NEXT (R305). -/
def State.validOps (s : State) (pasid : Nat) : Nat → Nat → Validated (List OpRecord)
  | _, 0 => .ok []
  | hva, n + 1 =>
    match s.readOp pasid hva (decide (0 < n)) with
    | .wait s => .wait s
    | .rejected s => .fail s
    | .ok r =>
      match s.validOps pasid r.next.toNat n with
      | .ok l => .ok (r :: l)
      | x => x

/-- Validate one packet of a batch: a member, with its operators, or the one at the COMMIT's position. -/
def State.validPkt (s : State) (pasid nmem : Nat) (p : Packet) : Validated Packet :=
  if p.bad || decide (p.idx ≤ nmem) == (p.type == 3) then .fail s
  else if p.type = 1 then
    match s.validOps pasid p.w1.toNat (fld p.w2 0 8 + 1) with
    | .ok l => .ok { p with ops := l }
    | .fail s => .fail s
    | .wait s => .wait s
  else .ok p

/-- What the validation of a batch gives: its packets, the lowest index that failed, or a wait. -/
inductive BatchRes where
  | ok (l : List Packet)
  | fail (s : State) (idx : Nat)
  | wait (s : State)
  deriving DecidableEq, Repr

/-- Validate the packets of a batch in order. -/
def State.validAll (s : State) (pasid nmem : Nat) : List Packet → BatchRes
  | [] => .ok []
  | p :: t =>
    match s.validPkt pasid nmem p with
    | .wait s => .wait s
    | .fail s => .fail s p.idx
    | .ok p => match s.validAll pasid nmem t with
      | .ok l => .ok (p :: l)
      | r => r

/-- BATCH_COMMIT: the members stand to start, or the batch is rejected. -/
def execBatchCommit (no : BitVec 14) (s : State) : Host.Outcome State Fault Refusal :=
  let q := s.queue no
  go (match q.batch with
    | none => s
    | some b =>
      if !q.live || !b.ready then s
      else match s.validAll q.pasid.toNat b.nmem b.seen with
        | .wait s => s
        | .fail s idx => (s.setQueue { q with batch := none }).stopQueue q.no 0x04 idx
        | .ok l => s.setQueue { q with batch := none, pkts := q.pkts ++ l.filter fun p => p.type != 3 })

/-! ## WQCFG, WQKICK, WQSTAT (R292 to R294, R375, R386) -/

/-- WQCFG's fields but EN. -/
def WorkQueue.setCfg (q : WorkQueue) (v : Word) : WorkQueue :=
  { q with vec := BitVec.ofNat 11 (fld v 53 11), key := BitVec.ofNat 8 (fld v 36 8), cls := BitVec.ofNat 3 (fld v 33 3),
           pasid := BitVec.ofNat 20 (fld v 12 20), logn := BitVec.ofNat 5 (fld v 4 5) }

/-- EN goes from 0 to 1: CONS and WQSTAT are cleared; packets that had not started are gone. -/
def WorkQueue.enable (q : WorkQueue) : WorkQueue :=
  { q with en := true, cons := 0, kick := 0, stop := false, err := 0, idx := 0,
           pkts := q.pkts.filter Packet.started, batch := none, repoll := none }

/-- Whether EN may be set. -/
def State.mayEnable (s : State) (q : WorkQueue) : Bool :=
  decide (4 ≤ q.logn.toNat) && decide (q.logn.toNat ≤ 16) && s.mgmt.featDone && (lookup q.key.toNat s.homes.keys).isSome

/-- WQCFG_WRITE. -/
def execWqcfgWrite (no : BitVec 14) (v : BitVec 64) (s : State) : Host.Outcome State Fault Refusal :=
  let q := s.queue no
  go (if !s.regsOpen then s
    else if q.en then s.setQueue { q with en := bitAt v 32 }
    else
      let q := q.setCfg v
      if bitAt v 32 && s.mayEnable q then (s.setQueue q.enable).unwatch no.toNat else s.setQueue q)

/-- WQKICK. -/
def execWqkick (no : BitVec 14) (v : BitVec 64) (s : State) : Host.Outcome State Fault Refusal :=
  let q := s.queue no
  let k : BitVec 32 := BitVec.ofNat 32 (fld v 0 32)
  go (if !s.regsOpen || !q.en || k == q.kick then s
    else if q.slots < (k - q.cons).toNat then s.stopQueue q.no 0x02 0
    else s.setQueue { q with kick := k })

/-- WQSTAT_STOP_CLEAR. -/
def execWqstatStopClear (no : BitVec 14) (v : BitVec 64) (s : State) : Host.Outcome State Fault Refusal :=
  let q := s.queue no
  go (if s.regsOpen && bitAt v 55 then s.setQueue { q with stop := false, err := 0 } else s)

end Sys2Proof.Machine
end

