-- ==== Sys2Proof/Machine/Fence.lean ====
section
/-! DEFINITION. Errors of the package (R347 to R351), the fencing of a die and its readmission (R24, R318, R352 to R354,
R377, R389). -/

namespace Sys2Proof.Machine

/-! ## The front end's side of a fence (R24, R318, R354) -/

/-- The cores of a die. -/
def coresOf (i : Fin 6) : List CoreRef := coreIdxs.map fun c => ⟨i, c⟩

/-- A task that a fence of its die ends: a squashed one is parked on the base, and a faulted one has ended. -/
def Task.fenceable (t : Task) : Bool := match t.phase with | .faulted | .squashing => false | _ => true

/-- The cores of dies whose tasks a fence ends. -/
def State.victims (s : State) (l : List (Fin 6)) : List CoreRef :=
  (l.flatMap coresOf).filter fun r => ((s.core r).task.map Task.fenceable).getD false

/-- The members of the victims' gangs on other dies, each with the member that a fence ended first. -/
def State.fencePeers (s : State) (l : List (Fin 6)) (vs : List CoreRef) : List (CoreRef × Nat) :=
  vs.foldl (fun acc r => match (s.core r).task with
    | some t =>
      ((s.gangPeers r t).filter fun k => !l.contains k.site && !(acc.any fun x => x.1 == k)).foldl (fun acc k => acc ++ [(k, t.member)]) acc
    | none => acc) []

/-- The children queued on dies for a pipeline. -/
def State.fencedKids (s : State) (l : List (Fin 6)) (id : Nat) : List Child :=
  (l.flatMap coresOf).flatMap fun r => (s.core r).kids.filter fun k => k.pipe == id

/-- The stages of a pipeline that lose a task or a child to a fence. -/
def State.lostStages (s : State) (l : List (Fin 6)) (p : Pipe) : List Nat :=
  let mine := (s.victims l).filter fun r => ((s.core r).task.map fun t => t.pipe == p.id).getD false
  (s.fencedKids l p.id).foldl (fun acc k => addNew k.record.stage acc) (s.stagesOf mine)

/-- The die whose rows or ring instances an outstanding access changes: a QST's, or that of an RPUB that waits. -/
def Access.die (a : Access) : Option (Fin 6) :=
  match a.op with
  | .qst dst .. => some dst.site
  | .rpub _ inst _ => some inst.site
  | _ => none

/-- Outstanding accesses of a context into dies, each with its die. -/
def Context.flightsTo (c : Context) (l : List (Fin 6)) : List (Access × Fin 6) :=
  c.out.filterMap fun a => (a.die.filter l.contains).map fun i => (a, i)

/-- The die whose rows or instances a write of a started command changes. -/
def State.writeDie (s : State) (w : EngWrite) : Option (Fin 6) :=
  match w with
  | .row dst .. => some dst.site
  | .line .. => none
  | .remote w | .buffered w => (s.fe.pipes.find? fun p => p.handle == w.handle).bind fun p => p.vsite w.vcore.toNat

/-- The virtual die number that the unbound-die fault of a write to the fenced die i names. -/
def State.flightVdie (s : State) (r : CoreRef) (w : EngWrite) (i : Fin 6) : Nat :=
  match w with
  | .remote w | .buffered w => w.vcore.toNat / 8
  | _ => s.vdieNo r i

/-- The started command at the head of a queue, if it writes to one of some dies, with that virtual die number. -/
def State.flightCmd (s : State) (l : List (Fin 6)) (r : CoreRef) (e : Fin 6) : Option (QEntry × Nat) :=
  match (s.core r).eng[e] with
  | q :: _ => match q.state with
    | .started _ todo _ _ _ => todo.findSome? fun w => ((s.writeDie w).filter l.contains).map fun i => (q, s.flightVdie r w i)
    | _ => none
  | [] => none

/-- The engine queues of a core. -/
def engQueues : List (Fin 6) := [0, 1, 2, 3, 4, 5]

/-- The unbound-die faults that the work in flight from a core to fenced dies takes, the contexts' first (R338, R354). -/
def State.flightFaults (s : State) (l : List (Fin 6)) (r : CoreRef) : List (CoreRef × FaultInfo) :=
  (ctxNames.filterMap fun n => ((s.ctx ⟨r, n⟩).flightsTo l).head?.map fun x =>
    (r, (⟨fUnbound, ctxCode n, 0, x.1.rep, x.1.pc, s.vdieNo r x.2, 0, 0⟩ : FaultInfo))) ++
  engQueues.filterMap fun e => (s.flightCmd l r e).map fun x =>
    (r, (⟨fUnbound, 3, e.val, none, x.1.pushPc, x.2, 0, x.1.word⟩ : FaultInfo))

/-- The work in flight from a core to fenced dies is discarded. -/
def State.dropFlights (s : State) (l : List (Fin 6)) (r : CoreRef) : State :=
  let s := ctxNames.foldl (fun s n => ((s.ctx ⟨r, n⟩).flightsTo l).foldl (fun s x => s.dropAccess ⟨r, n⟩ x.1.seq) s) s
  engQueues.foldl (fun s e => match s.flightCmd l r e with
    | some (q, _) => ((s.unpin q.pages).updCore r fun c => c.dropHead e).settle r
    | none => s) s

/-- The tasks on dies that are fenced at one instant end, with their gangs; the children queued there are counted as faulted;
what other dies have in flight to them is discarded, and ends its tasks at the same instant. All their pipelines shut down,
each with every stage that lost something (R334, R354). -/
def State.fenceTasks (s : State) (l : List (Fin 6)) : State :=
  let f (i : Fin 6) : FaultInfo := ⟨fFenced, 4, 0, none, 0, i.val, 0, 0⟩
  let vs := s.victims l
  let peers := s.fencePeers l vs
  let others := allCores.filter fun r => !l.contains r.site
  let fl := others.flatMap (s.flightFaults l)
  let hit := fl.filterMap fun x => s.liveStage x.1
  let lost := s.fe.pipes.map fun p =>
    (p.id, s.lostStages l p, (s.fencedKids l p.id).length, (hit.filter fun x => x.1 == p.id).map Prod.snd)
  let s := vs.foldl (fun s r => s.endTask r (f r.site) none) s
  let s := peers.foldl (fun s x => s.endTask x.1 (f x.1.site) (some x.2)) s
  let s := fl.foldl (fun s x => s.endGang x.1 x.2) s
  let s := others.foldl (fun s r => s.dropFlights l r) s
  let s := (l.flatMap coresOf).foldl (fun s r => s.updCore r fun c => { c with kids := [] }) s
  lost.foldl (fun s x =>
    let (id, stages, kids, cut) := x
    if stages.isEmpty && cut.isEmpty then s
    else (s.updPipe id fun p => { p with faulted := p.faulted + kids }).beginShutdown id (if stages.isEmpty then 0x01 else 0x04) (stages ++ cut)) s

/-- Squashes on a die end with it. -/
def State.fenceSquashes (s : State) (i : Fin 6) : State :=
  let on (r : CoreRef) : Bool := match (s.core r).task with | some t => t.phase == .squashing | none => false
  let l := (coresOf i).filter on
  let s := s.updHomes fun h => { h with parked := mapIf (fun p => (p.squash.map l.contains).getD false) (fun p => { p with squash := none }) h.parked }
  (l.foldl (fun s r => s.updCore r fun c => { c with task := none }) s).wakeParked

/-- Clear V in the entry of a site (R24). -/
def clearEntry (i : Fin 6) (w : Word) : Word :=
  match vdieOf w i.val with
  | some v => setFld w (8 * v + 7) 1 0
  | none => w

/-- Clear the entry in the contexts of a core. -/
def Core.clearEntry (i : Fin 6) (c : Core) : Core := c.updCtxs fun x => { x with vdtab := Machine.clearEntry i x.vdtab }

/-- Clear the entries of a site in every context of the package, saved ones included, and in every pipeline's table. -/
def State.clearEntries (s : State) (i : Fin 6) : State :=
  let s := allCores.foldl (fun s r => s.updCore r (Core.clearEntry i)) s
  s.updFe fun e => { e with pipes := e.pipes.map fun p => { p with
    vdtab := clearEntry i p.vdtab
    saved := p.saved.map fun v => { v with lead := v.lead.clearEntry i } } }

/-- The members on a die leave their pools; a pipeline that resumes asks for as many again. -/
def State.fencePools (s : State) (i : Fin 6) : State :=
  s.fe.pipes.foldl (fun s p =>
    let lost := p.pool.filter fun m => m.at_.site == i
    let s := s.updPipe p.id fun p => { p with pool := p.pool.filter fun m => m.at_.site != i }
    if p.pre == .resuming then
      s.sendRequests p.id p.lcls ((p.record.stages.zipIdx.map fun x => (x.2, x.1.cls, (lost.filter fun m => m.stage == x.2).length)).filter
        fun x => x.2.2 != 0)
    else s) s

/-- What is left of work on a fenced die is gone: its cores' accesses and commands, its leases, its requests. -/
def State.fenceDie (s : State) (i : Fin 6) : State :=
  let s := (coresOf i).foldl State.detach s
  let pages := (coresOf i).flatMap fun r =>
    ((s.core r).eng.toList.flatMap id).flatMap QEntry.pages ++ ctxNames.flatMap fun n => (s.ctx ⟨r, n⟩).out.flatMap Access.pages
  let s := s.unpin pages
  let s := (coresOf i).foldl (fun s r =>
    (s.updCore r fun c => { c.updCtxs (fun x => { x with out := [] }) with
      eng := Vector.replicate 6 [], linkOut := none, linkIn := none }).settle r) s
  let s := s.updDie i fun d => { d with fenced := true, fencedAt := s.now, strips := Vector.replicate 8 .fenced, leases := [], relayed := [], engReqs := [] }
  let s := s.updFe fun e => { e with reqs := e.reqs.map fun q => { q with reserved := q.reserved.filter (· != i) } }
  s.updHomes fun h => { h with fenceDue := h.fenceDue ++ (List.range 12).map fun k => (k, i) }

/-- A fence does not fall in the bclk of a grant on its die, which it would have prevented (R318): it comes in the next one. -/
def State.afterGrant (s : State) (i : Fin 6) : State :=
  match (s.die i).grantAt with
  | some t => if t / tBclk = s.bclk then s.at_ ((s.bclk + 1) * tBclk) else s
  | none => s

/-- FENCING DIES at one instant F, each logged with a code; an absent or already fenced one is passed over (R352, R354,
R377). -/
def State.fences (s : State) (l : List (Fin 6)) (code : Nat) : State :=
  let l := l.filter fun i => (s.die i).present && !(s.die i).fenced
  let s := l.foldl State.afterGrant s
  let s := (l.foldl (fun s i => s.logErr code 0 i.val 0 1) s).fenceTasks l
  l.foldl (fun s i => (((s.fenceSquashes i).fencePools i).fenceDie i).clearEntries i) s

/-- FENCING A DIE. -/
def State.fence (s : State) (i : Fin 6) (code : Nat) : State := s.fences [i] code

/-! ## A home slice's side (R353) -/

/-- Whether a page is homed at a slice of this package. -/
def State.homedAt (s : State) (sl page : Nat) : Bool := s.homes.curHome page == ⟨s.fab.pkg, sl⟩

/-- What a die held or had sent to a slice is gone. gone names the pages concerned. -/
def State.dropDie (s : State) (i : Fin 6) (gone : Nat → Bool) : State :=
  let s := s.unpin (((s.die i).buf.filter fun w => gone (pageOf w.dla)).flatMap DieWrite.pages)
  s.updDie i fun d => { d with
    cache := d.cache.filter fun x => !gone (linePage x.1)
    badLines := d.badLines.filter fun l => !gone (linePage l)
    buf := d.buf.filter fun w => !gone (pageOf w.dla)
    rels := d.rels.filter fun x => !gone (x.1 / 8192) }

/-- A write that a JOIN's watch has seen was lost with the die that alone held it: the home's value counts (R116, R279). -/
def Context.unsee (i : Fin 6) (gone zero : Nat → Bool) (c : Context) : Context :=
  match c.status, c.joining with
  | .waiting (.join _ d), some j =>
    if j.by_ = some i ∧ gone (pageOf d) then { c with joining := some { j with watch := some (zero d), by_ := none } } else c
  | _, _ => c

/-- What the watches of the homes have seen of a die's M lines that are gone counts no more (R116, R279, R297). -/
def State.unseeDie (s : State) (i : Fin 6) (gone : Nat → Bool) : State :=
  let word (d : Nat) : Word := BitVec.ofNat 64 (s.cohN d 8)
  let unsee (w : Watch) : Watch :=
    if w.by_ = some i ∧ gone (pageOf w.dla) then { w with hit := condMet w.cond (word w.dla) w.val, by_ := none } else w
  { s with
    dies := s.dies.map fun d => { d with cores := d.cores.map fun c => c.updCtxs (Context.unsee i gone fun a => word a == 0) }
    homes := { s.homes with watches := s.homes.watches.map unsee } }

/-- A slice applies the fence of a die. -/
def State.fenceApply (s : State) (sl : Nat) (i : Fin 6) : State :=
  let due := s.homes.fenceDue.filter (· != (sl, i))
  let last := !due.any fun x => x.2 == i
  let here (page : Nat) : Bool := s.homedAt sl page
  let mine (line : Nat) : Bool := here (linePage line)
  let gone (page : Nat) : Bool := last || here page
  let s := (s.dropDie i gone).unseeDie i gone
  let ack (x : Stub) : Stub :=
    if x.at_ = ⟨s.fab.pkg, sl⟩ then
      { x with mask := x.mask.filter (· != .die i), reclaiming := x.reclaiming.map fun l => l.filter fun y => y.1 != .die i }
    else x
  (s.updHomes fun h => { h with
    fenceDue := due
    notes := h.notes.filter fun n => !(n.site == i && mine n.line)
    snoops := h.snoops.filter fun x => !(x.site == i && mine x.line)
    lost := h.lost.filter fun x => match x.2 with | .inv k l => !(k == i && mine l) | _ => true
    stubs := h.stubs.map ack }).freeStubs

/-- FENCE_APPLY. -/
def execFenceApply (slice : Fin 12) (site : Fin 6) (s : State) : Host.Outcome State Fault Refusal :=
  go (if s.homes.fenceDue.contains (slice.val, site) then s.fenceApply slice.val site else s)

/-! ## DIEFENCE and DIEREADMIT (R377) -/

/-- DIEFENCE. -/
def execDiefence (v : BitVec 64) (s : State) : Host.Outcome State Fault Refusal :=
  go (if s.regsOpen then s.fences (sites.filter fun i => bitAt v i.val) 0x48 else s)

/-- A core after its die's reset: its side log stands on the base (R341). -/
def Core.dieReset (c : Core) : Core :=
  { Core.reset with
    sideLog := c.sideLog
    l := { Context.reset with seq := c.l.seq }
    c := { Context.reset with seq := c.c.seq }
    s := { Context.reset with seq := c.s.seq } }

/-- A fenced die is reset, and its link trains. -/
def State.readmit (s : State) (i : Fin 6) : State :=
  if !(s.die i).present || !(s.die i).fenced then s
  else
    let s := (s.homes.fenceDue.filter fun x => x.2 == i).foldl (fun s x => s.fenceApply x.1 i) s
    s.updDie i fun d => { Die.reset with
      fenced := true, training := true, strips := Vector.replicate 8 .fenced, t0 := s.now, cores := d.cores.map Core.dieReset }

/-- DIEREADMIT. -/
def execDiereadmit (v : BitVec 64) (s : State) : Host.Outcome State Fault Refusal :=
  go (if s.regsOpen then (sites.filter fun i => bitAt v i.val).foldl State.readmit s else s)

/-- DIE_READMIT_DONE: the die's nodes are Free with owner unknown, or it stays fenced. -/
def execDieReadmitDone (site : Fin 6) (ok : Bool) (s : State) : Host.Outcome State Fault Refusal :=
  go (if !(s.die site).training then s
    else if ok then s.updDie site fun d => { d with training := false, fenced := false, strips := Vector.replicate 8 .free, layout := 0 }
    else (s.updDie site fun d => { d with training := false }).logErr 0x47 0 site.val 0 1)

/-! ## Silent dies (R351) -/

/-- DIE_ASLEEP_TIMEOUT. -/
def execDieAsleepTimeout (site : Fin 6) (line : Nat) (s : State) : Host.Outcome State Fault Refusal :=
  go (match s.homes.snoopAt site line with
    | none => s
    | some x =>
      if x.logged then s
      else
        let s := (s.at_ (x.since + 8 * tUs)).logErr 0x45 (s.homes.curHome (linePage line)).sl site.val (line * 128) 1
        s.updHomes fun h => { h with snoops := mapIf (fun y => y.site == site && y.line == line) (fun y => { y with logged := true }) h.snoops })

/-- The messages that wait for a die's answer, by when each was first sent: snoops, forced publishes and owner-cache
invalidations. -/
def State.messagesTo (s : State) (i : Fin 6) : List Nat :=
  ((s.homes.snoops.filter fun x => x.site == i).map Snoop.since) ++
  ((s.homes.notes.filter fun n => n.site == i && !n.acked).filterMap Note.sent) ++
  s.homes.stubs.flatMap fun x => ((x.reclaiming.getD []).filter fun y => y.1 == .die i).map Prod.snd

/-- The oldest message that waits for a die's answer. -/
def State.unanswered (s : State) (i : Fin 6) : Option Nat :=
  match s.messagesTo i with
  | [] => none
  | t :: l => some (l.foldl min t)

/-- DIE_DEAD. -/
def execDieDead (site : Fin 6) (s : State) : Host.Outcome State Fault Refusal :=
  go (match s.unanswered site with
    | some t => (s.at_ (t + 200 * tUs)).fence site 0x46
    | none => s)

/-- DIE_LINK_TRAINING_FAILED. -/
def execDieLinkTrainingFailed (site : Fin 6) (s : State) : Host.Outcome State Fault Refusal :=
  go (if (s.die site).training then (s.updDie site fun d => { d with training := false }).logErr 0x47 0 site.val 0 1
    else s.fence site 0x47)

/-- THERMAL_CRITICAL (R389). -/
def execThermalCritical (site : Fin 6) (s : State) : Host.Outcome State Fault Refusal := go (s.fence site 0x4D)

/-! ## Lost flits (R350) -/

/-- Log an error of a line at its home. -/
def State.logLine (s : State) (code line : Nat) (site : Nat) : State :=
  s.logErr code (s.homes.curHome (linePage line)).sl site (line * 128) 1

/-- A line becomes suspect: it is poisoned, and every die copy is invalidated and its data discarded. -/
def State.suspectLine (s : State) (l : Nat) : State :=
  let s := sites.foldl (fun s i =>
    if ((s.die i).line l).isSome then (s.updDie i fun d => d.dropLine l).disarmDie i l else s) s
  s.updHomes fun h => { h with suspect := addNew l h.suspect, snoops := h.snoops.filter fun x => x.line != l }

/-- The fault of a context whose load waits on its die for a line's data, which were lost (R349). -/
def State.lostLoad (s : State) (l : Nat) (c : CtxRef) : Option (CoreRef × FaultInfo) :=
  match (s.ctx c).status with
  | .held h => (h.words.find? fun w => w.home.isSome && lineOf w.dla == l).map fun w =>
    (c.at_, ⟨fPoison, ctxCode c.ctx, 0, (s.ctx c).faultRep, (s.ctx c).faultPc, w.hva.toNat, 0, 0⟩)
  | _ => none

/-- The data of a read of a line is lost on its way to a die: the die's copy is poisoned, and the loads that wait for it there
meet poison, all at one instant (R334, R349). -/
def State.poisonRead (s : State) (i : Fin 6) (l : Nat) : State :=
  let s := if ((s.die i).line l).isSome then s.updDie i fun d => { d with badLines := addNew l d.badLines } else s
  s.takeFaults (((coresOf i).flatMap fun r => ctxNames.map fun n => (⟨r, n⟩ : CtxRef)).filterMap (s.lostLoad l))

/-- FLIT_CRC_ERROR: after a replay that succeeds nothing is lost; else what the flit carried is. -/
def execFlitCrcError (k : FlitLoss) (s : State) : Host.Outcome State Fault Refusal :=
  go (match k with
    | .replayed => s
    | .lineData l => (s.updHomes fun h => h.addPoison l).logLine 0x42 l 0
    | .readData i l => (s.poisonRead i l).logLine 0x42 l i.val
    | .rowData r row =>
      ((s.updCore r fun c => { c with st := { c.st with poison := addNew row c.st.poison } })).logErr 0x42 0 r.site.val 0 1
    | .directory l => (s.suspectLine l).logLine 0x43 l 0
    | .invAck i l =>
      if (s.homes.snoopAt i l).isSome then s.updHomes fun h => { h with lost := h.lost ++ [(s.now, .inv i l)] } else s
    | .other q => match s.msgOf q with
      | some m => if s.homes.isLost m then s else s.updHomes fun h => { h with lost := h.lost ++ [(s.now, m)] }
      | none => s)

/-! ## ECC (R347, R348) -/

/-- The home slice, the site and the DLA that an entry of an ECC error names. -/
def State.eccPlace (s : State) : EccUnit → Nat × Nat × Nat
  | .line l => ((s.homes.curHome (linePage l)).sl, 0, l * 128)
  | .copy i l => (0, i.val, l * 128)
  | .row r _ => (0, r.site.val, 0)
  | .bank r _ _ => (0, r.site.val, 0)

/-- A corrected ECC error: one entry per source, by slice and site, and ms; the others are counted in the next (R347). -/
def State.eccCorrected (s : State) (u : EccUnit) : State :=
  let (sl, i, dla) := s.eccPlace u
  let (t, n) := getKey (0, 0) (sl * 8 + i) s.mgmt.ecc
  if (lookup (sl * 8 + i) s.mgmt.ecc).isSome && decide (s.now < t + 1000 * tUs) then
    { s with mgmt := { s.mgmt with ecc := insertKey (sl * 8 + i) (t, n + 1) s.mgmt.ecc } }
  else
    let s := s.logErr 0x40 sl i dla (n + 1)
    { s with mgmt := { s.mgmt with ecc := insertKey (sl * 8 + i) (s.now, 0) s.mgmt.ecc } }

/-- Log an uncorrectable ECC error. -/
def State.logEcc (s : State) (u : EccUnit) : State :=
  let (sl, i, dla) := s.eccPlace u
  s.logErr 0x41 sl i dla 1

/-- A new uncorrectable error that the read of a line finds in a page that is copied, or switched, aborts its migration
(R355): a line that was poisoned or suspect before that read migrates as poison. -/
def State.spoilMig (s : State) (page : Nat) : State :=
  match s.homes.migOf page with
  | some m => if m.phase = .copying ∨ m.phase = .switching then s.abortMig m 3 else s
  | none => s

/-- An uncorrectable ECC error poisons what it strikes: a line at its home, a row, a bank row; a die's M copy is written back as
poison, and another copy is refetched silently (R348). -/
def State.eccPoison (s : State) (u : EccUnit) : State :=
  match u with
  | .line l => ((s.updHomes fun h => h.addPoison l).logEcc u).spoilMig (linePage l)
  | .copy i l => match (s.die i).line l with
    | some (.m ..) => ((((s.updDie i fun d => { d with badLines := addNew l d.badLines }).recallFrom i l).disarmDie i l).logEcc u)
    | _ => s
  | .row r row => (s.updSt r fun t => { t with poison := addNew row t.poison }).logEcc u
  | .bank r b row => (s.updSt r fun t =>
      if b then { t with poisonB := addNew row t.poisonB } else { t with poisonA := addNew row t.poisonA }).logEcc u

/-- An ECC error. -/
def State.eccError (s : State) (corrected : Bool) (u : EccUnit) : State := if corrected then s.eccCorrected u else s.eccPoison u

/-! ## Messages sent again (R350) -/

/-- RESEND_TIMEOUT: the n-th lost message is sent again. -/
def execResendTimeout (n : Nat) (s : State) : Host.Outcome State Fault Refusal :=
  go (match s.homes.lost[n]? with
    | none => s
    | some (t, m) =>
      let s := (s.at_ (t + 2 * tUs)).updHomes fun h => { h with lost := dropAt n h.lost }
      match m with
      | .inv i l => s.logLine 0x44 l i.val
      | _ => s)

end Sys2Proof.Machine
end

