-- ==== Sys2Proof/Machine/Cipher.lean ====
section
/-! DEFINITION. AES-256-XTS, with which the home slices encrypt memory (R386; IEEE 1619, FIPS 197), and a page whose key
changes (R387). -/

namespace Sys2Proof.Machine

/-! ## The field of 256 elements -/

/-- Multiply by x. -/
def xtime (b : Byte) : Byte := (b <<< 1) ^^^ (if b.msb then 0x1B else 0)

/-- The product of two elements. -/
def gfMul (a b : Byte) : Byte :=
  ((List.range 8).foldl (fun x i => (if bitAt b i then x.1 ^^^ x.2 else x.1, xtime x.2)) ((0 : Byte), a)).1

/-- The inverse of an element, its 254th power; 0 for 0. -/
def gfInv (a : Byte) : Byte :=
  ((List.range 7).foldl (fun x _ => let q := gfMul x.2 x.2; (gfMul x.1 q, q)) ((1 : Byte), a)).1

/-- The S-box and its inverse. -/
def sbox (a : Byte) : Byte :=
  let b := gfInv a
  b ^^^ b.rotateLeft 1 ^^^ b.rotateLeft 2 ^^^ b.rotateLeft 3 ^^^ b.rotateLeft 4 ^^^ 0x63
def invSbox (a : Byte) : Byte := gfInv (a.rotateLeft 1 ^^^ a.rotateLeft 3 ^^^ a.rotateLeft 6 ^^^ 0x05)

/-! ## AES-256 on blocks of 16 bytes, column after column -/

/-- The exclusive or of two lists of bytes. -/
def xorBytes (a b : List Byte) : List Byte := (a.zip b).map fun x => x.1 ^^^ x.2

/-- The round constant of a number from 1 on. -/
def rcon : Nat → Byte
  | 0 | 1 => 1
  | n + 1 => xtime (rcon n)

/-- Word i of the key schedule, from the words before it, the last one first. -/
def nextKeyWord (l : List (List Byte)) (i : Nat) : List Byte :=
  let t := l.headD []
  let t := if i % 8 = 0 then xorBytes ((t.drop 1 ++ t.take 1).map sbox) [rcon (i / 8), 0, 0, 0]
    else if i % 8 = 4 then t.map sbox else t
  xorBytes (l.getD 7 []) t

/-- The n bytes of a number, the lowest first. -/
def toBytes (w : Nat) (n : Nat) : List Byte := (List.range n).map fun i => BitVec.ofNat 8 (w / 256 ^ i)

/-- The number that bytes make. -/
def ofBytes (l : List Byte) : Nat := l.foldr (fun b n => b.toNat + 256 * n) 0

/-- The fifteen round keys of a 32-byte key. -/
def roundKeys (key : List Byte) : List (List Byte) :=
  let first := (List.range 8).map fun k => (key.drop (4 * k)).take 4
  let all := ((List.range 52).foldl (fun l k => nextKeyWord l (k + 8) :: l) first.reverse).reverse
  (List.range 15).map fun k => ((all.drop (4 * k)).take 4).flatten

/-- Byte r of column c moves r columns, to the left, or back. -/
def shiftRows (b : List Byte) : List Byte := (List.range 16).map fun k => b.getD (k % 4 + 4 * ((k / 4 + k % 4) % 4)) 0
def invShiftRows (b : List Byte) : List Byte := (List.range 16).map fun k => b.getD (k % 4 + 4 * ((k / 4 + 4 - k % 4) % 4)) 0

/-- Each column times the circulant of four coefficients. -/
def mixColumns (c : List Byte) (b : List Byte) : List Byte :=
  (List.range 16).map fun k => (List.range 4).foldl (fun x j => x ^^^ gfMul (c.getD ((j + 4 - k % 4) % 4) 0) (b.getD (k / 4 * 4 + j) 0)) 0

/-- Encrypt a block. -/
def aesEnc (ks : List (List Byte)) (b : List Byte) : List Byte :=
  let mid := (List.range 13).foldl (fun b k =>
    xorBytes (mixColumns [2, 3, 1, 1] (shiftRows (b.map sbox))) (ks.getD (k + 1) [])) (xorBytes b (ks.getD 0 []))
  xorBytes (shiftRows (mid.map sbox)) (ks.getD 14 [])

/-- Decrypt a block. -/
def aesDec (ks : List (List Byte)) (b : List Byte) : List Byte :=
  let mid := (List.range 13).foldl (fun b k =>
    mixColumns [14, 11, 13, 9] (xorBytes ((invShiftRows b).map invSbox) (ks.getD (13 - k) []))) (xorBytes b (ks.getD 14 []))
  xorBytes ((invShiftRows mid).map invSbox) (ks.getD 0 [])

/-! ## XTS (R386) -/

/-- Multiply a tweak by x, its bytes as a number, the lowest first. -/
def tweakNext (t : Nat) : Nat := Nat.xor (t * 2 % 2 ^ 128) (if t / 2 ^ 127 % 2 = 1 then 0x87 else 0)

/-- A line under a block cipher of the first key, each block between two additions of its tweak, which the second key makes of
the line's DLA bits 56:7. KEYDATA holds the first key in its low half, and byte k of a key at bits 8k: R386 gives no order.
DESIGN CHOICE (log 116). -/
def xtsLine (f : List (List Byte) → List Byte → List Byte) (key : BitVec 512) (l : Nat) (data : LineData) : LineData :=
  let k1 := roundKeys (toBytes key.toNat 32)
  let t0 := ofBytes (aesEnc (roundKeys (toBytes (key.toNat / 2 ^ 256) 32)) (toBytes (l % 2 ^ 50) 16))
  let out := (List.range 8).foldl (fun x j =>
    let t := toBytes x.2 16
    (x.1 ++ xorBytes (f k1 (xorBytes (toBytes (data.toNat / 2 ^ (128 * j)) 16) t)) t, tweakNext x.2)) (([] : List Byte), t0)
  BitVec.ofNat 1024 (ofBytes out.1)

/-- The ciphertext of a line, and what a ciphertext decrypts to. -/
def xtsEnc : BitVec 512 → Nat → LineData → LineData := xtsLine aesEnc
def xtsDec : BitVec 512 → Nat → LineData → LineData := xtsLine aesDec

/-! ## A page whose key changes (R386, R387) -/

/-- The key under which a page's stored bytes are those that mem holds. -/
def Homes.sealOf (h : Homes) (page : Nat) : BitVec 512 := (lookup page h.seals).getD (getKey 0 0 h.keys)

/-- A line of memory as it reads once its ciphertext under one key is decrypted under another. -/
def Memory.recrypt (m : Memory) (old new : BitVec 512) (l : Nat) : Memory :=
  m.writeN (l * 128) (xtsDec new l (xtsEnc old l (BitVec.ofNat 1024 (bytesNat m.read (l * 128) 128)))).toNat 128

/-- The lines of a page are read under another key than before: their ciphertext stays. -/
def Homes.reseal (h : Homes) (page : Nat) (key : BitVec 512) : Homes :=
  if h.sealOf page = key then h
  else { h with
    mem := (List.range 512).foldl (fun m k => m.recrypt (h.sealOf page) key (page * 512 + k)) h.mem
    seals := insertKey page key h.seals }

end Sys2Proof.Machine
end

