-- ==== Sys2Proof/Machine/Manage.lean ====
section
/-! DEFINITION. The management registers (R373 to R379, R386, R387, R389): what writes to them do and what the host reads. -/

namespace Sys2Proof.Machine

/-! ## Feature negotiation (R375) -/

/-- The optional features, and the mandatory ones. -/
def optFeatures : BitVec 128 := 0x5E
def mandFeatures : BitVec 128 := 0x21

/-- FEATOFF (R375). -/
def State.featOff (s : State) : BitVec 128 := (s.flash.blobFeat &&& optFeatures) ||| mandFeatures

/-! ## The MSI-X table (R372; log 103) -/

/-- Bytes of the MSI-X table are written; vectors that were pending and are masked no longer send their message. -/
def State.writeMsix (s : State) (off : Nat) (v : Word) : State :=
  let m := s.mgmt
  let m := { m with msix := (List.range 8).foldl (fun l k =>
    putKey (if (off + k) % 16 = 12 then 1 else 0) (off + k) (byteOf v k) l) m.msix }
  let due := m.msixPend.filter fun n => !m.masked n
  { s with
    mgmt := { m with msixPend := m.msixPend.filter m.masked }
    fe := { s.fe with irqs := s.fe.irqs ++ due } }

/-- A byte of the MSI-X region: the table, then the pending bits. -/
def Mgmt.msixRead (m : Mgmt) (off : Nat) : Byte :=
  if off < 0x8000 then m.msixByte off
  else if off < 0x8100 then BitVec.ofNat 8 (packNat 1 ((List.range 8).map fun k => if m.msixPend.contains (8 * (off - 0x8000) + k) then 1 else 0))
  else 0

/-- FEATCTL_GO. -/
def execFeatctlGo (v : BitVec 64) (s : State) : Host.Outcome State Fault Refusal :=
  let m := s.mgmt
  go (if !s.regsOpen || !bitAt v 0 then s
    else if m.featAcc &&& ~~~s.featOff = 0 ∧ m.featAcc &&& mandFeatures = mandFeatures then
      { s with mgmt := { m with featDone := true, featErr := false } }
    else { s with mgmt := { m with featErr := true } })

/-! ## PREEMPT and RESUME (R376) -/

/-- The operator of a handle that has not ended. -/
def State.ofHandle (s : State) (v : Word) : Option Pipe := s.fe.pipes.find? fun p => p.handle == v && !p.ended

/-- The handle written last (R376). -/
def State.noteHandle (s : State) (v : Word) : State := { s with mgmt := { s.mgmt with lastHandle := some v } }

/-- PREEMPT. -/
def execPreempt (v : BitVec 64) (s : State) : Host.Outcome State Fault Refusal :=
  go (if !s.regsOpen then s
    else match s.ofHandle v with
      | some p => (s.noteHandle v).preempt p.id
      | none => s.noteHandle v)

/-- RESUME. -/
def execResume (v : BitVec 64) (s : State) : Host.Outcome State Fault Refusal :=
  go (if !s.regsOpen then s
    else match s.ofHandle v with
      | some p => (s.noteHandle v).resume p.id
      | none => s.noteHandle v)

/-- PRESTAT. -/
def State.prestat (s : State) : Nat :=
  match s.mgmt.lastHandle.bind s.ofHandle with
  | none => 3
  | some p => match p.pre with
    | .none => 0
    | .stopping => 1
    | .stopped => 2
    | .resuming => 2

/-! ## PLQ (R82, R378) -/

/-- A placement record as a word (R82). -/
def PlaceRec.word (r : PlaceRec) : Word :=
  BitVec.ofNat 64 (r.gen.toNat * 2 ^ 48 + r.cur.pkg % 4096 * 2 ^ 24 + r.cur.sl % 16 * 2 ^ 20 + r.st.toNat)

/-- PLREC: the record, as it stands, of the page of the DLA last written to PLQ; 0 before the first write. -/
def State.plrec (s : State) : Word :=
  match s.mgmt.plq with
  | none => 0
  | some v => if s.reachable (dlaPkg v.toNat) then (s.homes.placeRec (pageOf (v.toNat % 2 ^ 57))).word else BitVec.allOnes 64

/-- PLQ. -/
def execPlq (v : BitVec 64) (s : State) : Host.Outcome State Fault Refusal :=
  go (if s.regsOpen then { s with mgmt := { s.mgmt with plq := some v } } else s)

/-! ## PGASSIGN (R281, R387) -/

/-- A page is recalled: every die copy is discarded. -/
def State.discardPage (s : State) (page : Nat) : State :=
  sites.foldl (fun s i => s.updDie i fun d => { d with
    cache := d.cache.filter fun x => linePage x.1 != page
    badLines := d.badLines.filter fun l => linePage l != page
    rels := d.rels.filter fun x => x.1 / 8192 != page }) s

/-- A page is read under the key in an owner's slot; with an empty slot its lines read as 0 and stay as they were sealed. -/
def Homes.resealAs (h : Homes) (page : Nat) (owner : BitVec 8) : Homes :=
  match lookup owner.toNat h.keys with
  | some k => h.reseal page k
  | none => h

/-- A page goes to an owner: its ciphertext stays, and is read under the new owner's key. -/
def State.assignPage (s : State) (page : Nat) (key : BitVec 8) : State :=
  (s.discardPage page).updHomes fun h => ({ h with
    full := h.full.filter fun l => linePage l != page
    pageOwner := putKey 0 page key h.pageOwner }).resealAs page key

/-- Set PGSTAT. -/
def State.pgstat (s : State) (n : Nat) : State := { s with mgmt := { s.mgmt with pgstat := BitVec.ofNat 64 n } }

/-- PGASSIGN: a page of this package's DLA space. -/
def execPgassign (v : BitVec 64) (s : State) : Host.Outcome State Fault Refusal :=
  let page := fld v 16 41
  go (if !s.regsOpen || page / 2 ^ 29 != s.fab.pkg then s
    else if !s.reachable (s.homes.curHome page).pkg then s.pgstat 2
    else if getKey 0 page s.homes.pins ≠ 0 ∨ (s.homes.migOf page).isSome ∨ s.homes.parked.any (fun p => pageOf p.cell == page) then s.pgstat 1
    else (s.assignPage page (BitVec.ofNat 8 (fld v 0 8))).pgstat 0)

/-! ## KEYCMD (R386) -/

/-- A KEYCMD is ignored: a reserved bit, slot 0, or a slot that an enabled queue names. -/
def State.keyIgnored (s : State) (v : Word) : Bool :=
  fld v 10 54 != 0 || fld v 0 8 == 0 || s.fe.queues.any fun q => q.en && q.key.toNat == fld v 0 8

/-- A key stands in a slot, and the pages of that owner are read under it. -/
def Homes.loadKey (h : Homes) (k : Nat) (v : BitVec 512) : Homes :=
  (h.pageOwner.filter fun x => x.2.toNat == k).foldl (fun h x => h.reseal x.1 v) { h with keys := insertKey k v h.keys }

/-- KEYCMD_LOAD. -/
def execKeycmdLoad (v : BitVec 64) (s : State) : Host.Outcome State Fault Refusal :=
  go (if !s.regsOpen || fld v 8 2 != 1 || s.keyIgnored v then s
    else
      let s' := s.updHomes fun h => h.loadKey (fld v 0 8) s.mgmt.keydata
      { s' with mgmt := { s'.mgmt with keydata := 0 } })

/-- KEYCMD_ERASE. -/
def execKeycmdErase (v : BitVec 64) (s : State) : Host.Outcome State Fault Refusal :=
  go (if !s.regsOpen || fld v 8 2 != 2 || s.keyIgnored v then s
    else
      let s' := s.updHomes fun h => { h with keys := eraseKey (fld v 0 8) h.keys }
      { s' with mgmt := { s'.mgmt with keydata := 0 } })

/-! ## Registers with no behaviour of their own (R373) -/

/-- Put word k of a register of several words. -/
def putWord {n : Nat} (r : BitVec n) (k : Nat) (v : Word) : BitVec n := setFld r (64 * k) 64 v.toNat

/-- Word k of a register of several words. -/
def getWord {n : Nat} (r : BitVec n) (k : Nat) : Word := BitVec.ofNat 64 (fld r (64 * k) 64)

/-- The 8 bytes of a word written into a list of bytes. -/
def putBytes (l : List (Nat × Byte)) (off : Nat) (v : Word) : List (Nat × Byte) :=
  (List.range 8).foldl (fun l k => putKey 0 (off + k) (byteOf v k) l) l

/-- The number of the slice that fabric time stands in. -/
def State.sliceAt (s : State) : Option Nat :=
  let t := s.fabricTime
  let e := s.fab.slEpoch.toNat
  if s.fab.sliceEn ∧ e ≤ t then some ((t - e) / (s.fab.sliceLen.toNat * 1000)) else none

/-- Slicing is configured anew. -/
def State.setSlices (s : State) (f : Fabric → Fabric) : State :=
  let s : State := { s with fab := f s.fab }
  { s with fab := { s.fab with sliceNo := s.sliceAt, switching := none } }

/-- A remote package that could be reached no longer can (R361): migrations to it abort (R355). -/
def State.lostPkgs (s s' : State) : State :=
  let gone := (s.fab.routes.map Prod.fst).filter fun p => s.reachable p && !s'.reachable p
  let s' := gone.foldl (fun s _ => s.logErr 0x4B 0 0 0 1) s'
  if gone.isEmpty then s' else s'.abortLost

/-- A route-table write (R358, R375). -/
def State.setRoute (s : State) (p : Nat) (v : Word) : State :=
  if s.feature 3 then s.lostPkgs { s with fab := { s.fab with routes := putKey 0 p v s.fab.routes } } else s

/-- A write of WQBASE (R292). -/
def State.setWqbase (s : State) (no : BitVec 14) (v : Word) : State :=
  let q := s.queue no
  if q.en then s else s.setQueue { q with base := v }

/-- REGISTER_WRITE: 8 bytes at an offset of BAR0. -/
def State.writeReg (s : State) (off : Nat) (v : Word) : State :=
  let m := s.mgmt
  let f := s.fab
  let us := fld v 0 16
  if off % 8 ≠ 0 then s
  else if off = 0x20 ∨ off = 0x28 then
    if m.featDone then s else { s with mgmt := { m with featAcc := putWord m.featAcc ((off - 0x20) / 8) v } }
  else if off = 0x40 then (if us = 0 then s else { s with mgmt := { m with settAge := BitVec.ofNat 16 us } })
  else if off = 0x98 then (if us = 0 then s else { s with mgmt := { m with stubAge := BitVec.ofNat 16 us } })
  else if 0xA0 ≤ off ∧ off < 0xE0 then { s with mgmt := { m with keydata := putWord m.keydata ((off - 0xA0) / 8) v } }
  else if off = 0x108 then { s with fab := { f with grandmaster := BitVec.ofNat 12 (fld v 0 12) } }
  else if off = 0x110 then
    if bitAt v 63 && !s.feature 4 then s
    else s.setSlices fun f => { f with sliceEn := bitAt v 63, sliceN := BitVec.ofNat 4 (fld v 48 4), sliceLen := BitVec.ofNat 16 (fld v 32 16) }
  else if off = 0x118 then s.setSlices fun f => { f with slEpoch := v }
  else if off = 0x120 ∨ off = 0x128 then { s with fab := { f with slKeys := putWord f.slKeys ((off - 0x120) / 8) v } }
  else if 0x140 ≤ off ∧ off < 0x160 then { s with fab := { f with netslot := putWord f.netslot ((off - 0x140) / 8) v } }
  else if 0x160 ≤ off ∧ off < 0x1E0 then { s with fab := { f with tidx := putWord f.tidx ((off - 0x160) / 8) v } }
  else if off = 0x200 then (if 3000 ≤ us ∧ us ≤ 7500 then { s with mgmt := { m with powercap := BitVec.ofNat 16 us } } else s)
  else if 0x10000 ≤ off ∧ off < 0x18000 then s.writeMsix (off - 0x10000) v
  else if 0x100000 ≤ off ∧ off < 0x108000 then s.setRoute ((off - 0x100000) / 8) v
  else if 0x200000 ≤ off ∧ off < 0x280000 ∧ off % 32 = 0 then s.setWqbase (BitVec.ofNat 14 ((off - 0x200000) / 32)) v
  else s

/-- REGISTER_WRITE. -/
def execRegisterWrite (off : Nat) (v : BitVec 64) (s : State) : Host.Outcome State Fault Refusal :=
  go (if s.regsOpen then s.writeReg off v else s)

/-! ## What the host reads (R373, R374) -/

/-- DEVSTAT (R374). -/
def State.devstat (s : State) : Word :=
  let bits (f : Die → Bool) : Nat := packNat 1 (sites.map fun i => if f (s.die i) then 1 else 0)
  BitVec.ofNat 64 (s.fab.pkg % 4096 * 2 ^ 52 + bits Die.present * 2 ^ 46 + bits Die.fenced * 2 ^ 40 + s.mgmt.degr.toNat * 2 ^ 32 +
    (if s.mgmt.slot then 8 else 0) + s.mgmt.mode.toNat)

/-- A word of an error-log entry (R347). -/
def LogRec.word (e : LogRec) (k : Nat) : Word :=
  BitVec.ofNat 64 (match k with
    | 0 => e.code.toNat * 2 ^ 56 + e.slice.toNat * 2 ^ 52 + e.site.toNat * 2 ^ 49
    | 1 => e.dla
    | 2 => e.time
    | _ => e.count)

/-- The word of the error log at an offset from its base (R379). -/
def Mgmt.logWord (m : Mgmt) (off : Nat) : Word :=
  let i := off / 32
  match ((m.log.zipIdx.filter fun x => x.2 % 256 == i).getLast?) with
  | some (e, _) => e.word (off / 8 % 4)
  | none => 0

/-- WQCFG (R292). -/
def WorkQueue.cfg (q : WorkQueue) : Word :=
  BitVec.ofNat 64 (q.vec.toNat * 2 ^ 53 + q.key.toNat * 2 ^ 36 + q.cls.toNat * 2 ^ 33 + (if q.en then 2 ^ 32 else 0) + q.pasid.toNat * 2 ^ 12 +
    q.logn.toNat * 2 ^ 4)

/-- WQSTAT (R294). -/
def WorkQueue.stat (q : WorkQueue) : Word :=
  BitVec.ofNat 64 (q.err.toNat * 2 ^ 56 + (if q.stop then 2 ^ 55 else 0) + q.idx.toNat * 2 ^ 32 + q.cons.toNat)

/-- Bytes of a list as a word. -/
def wordBytes (rd : Nat → Byte) (off : Nat) : Word := BitVec.ofNat 64 (bytesNat rd off 8)

/-- A byte of the recovery mailbox (R385). -/
def Mgmt.mail (m : Mgmt) (off : Nat) : Byte :=
  match m.mailFree with
  | some n => Config.mailboxByte n off
  | none => getKey 0 off m.mailbox

/-- The header of the running slot: its first 256 bytes (R381). -/
def State.header (s : State) : List (Nat × Byte) :=
  (if s.mgmt.slot then s.flash.slotB else s.flash.slotA).filter fun x => decide (x.1 < 256)

/-- The configuration blob (R383). -/
def Flash.blob (f : Flash) : List Nat := [f.blobSites.toNat, f.blobPkg, f.blobFeat.toNat, f.blobTimings.toNat, f.blobPower.toNat]

/-- A byte of the identity and attestation read-out, whose report signs the running slot's header, the blob, DEVSTAT and the
nonce (R384). -/
def State.readout (s : State) (off : Nat) : Byte := Config.readoutByte off s.mgmt.nonce s.devstat s.header s.flash.blob

/-- The registers that the host reaches in recovery too (R385). -/
def State.readOpen (s : State) (off : Nat) : Word :=
  if off = 0 then 0x0000602400000000
  else if off = 8 then s.devstat
  else if 0x4000 ≤ off ∧ off < 0x5000 then wordBytes s.mgmt.mail (off - 0x4000)
  else if 0x5000 ≤ off ∧ off < 0x6000 then wordBytes s.readout (off - 0x5000)
  else 0

/-- The word that the host reads at an offset of BAR0; write-only and unlisted ones read 0. -/
def State.readReg (s : State) (off : Nat) : Word :=
  let m := s.mgmt
  let f := s.fab
  if !s.regsOpen then s.readOpen off
  else if off = 0x10 ∨ off = 0x18 then getWord s.featOff ((off - 0x10) / 8)
  else if off = 0x20 ∨ off = 0x28 then getWord m.featAcc ((off - 0x20) / 8)
  else if off = 0x30 then BitVec.ofNat 64 ((if m.featErr then 4 else 0) + if m.featDone then 2 else 0)
  else if off = 0x40 then m.settAge.setWidth 64
  else if off = 0x58 then BitVec.ofNat 64 s.prestat
  else if off = 0x70 then m.plq.getD 0
  else if off = 0x78 then s.plrec
  else if off = 0x88 then m.pgstat
  else if off = 0x98 then m.stubAge.setWidth 64
  else if off = 0x100 then BitVec.ofNat 64 s.fabricTime
  else if off = 0x108 then BitVec.ofNat 64 (f.grandmaster.toNat + if f.lock then 2 ^ 63 else 0)
  else if off = 0x110 then BitVec.ofNat 64 ((if f.sliceEn then 2 ^ 63 else 0) + f.sliceN.toNat * 2 ^ 48 + f.sliceLen.toNat * 2 ^ 32)
  else if off = 0x118 then f.slEpoch
  else if off = 0x120 ∨ off = 0x128 then getWord f.slKeys ((off - 0x120) / 8)
  else if 0x140 ≤ off ∧ off < 0x160 then getWord f.netslot ((off - 0x140) / 8)
  else if 0x160 ≤ off ∧ off < 0x1E0 then getWord f.tidx ((off - 0x160) / 8)
  else if off = 0x200 then m.powercap.setWidth 64
  else if off = 0x208 then BitVec.ofNat 64 (m.mhz * 2 ^ 48)
  else if off = 0x218 then BitVec.ofNat 64 ((if m.gateErr then 2 else 0) + if m.gateBusy.isSome then 1 else 0)
  else if off = 0x300 then BitVec.ofNat 64 m.errCnt
  else if 0x1000 ≤ off ∧ off < 0x3000 then m.logWord (off - 0x1000)
  else if 0x10000 ≤ off ∧ off < 0x20000 then wordBytes m.msixRead (off - 0x10000)
  else if 0x100000 ≤ off ∧ off < 0x108000 then getKey 0 ((off - 0x100000) / 8) f.routes
  else if 0x200000 ≤ off ∧ off < 0x280000 then
    let q := s.queue (BitVec.ofNat 14 ((off - 0x200000) / 32))
    match off / 8 % 4 with
    | 0 => q.base
    | 1 => q.cfg
    | 3 => q.stat
    | _ => 0
  else s.readOpen off

end Sys2Proof.Machine
end

