-- ==== Sys2Proof/Machine/Platform.lean ====
section
/-! DEFINITION. Fabric links, agreed time and network slots (R357 to R361, R368, R371), the power cap (R389), flash (R380 to
R382), the start of the package (R383), recovery and attestation (R384, R385). -/

namespace Sys2Proof.Machine

/-! ## Fabric links (R358 to R361) -/

/-- FABRIC_LINK_DOWN: a link that was up goes down, its requests going by the ports that stay (R359, R360); one that was down
has failed its training (R361). -/
def execFabricLinkDown (port : BitVec 6) (s : State) : Host.Outcome State Fault Refusal :=
  go (if !bitAt s.fab.up port.toNat then s.logErr 0x4A 0 0 0 1
    else
      let s' : State := { s with fab := { s.fab with up := setFld s.fab.up port.toNat 1 0 } }
      s.lostPkgs (s'.logErr 0x4A 0 0 0 1))

/-- FABRIC_LINK_UP; boot step 4 in its conservative form leaves every port down (R383). -/
def execFabricLinkUp (port : BitVec 6) (s : State) : Host.Outcome State Fault Refusal :=
  go (if bitAt s.mgmt.degr 4 then s else { s with fab := { s.fab with up := setFld s.fab.up port.toNat 1 1 } })

/-- A page is homed on another package. -/
def State.remotePage (s : State) (page : Nat) : Bool := (s.homes.curHome page).pkg != s.fab.pkg

/-- 200 us: how long a remote request may go unanswered (R360). -/
def remoteTicks : Nat := 200 * tUs

/-- A write that has performed at die scope is given up: its task, if it still runs, takes the unreachable-package fault. -/
def State.loseWrite (s : State) (i : Fin 6) (n : Nat) (w : DieWrite) : State :=
  let s := (s.updDie i fun d => { d with buf := dropAt n d.buf }).unpin w.pages
  let s := if w.route.isSome then s.accept i [lineOf w.dla] else s
  let mine := match (s.core w.ctx.at_).task, w.gang with
    | some t, some g => (t.pipe, t.gangId) == g
    | _, _ => false
  let s := if mine then s.takeFault w.ctx.at_ ⟨fUnreach, ctxCode w.ctx.ctx, 0, w.rep, w.pc, w.dla, 0, 0⟩ else s
  s.settle w.ctx.at_

/-- The word that an outstanding access asks a home for. -/
def AccOp.cell : AccOp → Option Nat
  | .fput dla _ => some dla
  | .freset dla => some dla
  | .spawn t _ _ => if t.j then some t.joinAddr.toNat else none
  | _ => none

/-- The word that a context waits for another package's home to answer, with the tick at which its request was sent: of a load,
of a JOIN, of an FGET. -/
def State.asks (s : State) (c : CtxRef) : Option (Nat × Nat) :=
  let x := s.ctx c
  let ask (d : Nat) (t : Option Nat) : Option (Nat × Nat) := if s.remotePage (pageOf d) then t.map fun t => (d, t) else none
  match x.status with
  | .held l => (l.words.find? fun w => w.home.isNone && s.remotePage (pageOf w.dla)).bind fun w => ask w.dla l.asked
  | .waiting (.join _ dla) => ask dla (x.joining.bind JoinWait.asked)
  | .waiting (.home (some dla) t) => ask dla t
  | _ => none

/-- A held load, a JOIN or an FGET has no answer. -/
def State.loadTimeout (s : State) (c : CtxRef) : State :=
  match s.asks c with
  | some (dla, t) => (s.at_ (t + remoteTicks)).ctxFault c fUnreach dla
  | none => s

/-- An outstanding access that acts at a home has no answer: its task takes the fault, and it is given up. -/
def State.accessTimeout (s : State) (c : CtxRef) (n : Nat) : State :=
  match (s.ctx c).out[n]? with
  | none => s
  | some a => match a.op.cell, a.asked with
    | some dla, some t =>
      if s.remotePage (pageOf dla) then
        (((s.at_ (t + remoteTicks)).takeFault c.at_ ⟨fUnreach, ctxCode c.ctx, 0, a.rep, a.pc, dla, 0, 0⟩).unpin a.pages).dropAccess c a.seq
      else s
    | _, _ => s

/-- An RWRITE that waits for another package's answer has none: its command faults. -/
def State.rwriteTimeout (s : State) (r : CoreRef) (e : Fin 6) : State :=
  match (s.core r).eng[e] with
  | [] => s
  | q :: _ => match q.state, q.rent, s.rwriteDest r q with
    | .started t [] _ _ _, some _, some (_, pkg, _, _) =>
      if pkg = s.fab.pkg then s
      else
        let s := (s.at_ (t + remoteTicks)).cmdFault r e.val q fUnreach (pkg * 2 ^ 45)
        ((s.unpin q.pages).updCore r fun c => c.dropHead e).settle r
    | _, _, _ => s

/-- The fetches of a context that have had no answer from the home of a page: the DLA, and when they were sent. -/
def State.lateFetch (s : State) (page : Nat) (c : CtxRef) : Option (Nat × Nat) :=
  match (s.ctx c).status with
  | .waiting (.fetch hva (some t)) => match s.lookupXlat (.engine c.at_ ctxEng) (s.pasidOf c.at_) hva false with
    | .hit d => if pageOf d = page then some (d, t) else none
    | _ => none
  | _ => none

/-- The fetches of a die from a page that have had no answer, with when each was sent. -/
def State.lateFetches (s : State) (i : Fin 6) (page : Nat) : List (Nat × TaskFault) :=
  (coresOf i).flatMap fun r => ctxNames.filterMap fun n => (s.lateFetch page ⟨r, n⟩).map fun x =>
    let c := s.ctx ⟨r, n⟩
    (x.2, ⟨.core r, s.gangOf r, ⟨fUnreach, ctxCode n, 0, c.faultRep, c.faultPc, x.1, 0, 0⟩⟩)

/-- The first address of a page that a command's translations reach: R337 gives a DLA, and does not say which (log 37). -/
def QEntry.pageDla (q : QEntry) (page : Nat) : Nat :=
  ((q.xlat.find? fun x => x.reaches page).map fun x => max x.dla (page * 65536)).getD (page * 65536)

/-- The command at the head of a queue whose request for a page has no answer, and since when: one that reads it and cannot
start, or one whose writes to it have not performed. -/
def State.lateHead (s : State) (page : Nat) (r : CoreRef) (e : Fin 6) : Option (QEntry × Nat) :=
  match (s.core r).eng[e] with
  | [] => none
  | q :: _ => match q.state with
    | .started t todo _ _ _ =>
      if todo.any fun w => match w with | .line l .. => linePage l == page | _ => false then some (q, t) else none
    | _ => (s.headAsks page r e).bind fun q => q.asked.map fun t => (q, t)

/-- The commands of a die that have had no answer from the home of a page, each with its queue and since when. -/
def State.lateHeads (s : State) (i : Fin 6) (page : Nat) : List (Nat × CoreRef × Fin 6 × QEntry) :=
  (coresOf i).flatMap fun r => engQueues.filterMap fun e => (s.lateHead page r e).map fun x => (x.2, r, e, x.1)

/-- The fault of such a command. -/
def State.headFault (s : State) (page : Nat) (r : CoreRef) (e : Fin 6) (q : QEntry) : TaskFault :=
  ⟨.core r, s.gangOf r, ⟨fUnreach, 3, e.val, none, q.pushPc, q.pageDla page, 0, q.word⟩⟩

/-- A command that had started when it faulted is gone. -/
def State.dropLate (s : State) (r : CoreRef) (e : Fin 6) (q : QEntry) : State :=
  match q.state with
  | .started .. => ((s.unpin q.pages).updCore r fun c => c.dropHead e).settle r
  | _ => s

/-- The side logs of a die's cores whose request for a page has no answer, each with the first such entry and since when. -/
def State.lateLogs (s : State) (i : Fin 6) (page : Nat) : List (Nat × LogRef × LogEntry) :=
  (s.logs.filter fun k => (s.logCore k).site == i).filterMap fun k =>
    ((s.log k).find? fun e => e.onPage page && e.asked.isSome).map fun e => (e.asked.getD 0, k, e)

/-- Such an entry goes with the later ones of its classes, as one whose page is refused does (R343). -/
def State.cutLog (s : State) (k : LogRef) (e : LogEntry) : State :=
  let l := s.log k
  let before := l.takeWhile fun x => x != e
  let (gone, kept) := (l.drop before.length).partition (loggedBefore [e])
  (s.unpin ((gone.filter LogEntry.pinned).filterMap fun x => x.dla.map pageOf)).setLog k (before ++ kept)

/-- The retirements of a die whose request to a page has no answer, each with since when. -/
def State.lateRetires (s : State) (i : Fin 6) (page : Nat) : List (Nat × CoreRef × Task) :=
  (coresOf i).filterMap fun r => (s.core r).task.bind fun t =>
    if t.phase == .retiring then (t.asked.filter fun x => x.1 == page).map fun x => (x.2, r, t) else none

/-- What a retirement has done before its request to a page that has no answer (R52): the events are set, and for the cell the
counter has gone down, if its home takes the write now. It gives the DLA that had no answer. -/
def State.retireUpTo (s : State) (page : Nat) (r : CoreRef) (t : Task) : State × Option Nat :=
  let j := t.record.joinAddr.toNat
  let f := t.record.futRef.toNat
  let base := (s.commitTask r).setEvents t.pipe t.record.sigEv
  if t.record.j && pageOf j == page then (base, some j)
  else if !(t.record.f && pageOf f == page) then (s, none)
  else if !t.record.j || !s.dlaOk j then (base, some f)
  else if !s.retireRouted r j then (s, none)
  else if !s.writeClear (lineOf j) then (s.askWrite (lineOf j), none)
  else ((base.accept r.site [lineOf j]).countDown j, some f)

/-- The faults of such retirements, after what each has done. -/
def State.retireFaults (s : State) (page : Nat) : List (CoreRef × Task) → State × List TaskFault
  | [] => (s, [])
  | (r, t) :: l =>
    let (s, d) := s.retireUpTo page r t
    let (s, fs) := s.retireFaults page l
    (s, (d.map fun d => (⟨.core r, s.gangOf r, ⟨fUnreach, 4, 0, none, 0, d, 0, 0⟩⟩ : TaskFault)).toList ++ fs)

/-- The requests of a die's fetches, engines, side logs and retirements to a page of another package have had no answer: those
whose time has come with the oldest one fault, at one instant (R334). -/
def State.engineTimeout (s : State) (i : Fin 6) (page : Nat) : State :=
  let fetches := s.lateFetches i page
  let heads := s.lateHeads i page
  let logs := s.lateLogs i page
  let rets := s.lateRetires i page
  match fetches.map Prod.fst ++ heads.map Prod.fst ++ logs.map Prod.fst ++ rets.map Prod.fst with
  | [] => s
  | t :: ts =>
    if !s.remotePage page then s
    else
      let s := s.at_ (ts.foldl min t + remoteTicks)
      let now := s.now
      let due {α : Type} (l : List (Nat × α)) : List α := (l.filter fun x => decide (x.1 + remoteTicks ≤ now)).map Prod.snd
      let fs := due fetches ++ ((due heads).map fun x => s.headFault page x.1 x.2.1 x.2.2) ++
        (due logs).map fun x => logFault x.1 x.2 fUnreach (x.2.dla.getD 0)
      let s := (due logs).foldl (fun s x => s.cutLog x.1 x.2) s
      let (s, rs) := s.retireFaults page (due rets)
      (due heads).foldl (fun s x => s.dropLate x.1 x.2.1 x.2.2) (s.logFaults (fs ++ rs))

/-- REMOTE_REQUEST_TIMEOUT: a request to another package has had no answer for 200 us (R360). -/
def execRemoteRequestTimeout (q : HomeReq) (s : State) : Host.Outcome State Fault Refusal :=
  go (match q with
    | .load c => s.loadTimeout c
    | .write i n => match (s.die i).buf[n]? with
      | some w => match w.asked with
        | some t => if s.remotePage (pageOf w.dla) then (s.at_ (t + remoteTicks)).loseWrite i n w else s
        | none => s
      | none => s
    | .access c n => s.accessTimeout c n
    | .rwrite r e => s.rwriteTimeout r (Fin.ofNat 6 e.toNat)
    | .evict _ => s
    | .engine i page => s.engineTimeout i page
    | .castout .. => s)

/-! ## Agreed time and network slots (R368, R371) -/

/-- PTP_MESSAGE: fabric time comes to lie within 100 ns of the grandmaster's; the grandmaster's own goes on; a part whose step 5
is conservative runs free. -/
def execPtpMessage (s : State) : Host.Outcome State Fault Refusal :=
  go (if bitAt s.mgmt.degr 5 then s
    else if s.fab.grandmaster.toNat = s.fab.pkg then { s with fab := { s.fab with lock := true } }
    else
      let (s, n) := s.draw
      { s with fab := { s.fab with ftime := Config.ptpTime n, ftimeAt := s.now, lock := true } })

/-- PTP_LOCK_LOST: the lock has been lost for more than 1 ms, so that no message came for as long (R368); a shorter loss has no
effect. -/
def execPtpLockLost (s : State) : Host.Outcome State Fault Refusal :=
  go (if s.fab.lock then
      let s := s.at_ (s.fab.ftimeAt + 1000 * tUs + 1)
      ({ s with fab := { s.fab with lock := false } } : State).logErr 0x4E 0 0 0 1
    else s)

/-- NETSLOT_FRAME_BOUNDARY: a frame is 64 bclk. -/
def execNetslotFrameBoundary (s : State) : Host.Outcome State Fault Refusal :=
  let frame := 64 * tBclk
  go (let s := s.at_ ((s.now / frame + 1) * frame); { s with fab := { s.fab with netslotNow := s.fab.netslot } })

/-! ## The power cap (R389) -/

/-- The nominal clk in MHz. -/
def nominalMhz : Nat := 2100

/-- POWER_CAP_EXCEEDED: clk goes down by 100 MHz, to 1.0 GHz at the least, or up again. -/
def execPowerCapExceeded (above : Bool) (s : State) : Host.Outcome State Fault Refusal :=
  let m := s.mgmt
  go { s with mgmt := { m with mhz := if above then max 1000 (m.mhz - 100) else min nominalMhz (m.mhz + 100) } }

/-! ## Marker copies (R380) -/

/-- One bit of the CRC-32 of IEEE 802.3, reflected. -/
def crcBit (c : Nat) (b : Nat) : Nat :=
  let x := Nat.xor c b
  if x % 2 = 1 then Nat.xor (x / 2) 0xEDB88320 else x / 2

/-- CRC-32 of the low n bits of a number, lowest first: bytes in rising order, each from its lowest bit. -/
def crc32 (v n : Nat) : Nat :=
  Nat.xor ((List.range n).foldl (fun c i => crcBit c (v / 2 ^ i % 2)) 0xFFFFFFFF) 0xFFFFFFFF

/-- A marker copy is valid. -/
def markerOk (m : BitVec 128) : Bool :=
  fld m 96 32 == crc32 (fld m 0 96) 96 && decide (fld m 32 8 ≤ 1) && fld m 40 56 == 0

def markerSeq (m : BitVec 128) : Nat := fld m 0 32
def markerSlot (m : BitVec 128) : Bool := bitAt m 32

/-! ## Flash writes (R382) -/

/-- FLASH_UPDATE_WRITE: 8 bytes; a write to the running slot is refused, in a recovery that a failed step began too. A
marker copy that is written whole ends an update: no step is kept in its conservative form any longer (R383). -/
def execFlashUpdateWrite (tgt : FlashTarget) (off : Nat) (v : BitVec 64) (s : State) : Host.Outcome State Fault Refusal :=
  let f := s.flash
  let runs (b : Bool) : Bool := s.mgmt.slot == b && (s.mgmt.mode != 2 || s.mgmt.slotRuns)
  let marker (f : Flash) (m : BitVec 128) : Flash :=
    if markerOk m then { f with conservative := [] } else f
  go (if !f.powered then s
    else match tgt with
    | .slotA => if runs false then s else { s with flash := { f with slotA := putBytes f.slotA off v } }
    | .slotB => if runs true then s else { s with flash := { f with slotB := putBytes f.slotB off v } }
    | .m0 => let m := putWord f.m0 (off / 8 % 2) v; { s with flash := marker { f with m0 := m } m }
    | .m1 => let m := putWord f.m1 (off / 8 % 2) v; { s with flash := marker { f with m1 := m } m })

/-! ## Start (R381, R383) -/

/-- The slot that the boot ROM takes first (R381 steps 1 and 2): false is A. -/
def Flash.marked (f : Flash) : Bool :=
  match markerOk f.m0, markerOk f.m1 with
  | true, true => if markerSeq f.m0 < markerSeq f.m1 then markerSlot f.m1 else markerSlot f.m0
  | true, false => markerSlot f.m0
  | false, true => markerSlot f.m1
  | false, false => false

/-- The bytes of a slot. -/
def Flash.slot (f : Flash) (b : Bool) : List (Nat × Byte) := if b then f.slotB else f.slotA

/-- The slot that runs; none if neither verifies. -/
def Flash.choose (f : Flash) : Option Bool :=
  let b := f.marked
  if Config.slotVerifies (f.slot b) then some b else if Config.slotVerifies (f.slot !b) then some !b else none

/-- The start-up work that keeps a journal record of its own: steps 0 to 2, step 3 for each site, steps 4 to 7. -/
def bootWork : List Nat := [0, 1, 2, 8, 9, 10, 11, 12, 13, 4, 5, 6, 7]

/-- The step of R383 that a record belongs to. -/
def stepOf (k : Nat) : Nat := if 8 ≤ k then 3 else k

/-- Optional steps (R383). -/
def optionalStep (k : Nat) : Bool := [3, 4, 5].contains (stepOf k)

/-- Steps with a conservative form that does work. -/
def relaxedStep (k : Nat) : Bool := [1, 2].contains k

/-- How a step is run at this start (R383). -/
inductive BootForm where
  | full
  | relaxed
  | skipped
  | recovery
  deriving DecidableEq, Repr

/-- The form of a step, from its last record and whether it is kept conservative. -/
def Flash.form (f : Flash) (k : Nat) : BootForm :=
  let kept := f.conservative.contains k
  let failed := lookup k f.journal == some false
  if !failed && !kept then .full
  else if optionalStep k then .skipped
  else if relaxedStep k && !(failed && kept) then .relaxed
  else .recovery

/-- Write a record of the boot journal. -/
def Flash.note (f : Flash) (k : Nat) (done : Bool) : Flash := { f with journal := insertKey k done f.journal }

/-- A step runs in its conservative form, or is skipped: it is kept so, and DEGR says it. -/
def State.degrade (s : State) (k : Nat) : State :=
  let s := { s with
    flash := { s.flash with conservative := addNew k s.flash.conservative }
    mgmt := { s.mgmt with degr := setFld s.mgmt.degr (stepOf k) 1 1 } }
  if 8 ≤ k then s.updDie (Fin.ofNat 6 (k - 8)) fun d => { d with present := false } else s

/-- The work of a step that does not fail. -/
def State.bootStep (s : State) (k n : Nat) : State :=
  match k with
  | 6 => s.updHomes fun h => { h with keys := [(0, Config.bootKey n)] }
  | 7 => { s with mgmt := { s.mgmt with mode := 1 } }
  | _ => s

/-- The conservative form of step 1: the ways that fail the self-test are left power-gated (R383). -/
def Homes.gateFailing (h : Homes) (n : Nat) : Homes :=
  { h with gatedLlc := (List.range 12).foldl (fun l k => putKey 0 k (getKey 0 k l ||| Config.failingWays n k) l) h.gatedLlc }

/-- A step that runs: its begun record, its work, its done record; none if it fails, the begun record standing last. -/
def State.runStep (s : State) (k n : Nat) : State × Bool :=
  let s := { s with flash := s.flash.note k false }
  if Config.bootStepFails n k then (s, false)
  else let s := s.bootStep k n; ({ s with flash := s.flash.note k true }, true)

/-- Run the start-up steps in order (R383); a failure stops the start. -/
def State.boot (s : State) (n : Nat) : List Nat → State
  | [] => s
  | k :: t =>
    if 8 ≤ k && !(s.die (Fin.ofNat 6 (k - 8))).present then s.boot n t
    else match s.flash.form k with
      | .recovery => { s with mgmt := { s.mgmt with mode := 2 } }
      | .skipped =>
        let s := s.degrade k
        ({ s with flash := (s.flash.note k false).note k true } : State).boot n t
      | .full => match s.runStep k n with
        | (s, true) => s.boot n t
        | (s, false) => s
      | .relaxed => match (if k = 1 then (s.degrade k).updHomes fun h => h.gateFailing n else s.degrade k).runStep k n with
        | (s, true) => s.boot n t
        | (s, false) => s

/-- The package right after a reset, before the boot ROM: flash, what is to come, and the count of free values stay; the
blob names the sites and the package number, and no content of memory is known. -/
def State.afterReset (s : State) (n : Nat) : State :=
  { State.reset with
    agenda := s.agenda
    free := s.free
    dies := Vector.ofFn fun (i : Fin 6) => { Die.reset with present := bitAt s.flash.blobSites i.val }
    homes := { Homes.reset with mem := ⟨[], [], some n⟩ }
    fab := { Fabric.reset with pkg := s.flash.blobPkg }
    flash := { s.flash with powered := true } }

/-- PACKAGE_RESET. -/
def execPackageReset (s : State) : Host.Outcome State Fault Refusal :=
  let (s, n) := s.draw
  let s := s.afterReset n
  go (match s.flash.choose with
    | none => { s with mgmt := { s.mgmt with mode := 2 } }
    | some b => ({ s with mgmt := { s.mgmt with slot := b, slotRuns := true } } : State).boot n bootWork)

/-- BOOTCLR: bit n clears the journal state of step n. -/
def execBootclr (v : BitVec 64) (s : State) : Host.Outcome State Fault Refusal :=
  let f := s.flash
  let clear (k : Nat) : Bool := bitAt v (stepOf k)
  go (if s.regsOpen then
      { s with flash := { f with journal := f.journal.filter fun x => !clear x.1, conservative := f.conservative.filter fun k => !clear k } }
    else s)

/-- POWER_LOST: flash keeps what was written of it; nothing else stands. -/
def execPowerLost (s : State) : Host.Outcome State Fault Refusal :=
  go { State.reset with agenda := s.agenda, free := s.free, flash := { s.flash with powered := false } }

/-! ## Recovery and attestation (R384, R385) -/

/-- RECOVERY_MAILBOX_COMMAND: 8 bytes of the mailbox are written; in recovery the package answers there (log 7). -/
def execRecoveryMailboxCommand (off : Nat) (v : BitVec 64) (s : State) : Host.Outcome State Fault Refusal :=
  go (if !s.flash.powered || decide (0x1000 < off + 8) then s
    else if s.mgmt.mode = 2 then
      let (s, n) := s.draw
      { s with mgmt := { s.mgmt with mailbox := [], mailFree := some n } }
    else { s with mgmt := { s.mgmt with mailbox := putBytes s.mgmt.mailbox off v } })

/-- ATTESTATION_NONCE_WRITE. -/
def execAttestationNonceWrite (v : BitVec 256) (s : State) : Host.Outcome State Fault Refusal :=
  go (if s.flash.powered then { s with mgmt := { s.mgmt with nonce := v } } else s)

end Sys2Proof.Machine
end

