-- ==== Sys2Proof/Machine/Dispatch.lean ====
section
/-! DEFINITION. One arm per step of the machine: each calls its meaning. -/

namespace Sys2Proof.Machine

/-- The meaning of every step (spec/opcode_table.json). -/
def exec (i : Instr) (s : State) : Host.Outcome State Fault Refusal :=
  match i with
  | .add d a b => Sys2Proof.Machine.execAdd d a b s
  | .sub d a b => Sys2Proof.Machine.execSub d a b s
  | .mul d a b => Sys2Proof.Machine.execMul d a b s
  | .mulh d a b => Sys2Proof.Machine.execMulh d a b s
  | .mulhu d a b => Sys2Proof.Machine.execMulhu d a b s
  | .div d a b => Sys2Proof.Machine.execDiv d a b s
  | .divu d a b => Sys2Proof.Machine.execDivu d a b s
  | .rem d a b => Sys2Proof.Machine.execRem d a b s
  | .remu d a b => Sys2Proof.Machine.execRemu d a b s
  | .and d a b => Sys2Proof.Machine.execAnd d a b s
  | .or d a b => Sys2Proof.Machine.execOr d a b s
  | .xor d a b => Sys2Proof.Machine.execXor d a b s
  | .shl d a b => Sys2Proof.Machine.execShl d a b s
  | .shr d a b => Sys2Proof.Machine.execShr d a b s
  | .sra d a b => Sys2Proof.Machine.execSra d a b s
  | .slt d a b => Sys2Proof.Machine.execSlt d a b s
  | .sltu d a b => Sys2Proof.Machine.execSltu d a b s
  | .min d a b => Sys2Proof.Machine.execMin d a b s
  | .max d a b => Sys2Proof.Machine.execMax d a b s
  | .minu d a b => Sys2Proof.Machine.execMinu d a b s
  | .maxu d a b => Sys2Proof.Machine.execMaxu d a b s
  | .sadd d a b => Sys2Proof.Machine.execSadd d a b s
  | .clz d a => Sys2Proof.Machine.execClz d a s
  | .ctz d a => Sys2Proof.Machine.execCtz d a s
  | .popc d a => Sys2Proof.Machine.execPopc d a s
  | .sext8 d a => Sys2Proof.Machine.execSext8 d a s
  | .sext16 d a => Sys2Proof.Machine.execSext16 d a s
  | .sext32 d a => Sys2Proof.Machine.execSext32 d a s
  | .zext8 d a => Sys2Proof.Machine.execZext8 d a s
  | .zext16 d a => Sys2Proof.Machine.execZext16 d a s
  | .zext32 d a => Sys2Proof.Machine.execZext32 d a s
  | .sel d a b c => Sys2Proof.Machine.execSel d a b c s
  | .jalr d a => Sys2Proof.Machine.execJalr d a s
  | .addi d a f_i => Sys2Proof.Machine.execAddi d a f_i s
  | .andi d a f_i => Sys2Proof.Machine.execAndi d a f_i s
  | .ori d a f_i => Sys2Proof.Machine.execOri d a f_i s
  | .xori d a f_i => Sys2Proof.Machine.execXori d a f_i s
  | .slti d a f_i => Sys2Proof.Machine.execSlti d a f_i s
  | .shli d a n => Sys2Proof.Machine.execShli d a n s
  | .shri d a n => Sys2Proof.Machine.execShri d a n s
  | .srai d a n => Sys2Proof.Machine.execSrai d a n s
  | .bfx d a p w => Sys2Proof.Machine.execBfx d a p w s
  | .bfi d a p w => Sys2Proof.Machine.execBfi d a p w s
  | .li d f_i => Sys2Proof.Machine.execLi d f_i s
  | .lih d q f_i => Sys2Proof.Machine.execLih d q f_i s
  | .ldb d a c o => Sys2Proof.Machine.execLdb d a c o s
  | .ldbu d a c o => Sys2Proof.Machine.execLdbu d a c o s
  | .ldh d a c o => Sys2Proof.Machine.execLdh d a c o s
  | .ldhu d a c o => Sys2Proof.Machine.execLdhu d a c o s
  | .ldw d a c o => Sys2Proof.Machine.execLdw d a c o s
  | .ldwu d a c o => Sys2Proof.Machine.execLdwu d a c o s
  | .ld d a c o => Sys2Proof.Machine.execLd d a c o s
  | .stb f_s a c o => Sys2Proof.Machine.execStb f_s a c o s
  | .sth f_s a c o => Sys2Proof.Machine.execSth f_s a c o s
  | .stw f_s a c o => Sys2Proof.Machine.execStw f_s a c o s
  | .st f_s a c o => Sys2Proof.Machine.execSt f_s a c o s
  | .loop a o => Sys2Proof.Machine.execLoop a o s
  | .beq a b o => Sys2Proof.Machine.execBeq a b o s
  | .bne a b o => Sys2Proof.Machine.execBne a b o s
  | .blt a b o => Sys2Proof.Machine.execBlt a b o s
  | .bge a b o => Sys2Proof.Machine.execBge a b o s
  | .bltu a b o => Sys2Proof.Machine.execBltu a b o s
  | .bgeu a b o => Sys2Proof.Machine.execBgeu a b o s
  | .vadd d a b m => Sys2Proof.Machine.execVadd d a b m s
  | .vsub d a b m => Sys2Proof.Machine.execVsub d a b m s
  | .vmul d a b m => Sys2Proof.Machine.execVmul d a b m s
  | .vdiv d a b m => Sys2Proof.Machine.execVdiv d a b m s
  | .vmin d a b m => Sys2Proof.Machine.execVmin d a b m s
  | .vmax d a b m => Sys2Proof.Machine.execVmax d a b m s
  | .vabs d a m => Sys2Proof.Machine.execVabs d a m s
  | .vneg d a m => Sys2Proof.Machine.execVneg d a m s
  | .vrcp d a m => Sys2Proof.Machine.execVrcp d a m s
  | .vrsq d a m => Sys2Proof.Machine.execVrsq d a m s
  | .vsqrt d a m => Sys2Proof.Machine.execVsqrt d a m s
  | .vmov d a m => Sys2Proof.Machine.execVmov d a m s
  | .vand d a b m => Sys2Proof.Machine.execVand d a b m s
  | .vor d a b m => Sys2Proof.Machine.execVor d a b m s
  | .vxor d a b m => Sys2Proof.Machine.execVxor d a b m s
  | .vnot d a m => Sys2Proof.Machine.execVnot d a m s
  | .vshl d a b m => Sys2Proof.Machine.execVshl d a b m s
  | .vshr d a b m => Sys2Proof.Machine.execVshr d a b m s
  | .vsra d a b m => Sys2Proof.Machine.execVsra d a b m s
  | .vfma d a b m => Sys2Proof.Machine.execVfma d a b m s
  | .vfms d a b m => Sys2Proof.Machine.execVfms d a b m s
  | .vnfma d a b m => Sys2Proof.Machine.execVnfma d a b m s
  | .vcmpeq d a b m => Sys2Proof.Machine.execVcmpeq d a b m s
  | .vcmplt d a b m => Sys2Proof.Machine.execVcmplt d a b m s
  | .vcmple d a b m => Sys2Proof.Machine.execVcmple d a b m s
  | .vsel d a b m => Sys2Proof.Machine.execVsel d a b m s
  | .mand d a b => Sys2Proof.Machine.execMand d a b s
  | .mor d a b => Sys2Proof.Machine.execMor d a b s
  | .mnot d a => Sys2Proof.Machine.execMnot d a s
  | .mpop d a => Sys2Proof.Machine.execMpop d a s
  | .mfirst d a => Sys2Proof.Machine.execMfirst d a s
  | .vcvt d a m f => Sys2Proof.Machine.execVcvt d a m f s
  | .vwadd d a b m => Sys2Proof.Machine.execVwadd d a b m s
  | .vwmul d a b m => Sys2Proof.Machine.execVwmul d a b m s
  | .vnarrow d a e n m => Sys2Proof.Machine.execVnarrow d a e n m s
  | .vrsum d a m => Sys2Proof.Machine.execVrsum d a m s
  | .vrmax d a m => Sys2Proof.Machine.execVrmax d a m s
  | .vrmin d a m => Sys2Proof.Machine.execVrmin d a m s
  | .vramax d a m => Sys2Proof.Machine.execVramax d a m s
  | .vscan d a m => Sys2Proof.Machine.execVscan d a m s
  | .vperm d a b => Sys2Proof.Machine.execVperm d a b s
  | .viota d m => Sys2Proof.Machine.execViota d m s
  | .vcompress d a m => Sys2Proof.Machine.execVcompress d a m s
  | .vexpand d a m => Sys2Proof.Machine.execVexpand d a m s
  | .vppe d a m => Sys2Proof.Machine.execVppe d a m s
  | .vbcast d a => Sys2Proof.Machine.execVbcast d a s
  | .vextr d a b => Sys2Proof.Machine.execVextr d a b s
  | .vli d f_i => Sys2Proof.Machine.execVli d f_i s
  | .vcfg f_s r t => Sys2Proof.Machine.execVcfg f_s r t s
  | .vrotm d a b n => Sys2Proof.Machine.execVrotm d a b n s
  | .qld q a c r => Sys2Proof.Machine.execQld q a c r s
  | .qldr q a c w n => Sys2Proof.Machine.execQldr q a c w n s
  | .qst q a c r => Sys2Proof.Machine.execQst q a c r s
  | .qstr q a c w n => Sys2Proof.Machine.execQstr q a c w n s
  | .rres d n => Sys2Proof.Machine.execRres d n s
  | .rpub a n => Sys2Proof.Machine.execRpub a n s
  | .rpop n => Sys2Proof.Machine.execRpop n s
  | .rpeek d n => Sys2Proof.Machine.execRpeek d n s
  | .rcfg a n => Sys2Proof.Machine.execRcfg a n s
  | .kset k a w => Sys2Proof.Machine.execKset k a w s
  | .kld k a c o => Sys2Proof.Machine.execKld k a c o s
  | .kst k a c o => Sys2Proof.Machine.execKst k a c o s
  | .push k => Sys2Proof.Machine.execPush k s
  | .shape h k => Sys2Proof.Machine.execShape h k s
  | .shld h a c o => Sys2Proof.Machine.execShld h a c o s
  | .ppld a c n => Sys2Proof.Machine.execPpld a c n s
  | .spawn a m => Sys2Proof.Machine.execSpawn a m s
  | .join a => Sys2Proof.Machine.execJoin a s
  | .exit => Sys2Proof.Machine.execExit s
  | .gbar => Sys2Proof.Machine.execGbar s
  | .fget d a => Sys2Proof.Machine.execFget d a s
  | .fput a b => Sys2Proof.Machine.execFput a b s
  | .freset a => Sys2Proof.Machine.execFreset a s
  | .semw n => Sys2Proof.Machine.execSemw n s
  | .sems n => Sys2Proof.Machine.execSems n s
  | .evwait e => Sys2Proof.Machine.execEvwait e s
  | .evsig e => Sys2Proof.Machine.execEvsig e s
  | .nop => Sys2Proof.Machine.execNop s
  | .brk => Sys2Proof.Machine.execBrk s
  | .time d => Sys2Proof.Machine.execTime d s
  | .vdhop d a b => Sys2Proof.Machine.execVdhop d a b s
  | .mwait a => Sys2Proof.Machine.execMwait a s
  | .trap c => Sys2Proof.Machine.execTrap c s
  | .rep n f_s => Sys2Proof.Machine.execRep n f_s s
  | .srd d r => Sys2Proof.Machine.execSrd d r s
  | .swr a r => Sys2Proof.Machine.execSwr a r s
  | .acq d a b f_s => Sys2Proof.Machine.execAcq d a b f_s s
  | .rel d a b f_s => Sys2Proof.Machine.execRel d a b f_s s
  | .mon a => Sys2Proof.Machine.execMon a s
  | .fence m => Sys2Proof.Machine.execFence m s
  | .wait l f_s c t => Sys2Proof.Machine.execWait l f_s c t s
  | .region r => Sys2Proof.Machine.execRegion r s
  | .jmp o => Sys2Proof.Machine.execJmp o s
  | .jal o => Sys2Proof.Machine.execJal o s
  | .mma h b => Sys2Proof.Machine.execMma h b s
  | .mmac h b => Sys2Proof.Machine.execMmac h b s
  | .promote h bank => Sys2Proof.Machine.execPromote h bank s
  | .drain h b => Sys2Proof.Machine.execDrain h b s
  | .zacc h za zb zp => Sys2Proof.Machine.execZacc h za zb zp s
  | .chain h glead => Sys2Proof.Machine.execChain h glead s
  | .unchain h side => Sys2Proof.Machine.execUnchain h side s
  | .tload h b => Sys2Proof.Machine.execTload h b s
  | .tgather h b => Sys2Proof.Machine.execTgather h b s
  | .tcvt h b => Sys2Proof.Machine.execTcvt h b s
  | .prefetch h b => Sys2Proof.Machine.execPrefetch h b s
  | .tstore h b => Sys2Proof.Machine.execTstore h b s
  | .gatomAdd h b => Sys2Proof.Machine.execGatomAdd h b s
  | .gatomFadd h b => Sys2Proof.Machine.execGatomFadd h b s
  | .gatomMax h b => Sys2Proof.Machine.execGatomMax h b s
  | .gatomMin h b => Sys2Proof.Machine.execGatomMin h b s
  | .gatomSwap h b => Sys2Proof.Machine.execGatomSwap h b s
  | .gatomCas h b => Sys2Proof.Machine.execGatomCas h b s
  | .migrate h b => Sys2Proof.Machine.execMigrate h b s
  | .scatAdd h b => Sys2Proof.Machine.execScatAdd h b s
  | .scatMax h b => Sys2Proof.Machine.execScatMax h b s
  | .scatMin h b => Sys2Proof.Machine.execScatMin h b s
  | .cntsnap h dref => Sys2Proof.Machine.execCntsnap h dref s
  | .rwrite h b => Sys2Proof.Machine.execRwrite h b s
  | .qfence h mask => Sys2Proof.Machine.execQfence h mask s
  | .semsig h => Sys2Proof.Machine.execSemsig h s
  | .semwait h => Sys2Proof.Machine.execSemwait h s
  | .commandComplete r e => Sys2Proof.Machine.execCommandComplete r e s
  | .qldRowArrival r q => Sys2Proof.Machine.execQldRowArrival r q s
  | .loadValueReturn c => Sys2Proof.Machine.execLoadValueReturn c s
  | .homeRequest q => Sys2Proof.Machine.execHomeRequest q s
  | .ownerForward site line => Sys2Proof.Machine.execOwnerForward site line s
  | .mwaitTimeout c => Sys2Proof.Machine.execMwaitTimeout c s
  | .redirect n => Sys2Proof.Machine.execRedirect n s
  | .forcedPublish line => Sys2Proof.Machine.execForcedPublish line s
  | .forcedPublishAck line => Sys2Proof.Machine.execForcedPublishAck line s
  | .atsCompletion n granted lg dla wr => Sys2Proof.Machine.execAtsCompletion n granted lg dla wr s
  | .atsInvalidation pasid hva lg => Sys2Proof.Machine.execAtsInvalidation pasid hva lg s
  | .atsInvalidationDone n => Sys2Proof.Machine.execAtsInvalidationDone n s
  | .pageRequestResponse n ok dla => Sys2Proof.Machine.execPageRequestResponse n ok dla s
  | .taskStart p stage => Sys2Proof.Machine.execTaskStart p stage s
  | .spawnEnqueue c => Sys2Proof.Machine.execSpawnEnqueue c s
  | .taskRetire r => Sys2Proof.Machine.execTaskRetire r s
  | .taskSquash r => Sys2Proof.Machine.execTaskSquash r s
  | .faultRecord p => Sys2Proof.Machine.execFaultRecord p s
  | .joinDeadlock p => Sys2Proof.Machine.execJoinDeadlock p s
  | .shutdownFault p => Sys2Proof.Machine.execShutdownFault p s
  | .shutdownComplete p => Sys2Proof.Machine.execShutdownComplete p s
  | .reelSample p => Sys2Proof.Machine.execReelSample p s
  | .completionReport p lvl => Sys2Proof.Machine.execCompletionReport p lvl s
  | .settGrant => Sys2Proof.Machine.execSettGrant s
  | .zeroingDone site => Sys2Proof.Machine.execZeroingDone site s
  | .settReserve n => Sys2Proof.Machine.execSettReserve n s
  | .leaseReturn r => Sys2Proof.Machine.execLeaseReturn r s
  | .scrubDone r => Sys2Proof.Machine.execScrubDone r s
  | .preemptionComplete p => Sys2Proof.Machine.execPreemptionComplete p s
  | .resumption p => Sys2Proof.Machine.execResumption p s
  | .sliceBoundary => Sys2Proof.Machine.execSliceBoundary s
  | .remoteWriteArrival w => Sys2Proof.Machine.execRemoteWriteArrival w s
  | .remoteWriteRefused r e => Sys2Proof.Machine.execRemoteWriteRefused r e s
  | .migrationPinsCleared page => Sys2Proof.Machine.execMigrationPinsCleared page s
  | .migrationPinTimeout page => Sys2Proof.Machine.execMigrationPinTimeout page s
  | .migrationAccept page => Sys2Proof.Machine.execMigrationAccept page s
  | .stubAgeExpiry n => Sys2Proof.Machine.execStubAgeExpiry n s
  | .ownerCacheInvalidation n a => Sys2Proof.Machine.execOwnerCacheInvalidation n a s
  | .stubAck n a => Sys2Proof.Machine.execStubAck n a s
  | .gatecmdGate v => Sys2Proof.Machine.execGatecmdGate v s
  | .gatecmdWake v => Sys2Proof.Machine.execGatecmdWake v s
  | .gateDone => Sys2Proof.Machine.execGateDone s
  | .opchain q => Sys2Proof.Machine.execOpchain q s
  | .batchBegin q => Sys2Proof.Machine.execBatchBegin q s
  | .batchCommit q => Sys2Proof.Machine.execBatchCommit q s
  | .fencePacket q => Sys2Proof.Machine.execFencePacket q s
  | .signal q => Sys2Proof.Machine.execSignal q s
  | .waitPacket q => Sys2Proof.Machine.execWaitPacket q s
  | .waitPacketSatisfied q => Sys2Proof.Machine.execWaitPacketSatisfied q s
  | .waitPacketTimeout q => Sys2Proof.Machine.execWaitPacketTimeout q s
  | .nopPacket q => Sys2Proof.Machine.execNopPacket q s
  | .kickEvent q => Sys2Proof.Machine.execKickEvent q s
  | .packetRepoll q => Sys2Proof.Machine.execPacketRepoll q s
  | .wqcfgWrite q v => Sys2Proof.Machine.execWqcfgWrite q v s
  | .wqkick q v => Sys2Proof.Machine.execWqkick q v s
  | .wqstatStopClear q v => Sys2Proof.Machine.execWqstatStopClear q v s
  | .featctlGo v => Sys2Proof.Machine.execFeatctlGo v s
  | .bootclr v => Sys2Proof.Machine.execBootclr v s
  | .preempt v => Sys2Proof.Machine.execPreempt v s
  | .resume v => Sys2Proof.Machine.execResume v s
  | .diefence v => Sys2Proof.Machine.execDiefence v s
  | .fenceApply slice site => Sys2Proof.Machine.execFenceApply slice site s
  | .diereadmit v => Sys2Proof.Machine.execDiereadmit v s
  | .dieReadmitDone site ok => Sys2Proof.Machine.execDieReadmitDone site ok s
  | .plq v => Sys2Proof.Machine.execPlq v s
  | .pgassign v => Sys2Proof.Machine.execPgassign v s
  | .keycmdLoad v => Sys2Proof.Machine.execKeycmdLoad v s
  | .keycmdErase v => Sys2Proof.Machine.execKeycmdErase v s
  | .flashUpdateWrite tgt off v => Sys2Proof.Machine.execFlashUpdateWrite tgt off v s
  | .registerWrite off v => Sys2Proof.Machine.execRegisterWrite off v s
  | .packageReset => Sys2Proof.Machine.execPackageReset s
  | .dieAsleepTimeout site line => Sys2Proof.Machine.execDieAsleepTimeout site line s
  | .dieDead site => Sys2Proof.Machine.execDieDead site s
  | .dieLinkTrainingFailed site => Sys2Proof.Machine.execDieLinkTrainingFailed site s
  | .flitCrcError k => Sys2Proof.Machine.execFlitCrcError k s
  | .resendTimeout n => Sys2Proof.Machine.execResendTimeout n s
  | .fabricLinkDown port => Sys2Proof.Machine.execFabricLinkDown port s
  | .remoteRequestTimeout q => Sys2Proof.Machine.execRemoteRequestTimeout q s
  | .ptpMessage => Sys2Proof.Machine.execPtpMessage s
  | .ptpLockLost => Sys2Proof.Machine.execPtpLockLost s
  | .netslotFrameBoundary => Sys2Proof.Machine.execNetslotFrameBoundary s
  | .powerCapExceeded above => Sys2Proof.Machine.execPowerCapExceeded above s
  | .thermalCritical site => Sys2Proof.Machine.execThermalCritical site s
  | .snoopResponse site line => Sys2Proof.Machine.execSnoopResponse site line s
  | .migrationCopyDone page => Sys2Proof.Machine.execMigrationCopyDone page s
  | .driverStartedMigration page dpkg dsl => Sys2Proof.Machine.execDriverStartedMigration page dpkg dsl s
  | .expansionStep chain => Sys2Proof.Machine.execExpansionStep chain s
  | .instructionFetchReturn c => Sys2Proof.Machine.execInstructionFetchReturn c s
  | .fabricLinkUp port => Sys2Proof.Machine.execFabricLinkUp port s
  | .powerLost => Sys2Proof.Machine.execPowerLost s
  | .recoveryMailboxCommand off v => Sys2Proof.Machine.execRecoveryMailboxCommand off v s
  | .attestationNonceWrite v => Sys2Proof.Machine.execAttestationNonceWrite v s

end Sys2Proof.Machine
end

