-- ==== Sys2Proof/Machine/Slots.lean ====
section
/-! DEFINITION. A turn of the agenda (log 3), the times that the spec fixes (R390; log 115), and which of two faults of one
clk counts (R338; log 102). -/

namespace Sys2Proof.Machine

/-! ## The turns -/

/-- A context issues: an absent die has none (R19); a context that cannot issue leaves its slot empty (R42); a word that
decodes to nothing takes the illegal-instruction fault (R175). -/
def stepIssue (c : CtxRef) (s : State) : Host.Outcome State Fault Refusal :=
  if !(s.die c.at_.site).present then .fault .agentAbsent
  else if !s.mayGo c then .next (s.slot c)
  else match s.fetch c with
    | none => .next (s.missed c)
    | some w => match decode w with
      | .ok i => if s.heldBack c i then .next (s.slot c) else exec i (s.issued c)
      | .error _ => .next ((s.issued c).illegal w)

/-- What a turn does. -/
def State.turn (s : State) : Turn → Host.Outcome State Fault Refusal
  | .issue c => stepIssue c s
  | .perform c n => .next (s.perform c n)
  | .land r e n => .next (s.land r (Fin.ofNat 6 e.toNat) n)
  | .start r e => match s.headCmd r (Fin.ofNat 6 e.toNat) with
    | some (s, i) => exec i s
    | none => .next s
  | .event i => if isEvent i then exec i s else .next s
  | .hostWrite dla size data => .next (s.hostWrite dla size data)
  | .hostRead dla => .next (s.hostRead dla)
  | .inward p via dla op => .next (s.inward p via dla op)
  | .inwardDone p page => .next (s.inwardDone p page)
  | .inwardPublished p line => .next (s.inwardPublished p line)
  | .remotePin page => .next (s.remotePin page)
  | .remoteUnpin page => .next (s.remoteUnpin page)
  | .ecc corrected u => .next (s.eccError corrected u)
  | .migNoSpace page => .next (s.migNoSpace page)
  | .migCopyFault page => .next (s.migCopyFault page)
  | .replay r => .next (s.replay (.core r))
  | .replaySaved id n => .next (s.replay (.saved id n))

/-! ## Fixed times (R390)

Each deadline is a tick and the event that falls there: time moves past the tick only once the event has happened. -/

/-- The events that fall at a tick of their own: each is the event of the opcode table that run gives. -/
inductive Due where
  | issue (c : CtxRef)
  | command (r : CoreRef) (e : BitVec 3)
  | zeroing (site : Fin 6)
  | scrub (r : CoreRef)
  | mwait (c : CtxRef)
  | sample (p : Nat)
  | slice
  | wait (q : BitVec 14)
  | repoll (q : BitVec 14)
  | pins (page : Nat)
  | stub (n : Nat)
  | asleep (site : Fin 6) (line : Nat)
  | dead (site : Fin 6)
  | resend (n : Nat)
  | reserve (n : Nat)
  | remote (q : HomeReq)
  | frame
  | wake
  | write (site : Fin 6) (n : Nat)
  | fence (slice : Fin 12) (site : Fin 6)
  deriving DecidableEq, Repr

/-- The event happens. -/
def Due.run : Due → State → Host.Outcome State Fault Refusal
  | .issue c => stepIssue c
  | .command r e => execCommandComplete r e
  | .zeroing i => execZeroingDone i
  | .scrub r => execScrubDone r
  | .mwait c => execMwaitTimeout c
  | .sample p => execReelSample p
  | .slice => execSliceBoundary
  | .wait q => execWaitPacketTimeout q
  | .repoll q => execPacketRepoll q
  | .pins page => execMigrationPinTimeout page
  | .stub n => execStubAgeExpiry n
  | .asleep i l => execDieAsleepTimeout i l
  | .dead i => execDieDead i
  | .resend n => execResendTimeout n
  | .reserve n => execSettReserve n
  | .remote q => execRemoteRequestTimeout q
  | .frame => execNetslotFrameBoundary
  | .wake => execGateDone
  | .write i n => execHomeRequest (.write i n)
  | .fence sl i => execFenceApply sl i

/-- Matrix, scatter and CNTSNAP commands complete exactly D after their start (R256). -/
def State.cmdDeadlines (s : State) : List (Nat × Due) :=
  allCores.flatMap fun r => ([0, 3] : List (Fin 6)).filterMap fun e => ((s.core r).eng[e]).head?.bind fun q =>
    match q.state with
    | .started t .. => some (t + durTicks s r q.shape q.cmd, .command r (BitVec.ofNat 3 e.val))
    | _ => none

/-- A die's zeroing and scrubs end (R313, R315). -/
def State.dieDeadlines (s : State) (i : Fin 6) : List (Nat × Due) :=
  ((s.die i).zeroEnd.toList.map fun t => (t, Due.zeroing i)) ++
  (s.die i).leases.filterMap fun l => l.scrubUntil.map fun t => (t, Due.scrub ⟨i, l.kind.lead⟩)

/-- A context has a slot to issue in: it can issue, and has begun to since its task started or resumed, which it does at a time
that the spec does not fix (R42; log 115). -/
def State.hasSlot (s : State) (c : CtxRef) : Bool := !(s.ctx c).fresh && (s.die c.at_.site).present && s.mayGo c

/-- The next slot of a context comes (R42), and the time limit of an MWAIT ends (R209). -/
def State.ctxDeadlines (s : State) : List (Nat × Due) :=
  allCores.flatMap fun r => ctxNames.flatMap fun n =>
    (if s.hasSlot ⟨r, n⟩ then [(s.slotTick ⟨r, n⟩, .issue ⟨r, n⟩)] else []) ++
    match (s.ctx ⟨r, n⟩).status with
    | .waiting (.mwait t) => [(t, .mwait ⟨r, n⟩)]
    | _ => []

/-- The ticks of 1.5 us and of 2 us. -/
def wakeTicks : Nat := 504000
def performTicks : Nat := 2 * tUs

/-- Bounds within which something ends: the wake of banks and ways (R101), a write that has performed at die scope (R105), the
application of a fence (R353). -/
def State.boundDeadlines (s : State) : List (Nat × Due) :=
  (s.mgmt.wakeAt.toList.map fun t => (t + wakeTicks, Due.wake)) ++
  (sites.flatMap fun i => (s.die i).buf.zipIdx.map fun x => (x.1.since + performTicks, Due.write i x.2)) ++
  s.homes.fenceDue.map fun x => ((s.die x.2).fencedAt + performTicks, Due.fence (Fin.ofNat 12 x.1) x.2)

/-- A sample of a pipeline falls before anything else in its bclk (R326). -/
def Pipe.deadline (p : Pipe) : Option (Nat × Due) :=
  if reelEn p && !p.ended && p.pre == .none then some (p.sampleAt + reelTicks p - 1, .sample p.id) else none

/-- The next slice begins (R370). -/
def State.sliceDeadline (s : State) : Option (Nat × Due) :=
  let k := match s.fab.sliceNo with | some n => n + 1 | none => 0
  let t := s.fabricTick (s.fab.slEpoch.toNat + k * s.fab.sliceLen.toNat * 1000)
  if s.fab.sliceEn && s.fab.sliceLen != 0 && decide (s.now ≤ t) then some (t, .slice) else none

/-- A WAIT's limit passes, unless its word has met the condition (R297); a slot is read again (R298). -/
def State.queueDeadlines (s : State) (q : WorkQueue) : List (Nat × Due) :=
  let no := BitVec.ofNat 14 q.no
  ((((s.watching no).bind Packet.due).filter fun _ => !(s.watchOf no).any Watch.hit).toList.map fun t => (t, Due.wait no)) ++
  (if q.reads then q.repoll.toList.map fun x => (x.1 + (x.2 + 1) * repollTicks, Due.repoll no) else [])

/-- The homes' limits: pins of a migration that do not clear (R95), stubs that age (R99), silent dies (R351), messages to be
sent again (R350). -/
def State.homeDeadlines (s : State) : List (Nat × Due) :=
  (s.homes.migs.filterMap fun m => match m.phase with
    | .pinWait t => if getKey 0 m.page s.homes.pins = 0 then none else some (t + 1000 * tUs, Due.pins m.page)
    | _ => none) ++
  (s.homes.stubs.zipIdx.filterMap fun x =>
    if x.1.reclaiming.isSome then none else some (x.1.last + s.mgmt.stubAge.toNat * tUs, Due.stub x.2)) ++
  (s.homes.snoops.filterMap fun x => if x.logged then none else some (x.since + 8 * tUs, Due.asleep x.site x.line)) ++
  (sites.filterMap fun i => (s.unanswered i).map fun t => (t + 200 * tUs, Due.dead i)) ++
  s.homes.lost.zipIdx.map fun x => (x.1.1 + 2 * tUs, Due.resend x.2)

/-- A lease request has waited for SETTAGE (R314). -/
def State.reqDeadlines (s : State) : List (Nat × Due) :=
  s.fe.reqs.zipIdx.filterMap fun x =>
    if s.considered x.1 && x.1.reserved.isEmpty then some (x.1.since + s.mgmt.settAge.toNat * tUs, Due.reserve x.2) else none

/-- The requests of a context to other packages, with when each was sent. -/
def State.ctxRemote (s : State) (c : CtxRef) : List (Nat × HomeReq) :=
  (match (s.ctx c).status with
   | .waiting (.fetch hva (some t)) => match s.lookupXlat (.engine c.at_ ctxEng) (s.pasidOf c.at_) hva false with
     | .hit d => if s.remotePage (pageOf d) then [(t, .engine c.at_.site (pageOf d))] else []
     | _ => []
   | _ => (s.asks c).toList.map fun x => (x.2, .load c)) ++
  (s.ctx c).out.zipIdx.filterMap fun x => x.1.op.cell.bind fun d =>
    if s.remotePage (pageOf d) then x.1.asked.map fun t => (t, .access c x.2) else none

/-- The requests of the command at the head of a queue to other packages. -/
def State.headRemote (s : State) (r : CoreRef) (e : Fin 6) : List (Nat × HomeReq) :=
  match (s.core r).eng[e] with
  | [] => []
  | q :: _ =>
    (q.pages.filter s.remotePage).filterMap (fun page => (s.lateHead page r e).map fun x => (x.2, HomeReq.engine r.site page)) ++
    match q.state, q.rent, s.rwriteDest r q with
    | .started t [] _ _ _, some _, some (_, pkg, _, _) => if pkg = s.fab.pkg then [] else [(t, .rwrite r (BitVec.ofNat 3 e.val))]
    | _, _, _ => []

/-- The requests to other packages that have no answer yet, with when each was sent (R360). -/
def State.remoteAsked (s : State) : List (Nat × HomeReq) :=
  (allCores.flatMap fun r => (ctxNames.flatMap fun n => s.ctxRemote ⟨r, n⟩) ++ engQueues.flatMap (s.headRemote r) ++
    ((s.core r).task.bind Task.asked).toList.map fun x => (x.2, .engine r.site x.1)) ++
  (sites.flatMap fun i => (s.die i).buf.zipIdx.filterMap fun x =>
    if s.remotePage (pageOf x.1.dla) then x.1.asked.map fun t => (t, .write i x.2) else none) ++
  s.logs.flatMap fun k => (s.log k).filterMap fun e => match e.asked, e.dla with
    | some t, some d => if s.remotePage (pageOf d) then some (t, .engine (s.logCore k).site (pageOf d)) else none
    | _, _ => none

/-- The frame boundary at which a written NETSLOT takes effect (R371). -/
def State.frameDeadline (s : State) : Option (Nat × Due) :=
  let frame := 64 * tBclk
  if s.fab.netslotNow = s.fab.netslot then none else some ((s.now / frame + 1) * frame, .frame)

/-- Every deadline. -/
def State.deadlines (s : State) : List (Nat × Due) :=
  s.cmdDeadlines ++ (sites.flatMap s.dieDeadlines) ++ s.ctxDeadlines ++ s.boundDeadlines ++ s.fe.pipes.filterMap Pipe.deadline ++
  s.sliceDeadline.toList ++ s.fe.queues.flatMap s.queueDeadlines ++ s.homeDeadlines ++ s.reqDeadlines ++
  (s.remoteAsked.map fun x => (x.1 + remoteTicks, Due.remote x.2)) ++ s.frameDeadline.toList

/-- Put a deadline in its place by tick. -/
def insertDue (x : Nat × Due) : List (Nat × Due) → List (Nat × Due)
  | [] => [x]
  | y :: t => if x.1 ≤ y.1 then x :: y :: t else y :: insertDue x t

/-- The deadlines that a tick has passed, the earliest first. -/
def State.passed (s : State) (t : Nat) : List (Nat × Due) := (s.deadlines.filter fun x => decide (x.1 < t)).foldr insertDue []

/-- Whether the event of a deadline, which leads from s to s', still waits for something else: a context stays blocked as it
was; the request of a write finds nothing to do; any other event leaves its deadline, and no fewer of them, before tick t. -/
def State.waitsStill (s : State) (t : Nat) (x : Nat × Due) (s' : State) : Bool :=
  match x.2 with
  | .issue c => (s.ctx c).status == (s'.ctx c).status && ((s.ctx c).status != .running || (s.core c.at_).lastIssue == (s'.core c.at_).lastIssue)
  | .write i _ => (s.die i).buf == (s'.die i).buf && s.homes.snoops == s'.homes.snoops
  | _ => s'.deadlines.contains x && decide ((s.passed t).length ≤ (s'.passed t).length)

/-- The event of a deadline happens; not one that must still wait for something else, whose deadline stands. -/
def State.meet (s : State) (t : Nat) (x : Nat × Due) : Option State :=
  match x.2.run s with
  | .next s' => if s.waitsStill t x s' then none else some s'
  | _ => none

/-- Before time moves to a tick, the earliest event that falls before it happens, and the agenda stays (R390). DESIGN CHOICE
(log 115). -/
def State.runDue (s : State) (t : Nat) : Option State := if s.now < t then (s.passed t).findSome? (s.meet t) else none

/-! ## The first of two faults (R338) -/

/-- Whether a turn may raise a fault of an engine. -/
def Turn.ofEngine : Turn → Bool
  | .start .. | .event (.commandComplete ..) | .event (.remoteWriteRefused ..) => true
  | _ => false

/-- The task of a core has not faulted. -/
def State.taskLive (s : State) (r : CoreRef) : Bool := ((s.core r).task.map Task.live).getD false

/-- A context issues in its slot of the clk of tick t, and its task faults there. -/
def State.issueFaults (s : State) (t : Nat) (c : CtxRef) : Option State :=
  let t0 := (s.die c.at_.site).t0
  let u : State := { s with now := t0 + (t - t0) / tClk * tClk }
  if !s.mayGo c || u.slotTick c != u.now then none
  else match stepIssue c u with
    | .next v => if v.taskLive c.at_ then none else some (v.at_ s.now)
    | _ => none

/-- A turn that raises an engine's fault waits for the context of the same core whose slot is the clk of tick t, where that
one faults: of a context fault and an engine fault of one clk the context's counts as the first (R338; log 102). -/
def State.ctxFirst (s s' : State) : Option State :=
  (allCores.filter fun r => s.taskLive r && !s'.taskLive r).findSome? fun r =>
    ctxNames.findSome? fun n => s.issueFaults s'.now ⟨r, n⟩

/-- What goes before a turn that leads to s': an event that is due before it, or a fault that counts before its own. -/
def State.before (s s' : State) : Option State :=
  match s.runDue s'.now with
  | some x => some x
  | none => if (s.agenda.head?.map Turn.ofEngine).getD false then s.ctxFirst s' else none

end Sys2Proof.Machine
end

