-- ==== Sys2Proof/Machine/Step.lean ====
section
/-! DEFINITION. One step of the machine: one turn of the agenda (log 3), or what goes before it; and the machine with one instruction placed
where the next step runs it (log 6). -/

namespace Sys2Proof.Machine

/-- What the first turn of the agenda does; with no turn left a clk passes. -/
def State.agendaTurn (s : State) : Host.Outcome State Fault Refusal :=
  match s.agenda with
  | [] => .next s.idle
  | t :: rest => ({ s with agenda := rest } : State).turn t

/-- One step: the first turn of the agenda, unless something goes before it, the turn then standing first still. -/
def step (s : State) : Host.Outcome State Fault Refusal :=
  match s.agendaTurn with
  | .next s' => .next ((s.before s').getD s')
  | o => o

/-! ## One instruction placed for the next step -/

/-- The core that runs the placed instruction. -/
def placedCore : CoreRef := ⟨0, 0⟩

/-- The context that may execute a placed word (R167). -/
def placedCtx (w : CtlWord) : CtxName :=
  match decode w with
  | .ok i => match groupOf i with
    | .vector | .ppu => .compute
    | .storeRow => .store
    | _ => .load
  | .error _ => .load

/-- The record of the placed task: stage 0, no arguments. -/
def placedRecord : TaskRec := ⟨0, false, false, Vector.replicate 8 0, 0, 0, 0, 0⟩

/-- The placed task: a seed record's, on member 0 of a gang of one. -/
def placedTask : Task where
  pipe := 0
  record := placedRecord
  kind := .seed
  member := 0
  gangSize := 1
  gangId := 0
  sideEffect := false
  claims := []
  resv := []
  phase := .running
  x1AtExit := 0
  exitPc := 0
  exitCtx := .load
  lfsr0 := 1
  usedQldr := false
  spawned := 0
  asked := none

/-- The stage of the placed task: a strip stage. -/
def placedStage : StageDecl := ⟨0, 0, 0, 0, 1, 1, 1, 0, 0, [], []⟩

/-- The operator of the placed task. -/
def placedOp : OpRecord := ⟨0, 7, 1, [placedStage], [], [], 0, 0, 0, none, 0, 0⟩

/-- The pipeline of the placed task; virtual die 0 is site 0. -/
def placedPipe : Pipe where
  id := 0
  chain := 0
  queue := 0
  handle := 0
  key := 0
  pasid := 0
  lcls := 7
  record := placedOp
  vdtab := 0x80
  bound := 0x80
  events := 0
  closed := 0
  pool := [⟨0, placedCore, 0, 0⟩]
  seeds := []
  seedRecs := []
  tmpls := []
  tmplDue := []
  replays := []
  modes := [.open_]
  shut := none
  faults := []
  written := 0
  dropped := 0
  retired := 0
  faulted := 0
  discarded := 0
  ud := false
  ended := false
  coreRep := []
  dieRep := []
  pre := .none
  saved := []
  mark := none
  sampleAt := 0
  gangs := 1
  gbarDone := []

/-- A translation of the first gigabyte onto itself, for reads and writes. -/
def placedXlat : Xlat := ⟨0, 0, 30, 0, true⟩

/-- A core on which the placed task runs, its contexts at address 0. -/
def Core.placed (c : Core) : Core :=
  { c.updCtxs (fun x => { x with status := .running, vdtab := 0x80 }) with task := some placedTask }

/-- The machine with a task running on core 0 of site 0. -/
def State.placed (s : State) : State :=
  let s := s.updCore placedCore Core.placed
  let s := s.updDie 0 fun d => { d with
    leases := [⟨0, 0, .frag 0 1, none, none, false, false⟩], layout := 0x0B, xlat := [placedXlat] }
  s.updFe fun f => { f with pipes := [placedPipe] }

/-- A queue entry that holds a placed command, its pages translated into the first gigabyte. -/
def placedEntry (w : CmdWord) (i : Instr) : QEntry :=
  ⟨w, i, 0, 0, .load, 0, 1, (spanPages (cmdSpans 0 i) 12).map fun x => pageXlat 0 x.1 (x.1 % 2 ^ 18 * 4096) x.2, [], 0, none, .queued⟩

/-- s with one instruction placed so that the next step runs it: a control word at the program counter of a context that
may execute it, which issues; a tile command at the head of its queue, which starts (log 6). -/
def State.withFetchWord (s : State) (nbits w : Nat) : State :=
  let s := s.placed
  if nbits ≤ 32 then
    let v : CtlWord := BitVec.ofNat 32 w
    { s.updCore placedCore (fun c => { c with icache := [(0, v)] }) with agenda := [.issue ⟨placedCore, placedCtx v⟩] }
  else
    let v : CmdWord := BitVec.ofNat 256 w
    match decodeCmd v with
    | .ok i =>
      let e : Fin 6 := match cmdQueues i with | q :: _ => q | [] => 0
      { s.updCore placedCore (fun c => { c with eng := (cmdQueues i).foldl (fun t (q : Fin 6) => t.set q [placedEntry v i]) c.eng }) with
        agenda := [.start placedCore (BitVec.ofNat 3 e.val)] }
    | .error _ => s

end Sys2Proof.Machine
end

