-- ==== Sys2Proof/Certificates/Slice0/Obligations.lean ====
section
/-! DEFINITION. The statements about the model, and the few predicates they share. Each formalises what the named
rules of the manual say the machine does. -/

namespace Sys2Proof.Spec

open Sys2Proof.Machine

/-! ## Shared predicates -/

/-- u(v) of R181. -/
def u (v : Word) : Int := v.toNat

/-- s(v) of R181. -/
def sg (v : Word) : Int := v.toInt

/-- wrap(n) of R181. -/
def wrap (n : Int) : Word := BitVec.ofInt 64 n

/-- A truth value as the manual writes it into a register: 1 or 0. -/
def truth (p : Prop) [Decidable p] : Word := if p then 1 else 0

/-- The executing context may issue the form: its fields are well formed (R175), its group may be executed by this
context (R167), its formats are accepted (R375, R244), and it writes no named input of its region (R201). -/
abbrev MayIssue (s : State) (i : Instr) : Prop := formOk s s.cur i = true ∧ writesInput s s.cur i = false

/-- The executing context goes on: to the next word, or, while the REP unit repeats, to the next repeat (R196). -/
structure GoesOn (s t : State) : Prop where
  status : t.me.status = .running
  plain : s.me.rep = none → t.me.pc = s.me.pc + 4 ∧ t.me.rep = none
  again : ∀ q, s.me.rep = some q → q.j + 1 < q.n → t.me.pc = s.me.pc ∧ t.me.rep = some { q with j := q.j + 1 }
  last : ∀ q, s.me.rep = some q → ¬ q.j + 1 < q.n → t.me.pc = s.me.pc + 4 ∧ t.me.rep = none

/-- t differs from s in the executing context at most: every other context, core, die, queue and register is as
before, and so is every byte of memory, at its home and as each die sees it. -/
structure OnlyMe (s t : State) : Prop where
  rest : t = s.updMe fun _ => t.me
  memory : ∀ a, t.homes.byte a = s.homes.byte a
  seen : ∀ i a, t.dieByte i a = s.dieByte i a

/-- An instruction that only writes v to xd has completed: xd holds v, or nothing is written where d is 0 (R181); every
other x register is unchanged; of the executing context nothing else but its program counter, status and repeat unit
changes; and nothing else of the machine changes. -/
structure SetsX (s : State) (d : BitVec 5) (v : Word) (t : State) : Prop where
  value : d ≠ 0 → t.rx d = v
  zero : t.rx 0 = 0
  others : ∀ r, r ≠ d → t.rx r = s.rx r
  goesOn : GoesOn s t
  context : t.me = { s.me with x := t.me.x, pc := t.me.pc, status := t.me.status, rep := t.me.rep, begun := none }
  rest : OnlyMe s t

/-- Wherever the form i may issue, it answers a next state, in which it has written v to xd and done nothing else. -/
def Result (i : Instr) (d : BitVec 5) (v : Word) (s : State) : Prop :=
  MayIssue s i → ∃ t, exec i s = .next t ∧ SetsX s d v t

/-- The bits of a register as a rule gives them. -/
def BitsAre (v : Word) (f : Nat → Bool) : Prop := ∀ i, i < 64 → v.getLsbD i = f i

/-- An instruction that only sends its context elsewhere has completed: the context runs at target; xd holds v where d
is not 0; every other x register, the rest of the context and the rest of the machine are unchanged. -/
structure GoesTo (s : State) (d : BitVec 5) (v target : Word) (t : State) : Prop where
  pc : t.me.pc = target
  status : t.me.status = .running
  value : d ≠ 0 → t.rx d = v
  zero : t.rx 0 = 0
  others : ∀ r, r ≠ d → t.rx r = s.rx r
  context : t.me = { s.me with x := t.me.x, pc := t.me.pc, status := t.me.status }
  rest : OnlyMe s t

end Sys2Proof.Spec

open Sys2Proof Sys2Proof.Machine Sys2Proof.Spec

/-! ## Scalar register operations (13_scalar.md) -/

/-- R182, with R181: the 22 binary register operations, for every operand and every destination, x0 included. -/
def Obligations.BinaryRegisterOperations : Prop :=
  ∀ (s : State) (d xa xb : BitVec 5), let a := s.rx xa; let b := s.rx xb
    Result (.add d xa xb) d (wrap (u a + u b)) s ∧
    Result (.sub d xa xb) d (wrap (u a - u b)) s ∧
    Result (.mul d xa xb) d (wrap (u a * u b)) s ∧
    Result (.mulh d xa xb) d (wrap (sg a * sg b / 2 ^ 64)) s ∧
    Result (.mulhu d xa xb) d (wrap (u a * u b / 2 ^ 64)) s ∧
    Result (.div d xa xb) d (if u b = 0 then 0xFFFFFFFFFFFFFFFF else wrap ((sg a).tdiv (sg b))) s ∧
    Result (.divu d xa xb) d (if u b = 0 then 0xFFFFFFFFFFFFFFFF else wrap (u a / u b)) s ∧
    Result (.rem d xa xb) d (if u b = 0 then a else wrap (sg a - sg b * (sg a).tdiv (sg b))) s ∧
    Result (.remu d xa xb) d (if u b = 0 then a else wrap (u a % u b)) s ∧
    (∃ v, BitsAre v (fun i => a.getLsbD i && b.getLsbD i) ∧ Result (.and d xa xb) d v s) ∧
    (∃ v, BitsAre v (fun i => a.getLsbD i || b.getLsbD i) ∧ Result (.or d xa xb) d v s) ∧
    (∃ v, BitsAre v (fun i => a.getLsbD i != b.getLsbD i) ∧ Result (.xor d xa xb) d v s) ∧
    Result (.shl d xa xb) d (wrap (u a * 2 ^ (b.toNat % 64))) s ∧
    Result (.shr d xa xb) d (wrap (u a / 2 ^ (b.toNat % 64))) s ∧
    Result (.sra d xa xb) d (wrap (sg a / 2 ^ (b.toNat % 64))) s ∧
    Result (.slt d xa xb) d (truth (sg a < sg b)) s ∧
    Result (.sltu d xa xb) d (truth (u a < u b)) s ∧
    Result (.min d xa xb) d (wrap (min (sg a) (sg b))) s ∧
    Result (.max d xa xb) d (wrap (max (sg a) (sg b))) s ∧
    Result (.minu d xa xb) d (wrap (min (u a) (u b))) s ∧
    Result (.maxu d xa xb) d (wrap (max (u a) (u b))) s ∧
    Result (.sadd d xa xb) d (wrap (max (-2 ^ 63) (min (2 ^ 63 - 1) (sg a + sg b)))) s

/-- R183 and R184: the unary register operations and SEL. The count n of CLZ, CTZ and POPC is the one the rule's words fix. -/
def Sys2Proof.Spec.UnaryRegisterOperations : Prop :=
  ∀ (s : State) (d xa xb xc : BitVec 5), let a := s.rx xa
    (∃ n, n ≤ 64 ∧ (∀ i, i < n → a.getLsbD (63 - i) = false) ∧ (n < 64 → a.getLsbD (63 - n) = true) ∧
      Result (.clz d xa) d (wrap n) s) ∧
    (∃ n, n ≤ 64 ∧ (∀ i, i < n → a.getLsbD i = false) ∧ (n < 64 → a.getLsbD n = true) ∧ Result (.ctz d xa) d (wrap n) s) ∧
    Result (.popc d xa) d (wrap (Finset.univ.filter fun i : Fin 64 => a.getLsbD i = true).card) s ∧
    (∃ v, BitsAre v (fun i => a.getLsbD (min i 7)) ∧ Result (.sext8 d xa) d v s) ∧
    (∃ v, BitsAre v (fun i => a.getLsbD (min i 15)) ∧ Result (.sext16 d xa) d v s) ∧
    (∃ v, BitsAre v (fun i => a.getLsbD (min i 31)) ∧ Result (.sext32 d xa) d v s) ∧
    Result (.zext8 d xa) d (wrap (u a % 2 ^ 8)) s ∧
    Result (.zext16 d xa) d (wrap (u a % 2 ^ 16)) s ∧
    Result (.zext32 d xa) d (wrap (u a % 2 ^ 32)) s ∧
    Result (.sel d xa xb xc) d (if u (s.rx xc) ≠ 0 then a else s.rx xb) s

/-- R185, R186 and R187: the immediate operations of majors 0x01 to 0x07. In BFX and BFI, w is the field amt and the width
w + 1; the width and the position meet the limits of R186 wherever the form may issue. -/
def Sys2Proof.Spec.ImmediateOperations : Prop :=
  ∀ (s : State) (d xa : BitVec 5) (imm : BitVec 16) (p w : BitVec 6) (q : BitVec 2),
    let a := s.rx xa; let i := imm.toInt
    Result (.addi d xa imm) d (wrap (u a + i)) s ∧
    (∃ v, BitsAre v (fun k => a.getLsbD k && imm.getLsbD (min k 15)) ∧ Result (.andi d xa imm) d v s) ∧
    (∃ v, BitsAre v (fun k => a.getLsbD k || imm.getLsbD (min k 15)) ∧ Result (.ori d xa imm) d v s) ∧
    (∃ v, BitsAre v (fun k => a.getLsbD k != imm.getLsbD (min k 15)) ∧ Result (.xori d xa imm) d v s) ∧
    Result (.slti d xa imm) d (truth (sg a < i)) s ∧
    Result (.shli d xa p) d (wrap (u a * 2 ^ p.toNat)) s ∧
    Result (.shri d xa p) d (wrap (u a / 2 ^ p.toNat)) s ∧
    Result (.srai d xa p) d (wrap (sg a / 2 ^ p.toNat)) s ∧
    Result (.bfx d xa p w) d (wrap (u a / 2 ^ p.toNat % 2 ^ (w.toNat + 1))) s ∧
    (∃ v, BitsAre v (fun k => if p.toNat ≤ k ∧ k < p.toNat + (w.toNat + 1) then a.getLsbD (k - p.toNat) else (s.rx d).getLsbD k) ∧
      Result (.bfi d xa p w) d v s) ∧
    (MayIssue s (.bfx d xa p w) → p.toNat + (w.toNat + 1) ≤ 64) ∧
    (MayIssue s (.bfi d xa p w) → p.toNat + (w.toNat + 1) ≤ 64) ∧
    Result (.li d imm) d (wrap i) s ∧
    (∃ v, BitsAre v (fun k => if k / 16 = q.toNat then imm.getLsbD (k % 16) else (s.rx d).getLsbD k) ∧
      Result (.lih d q imm) d v s)

/-- The unary register operations, SEL, and the immediate operations of majors 0x01 to 0x07: the statements
`UnaryRegisterOperations`, `ImmediateOperations`. -/
def Obligations.UnaryAndImmediateOperations : Prop := Spec.UnaryRegisterOperations ∧ Spec.ImmediateOperations

/-- R192: a conditional branch goes to its target where its condition holds and on to pc + 4 where it does not. No x
register changes: d is 0. -/
def Sys2Proof.Spec.ConditionalBranches : Prop :=
  ∀ (s : State) (xa xb : BitVec 5) (off : BitVec 16), let a := s.rx xa; let b := s.rx xb
    let Branch (i : Instr) (cond : Prop) : Prop := MayIssue s i → s.me.rep = none →
      ∃ t, exec i s = .next t ∧ (cond → GoesTo s 0 0 (wrap (u s.me.pc + 4 * off.toInt)) t) ∧
        (¬cond → GoesTo s 0 0 (wrap (u s.me.pc + 4)) t)
    Branch (.beq xa xb off) (a = b) ∧ Branch (.bne xa xb off) (a ≠ b) ∧
    Branch (.blt xa xb off) (sg a < sg b) ∧ Branch (.bge xa xb off) (sg b ≤ sg a) ∧
    Branch (.bltu xa xb off) (u a < u b) ∧ Branch (.bgeu xa xb off) (u b ≤ u a)

/-- R193: LOOP counts its register down, modulo 2^64, and goes to its target until the count is 0; with xa = x0 it is
illegal and changes no x register. -/
def Sys2Proof.Spec.LoopCountsDown : Prop :=
  ∀ (s : State) (xa : BitVec 5) (off : BitVec 16),
    let n := wrap (u (s.rx xa) - 1)
    (MayIssue s (.loop xa off) → s.me.rep = none → xa ≠ 0 ∧
      ∃ t, exec (.loop xa off) s = .next t ∧
        GoesTo s xa n (if n ≠ 0 then wrap (u s.me.pc + 4 * off.toInt) else wrap (u s.me.pc + 4)) t) ∧
    (exec (.loop 0 off) s = .next (s.illegal (wordOfInstr (.loop 0 off))))

/-- R194: JMP, JAL and JALR; a JALR to an address that is not a multiple of 4 takes the misaligned-access fault and writes
nothing, and JALR reads its source before it writes its link. -/
def Sys2Proof.Spec.JumpsAndLinks : Prop :=
  ∀ (s : State) (d xa : BitVec 5) (off : BitVec 26), s.me.rep = none →
    (MayIssue s (.jmp off) → ∃ t, exec (.jmp off) s = .next t ∧ GoesTo s 0 0 (wrap (u s.me.pc + 4 * off.toInt)) t) ∧
    (MayIssue s (.jal off) → ∃ t, exec (.jal off) s = .next t ∧
      GoesTo s 31 (wrap (u s.me.pc + 4)) (wrap (u s.me.pc + 4 * off.toInt)) t) ∧
    (MayIssue s (.jalr d xa) → u (s.rx xa) % 4 = 0 → ∃ t, exec (.jalr d xa) s = .next t ∧
      GoesTo s d (wrap (u s.me.pc + 4)) (s.rx xa) t) ∧
    (MayIssue s (.jalr d xa) → u (s.rx xa) % 4 ≠ 0 → exec (.jalr d xa) s = .next (s.fault 0x02 (s.rx xa).toNat))

/-- Conditional branches, LOOP, JMP, JAL and JALR: the statements `ConditionalBranches`, `LoopCountsDown`, `JumpsAndLinks`. -/
def Obligations.BranchesAndJumps : Prop := Spec.ConditionalBranches ∧ Spec.LoopCountsDown ∧ Spec.JumpsAndLinks

/-! ## Fault entry (25_faults.md) -/

/-- R175, R201: a control word that its context may not issue takes the illegal-instruction fault, which has no other
effect; so it is for every instruction that is a control word. -/
def Sys2Proof.Spec.ForbiddenFormsFault : Prop :=
  ∀ (s : State) (i : Instr), groupOf i ≠ .none → ¬MayIssue s i → exec i s = .next (s.illegal (wordOfInstr i))

/-- R338, R339, R334: a fault of a running task that is a gang of one stops its three contexts, empties its load and store
queues, keeps of its commands the started ones, appends one record with the fault's code, context, address and program
counter to its pipeline, counts the task as faulted, and, where none has begun, begins the pipeline's shutdown with
STATUS 0x01. Memory keeps every byte. -/
def Sys2Proof.Spec.FaultEndsTask : Prop :=
  ∀ (s : State) (r : CoreRef) (f : FaultInfo) (k : Task) (p : Pipe), (s.core r).task = some k → k.phase ≠ .faulted →
    k.gangSize = 1 → s.pipe? k.pipe = some p →
    let t := s.takeFault r f
    (∀ x, (t.core r).task = some x → x = { k with phase := .faulted }) ∧
    (∀ n, ((t.core r).ctx n).status = .stopped ∧ ((t.core r).ctx n).x = ((s.core r).ctx n).x) ∧
    (∀ q : Fin 4, (t.core r).lq[q] = [] ∧ (t.core r).sq[q] = []) ∧
    (∀ e : Fin 6, (t.core r).eng[e] = ((s.core r).eng[e]).filter QEntry.started) ∧
    (∃ p' rec_, t.pipe? k.pipe = some p' ∧ p'.faults = p.faults ++ [rec_] ∧ rec_.code = BitVec.ofNat 8 f.code ∧
      rec_.ctx = BitVec.ofNat 3 f.ctx ∧ rec_.pc = f.pc ∧ rec_.addr = BitVec.ofNat 64 f.addr ∧ rec_.info = f.info ∧
      rec_.data = f.data ∧ rec_.stage = BitVec.ofNat 4 k.record.stage ∧ rec_.member = BitVec.ofNat 6 k.member ∧
      rec_.peer = false ∧ p'.faulted = p.faulted + 1 ∧ p'.shut = (if p.shut.isSome then p.shut else some 0x01)) ∧
    (∀ a, t.homes.byte a = s.homes.byte a) ∧ (∀ i a, t.dieByte i a = s.dieByte i a)

/-- R338: a task that has taken a fault takes no other, and a core without a task takes none. -/
def Sys2Proof.Spec.FaultTakenOnce : Prop :=
  ∀ (s : State) (r : CoreRef) (f : FaultInfo), (∀ k, (s.core r).task = some k → k.phase = .faulted) → s.takeFault r f = s

/-- A form that may not issue takes the illegal-instruction fault; a task takes one fault: the statements
`ForbiddenFormsFault`, `FaultTakenOnce`. -/
def Obligations.FormsAndFaultsOnce : Prop := Spec.ForbiddenFormsFault ∧ Spec.FaultTakenOnce

/-- R217: BRK takes the breakpoint fault 0x14 and TRAP the trap fault 0x13, with the instruction's address, x1 to x4 of the
context as DATA, and for TRAP the code as INFO. -/
def Sys2Proof.Spec.BreakAndTrap : Prop :=
  ∀ (s : State) (code : BitVec 9), s.me.rep = none →
    let data (v : BitVec 256) : Prop := ∀ j : Fin 4, v.extractLsb' (64 * j.val) 64 = s.rx (BitVec.ofNat 5 (j.val + 1))
    (MayIssue s .brk → ∃ v, data v ∧
      exec .brk s = .next (s.takeFault s.cur.at_ ⟨0x14, ctxCode s.cur.ctx, 0, none, s.me.pc, 0, 0, v⟩)) ∧
    (MayIssue s (.trap code) → ∃ v, data v ∧
      exec (.trap code) s = .next (s.takeFault s.cur.at_ ⟨0x13, ctxCode s.cur.ctx, 0, none, s.me.pc, 0, code.setWidth 64, v⟩))

/-- Taking a fault, and the BRK and TRAP that take one: the statements `FaultEndsTask`, `BreakAndTrap`. -/
def Obligations.FaultEndsTask : Prop := Spec.FaultEndsTask ∧ Spec.BreakAndTrap

namespace Sys2Proof.Spec

/-! ## Accesses to global memory -/

/-- An address of the executing context translates without waiting, to an address that the package can reach, whose page
can be pinned (R75, R74, R79). -/
abbrev Reaches (s : State) (hva dla : Nat) (wr : Bool) : Prop :=
  s.lookupXlat (.engine s.cur.at_ ctxEng) (s.pasidOf s.cur.at_) hva wr = .hit dla ∧
  s.dlaOk dla = true ∧
  (s.pinAll [pageOf dla]).isSome = true

/-- The effective address of R188. -/
def ea (s : State) (xa : BitVec 5) (off : BitVec 8) (size : Nat) : Nat := ((u (s.rx xa) + off.toInt * size) % 2 ^ 64).toNat

/-- The executing context is held by a load of one word, with the next issue number, and its page is pinned; no register, no
byte of memory and nothing else of the machine changes (R189). -/
structure Holds (s : State) (l : HeldLoad) (dla : Nat) (t : State) : Prop where
  context : t.me = { s.me with status := .held l, seq := s.me.seq + 1 }
  rest : t = (s.updHomes fun h => h.pin (pageOf dla)).updMe fun _ => t.me
  memory : ∀ a, t.homes.byte a = s.homes.byte a
  seen : ∀ i a, t.dieByte i a = s.dieByte i a

/-- The access a of the executing context is outstanding, its page pinned, and the context goes on; the region is closed
and the task has a side effect (R65, R70); no register, no byte of memory and nothing else of the machine changes. -/
structure Issues (s : State) (a : Access) (dla : Nat) (t : State) : Prop where
  goesOn : GoesOn s t
  context : t.me = { s.me with
    pc := t.me.pc, status := t.me.status, rep := t.me.rep, begun := none, out := s.me.out ++ [a], seq := s.me.seq + 1 }
  core : t.myCore = { s.myCore.updCtx s.cur.ctx (fun _ => t.me) with
    closed := true, task := s.myCore.task.map fun k => { k with sideEffect := true } }
  rest : t = (s.updHomes fun h => h.pin (pageOf dla)).updMyCore fun _ => t.myCore
  memory : ∀ b, t.homes.byte b = s.homes.byte b
  seen : ∀ i b, t.dieByte i b = s.dieByte i b

end Sys2Proof.Spec

/-! ## Scalar loads and stores (13_scalar.md) -/

/-- R188, R189: a scalar load whose address is aligned and translates holds its context with its one word to come; at a
misaligned address it takes the misaligned-access fault, code 0x02, with the address. -/
def Sys2Proof.Spec.ScalarLoadsHold : Prop :=
  ∀ (s : State) (d xa : BitVec 5) (c : BitVec 4) (off : BitVec 8) (dla : Nat),
    let Load (i : Instr) (size : Nat) (sgn : Bool) : Prop := MayIssue s i → let e := ea s xa off size
      (e % size = 0 → s.logged s.cur (clsBit c) = false → Reaches s e dla false →
        ∃ t, exec i s = .next t ∧
          Holds s ⟨s.me.seq, .x d sgn, clsBit c, [⟨dla, e, size, none⟩], none, 0, [pageOf dla], none⟩ dla t) ∧
      (e % size ≠ 0 → exec i s = .next (s.fault 0x02 e))
    Load (.ldb d xa c off) 1 true ∧ Load (.ldbu d xa c off) 1 false ∧ Load (.ldh d xa c off) 2 true ∧
    Load (.ldhu d xa c off) 2 false ∧ Load (.ldw d xa c off) 4 true ∧ Load (.ldwu d xa c off) 4 false ∧
    Load (.ld d xa c off) 8 false

/-- R190, with R188: a scalar store whose address is aligned and translates is outstanding with the register's value and the
width of its kind; at a misaligned address it takes the misaligned-access fault, code 0x02, and nothing is written. -/
def Sys2Proof.Spec.ScalarStoresIssue : Prop :=
  ∀ (s : State) (d xa : BitVec 5) (c : BitVec 4) (off : BitVec 8) (dla : Nat),
    let Store (i : Instr) (size : Nat) : Prop := MayIssue s i → let e := ea s xa off size
      (e % size = 0 → s.logged s.cur (clsBit c) = false → Reaches s e dla true →
        ∃ t, exec i s = .next t ∧
          Issues s ⟨s.me.seq, clsBit c, .store dla size (s.rx d), s.me.faultPc, BitVec.ofNat 64 e, [pageOf dla],
            s.me.faultRep, none⟩ dla t) ∧
      (e % size ≠ 0 → exec i s = .next (s.fault 0x02 e))
    Store (.stb d xa c off) 1 ∧ Store (.sth d xa c off) 2 ∧ Store (.stw d xa c off) 4 ∧ Store (.st d xa c off) 8

/-- R100, R341: a scalar store, of any width, whose page a page request is out for goes to the side log of its core, if the log
has room, and the context goes on. -/
def Sys2Proof.Spec.StoreWaitsInSideLog : Prop :=
  ∀ (s : State) (d xa : BitVec 5) (c : BitVec 4) (off : BitVec 8),
    let Logs (i : Instr) (size : Nat) : Prop := MayIssue s i → let e := ea s xa off size
      e % size = 0 → s.lookupXlat (.engine s.cur.at_ ctxEng) (s.pasidOf s.cur.at_) e true = .paging →
      s.myCore.sideLog.length < 64 →
      ∃ t, exec i s = .next t ∧ GoesOn s t ∧ t.me.out = s.me.out ∧ t.me.x = s.me.x ∧
        t.myCore.sideLog = s.myCore.sideLog ++ [⟨s.cur.ctx, clsBit c, BitVec.ofNat 64 e, s.pasidOf s.cur.at_,
          .store size (s.rx d), s.me.faultPc, s.me.seq, none, false, s.me.faultRep, none,
          s.myCore.task.map fun k => (k.pipe, k.gangId)⟩] ∧
        (∀ a, t.homes.byte a = s.homes.byte a) ∧ (∀ i a, t.dieByte i a = s.dieByte i a)
    Logs (.stb d xa c off) 1 ∧ Logs (.sth d xa c off) 2 ∧ Logs (.stw d xa c off) 4 ∧ Logs (.st d xa c off) 8

/-- R105, R107: where no earlier access of its classes is outstanding, and no request of its die to its page is being relayed
(R98), a store performs at die scope: each byte that it
covers reads, on its die, as the stored byte, and every other byte, on every die and at its home, reads as before. -/
def Sys2Proof.Spec.StorePerformsOnItsDie : Prop :=
  ∀ (s : State) (c : CtxRef) (n dla size : Nat) (data : Word) (a : Access), (s.ctx c).out[n]? = some a →
    a.op = .store dla size data → s.oldest c a = true → size ≤ 8 → pageOf dla ∉ (s.die c.at_.site).relayed →
    let t := s.perform c n
    (∀ j b, t.dieByte j b = if j = c.at_.site ∧ dla ≤ b ∧ b < dla + size then data.extractLsb' (8 * (b - dla)) 8
      else s.dieByte j b) ∧
    (∀ b, t.homes.byte b = s.homes.byte b)

/-- Scalar stores issue, wait in the side log, and perform on their die: the statements `ScalarStoresIssue`,
`StoreWaitsInSideLog`, `StorePerformsOnItsDie`. -/
def Obligations.ScalarStores : Prop := Spec.ScalarStoresIssue ∧ Spec.StoreWaitsInSideLog ∧ Spec.StorePerformsOnItsDie

/-- R189, R8: when the one value of a scalar load can return, its context gets it into xd, sign- or zero-extended, and goes
on; a load into x0 discards it. The value is what the home of the word has fixed, or else byte j of it is the byte of the
address plus j as the die sees it, whose newest write of the location covers all that is read, or which has none waiting there
and holds the line. That such a load waits while the newest write does not cover it is log 119. -/
def Sys2Proof.Spec.LoadValueReturns : Prop :=
  ∀ (s : State) (c : CtxRef) (l : HeldLoad) (rd : BitVec 5) (sgn : Bool) (w : LoadWord),
    (s.ctx c).status = .held l → l.dest = .x rd sgn → l.words = [w] → w.size ∈ [1, 2, 4, 8] →
    s.loadOldest c l = true → s.wordBad c w = false → s.wordReady c l w = true →
    (∀ v, w.home = some v → v.toNat < 2 ^ (8 * w.size)) →
    let v := s.wordValue c w
    (∀ x, w.home = some x → v = x) ∧
    (w.home = none → match (s.die c.at_.site).lastWrite w.dla with
      | some x => x.dla ≤ w.dla ∧ w.dla + w.size ≤ x.dla + x.size
      | none => ((s.die c.at_.site).line (lineOf w.dla)).isSome = true) ∧
    (w.home = none → ∀ j, j < w.size → v.extractLsb' (8 * j) 8 = s.dieByte c.at_.site (w.dla + j)) ∧
    ∃ t, exec (.loadValueReturn c) s = .next t ∧ t.cur = c ∧
      (rd ≠ 0 → t.rx rd = if sgn then wrap (v.setWidth (8 * w.size)).toInt else wrap (v.setWidth (8 * w.size)).toNat) ∧
      (∀ r, r ≠ rd → t.rx r = (s.ctx c).rd r) ∧ GoesOn { s with cur := c } t ∧
      (∀ a, t.homes.byte a = s.homes.byte a) ∧ (∀ i a, t.dieByte i a = s.dieByte i a)

/-- Scalar loads hold their context, and their value returns: the statements `ScalarLoadsHold`, `LoadValueReturns`. -/
def Obligations.ScalarLoads : Prop := Spec.ScalarLoadsHold ∧ Spec.LoadValueReturns

/-- R205, R206, R208: ACQ holds its context with the classes of its mask, or class 0; MON with class 0 on the line of its
address; REL is outstanding with its scope and mask. -/
def Sys2Proof.Spec.AcquireReleaseMonitor : Prop :=
  ∀ (s : State) (d xa xb : BitVec 5) (sc : BitVec 2) (dla : Nat),
    let e := (s.rx xa).toNat; let m : BitVec 16 := (s.rx xb).setWidth 16; let cls : BitVec 16 := if m = 0 then 1 else m
    (MayIssue s (.acq d xa xb sc) → e % 8 = 0 → s.logged s.cur cls = false → Reaches s e dla false →
      ∃ t, exec (.acq d xa xb sc) s = .next t ∧
        Holds s ⟨s.me.seq, .acq d sc m, cls, [⟨dla, e, 8, none⟩], none, 0, [pageOf dla], none⟩ dla t) ∧
    (MayIssue s (.rel d xa xb sc) → e % 8 = 0 → s.logged s.cur cls = false → Reaches s e dla true →
      ∃ t, exec (.rel d xa xb sc) s = .next t ∧
        Issues s ⟨s.me.seq, cls, .rel dla (s.rx d) sc m, s.me.faultPc, s.rx xa, [pageOf dla], s.me.faultRep, none⟩ dla t) ∧
    (MayIssue s (.acq d xa xb sc) → e % 8 ≠ 0 → exec (.acq d xa xb sc) s = .next (s.fault 0x02 e)) ∧
    (MayIssue s (.rel d xa xb sc) → e % 8 ≠ 0 → exec (.rel d xa xb sc) s = .next (s.fault 0x02 e)) ∧
    (MayIssue s (.mon xa) → s.logged s.cur 1 = false → Reaches s (e - e % 8) dla false →
      ∃ t, exec (.mon xa) s = .next t ∧
        Holds s ⟨s.me.seq, .mon, 1, [⟨dla, e - e % 8, 8, none⟩], none, 0, [pageOf dla], none⟩ dla t)

namespace Sys2Proof.Spec

/-- The values of a held load can return: every earlier access of its classes has performed, and each value stands ready at no
poisoned line (R107, R189, R349). -/
abbrev Returns (s : State) (c : CtxRef) (l : HeldLoad) : Prop :=
  (s.ctx c).status = .held l ∧ s.loadOldest c l = true ∧ ∀ w ∈ l.words, s.wordBad c w = false ∧ s.wordReady c l w = true

end Sys2Proof.Spec

/-- R115, R205, R208: when the value of an ACQ returns, xd holds it and the context goes on; where the die holds the value, and the
word's release is one noted there, every write of the die's list that this release covers, and every M line with one, is visible
to the context in the classes of the ACQ's mask from then on; a mask of 0 acquires nothing. When that of a MON returns, the
context's monitor is armed on the line of its word. -/
def Sys2Proof.Spec.AcquireAndMonitorReturn : Prop :=
  ∀ (s : State) (c : CtxRef) (l : HeldLoad) (rd : BitVec 5) (sc : BitVec 2) (m : BitVec 16) (w : LoadWord) (rc : CtxRef) (ri : RelInfo),
    Returns s c l → l.words = [w] → let i := c.at_.site
    let Done (t : State) : Prop := exec (.loadValueReturn c) s = .next t ∧ t.cur = c ∧ GoesOn { s with cur := c } t ∧
      (∀ a, t.homes.byte a = s.homes.byte a) ∧ (∀ j a, t.dieByte j a = s.dieByte j a)
    (l.dest = .acq rd sc m → ∃ t, Done t ∧ (rd ≠ 0 → t.rx rd = s.wordValue c w) ∧ (∀ r, r ≠ rd → t.rx r = (s.ctx c).rd r) ∧
      (w.home = none → lookup (w.dla / 8) (s.die i).rels = some (rc, ri) → m ≠ 0 →
        (∀ (n : Nat) (x : DieWrite), (s.die i).buf[n]? = some x → x.covered rc ri.mask ri.seq = true →
          ∃ y : DieWrite, (t.die i).buf[n]? = some y ∧ (c, m, l.seq) ∈ y.vis ∧ ∀ v ∈ x.vis, v ∈ y.vis) ∧
        (∀ k data tags, (s.die i).line k = some (.m data tags) → coversTags rc ri.mask tags = true →
          ∃ tags', (t.die i).line k = some (.m data tags') ∧ (c, m) ∈ tags' ∧ ∀ x ∈ tags, x ∈ tags')) ∧
      (m = 0 → t.dies.map Die.buf = s.dies.map Die.buf ∧ t.dies.map Die.cache = s.dies.map Die.cache)) ∧
    (l.dest = .mon → w.home = none → ∃ t, Done t ∧ t.me.mon = ⟨some (w.dla / 128), false⟩ ∧ ∀ r, t.rx r = (s.ctx c).rd r)

/-! ## Control and system instructions (13_scalar.md) -/

namespace Sys2Proof.Spec

/-- t differs from s on the executing context's core at most. -/
structure OnlyMyCore (s t : State) : Prop where
  rest : t = s.updMyCore fun _ => t.myCore
  memory : ∀ a, t.homes.byte a = s.homes.byte a
  seen : ∀ i a, t.dieByte i a = s.dieByte i a

/-- The executing context waits for w; nothing else of the machine changes (R43). -/
structure Waits (s : State) (w : Wait) (t : State) : Prop where
  context : t.me = { s.me with status := .waiting w }
  rest : OnlyMe s t

/-- The site x is bound to virtual die v (R21). -/
abbrev Bound (vdtab : Word) (v x : Nat) : Prop := v < 8 ∧ vdtab.getLsbD (8 * v + 7) = true ∧ vdtab.toNat / 2 ^ (8 * v) % 8 = x

/-- No virtual die v is bound (R21). -/
abbrev Unbound (vdtab : Word) (v : Nat) : Prop := 8 ≤ v ∨ vdtab.getLsbD (8 * v + 7) = false

end Sys2Proof.Spec

/-- R211 to R213, R216: NOP changes nothing but its program counter; TIME gives the count of bclk, of 210 ticks each;
VDHOP the hop distance |dx| + |dy| of two bound virtual dies, and for an unbound one the unbound-die fault 0x0B, with the
number in xa where both are unbound (the model's choice, log 86); SRD the whole value of VTYPE, VSTAT, LFSR, VDTAB, LAYOUT,
CFRAG (R33), GANGINFO (R48) and AMn. -/
def Sys2Proof.Spec.SystemReads : Prop :=
  ∀ (s : State) (d xa xb : BitVec 5) (n : Fin 16),
    Result .nop 0 0 s ∧
    Result (.time d) d (wrap (s.now / 210 : Nat)) s ∧
    (∀ x y : Nat, Bound s.me.vdtab (s.rx xa).toNat x → Bound s.me.vdtab (s.rx xb).toNat y →
      Result (.vdhop d xa xb) d (wrap (|(x % 3 : Int) - y % 3| + |(x / 3 : Int) - y / 3|)) s) ∧
    (MayIssue s (.vdhop d xa xb) → Unbound s.me.vdtab (s.rx xa).toNat →
      exec (.vdhop d xa xb) s = .next (s.fault 0x0B (s.rx xa).toNat)) ∧
    (∀ x : Nat, MayIssue s (.vdhop d xa xb) → Bound s.me.vdtab (s.rx xa).toNat x → Unbound s.me.vdtab (s.rx xb).toNat →
      exec (.vdhop d xa xb) s = .next (s.fault 0x0B (s.rx xb).toNat)) ∧
    Result (.srd d 0x00) d s.myCore.vf.vtype s ∧
    Result (.srd d 0x01) d (s.myCore.vf.vstat.setWidth 64) s ∧
    Result (.srd d 0x02) d (s.myCore.vf.lfsr.setWidth 64) s ∧
    Result (.srd d 0x08) d s.me.vdtab s ∧
    Result (.srd d 0x09) d ((s.die s.cur.at_.site).layout.setWidth 64) s ∧
    Result (.srd d (BitVec.ofNat 8 (0x10 + n.val))) d (s.myCore.vf.am[n].setWidth 64) s ∧
    (∀ (k : Task) (p : Pipe) (g : StageDecl) (v : Nat), s.myCore.task = some k → s.pipe? k.pipe = some p →
      p.record.stages[k.record.stage]? = some g → let r := s.cur.at_; let tab := s.myCore.c.vdtab
      Bound tab v r.site.val → (∀ v', v' < v → ¬Bound tab v' r.site.val) →
      Result (.srd d 0x0B) d (wrap (k.member + 2 ^ 8 * k.gangSize + 2 ^ 16 * k.record.stage : Nat)) s ∧
      (∀ lead strips, (s.die r.site).fragOf r.core = some (lead, strips) →
        (g.cls ≠ 0 → Result (.srd d 0x0A) d (wrap (1 + 2 ^ 3 * g.cls + 2 ^ 8 * lead.val + 2 ^ 12 * v : Nat)) s) ∧
        (g.cls = 0 → Result (.srd d 0x0A) d (wrap (2 + 2 ^ 8 * lead.val + 2 ^ 12 * v : Nat)) s)) ∧
      (g.cls = 0 → (s.die r.site).fragOf r.core = none → Result (.srd d 0x0A) d (wrap (2 ^ 8 * r.core.val + 2 ^ 12 * v : Nat)) s))

/-- R214: SWR to VTYPE stores the value where its fields are legal; to VSTAT it clears the flags where the value holds 1; to
LFSR it stores the value, or 1 for 0; to AMn it stores the value. It closes the region and is a side effect (R65). A value
with a reserved bit set is illegal and changes no register. -/
def Sys2Proof.Spec.SystemWrites : Prop :=
  ∀ (s : State) (xa : BitVec 5) (n : Fin 16), let a := s.rx xa
    let Write (r : BitVec 8) (ok : Prop) (f : VectorFile → VectorFile) : Prop := MayIssue s (.swr xa r) →
      (ok → ∃ t, exec (.swr xa r) s = .next t ∧ GoesOn s t ∧ t.myCore.vf = f s.myCore.vf ∧ t.myCore.closed = true ∧
        (∀ k, s.myCore.task = some k → t.myCore.task = some { k with sideEffect := true }) ∧
        t.me.x = s.me.x ∧ OnlyMyCore s t) ∧
      (¬ok → exec (.swr xa r) s = .next (s.illegal (wordOfInstr (.swr xa r))))
    Write 0x00 (a.toNat < 2 ^ 9 ∧ a.getLsbD 7 = false ∧ a.toNat % 16 ≤ 11 ∧ a.toNat % 16 ≠ 7 ∧ a.toNat / 16 % 8 ≤ 4 ∧
      (a.toNat % 16 = 5 ∨ a.toNat % 16 = 6 → s.feature 2 = true)) (fun v => { v with vtype := a }) ∧
    Write 0x01 (a.toNat < 2 ^ 6) (fun v => { v with vstat := v.vstat &&& ~~~(a.setWidth 6) }) ∧
    Write 0x02 (a.toNat < 2 ^ 32) (fun v => { v with lfsr := if a = 0 then 1 else a.setWidth 32 }) ∧
    Write (BitVec.ofNat 8 (0x10 + n.val)) (a.toNat < 2 ^ 33 ∧ a.getLsbD 31 = false ∧ a.toNat % 2 ^ 31 ≤ 0x7F800000)
      (fun v => { v with am := v.am.set n (a.setWidth 33) })

/-- NOP, TIME, VDHOP, and SRD and SWR of every system register: the statements `SystemReads`, `SystemWrites`. -/
def Obligations.SystemRegisters : Prop := Spec.SystemReads ∧ Spec.SystemWrites

/-- R202 to R204, R209: WAIT goes on where each counter is at or below its operand and else waits; a FENCE with nothing
outstanding in its classes changes nothing, and else stands among the context's accesses and goes on; MWAIT returns where
the monitor is not armed, returns and disarms it where its trigger is set or its limit is 0, and else waits to its time limit. -/
def Sys2Proof.Spec.WaitsAndFences : Prop :=
  ∀ (s : State) (l st c n : BitVec 4) (m : BitVec 16) (xa : BitVec 5),
    let met : Prop := s.me.loadsOut ≤ l.toNat ∧ s.storesOut s.cur ≤ st.toNat ∧
      s.myCore.copiesOut s.cur.ctx ≤ c.toNat ∧ s.myCore.tilesOut s.cur.ctx ≤ n.toNat
    (met → Result (.wait l st c n) 0 0 s) ∧
    (MayIssue s (.wait l st c n) → ¬met → ∃ t, exec (.wait l st c n) s = .next t ∧ Waits s .counters t) ∧
    (s.drained s.cur m = true → Result (.fence m) 0 0 s) ∧
    (MayIssue s (.fence m) → s.drained s.cur m = false → ∃ t, exec (.fence m) s = .next t ∧ GoesOn s t ∧
      t.me.out = s.me.out ++ [⟨s.me.seq, m, .fence m, s.me.faultPc, 0, [], s.me.faultRep, none⟩] ∧ t.me.x = s.me.x ∧ OnlyMe s t) ∧
    (s.me.mon.armed = none → Result (.mwait xa) 0 0 s) ∧
    (∀ line trig, MayIssue s (.mwait xa) → s.me.mon = ⟨some line, trig⟩ → trig = true ∨ (s.me.status = .running ∧ s.rx xa = 0) →
      ∃ t, exec (.mwait xa) s = .next t ∧ GoesOn s t ∧ t.me.mon = ⟨none, false⟩ ∧ t.me.x = s.me.x ∧ OnlyMe s t) ∧
    (∀ line, MayIssue s (.mwait xa) → s.me.mon = ⟨some line, false⟩ → s.me.status = .running → s.rx xa ≠ 0 →
      ∃ t, exec (.mwait xa) s = .next t ∧ Waits s (.mwait (s.now + min (s.rx xa).toNat 2097152 * 160)) t)

/-- ACQ, REL, MON, WAIT, FENCE and MWAIT: the statements `AcquireReleaseMonitor`, `WaitsAndFences`, `AcquireAndMonitorReturn`. -/
def Obligations.OrderingInstructions : Prop := Spec.AcquireReleaseMonitor ∧ Spec.WaitsAndFences ∧ Spec.AcquireAndMonitorReturn

/-- R196, R198: REP takes the word that follows it where all its forms are legal, with the count n + 1 and no repeat issued,
and goes on to that word; where one form is not, it is illegal. -/
def Sys2Proof.Spec.RepeatUnit : Prop :=
  ∀ (s : State) (n : BitVec 6) (mask : BitVec 3) (w : CtlWord), MayIssue s (.rep n mask) →
    s.cached s.cur.at_ (s.me.pc + 4).toNat = some w →
    (repOk s w (n.toNat + 1) mask = true → ∃ t, exec (.rep n mask) s = .next t ∧
      t.me = { s.me with pc := s.me.pc + 4, status := .running, rep := some ⟨w, n.toNat + 1, 0, mask, s.me.pc⟩ } ∧ OnlyMe s t) ∧
    (repOk s w (n.toNat + 1) mask = false → exec (.rep n mask) s = .next (s.illegal (wordOfInstr (.rep n mask))))

/-- R69, R200: a REGION waits at the barrier while another context of the task has not come to it; when the last context
comes, with empty queues and no access outstanding, every context that has not exited enters the next region with its own
inputs, at the word after its REGION, and the region is open. With an entry left in a queue, the REGION or EXIT whose arrival
would have completed the barrier takes the illegal-instruction fault. -/
def Sys2Proof.Spec.RegionBarrier : Prop :=
  ∀ (s : State) (m : BitVec 26), MayIssue s (.region m) → s.me.arrived = false →
    (∀ n, n ≠ s.cur.ctx → (s.myCore.ctx n).atBarrier = false → ∃ t, exec (.region m) s = .next t ∧
      t.me = { s.me with arrived := true, nextInputs := m, status := .waiting .barrier } ∧ OnlyMe s t) ∧
    ((∀ n, n ≠ s.cur.ctx → (s.myCore.ctx n).atBarrier = true) → s.myCore.queuesHold = false →
      (∀ n, s.settled ⟨s.cur.at_, n⟩ = true) → (∀ k, s.myCore.task = some k → k.phase = .running) →
      ∃ t, exec (.region m) s = .next t ∧ t.myCore.closed = false ∧
        t.me.status = .running ∧ t.me.pc = s.me.pc + 4 ∧ t.me.inputs = m ∧ t.me.entry = s.me.pc ∧ t.me.x = s.me.x ∧
        (∀ n, n ≠ s.cur.ctx → (s.myCore.ctx n).status ≠ .parked →
          (t.myCore.ctx n).status = .running ∧ (t.myCore.ctx n).pc = (s.myCore.ctx n).pc + 4 ∧
          (t.myCore.ctx n).inputs = (s.myCore.ctx n).nextInputs) ∧
        (∀ n, n ≠ s.cur.ctx → (s.myCore.ctx n).status = .parked → (t.myCore.ctx n).status = .parked) ∧ OnlyMyCore s t) ∧
    ((∀ n, n ≠ s.cur.ctx → (s.myCore.ctx n).atBarrier = true) → s.myCore.queuesHold = true →
      (∃ t, exec (.region m) s = .next (t.illegal (wordOfInstr (.region m))) ∧
        t.me = { s.me with arrived := true, nextInputs := m, status := .waiting .barrier } ∧ OnlyMe s t) ∧
      (MayIssue s .exit → (∃ n, n ≠ s.cur.ctx ∧ (s.myCore.ctx n).status ≠ .parked) →
        (∀ q ∈ s.gang s.cur.at_, q ≠ s.cur.at_ → ∀ j, ((s.core q).ctx s.cur.ctx).status ≠ .waiting (.gbar j)) →
        s.myCore.orphanAt s.cur.ctx = none →
        ∃ t, exec .exit s = .next (t.illegal (wordOfInstr .exit)) ∧ t.me = { s.me with status := .parked } ∧ OnlyMyCore s t))

/-- REP and the region barrier: the statements `RepeatUnit`, `RegionBarrier`. -/
def Obligations.RepeatsAndRegions : Prop := Spec.RepeatUnit ∧ Spec.RegionBarrier

/-! ## Task instructions (19_tasks.md) -/

/-- R288: SEMW takes one from a semaphore that is not 0 and else waits; SEMS, where the context's accesses have performed,
adds one, and at 65,535 takes the semaphore-overflow fault 0x0E; where one has not, it stands among the context's accesses
and the context goes on (read from R43, log 22). -/
def Sys2Proof.Spec.Semaphores : Prop :=
  ∀ (s : State) (n : BitVec 6), let v := s.myCore.sem[n.toFin]
    (MayIssue s (.semw n) → v ≠ 0 → ∃ t, exec (.semw n) s = .next t ∧ GoesOn s t ∧
      t.myCore.sem = s.myCore.sem.set n.toFin (v - 1) ∧ t.me.x = s.me.x ∧ OnlyMyCore s t) ∧
    (MayIssue s (.semw n) → v = 0 → ∃ t, exec (.semw n) s = .next t ∧ Waits s (.semw n) t) ∧
    (MayIssue s (.sems n) → s.drained s.cur allCls = true → v ≠ 65535 → ∃ t, exec (.sems n) s = .next t ∧ GoesOn s t ∧
      t.myCore.sem = s.myCore.sem.set n.toFin (v + 1) ∧ t.myCore.closed = true ∧ t.me.x = s.me.x ∧ OnlyMyCore s t) ∧
    (MayIssue s (.sems n) → s.drained s.cur allCls = true → v = 65535 → exec (.sems n) s = .next (s.fault 0x0E n.toNat)) ∧
    (MayIssue s (.sems n) → s.drained s.cur allCls = false → ∃ t, exec (.sems n) s = .next t ∧ GoesOn s t ∧
      t.me.out = s.me.out ++ [⟨s.me.seq, 0, .sems n, s.me.faultPc, 0, [], s.me.faultRep, none⟩] ∧ t.myCore.sem = s.myCore.sem ∧
      t.myCore.closed = true ∧ t.me.x = s.me.x ∧ OnlyMyCore s t)

/-- R289, R55: EVWAIT goes on where its pipeline's event is set and else waits; EVSIG, where the context's accesses have
performed at package scope, sets the event of its pipeline and goes on; where one has not, it stands among the context's
accesses and the context goes on (read from R43, log 22). -/
def Sys2Proof.Spec.Events : Prop :=
  ∀ (s : State) (e : BitVec 6) (k : Task) (p : Pipe), s.myCore.task = some k → s.pipe? k.pipe = some p →
    (p.events.getLsbD e.toNat = true → Result (.evwait e) 0 0 s) ∧
    (MayIssue s (.evwait e) → p.events.getLsbD e.toNat = false → ∃ t, exec (.evwait e) s = .next t ∧ Waits s (.evwait e) t) ∧
    (MayIssue s (.evsig e) → s.releaseReady s.cur allCls true = true → ∃ t, exec (.evsig e) s = .next t ∧ GoesOn s t ∧
      (∃ p', t.pipe? k.pipe = some p' ∧ p' = { p with events := p'.events } ∧
        ∀ i, i < 64 → p'.events.getLsbD i = (p.events.getLsbD i || i == e.toNat)) ∧ t.me.x = s.me.x) ∧
    (MayIssue s (.evsig e) → s.releaseReady s.cur allCls true = false → ∃ t, exec (.evsig e) s = .next t ∧ GoesOn s t ∧
      t.me.out = s.me.out ++ [⟨s.me.seq, 0, .evsig e, s.me.faultPc, 0, [], s.me.faultRep, none⟩] ∧ t.myCore.closed = true ∧
      t.me.x = s.me.x ∧ OnlyMyCore s t)

/-- SEMW, SEMS, EVWAIT and EVSIG: the statements `Semaphores`, `Events`. -/
def Obligations.SemaphoresAndEvents : Prop := Spec.Semaphores ∧ Spec.Events

namespace Sys2Proof.Spec

/-- A read of a word by the executing core's die is answered at once: the word's home can be reached, the die's requests go
there (R96), and nothing holds its line back (R92, R95). -/
abbrev ReadAtHome (s : State) (dla : Nat) : Prop :=
  s.reachable (s.homes.slice dla).pkg = true ∧ s.routed s.cur.at_.site (pageOf dla) = true ∧
  s.readClear (some s.cur.at_.site) (lineOf dla) = true

end Sys2Proof.Spec

/-- R282, R66: FGET at a full cell writes the cell's value; at an empty one the task is parked: its record stands at the home
with dependence counter 1, its contexts stop, and the task squashes. FGET after a side effect is illegal. -/
def Sys2Proof.Spec.FutureGet : Prop :=
  ∀ (s : State) (d xa : BitVec 5) (k : Task) (dla : Nat), MayIssue s (.fget d xa) → s.myCore.task = some k →
    s.me.status = .running → s.me.begun = none →
    let e := (s.rx xa).toNat
    (k.sideEffect = true → exec (.fget d xa) s = .next (s.illegal (wordOfInstr (.fget d xa)))) ∧
    (k.sideEffect = false → k.gangSize = 1 → k.usedQldr = false → e % 8 = 0 → Reaches s e dla false →
      ReadAtHome s dla → s.homes.poisoned (lineOf dla) = false → lineOf dla ∉ (s.die s.cur.at_.site).badLines →
      (s.homes.tagFull dla = true → ∃ t, exec (.fget d xa) s = .next t ∧ GoesOn s t ∧
        (d ≠ 0 → t.rx d = wrap (s.cohN dla 8)) ∧ (∀ r, r ≠ d → t.rx r = s.rx r) ∧
        (∀ a, t.homes.byte a = s.homes.byte a)) ∧
      (s.homes.tagFull dla = false → s.homes.parkRoom dla = true → ∃ t, exec (.fget d xa) s = .next t ∧
        t.homes.parked = s.homes.parked ++ [⟨dla, k.pipe, k.record, k.resv, 1, some s.cur.at_, s.homes.parked.length, false⟩] ∧
        t.myCore.task = some { k with phase := .squashing } ∧ (∀ n, (t.myCore.ctx n).status = .stopped) ∧
        (∀ a, t.homes.byte a = s.homes.byte a)))

/-- R282: FPUT and FRESET are outstanding in every class, FPUT with the register's value. -/
def Sys2Proof.Spec.FuturePutAndReset : Prop :=
  ∀ (s : State) (xa xb : BitVec 5) (dla : Nat), let e := (s.rx xa).toNat
    e % 8 = 0 → s.logged s.cur allCls = false → Reaches s e dla true →
    (MayIssue s (.fput xa xb) → ∃ t, exec (.fput xa xb) s = .next t ∧
      Issues s ⟨s.me.seq, allCls, .fput dla (s.rx xb), s.me.faultPc, s.rx xa, [pageOf dla], s.me.faultRep, none⟩ dla t) ∧
    (MayIssue s (.freset xa) → ∃ t, exec (.freset xa) s = .next t ∧
      Issues s ⟨s.me.seq, allCls, .freset dla, s.me.faultPc, s.rx xa, [pageOf dla], s.me.faultRep, none⟩ dla t)

namespace Sys2Proof.Spec

/-- The words at the addresses translate without waiting (R75), and their pages can be pinned. -/
abbrev ReachAll (s : State) (hvas dlas : List Nat) (wr : Bool) : Prop :=
  s.xlatWords (.engine s.cur.at_ ctxEng) (s.pasidOf s.cur.at_) wr hvas = .hit dlas ∧
  (∀ a ∈ dlas, s.dlaOk a = true) ∧
  (s.pinAll (dlas.map pageOf)).isSome = true

/-- The executing context is held by a load of several words of 8 bytes. -/
structure HoldsAll (s : State) (dest : LoadDest) (cls : BitVec 16) (hvas dlas : List Nat) (t : State) : Prop where
  context : t.me = { s.me with
    status := .held ⟨s.me.seq, dest, cls, (dlas.zip hvas).map fun x => ⟨x.1, x.2, 8, none⟩, none, 0, dlas.map pageOf, none⟩
    seq := s.me.seq + 1 }
  rest : t = (s.updHomes fun h => (dlas.map pageOf).foldl Homes.pin h).updMe fun _ => t.me
  memory : ∀ a, t.homes.byte a = s.homes.byte a
  seen : ∀ i a, t.dieByte i a = s.dieByte i a

end Sys2Proof.Spec

/-- R276, R279, R65: SPAWN, with room in its local task queue, takes its number, closes the region and is a side effect as it
issues, and reads the 16 words of its image at an address that is a multiple of 128, or waits for their translation; JOIN at a
counter of 0, with every child queued that its task spawned before it, goes on, and at another value waits. -/
def Sys2Proof.Spec.SpawnAndJoin : Prop :=
  ∀ (s : State) (xa : BitVec 5) (m : BitVec 16) (dlas : List Nat) (dla : Nat), let e := (s.rx xa).toNat
    let no := (s.myCore.task.map Task.spawned).getD 0
    let Counted (t : State) : Prop := t.myCore.closed = true ∧ t.me.begun = some (.spawn no) ∧
      ∀ k, s.myCore.task = some k → t.myCore.task = some { k with sideEffect := true, spawned := k.spawned + 1 }
    (MayIssue s (.spawn xa m) → s.me.begun = none → e % 128 = 0 → s.myCore.kids.length + s.myCore.spawns.length < 64 →
      s.logged s.cur (maskClasses m) = false →
      (ReachAll s ((List.range 16).map fun j => e + 8 * j) dlas false →
        ∃ t, exec (.spawn xa m) s = .next t ∧ Counted t ∧
          HoldsAll (s.countSpawn.begin (.spawn no)) (.spawn m no) (maskClasses m) ((List.range 16).map fun j => e + 8 * j) dlas t) ∧
      (s.lookupXlat (.engine s.cur.at_ ctxEng) (s.pasidOf s.cur.at_) e false = .paging → ∃ t, exec (.spawn xa m) s = .next t ∧
        Counted t ∧ t.me.status = .waiting (.translation (e / 4096) false) ∧ t.me.pc = s.me.pc ∧ t.me.x = s.me.x ∧ OnlyMyCore s t)) ∧
    (MayIssue s (.spawn xa m) → s.me.begun = none → e % 128 ≠ 0 → exec (.spawn xa m) s = .next (s.fault 0x02 e)) ∧
    (MayIssue s (.join xa) → s.me.status = .running → s.me.joining = none → e % 8 = 0 → Reaches s e dla false → ReadAtHome s dla →
      s.homes.poisoned (lineOf dla) = false → lineOf dla ∉ (s.die s.cur.at_.site).badLines → (∀ n ∈ s.myCore.spawns, (s.myCore.task.map Task.spawned).getD 0 ≤ n) →
      (s.cohN dla 8 = 0 → ∃ t, exec (.join xa) s = .next t ∧ GoesOn s t ∧ t.me.x = s.me.x ∧
        (∀ a, t.homes.byte a = s.homes.byte a)) ∧
      (s.cohN dla 8 ≠ 0 → ∃ t, exec (.join xa) s = .next t ∧ t.me.status = .waiting (.join (s.rx xa) dla) ∧ t.me.pc = s.me.pc ∧
        t.me.x = s.me.x ∧ (∀ a, t.homes.byte a = s.homes.byte a)))

/-- R286, R287: when the last context of a letter comes to the gang's next barrier, and their accesses have performed at
package scope, every one of them has passed it and runs; where another has not come, the context waits. A barrier that the
gang has already passed is passed at once. Where a member's context has exited before the barrier, that member's task takes
the gang-barrier fault 0x0F. -/
def Sys2Proof.Spec.GangBarrier : Prop :=
  ∀ (s : State) (k : Task), MayIssue s .gbar → s.myCore.task = some k → s.me.status = .running →
    let n := s.cur.ctx; let g := s.gang s.cur.at_; let b := s.me.gbar + 1
    let gone (q : CoreRef) : Bool := ((s.core q).ctx n).missed b
    g.length = k.gangSize →
    (s.gbarPassed s.cur.at_ n < b → (∀ q ∈ g, s.releaseReady ⟨q, n⟩ allCls true = true) →
      (∀ q ∈ g, q ≠ s.cur.at_ → ((s.core q).ctx n).status = .waiting (.gbar b)) →
      ∃ t, exec .gbar s = .next t ∧
        ∀ q ∈ g, ((t.core q).ctx n).gbar = b ∧ ((t.core q).ctx n).status = .running ∧ ((t.core q).ctx n).x = ((s.core q).ctx n).x) ∧
    (g.find? gone = none → s.gbarPassed s.cur.at_ n < b →
      (∃ q ∈ g, q ≠ s.cur.at_ ∧ ∀ j, ((s.core q).ctx n).status ≠ .waiting (.gbar j)) →
      ∃ t, exec .gbar s = .next t ∧ Waits s (.gbar b) t) ∧
    (g.find? gone = none → b ≤ s.gbarPassed s.cur.at_ n → s.releaseReady s.cur allCls true = true →
      ∃ t, exec .gbar s = .next t ∧ GoesOn s t ∧ t.me.gbar = b ∧ t.me.x = s.me.x) ∧
    (∀ q, g.find? gone = some q → exec .gbar s = .next (s.takeFault q ⟨0x0F, ctxCode n, 0, none, s.me.pc, b, 0, 0⟩))

/-- R52, R53, R280: EXIT parks its context; the third EXIT of a task whose queues are empty and whose reserved slots are
published makes it Retiring; a third EXIT with an entry left in a queue takes the queue-orphan fault 0x08, and else one with
a reserved slot left unpublished the unpublished-reservation fault 0x07, with the queue, or the slot and its ring, as ADDR. -/
def Sys2Proof.Spec.ExitParksOrRetires : Prop :=
  ∀ (s : State) (k : Task), MayIssue s .exit → s.myCore.task = some k → s.me.status = .running →
    (∀ q ∈ s.gang s.cur.at_, q ≠ s.cur.at_ → ∀ j, ((s.core q).ctx s.cur.ctx).status ≠ .waiting (.gbar j)) →
    s.myCore.orphanAt s.cur.ctx = none →
    (∀ n, n ≠ s.cur.ctx → (s.myCore.ctx n).atBarrier = false → ∃ t, exec .exit s = .next t ∧ t.me = { s.me with status := .parked } ∧
      (∃ k', t.myCore.task = some k' ∧ k'.phase = k.phase ∧ k'.exitPc = s.me.pc ∧ k'.exitCtx = s.cur.ctx) ∧ OnlyMyCore s t) ∧
    ((∀ n, n ≠ s.cur.ctx → (s.myCore.ctx n).status = .parked) → s.myCore.leftQueue = none → k.leftSlot = none →
      ∃ t k', exec .exit s = .next t ∧ t.me = { s.me with status := .parked } ∧ t.myCore.task = some k' ∧ k'.phase = .retiring ∧
        (s.cur.ctx = .compute → k'.x1AtExit = s.rx 1) ∧ OnlyMyCore s t) ∧
    (∀ q, (∀ n, n ≠ s.cur.ctx → (s.myCore.ctx n).status = .parked) → s.myCore.leftQueue = some q →
      ∃ t, exec .exit s = .next (t.fault 0x08 q) ∧ t.me = { s.me with status := .parked } ∧ OnlyMyCore s t) ∧
    (∀ a, (∀ n, n ≠ s.cur.ctx → (s.myCore.ctx n).status = .parked) → s.myCore.leftQueue = none → k.leftSlot = some a →
      ∃ t, exec .exit s = .next (t.fault 0x07 a) ∧ t.me = { s.me with status := .parked } ∧ OnlyMyCore s t)

/-- GBAR and EXIT: the statements `GangBarrier`, `ExitParksOrRetires`. -/
def Obligations.BarriersAndExits : Prop := Spec.GangBarrier ∧ Spec.ExitParksOrRetires

/-! ## Access and ring instructions (19_tasks.md, 15_vector.md) -/

/-- R245: QLD of a row within the task's rows takes the last entry of its load queue, the row to come, and stands among the
outstanding accesses; QST takes the head of its store queue, to be written to the row. A row beyond takes the
scratchpad-range fault 0x05. -/
def Sys2Proof.Spec.QueueRowAccesses : Prop :=
  ∀ (s : State) (q : BitVec 2) (xa : BitVec 5) (c : BitVec 4) (r : BitVec 12) (v : Row) (rest : List Row),
    let ea := ((u (s.rx xa) + 512 * r.toNat) % 2 ^ 64).toNat; let row := ea / 512; let p := rowAt s.cur.at_ row
    (MayIssue s (.qld q xa c r) → row < s.rowLimit s.cur.at_ → (s.myCore.lq[q.toFin]).length < 8 →
      ∃ t, exec (.qld q xa c r) s = .next t ∧ GoesOn s t ∧ t.myCore.lq = s.myCore.lq.set q.toFin (s.myCore.lq[q.toFin] ++ [none]) ∧
        t.me.out = s.me.out ++ [⟨s.me.seq, clsBit c, .qld q.toFin p.1 p.2 none none, s.me.faultPc, 0, [], s.me.faultRep, none⟩] ∧ t.me.x = s.me.x ∧
        OnlyMyCore s t) ∧
    (MayIssue s (.qst q xa c r) → row < s.rowLimit s.cur.at_ → s.myCore.sq[q.toFin] = v :: rest →
      ∃ t, exec (.qst q xa c r) s = .next t ∧ GoesOn s t ∧ t.myCore.sq = s.myCore.sq.set q.toFin rest ∧
        t.me.out = s.me.out ++ [⟨s.me.seq, clsBit c, .qst p.1 p.2 v, s.me.faultPc, 0, [], s.me.faultRep, none⟩] ∧ t.me.x = s.me.x ∧
        t.myCore.closed = true ∧ OnlyMyCore s t) ∧
    (MayIssue s (.qld q xa c r) → s.rowLimit s.cur.at_ ≤ row → exec (.qld q xa c r) s = .next (s.fault 0x05 (row * 512))) ∧
    (MayIssue s (.qst q xa c r) → s.rowLimit s.cur.at_ ≤ row → exec (.qst q xa c r) s = .next (s.fault 0x05 (row * 512)))

/-- R246: QLDR of claim number u reads row w of the slot u places past HEAD of the core's instance; QSTR of slot index u
writes row w of a slot handed out and not published; a claim, slot or row beyond takes the ring-overrun fault 0x06. -/
def Sys2Proof.Spec.RingRowAccesses : Prop :=
  ∀ (s : State) (q : BitVec 2) (xa : BitVec 5) (c : BitVec 4) (w : BitVec 6) (n : BitVec 5) (v : Row) (rest : List Row)
      (rv : Resv) (x : RSlot),
    let k := (s.rx xa).toNat; let r := s.cur.at_; let g := s.myCore.ring n.toNat
    let i := ptrIdx (g.advanceN g.head k); let src := rowAt r (g.slotRow i + w.toNat)
    let h := (s.core rv.inst).ring n.toNat; let dst := rowAt rv.inst (h.slotRow k + w.toNat)
    (MayIssue s (.qldr q xa c w n) → k < s.claimsOn r n.toNat → w.toNat < g.rowsPer → g.valid = true →
      (s.myCore.lq[q.toFin]).length < 8 → ∃ t, exec (.qldr q xa c w n) s = .next t ∧ GoesOn s t ∧
        t.myCore.lq = s.myCore.lq.set q.toFin (s.myCore.lq[q.toFin] ++ [none]) ∧
        t.me.out = s.me.out ++ [⟨s.me.seq, clsBit c, .qld q.toFin src.1 src.2 (some (n.toNat, i)) none, s.me.faultPc, 0, [],
          s.me.faultRep, none⟩] ∧
        t.me.x = s.me.x ∧ OnlyMyCore s t) ∧
    (MayIssue s (.qldr q xa c w n) → ¬(k < s.claimsOn r n.toNat ∧ w.toNat < g.rowsPer ∧ g.valid = true) →
      exec (.qldr q xa c w n) s = .next (s.fault 0x06 ((ptrIdx g.head + k) % g.slots % 256 * 32 + n.toNat))) ∧
    (MayIssue s (.qstr q xa c w n) → s.resvOn r n.toNat = some rv → s.unbound r rv.inst.site = false → rv.slot k = some x →
      x.handed = true → w.toNat < h.rowsPer → s.myCore.sq[q.toFin] = v :: rest → ∃ t, exec (.qstr q xa c w n) s = .next t ∧
        GoesOn s t ∧ t.myCore.sq = s.myCore.sq.set q.toFin rest ∧
        t.me.out = s.me.out ++ [⟨s.me.seq, clsBit c, .qst dst.1 dst.2 v, s.me.faultPc, 0, [], s.me.faultRep, none⟩] ∧ t.me.x = s.me.x ∧
        t.myCore.closed = true ∧ OnlyMyCore s t) ∧
    (MayIssue s (.qstr q xa c w n) → s.resvOn r n.toNat = none →
      exec (.qstr q xa c w n) s = .next (s.fault 0x06 (k % 256 * 32 + n.toNat))) ∧
    (MayIssue s (.qstr q xa c w n) → s.resvOn r n.toNat = some rv → s.unbound r rv.inst.site = false →
      (∀ y, rv.slot k = some y → ¬(y.handed = true ∧ w.toNat < h.rowsPer)) →
      exec (.qstr q xa c w n) s = .next (s.fault 0x06 (k % 256 * 32 + n.toNat)))

/-- QLD, QST, QLDR and QSTR issue: the statements `QueueRowAccesses`, `RingRowAccesses`. -/
def Obligations.RowAccesses : Prop := Spec.QueueRowAccesses ∧ Spec.RingRowAccesses

/-- R103, R245: where nothing holds it back, and none of its queue's earlier rows has still to enter, the row of a QLD enters
its load queue in the first entry that awaits one, and the access is no longer outstanding; a QST's row is then in the
scratchpad. -/
def Sys2Proof.Spec.RowAccessesPerform : Prop :=
  ∀ (s : State) (c : CtxRef) (j : Nat) (a : Access) (q : Fin 4) (src dst : CoreRef) (row : Nat) (slot : Option (Nat × Nat)) (v : Row),
    (s.ctx c).out[j]? = some a → s.oldest c a = true →
    (a.op = .qld q src row slot none → c.ctx = .load → ((s.ctx c).out.map Access.seq).Nodup →
      (∀ b ∈ (s.ctx c).out.take j, ∀ p s' r' o g, b.op = .qld p s' r' o g → p ≠ q) →
      (∀ b ∈ (s.ctx c).out.drop (j + 1), ∀ s' r' o g, b.op = .qld q s' r' o g → g = none) →
      (s.core src).rowStalled row = false → let t := s.perform c j
        (t.core c.at_).lq[q] = fillFirst ((s.core src).row row) (s.core c.at_).lq[q] ∧
        (∀ b ∈ (t.ctx c).out, b.seq ≠ a.seq) ∧ (∀ r i, (t.core r).row i = (s.core r).row i)) ∧
    (a.op = .qst dst row v → (s.core dst).rowStalled row = false → let t := s.perform c j
        (∀ r i, (t.core r).row i = if r = dst ∧ i = row then v else (s.core r).row i) ∧ (∀ b ∈ (t.ctx c).out, b.seq ≠ a.seq))

/-- QLD_ROW_ARRIVAL (R245): the oldest row that a load queue awaits enters it. -/
def Sys2Proof.Spec.QldRowArrives : Prop :=
  ∀ (s : State) (r : CoreRef) (q : BitVec 2) (a : Access) (rest : List Access) (src : CoreRef) (row : Nat) (slot : Option (Nat × Nat)),
    (s.ctx ⟨r, .load⟩).out = a :: rest → a.op = .qld q.toFin src row slot none → (∀ b ∈ rest, a.seq < b.seq) →
    (∀ b ∈ rest, ∀ s' r' o g, b.op = .qld q.toFin s' r' o g → g = none) →
    s.logged ⟨r, .load⟩ a.cls = false → (s.core src).rowStalled row = false →
    ∃ t, exec (.qldRowArrival r q) s = .next t ∧
      (t.core r).lq[q.toFin] = fillFirst ((s.core src).row row) (s.core r).lq[q.toFin] ∧
      (∀ b ∈ (t.ctx ⟨r, .load⟩).out, b.seq ≠ a.seq) ∧ (∀ i a, t.dieByte i a = s.dieByte i a)

/-- Outstanding row accesses perform, and a QLD's row arrives: the statements `RowAccessesPerform`, `QldRowArrives`. -/
def Obligations.RowAccessesLand : Prop := Spec.RowAccessesPerform ∧ Spec.QldRowArrives

/-- R84, R247, R248: RRES of a declared production hands out the first reserved slot not yet handed out; RPUB of a slot
handed out sets its ready bit; RPOP of a claimed slot advances HEAD; RPEEK of a consumed ring reads word 1 of the core's
instance. RPOP without a claim and RPUB without a reservation take the ring-overrun fault 0x06. RPOP's fault names
the slot at HEAD (log 24). -/
def Sys2Proof.Spec.RingInstructions : Prop :=
  ∀ (s : State) (d xa n : BitVec 5) (k : Task) (rv : Resv) (x : RSlot) (c : Nat), s.myCore.task = some k →
    let r := s.cur.at_; let i := (s.rx xa).toNat; let g := s.myCore.ring n.toNat
    (MayIssue s (.rres d n) → s.production r n.toNat = some (c + 1) → s.resvOn r n.toNat = some rv →
      (rv.slots.find? fun y => !y.handed) = some x → ∃ t, exec (.rres d n) s = .next t ∧ GoesOn s t ∧
        (d ≠ 0 → t.rx d = wrap (ptrIdx x.ptr)) ∧ (∀ y, y ≠ d → t.rx y = s.rx y) ∧ t.myCore.closed = true ∧ OnlyMyCore s t) ∧
    (MayIssue s (.rpub xa n) → s.resvOn r n.toNat = some rv → s.unbound r rv.inst.site = false → rv.slot i = some x →
      s.me.writesRows (slotRows rv.inst ((s.core rv.inst).ring n.toNat) i) s.me.seq = false →
      ∃ t, exec (.rpub xa n) s = .next t ∧ GoesOn s t ∧ t.me.x = s.me.x ∧
        (t.core rv.inst).ring n.toNat = ((s.core rv.inst).ring n.toNat).publish x.ptr ∧
        bitAt ((t.core rv.inst).ring n.toNat).rb (ptrIdx x.ptr) = !ptrPhase x.ptr ∧
        (∀ a, t.homes.byte a = s.homes.byte a)) ∧
    (MayIssue s (.rpub xa n) → s.resvOn r n.toNat = none → exec (.rpub xa n) s = .next (s.fault 0x06 (i % 256 * 32 + n.toNat))) ∧
    (MayIssue s (.rpop n) → s.claimsOn r n.toNat ≠ 0 → s.myCore.readsSlot n.toNat (ptrIdx g.head) = false → s.fab.rwbuf = [] →
      ∃ t, exec (.rpop n) s = .next t ∧ GoesOn s t ∧ t.me.x = s.me.x ∧
        t.myCore.ring n.toNat = { g with head := g.advance g.head } ∧ s.claimsOn r n.toNat = t.claimsOn r n.toNat + 1 ∧
        (∀ a, t.homes.byte a = s.homes.byte a)) ∧
    (MayIssue s (.rpop n) → s.claimsOn r n.toNat = 0 → exec (.rpop n) s = .next (s.fault 0x06 (ptrIdx g.head % 256 * 32 + n.toNat))) ∧
    (s.consumes r n.toNat = true → Result (.rpeek d n) d (wrap (g.head.toNat + g.claim.toNat * 2 ^ 9 + g.tail.toNat * 2 ^ 18 + g.resv.toNat * 2 ^ 27)) s)

/-- R249, R85, R87: RCFG of an empty instance with a well-formed word 0, or with V = 0, defines it with pointers and ready
bits 0; of a non-empty instance, or with a malformed word, it takes the shape-check fault 0x04. That V = 0
leaves the other fields unchecked is log 25. -/
def Sys2Proof.Spec.RingConfigure : Prop :=
  ∀ (s : State) (xa n : BitVec 5), MayIssue s (.rcfg xa n) → let w := s.rx xa; let g := s.myCore.ring n.toNat
    let fits : Prop := w.getLsbD 63 = true → ringOk w (s.rowLimit s.cur.at_) (s.myCore.otherRings n.toNat) = true
    let empty : Prop := g.head = g.claim ∧ g.claim = g.tail ∧ g.tail = g.resv
    (fits → empty → ∃ t, exec (.rcfg xa n) s = .next t ∧ GoesOn s t ∧ t.myCore.ring n.toNat = ⟨w, 0, 0, 0, 0, 0⟩ ∧
      (∀ m : Fin 32, m.val ≠ n.toNat → t.myCore.ring m.val = s.myCore.ring m.val) ∧ t.me.x = s.me.x ∧ OnlyMyCore s t) ∧
    (¬(fits ∧ empty) → exec (.rcfg xa n) s = .next (s.fault 0x04 0))

/-- RRES, RPUB, RPOP, RPEEK and RCFG: the statements `RingInstructions`, `RingConfigure`. -/
def Obligations.Rings : Prop := Spec.RingInstructions ∧ Spec.RingConfigure

/-! ## Command assembly (17_tile.md) -/

/-- R250: KSET replaces one 64-bit word of a command register; KLD, SHLD and PPLD hold their context while they read 32
bytes, or 32 bytes a segment; each at an address that is a multiple of 32, else the misaligned-access fault. -/
def Sys2Proof.Spec.CommandAssembly : Prop :=
  ∀ (s : State) (k : BitVec 3) (h : BitVec 4) (xa : BitVec 5) (w : BitVec 2) (c : BitVec 4) (o : BitVec 12) (n : BitVec 6)
      (dlas : List Nat),
    let e := ((u (s.rx xa) + 32 * o.toNat) % 2 ^ 64).toNat; let a := (s.rx xa).toNat
    (MayIssue s (.kset k xa w) → ∃ t, exec (.kset k xa w) s = .next t ∧ GoesOn s t ∧
      (t.me.k[k.toFin]).extractLsb' (64 * w.toNat) 64 = s.rx xa ∧
      (∀ j : Fin 4, j.val ≠ w.toNat → (t.me.k[k.toFin]).extractLsb' (64 * j.val) 64 = (s.me.k[k.toFin]).extractLsb' (64 * j.val) 64) ∧
      (∀ j : Fin 8, j ≠ k.toFin → t.me.k[j] = s.me.k[j]) ∧ t.me.x = s.me.x ∧ OnlyMe s t) ∧
    (MayIssue s (.kld k xa c o) → e % 32 = 0 → s.logged s.cur (clsBit c) = false → ReachAll s [e, e + 8, e + 16, e + 24] dlas false →
      ∃ t, exec (.kld k xa c o) s = .next t ∧ HoldsAll s (.k k) (clsBit c) [e, e + 8, e + 16, e + 24] dlas t) ∧
    (MayIssue s (.shld h xa c o) → e % 32 = 0 → s.logged s.cur (clsBit c) = false → ReachAll s [e, e + 8, e + 16, e + 24] dlas false →
      ∃ t, exec (.shld h xa c o) s = .next t ∧ HoldsAll s (.h h) (clsBit c) [e, e + 8, e + 16, e + 24] dlas t) ∧
    (MayIssue s (.ppld xa c n) → a % 32 = 0 → s.logged s.cur (clsBit c) = false →
      ReachAll s ((List.range (4 * (n.toNat + 1))).map fun j => (a + 8 * j) % 2 ^ 64) dlas false →
      ∃ t, exec (.ppld xa c n) s = .next t ∧
        HoldsAll s (.ppu (n.toNat + 1)) (clsBit c) ((List.range (4 * (n.toNat + 1))).map fun j => (a + 8 * j) % 2 ^ 64) dlas t) ∧
    (MayIssue s (.kld k xa c o) → e % 32 ≠ 0 → exec (.kld k xa c o) s = .next (s.fault 0x02 e)) ∧
    (MayIssue s (.shld h xa c o) → e % 32 ≠ 0 → exec (.shld h xa c o) s = .next (s.fault 0x02 e)) ∧
    (MayIssue s (.ppld xa c n) → a % 32 ≠ 0 → exec (.ppld xa c n) s = .next (s.fault 0x02 a))

/-- R250: KST writes the four words of a command register, as four stores of its class in rising order of address; at an
address that is no multiple of 32 it takes the misaligned-access fault, code 0x02, and nothing is written. -/
def Sys2Proof.Spec.CommandStore : Prop :=
  ∀ (s : State) (k : BitVec 3) (xa : BitVec 5) (c : BitVec 4) (o : BitVec 12) (d0 d1 d2 d3 : Nat), MayIssue s (.kst k xa c o) →
    let e := ((u (s.rx xa) + 32 * o.toNat) % 2 ^ 64).toNat; let v := s.me.k[k.toFin]
    let acc (j a : Nat) : Access := ⟨s.me.seq + j, clsBit c, .store a 8 (v.extractLsb' (64 * j) 64), s.me.faultPc, BitVec.ofNat 64 (e + 8 * j), [pageOf a],
      s.me.faultRep, none⟩
    (e % 32 = 0 → s.logged s.cur (clsBit c) = false → ReachAll s [e, e + 8, e + 16, e + 24] [d0, d1, d2, d3] true →
      ∃ t, exec (.kst k xa c o) s = .next t ∧ GoesOn s t ∧ t.me.out = s.me.out ++ [acc 0 d0, acc 1 d1, acc 2 d2, acc 3 d3] ∧
        t.me.x = s.me.x ∧ t.myCore.closed = true ∧ (∀ a, t.homes.byte a = s.homes.byte a)) ∧
    (e % 32 ≠ 0 → exec (.kst k xa c o) s = .next (s.fault 0x02 e))

/-- R251, R252: SHAPE copies a command register that passes the checks of a shape record into a shape register; one that
does not takes the shape-check fault 0x04. -/
def Sys2Proof.Spec.ShapeRegister : Prop :=
  ∀ (s : State) (h : BitVec 4) (k : BitVec 3), MayIssue s (.shape h k) → let v := s.me.k[k.toFin]
    (shapeOk s v = true → ∃ t, exec (.shape h k) s = .next t ∧ GoesOn s t ∧ t.myCore.h = s.myCore.h.set h.toFin v ∧
      t.me.x = s.me.x ∧ OnlyMyCore s t) ∧
    (shapeOk s v = false → exec (.shape h k) s = .next (s.fault 0x04 0))

/-- R174: a PUSH whose word passes steps 1 to 4, whose queues have room and whose pages translate puts the command, with its
word, its shape copy and its translations, at the end of each queue it enters, and goes on; a word that does not decode
takes the illegal-instruction fault with the command word as DATA. -/
def Sys2Proof.Spec.PushEntersQueues : Prop :=
  ∀ (s : State) (k : BitVec 3) (i : Instr) (h : CmdWord) (xs : List Xlat), MayIssue s (.push k) → let w := s.me.k[k.toFin]
    let seed := if usesSr i then lfsrStep s.myCore.vf.lfsr else s.myCore.vf.lfsr
    (pushCheck s s.cur w s.me.heldShape = .ok i h → pushRoom s.myCore i = true →
      pushXlat s (.engine s.cur.at_ (cmdHdrOf i).eng.toNat) (s.pasidOf s.cur.at_) (match i with | .prefetch .. => true | _ => false)
        (spanPages (cmdSpans h i) 12) = .ok xs → (cmdPins i xs).length ≤ pageMax →
      (s.pinAll (cmdPins i xs)).isSome = true →
      ∃ t, exec (.push k) s = .next t ∧ GoesOn s t ∧ t.me.x = s.me.x ∧ t.me.k = s.me.k ∧ t.myCore.closed = true ∧ t.myCore.vf.lfsr = seed ∧
        (∀ e : Fin 6, t.myCore.eng[e] = if e ∈ cmdQueues i then s.myCore.eng[e] ++ [⟨w, i, h, s.me.pc, s.cur.ctx, s.me.seq,
          seed, xs, cmdPins i xs, s.myCore.pushes, none, .queued⟩] else s.myCore.eng[e]) ∧
        (∀ a, t.homes.byte a = s.homes.byte a)) ∧
    (pushCheck s s.cur w s.me.heldShape = .illegal →
      exec (.push k) s = .next (s.ctxFault s.cur 0x01 0 ((wordOfInstr (.push k)).setWidth 64) w))

/-- R174: a PUSH of a word that decodes takes the illegal-shape fault 0x04 where step 3 finds a check that fails, and else the
misaligned-command fault 0x03, with the address, at the first address of the command that is not aligned; each carries the command
word as DATA, and nothing enters a queue. One that passes steps 1 to 4 but finds no room in a queue it enters closes its region,
is a side effect (R65), keeps its shape copy, and waits. -/
def Sys2Proof.Spec.PushStops : Prop :=
  ∀ (s : State) (k : BitVec 3) (i : Instr) (h : CmdWord) (a n : Nat), MayIssue s (.push k) → let w := s.me.k[k.toFin]
    (decodeCmd w = .ok i → (usesSr i = true → s.cur.ctx = .compute) → s.me.heldShape = none →
      h = (match copyBodyOf i with | some b => s.myCore.h[b.sh.toFin] | none => 0) →
      (pushShapeOk s s.cur.at_ h i = false → exec (.push k) s = .next (s.ctxFault s.cur 0x04 0 0 w)) ∧
      (pushShapeOk s s.cur.at_ h i = true → ((cmdAligns h i).find? fun x => x.1 % x.2 ≠ 0) = some (a, n) →
        exec (.push k) s = .next (s.ctxFault s.cur 0x03 a 0 w))) ∧
    (pushCheck s s.cur w s.me.heldShape = .ok i h → pushRoom s.myCore i = false → ∃ t, exec (.push k) s = .next t ∧
      t.me = { s.me with heldShape := some h, status := .waiting .engine } ∧ t.myCore.closed = true ∧ t.myCore.eng = s.myCore.eng ∧
      (∀ x, s.myCore.task = some x → t.myCore.task = some { x with sideEffect := true }) ∧ OnlyMyCore s t)

/-- PUSH puts a command at the end of every queue it enters: the statements `PushEntersQueues`, `PushStops`. -/
def Obligations.PushEntersQueues : Prop := Spec.PushEntersQueues ∧ Spec.PushStops

/-! ## Vector instructions (15_vector.md) -/

namespace Sys2Proof.Spec

/-- Every load queue among the sources holds a row, and every store queue among the destinations has room (R220). -/
abbrev PortsReady (s : State) (i : Instr) : Prop :=
  (∀ q ∈ lqPorts (vecRegs s.myCore.vf.fmt i).1, s.myCore.lqReady q = true) ∧
  (∀ q ∈ sqPorts (vecRegs s.myCore.vf.fmt i).2, (s.myCore.sq[q]).length < 8)

/-- What a destination holds: a v register, or the newest entry of a store queue (R41). -/
def destRow (s : State) (d : Nat) : Row := if d < 56 then s.myCore.vf.v[Fin.ofNat 56 d] else ((s.myCore.sq[Fin.ofNat 4 d]).getLast?).getD 0

/-- Element i of a destination group of G registers (R221). -/
def destElem (s : State) (first g w i : Nat) : Nat := lane (destRow s (first + i % g)) w (i / g)

/-- What a vector instruction leaves alone: every v register but its destinations, VTYPE, the PPU table, each load queue
it does not read, each store queue it does not write, x and command registers, and everything outside its core. Flags of
VSTAT are sticky (R149), and only VNARROW changes an amax register (R151). C goes on, and each load queue it reads has lost
its head (R220). -/
structure VectorRest (s : State) (i : Instr) (t : State) : Prop where
  goesOn : GoesOn s t
  v : ∀ r : Fin 56, r.val ∉ (vecRegs s.myCore.vf.fmt i).2 → t.myCore.vf.v[r] = s.myCore.vf.v[r]
  lq : ∀ q : Fin 4, t.myCore.lq[q] = if 56 + q.val ∈ (vecRegs s.myCore.vf.fmt i).1 then (s.myCore.lq[q]).drop 1 else s.myCore.lq[q]
  sq : ∀ q : Fin 4, 60 + q.val ∉ (vecRegs s.myCore.vf.fmt i).2 → t.myCore.sq[q] = s.myCore.sq[q]
  vtype : t.myCore.vf.vtype = s.myCore.vf.vtype
  ppu : t.myCore.vf.ppu = s.myCore.vf.ppu ∧ t.myCore.vf.ppuN = s.myCore.vf.ppuN
  sticky : ∀ j, s.myCore.vf.vstat.getLsbD j = true → t.myCore.vf.vstat.getLsbD j = true
  am : (∀ d a e n m, i ≠ .vnarrow d a e n m) → t.myCore.vf.am = s.myCore.vf.am
  x : t.me.x = s.me.x
  k : t.me.k = s.me.k
  core : OnlyMyCore s t

/-- A vector instruction that may issue and whose ports are ready answers a next state in which d holds, in each active
lane j, f j, and in each other lane what it held, or 0 in a store queue (R218, R219); the masks are unchanged. -/
def Lanes (s : State) (i : Instr) (d : BitVec 6) (m : BitVec 3) (f : Nat → Nat) : Prop :=
  MayIssue s i → PortsReady s i → ∃ t, exec i s = .next t ∧ VectorRest s i t ∧ t.myCore.vf.m = s.myCore.vf.m ∧
    ∀ j, j < s.myCore.vf.fmt.lanes → lane (destRow t d.toNat) s.myCore.vf.fmt.width j =
      if s.myCore.active m j then f j % writeMask s.myCore.vf.fmt
      else if d.toNat < 56 then lane (destRow s d.toNat) s.myCore.vf.fmt.width j else 0

/-- Lane j of a source. -/
def src (s : State) (r : BitVec 6) (j : Nat) : Nat := s.myCore.laneOf r j

/-- Lane j of a source as a signed integer. -/
def srcI (s : State) (r : BitVec 6) (j : Nat) : Int := toSigned s.myCore.vf.fmt.width (src s r j)

/-- Lane j of a source as a value of its floating format. -/
def srcF (s : State) (r : BitVec 6) (j : Nat) : Val := s.myCore.vf.fmt.decode (src s r j)

/-- fit(n) of R226: saturated where SAT is set, else the low bits. -/
def fitted (s : State) (n : Int) : Nat :=
  let w := s.myCore.vf.fmt.width
  ofSigned w (if s.myCore.vf.sat then max (-(2 ^ (w - 1))) (min (2 ^ (w - 1) - 1) n) else n)

/-- One rounding into the format of VTYPE, for a mode that draws no random bits (R142). -/
def rounded (s : State) (x : Val) : Nat := (s.myCore.vf.fmt.round s.myCore.vf.rm s.myCore.vf.sat 0 x).1

/-- One rounding under SR of lane j, with the u that the step of LFSR for this lane gives: one step for each active lane, in
ascending order (R143, R144). -/
def roundedSr (s : State) (m : BitVec 3) (j : Nat) (x : Val) : Nat :=
  let k := ((List.range j).filter fun i => s.myCore.active m i).length
  (s.myCore.vf.fmt.round .sr s.myCore.vf.sat (lfsrU (lfsrStep^[k + 1] s.myCore.vf.lfsr)) x).1

/-- u of R142 for element j: under SR the bits of the step of LFSR that it takes, one for each active element in ascending
order (R143, R144); under another mode there is none. -/
def drawn (s : State) (m : BitVec 3) (j : Nat) : Nat :=
  if s.myCore.vf.rm = .sr then lfsrU (lfsrStep^[((List.range j).filter fun i => s.myCore.active m i).length + 1] s.myCore.vf.lfsr) else 0

/-- LFSR after n elements have been rounded: n steps under SR, and none under another mode (R143). -/
def stepped (s : State) (n : Nat) : BitVec 32 := if s.myCore.vf.rm = .sr then lfsrStep^[n] s.myCore.vf.lfsr else s.myCore.vf.lfsr

/-- The number of active elements among the first n. -/
def actives (s : State) (m : BitVec 3) (n : Nat) : Nat := ((List.range n).filter fun i => s.myCore.active m i).length

/-- One rounding of element j into a format: the code and the flags (R142, R149). -/
def roundAt (s : State) (f : Fmt) (m : BitVec 3) (j : Nat) (x : Val) : Nat × BitVec 6 :=
  f.round s.myCore.vf.rm s.myCore.vf.sat (drawn s m j) x

/-- One conversion of element j between formats: the code and the flags (R145, R149). -/
def convertAt (s : State) (src dst : Fmt) (m : BitVec 3) (j c : Nat) : Nat × BitVec 6 :=
  convertElem src dst s.myCore.vf.rm s.myCore.vf.sat (drawn s m j) c

/-- The flags of the active ones of the first n elements together. -/
def flagsOf (s : State) (m : BitVec 3) (n : Nat) (f : Nat → BitVec 6) : BitVec 6 :=
  ((List.range n).filter fun i => s.myCore.active m i).foldl (fun x j => x ||| f j) 0

/-- The instruction adds these flags to VSTAT, and no other (R149). -/
def SetsFlags (s : State) (i : Instr) (f : BitVec 6) : Prop :=
  MayIssue s i → PortsReady s i → ∃ t, exec i s = .next t ∧ t.myCore.vf.vstat = s.myCore.vf.vstat ||| f

/-- SA: an exact integer result lies outside the type, and saturates (R226). -/
def saOf (s : State) (n : Int) : BitVec 6 :=
  let w := s.myCore.vf.fmt.width
  if s.myCore.vf.sat = true ∧ (n < -(2 ^ (w - 1)) ∨ 2 ^ (w - 1) - 1 < n) then 0x20 else 0

/-- The flags of the additions of a tree of at most k levels (R235). -/
def levelFlags : List Nat → BitVec 6
  | x :: y :: l => (fp32Add x y).2 ||| levelFlags l
  | _ => 0

/-- The sums of neighbours of R235's tree, level by level. -/
def pairs : List Nat → List Nat
  | x :: y :: l => (fp32Add x y).1 :: pairs l
  | l => l

/-- TYPE is an integer type, or a floating one under a rounding mode other than SR. -/
abbrev isInt (s : State) : Prop := s.myCore.vf.fmt.isInt = true
abbrev isFloat (s : State) : Prop := s.myCore.vf.fmt.isInt = false ∧ s.myCore.vf.rm ≠ .sr

/-- The flags of the additions of R235's tree. -/
def treeFlags : Nat → List Nat → BitVec 6
  | 0, _ => 0
  | k + 1, l => levelFlags l ||| treeFlags k (pairs l)

end Sys2Proof.Spec

/-- R226: the element arithmetic on integer types: the exact result, fitted; VDIV by 0 gives -1. -/
def Sys2Proof.Spec.VectorIntegerArithmetic : Prop :=
  ∀ (s : State) (d a b : BitVec 6) (m : BitVec 3), isInt s →
    let A := srcI s a; let B := srcI s b; let D := srcI s d
    Lanes s (.vadd d a b m) d m (fun j => fitted s (A j + B j)) ∧
    Lanes s (.vsub d a b m) d m (fun j => fitted s (A j - B j)) ∧
    Lanes s (.vmul d a b m) d m (fun j => fitted s (A j * B j)) ∧
    Lanes s (.vdiv d a b m) d m (fun j => if B j = 0 then ofSigned s.myCore.vf.fmt.width (-1) else fitted s ((A j).tdiv (B j))) ∧
    Lanes s (.vmin d a b m) d m (fun j => fitted s (min (A j) (B j))) ∧
    Lanes s (.vmax d a b m) d m (fun j => fitted s (max (A j) (B j))) ∧
    Lanes s (.vabs d a m) d m (fun j => fitted s |A j|) ∧
    Lanes s (.vneg d a m) d m (fun j => fitted s (-A j)) ∧
    Lanes s (.vfma d a b m) d m (fun j => fitted s (A j * B j + D j)) ∧
    Lanes s (.vfms d a b m) d m (fun j => fitted s (A j * B j - D j)) ∧
    Lanes s (.vnfma d a b m) d m (fun j => fitted s (-(A j * B j) + D j)) ∧
    Lanes s (.vmov d a m) d m (src s a)

/-- R226, R228: the element arithmetic on floating types under a mode other than SR: the exact result of the operands'
values, rounded once; VMIN, VMAX, VABS and VNEG choose a value exactly. -/
def Sys2Proof.Spec.VectorFloatArithmetic : Prop :=
  ∀ (s : State) (d a b : BitVec 6) (m : BitVec 3), isFloat s →
    let A := srcF s a; let B := srcF s b; let D := srcF s d; let down := s.myCore.vf.rm == .rd
    Lanes s (.vadd d a b m) d m (fun j => rounded s ((A j).sum down (B j))) ∧
    Lanes s (.vsub d a b m) d m (fun j => rounded s ((A j).sum down (B j).neg)) ∧
    Lanes s (.vmul d a b m) d m (fun j => rounded s ((A j).mul (B j))) ∧
    Lanes s (.vdiv d a b m) d m (fun j => rounded s ((A j).div (B j))) ∧
    Lanes s (.vmin d a b m) d m (fun j => exactCode s.myCore.vf.fmt (minVal (A j) (B j))) ∧
    Lanes s (.vmax d a b m) d m (fun j => exactCode s.myCore.vf.fmt (maxVal (A j) (B j))) ∧
    Lanes s (.vabs d a m) d m (fun j => exactCode s.myCore.vf.fmt (A j).abs) ∧
    Lanes s (.vneg d a m) d m (fun j => exactCode s.myCore.vf.fmt (A j).neg) ∧
    Lanes s (.vrcp d a m) d m (fun j => rounded s ((Val.fin false 1 0 false).div (A j))) ∧
    Lanes s (.vrsq d a m) d m (fun j => rounded s (A j).rsqrt) ∧
    Lanes s (.vsqrt d a m) d m (fun j => rounded s (A j).sqrt) ∧
    Lanes s (.vmov d a m) d m (src s a) ∧
    Lanes s (.vfma d a b m) d m (fun j => rounded s (((A j).mul (B j)).sum down (D j))) ∧
    Lanes s (.vfms d a b m) d m (fun j => rounded s (((A j).mul (B j)).sum down (D j).neg)) ∧
    Lanes s (.vnfma d a b m) d m (fun j => rounded s (((A j).mul (B j)).neg.sum down (D j)))

/-- R227: the bitwise operations and shifts act on the bits of each lane; a shift takes its amount modulo the lane's width. -/
def Sys2Proof.Spec.VectorBitsAndShifts : Prop :=
  ∀ (s : State) (d a b : BitVec 6) (m : BitVec 3), let A := src s a; let B := src s b; let w := s.myCore.vf.fmt.width
    Lanes s (.vand d a b m) d m (fun j => A j &&& B j) ∧
    Lanes s (.vor d a b m) d m (fun j => A j ||| B j) ∧
    Lanes s (.vxor d a b m) d m (fun j => A j ^^^ B j) ∧
    Lanes s (.vnot d a m) d m (fun j => 2 ^ w - 1 - A j) ∧
    Lanes s (.vshl d a b m) d m (fun j => A j * 2 ^ (B j % w)) ∧
    Lanes s (.vshr d a b m) d m (fun j => A j / 2 ^ (B j % w)) ∧
    Lanes s (.vsra d a b m) d m (fun j => ofSigned w (srcI s a j / 2 ^ (B j % w)))

/-- R225, R230, R237 to R239: selection, permutation, lane numbers, expansion, broadcast and the vector immediate. -/
def Sys2Proof.Spec.VectorRearrangement : Prop :=
  ∀ (s : State) (d a b : BitVec 6) (m : BitVec 3) (xa : BitVec 5) (imm : BitVec 16), let A := src s a; let B := src s b
    let c := s.myCore; let w := c.vf.fmt.width; let n := c.vf.fmt.lanes
    let below (j : Nat) : Nat := ((List.range j).filter fun k => c.active m k).length
    Lanes s (.vsel d a b m) d 0 (fun j => if c.active m j then A j else B j) ∧
    Lanes s (.vperm d a b) d 0 (fun j => let k := c.groupElem b.toNat (max 1 (n / 256)) 16 j; if k < n then A k else 0) ∧
    Lanes s (.viota d m) d m (fun j => below j % 2 ^ w) ∧
    Lanes s (.vexpand d a m) d m (fun j => A (below j)) ∧
    Lanes s (.vcompress d a m) d 0 (fun j => ((((List.range n).filter fun k => c.active m k).map A)[j]?).getD 0) ∧
    Lanes s (.vbcast d xa) d 0 (fun _ => (s.rx xa).toNat % 2 ^ w) ∧
    Lanes s (.vli d imm) d 0 (fun _ => if c.vf.fmt = .fp32 then imm.toNat * 2 ^ 16 else ofSigned w imm.toInt)

/-- Bitwise operations, shifts, selection, permutation and broadcast: the statements `VectorBitsAndShifts`,
`VectorRearrangement`. -/
def Obligations.VectorBitsAndLanes : Prop := Spec.VectorBitsAndShifts ∧ Spec.VectorRearrangement

/-- R229, R231: a compare writes a mask register with 1 in each active lane whose values compare, 0 elsewhere and for a NaN;
the mask operations act on all 1,024 bits. -/
def Sys2Proof.Spec.VectorComparesAndMasks : Prop :=
  ∀ (s : State) (d p q : BitVec 3) (a b : BitVec 6) (m : BitVec 3), let c := s.myCore; let A := srcF s a; let B := srcF s b
    let Sets (i : Instr) (f : Nat → Bool) : Prop := MayIssue s i → PortsReady s i → ∃ t, exec i s = .next t ∧ VectorRest s i t ∧
      (∀ j, j < 1024 → (t.myCore.vf.m[d.toFin]).getLsbD j = f j) ∧
      (∀ r : Fin 8, r ≠ d.toFin → t.myCore.vf.m[r] = c.vf.m[r])
    let Cmp (i : Instr) (g : Int → Bool) : Prop := Sets i fun j => decide (j < c.vf.fmt.lanes) && c.active m j &&
      !(A j).isNan && !(B j).isNan && g ((A j).cmp (B j))
    Cmp (.vcmpeq d a b m) (fun z => z == 0) ∧ Cmp (.vcmplt d a b m) (fun z => decide (z < 0)) ∧
    Cmp (.vcmple d a b m) (fun z => decide (z ≤ 0)) ∧
    Sets (.mand d p q) (fun j => (c.vf.m[p.toFin]).getLsbD j && (c.vf.m[q.toFin]).getLsbD j) ∧
    Sets (.mor d p q) (fun j => (c.vf.m[p.toFin]).getLsbD j || (c.vf.m[q.toFin]).getLsbD j) ∧
    Sets (.mnot d p) (fun j => !(c.vf.m[p.toFin]).getLsbD j)

/-- R225, R231: MPOP counts and MFIRST finds the 1 bits among the lanes of TYPE; VEXTR reads one lane, sign-extended for an
integer type, and 0 beyond the last; each pops the load queue it reads. -/
def Sys2Proof.Spec.VectorToScalar : Prop :=
  ∀ (s : State) (d xb : BitVec 5) (p : BitVec 3) (a : BitVec 6), let c := s.myCore; let n := c.vf.fmt.lanes
    let ToX (i : Instr) (v : Word) : Prop := MayIssue s i → PortsReady s i → ∃ t, exec i s = .next t ∧ GoesOn s t ∧
      (d ≠ 0 → t.rx d = v) ∧ (∀ r, r ≠ d → t.rx r = s.rx r) ∧ t.myCore.vf = s.myCore.vf ∧ OnlyMyCore s t ∧
      (∀ q : Fin 4, t.myCore.lq[q] = if 56 + q.val ∈ (vecRegs c.vf.fmt i).1 then (c.lq[q]).drop 1 else c.lq[q])
    ToX (.mpop d p) (wrap ((List.range n).countP fun j => (c.vf.m[p.toFin]).getLsbD j)) ∧
    (∃ k, k ≤ n ∧ (∀ j, j < k → (c.vf.m[p.toFin]).getLsbD j = false) ∧ (k < n → (c.vf.m[p.toFin]).getLsbD k = true) ∧
      ToX (.mfirst d p) (wrap k)) ∧
    ToX (.vextr d a xb) (if n ≤ (s.rx xb).toNat then 0 else if c.vf.fmt.isInt then wrap (srcI s a (s.rx xb).toNat)
      else wrap (src s a (s.rx xb).toNat))

/-- Compares, mask operations, and reads of a mask or a lane into an x register: the statements `VectorComparesAndMasks`,
`VectorToScalar`. -/
def Obligations.VectorMasks : Prop := Spec.VectorComparesAndMasks ∧ Spec.VectorToScalar

/-- R232 to R234: conversion, widening and narrowing, element by element, with groups of registers numbered as R221 says; under
SR each active element that is rounded or converted, in ascending order, takes one step of LFSR (R143, R144). -/
def Sys2Proof.Spec.VectorConversions : Prop :=
  ∀ (s : State) (d a b : BitVec 6) (m : BitVec 3) (f : BitVec 4) (ae : BitVec 1) (n : BitVec 4) (to_ wide : Fmt) (g : Nat),
    let c := s.myCore; let t0 := c.vf.fmt
    let Elems (i : Instr) (count : Nat) (dst : Fmt) (gd : Nat) (steps : Nat) (v : Nat → Nat) : Prop := MayIssue s i → PortsReady s i →
      ∃ t, exec i s = .next t ∧ VectorRest s i t ∧ t.myCore.vf.lfsr = stepped s steps ∧ ∀ j, j < count → c.active m j = true →
        destElem t d.toNat gd dst.width j = v j % writeMask dst
    (Fmt.ofCode f.toNat = some to_ → let gs := max 1 (t0.width / to_.width); let gd := max 1 (to_.width / t0.width)
      let n := min t0.lanes to_.lanes * max gs gd
      Elems (.vcvt d a m f) n to_ gd (actives s m n) (fun j => (convertAt s t0 to_ m j (c.groupElem a.toNat gs t0.width j)).1)) ∧
    (widened t0 = some (wide, g) → t0.isInt = true →
      Elems (.vwadd d a b m) t0.lanes wide g 0 (fun j => ofSigned wide.width (srcI s a j + srcI s b j)) ∧
      Elems (.vwmul d a b m) t0.lanes wide g 0 (fun j => ofSigned wide.width (srcI s a j * srcI s b j))) ∧
    (widened t0 = some (wide, g) → t0.isInt = false →
      Elems (.vwadd d a b m) t0.lanes wide g (actives s m t0.lanes)
        (fun j => (roundAt s wide m j ((srcF s a j).sum (c.vf.rm == .rd) (srcF s b j))).1) ∧
      Elems (.vwmul d a b m) t0.lanes wide g (actives s m t0.lanes) (fun j => (roundAt s wide m j ((srcF s a j).mul (srcF s b j))).1)) ∧
    (widened t0 = some (wide, g) →
      Elems (.vnarrow d a ae n m) t0.lanes t0 1 (actives s m t0.lanes)
        (fun j => (convertAt s wide t0 m j (c.groupElem a.toNat g wide.width j)).1))

/-- R235: a reduction of an integer type writes the sum, the largest, the least, or the largest magnitude of its active
lanes to lane 0 and 0 to every other lane. -/
def Sys2Proof.Spec.VectorIntegerReductions : Prop :=
  ∀ (s : State) (d a : BitVec 6) (m : BitVec 3), isInt s → let c := s.myCore; let w := c.vf.fmt.width
    let xs := ((List.range c.vf.fmt.lanes).filter fun j => c.active m j).map (srcI s a)
    let Lane0 (i : Instr) (v : Nat) : Prop := MayIssue s i → PortsReady s i → ∃ t, exec i s = .next t ∧ VectorRest s i t ∧
      t.myCore.vf.m = c.vf.m ∧ destRow t d.toNat = BitVec.ofNat 4096 (v % 2 ^ w)
    Lane0 (.vrsum d a m) (fitted s xs.sum) ∧
    Lane0 (.vrmax d a m) (ofSigned w (xs.foldl max (-(2 ^ (w - 1))))) ∧
    Lane0 (.vrmin d a m) (ofSigned w (xs.foldl min (2 ^ (w - 1) - 1))) ∧
    Lane0 (.vramax d a m) (fitted s ((xs.map Int.natAbs).foldl max 0 : Nat))

/-- R235, R236: the same on floating types: VRSUM adds neighbours in FP32 level by level, with -0 for an inactive lane, and
rounds once; VRMAX, VRMIN and VRAMAX choose exactly, and with no active lane VRMAX gives -∞, or the most negative finite value
of a type without infinity, and VRMIN the opposite; VSCAN adds in FP32 from lane 0 up. Under SR, VRSUM steps LFSR once and VSCAN
once for each active lane; the others do not (R143). -/
def Sys2Proof.Spec.VectorFloatReductions : Prop :=
  ∀ (s : State) (d a : BitVec 6) (m : BitVec 3), s.myCore.vf.fmt.isInt = false → let c := s.myCore; let t0 := c.vf.fmt
    let act := (List.range t0.lanes).filter fun j => c.active m j
    let leaves := (List.range t0.lanes).map fun j => if c.active m j then toFp32 t0 (src s a j) else 0x80000000
    let Lane0 (i : Instr) (steps v : Nat) : Prop := MayIssue s i → PortsReady s i → ∃ t, exec i s = .next t ∧ VectorRest s i t ∧
      t.myCore.vf.m = c.vf.m ∧ t.myCore.vf.lfsr = stepped s steps ∧ destRow t d.toNat = BitVec.ofNat 4096 (v % writeMask t0)
    Lane0 (.vrsum d a m) 1 (roundAt s t0 m 0 (Fmt.fp32.decode ((pairs^[12] leaves).headD 0x80000000))).1 ∧
    (∀ h r, act.map (srcF s a) = h :: r →
      Lane0 (.vrmax d a m) 0 (exactCode t0 (r.foldl maxVal h)) ∧ Lane0 (.vrmin d a m) 0 (exactCode t0 (r.foldl minVal h))) ∧
    (act = [] → Lane0 (.vrmax d a m) 0 (exactCode t0 (leastVal t0)) ∧ Lane0 (.vrmin d a m) 0 (exactCode t0 (leastVal t0).neg)) ∧
    Lane0 (.vramax d a m) 0 (exactCode t0 ((act.map fun j => (srcF s a j).abs).foldl maxVal (.fin false 0 0 false))) ∧
    Lanes s (.vscan d a m) d m (fun j => (roundAt s t0 m j (Fmt.fp32.decode
      (((List.range (j + 1)).filter fun k => c.active m k).foldl (fun x k => (fp32Add x (toFp32 t0 (src s a k))).1) 0x80000000))).1) ∧
    (MayIssue s (.vscan d a m) → PortsReady s (.vscan d a m) → ∃ t, exec (.vscan d a m) s = .next t ∧
      t.myCore.vf.lfsr = stepped s (actives s m t0.lanes))

/-- R143, R144, R226: under SR each active lane, in ascending order, steps LFSR once and rounds with the bits of that step,
and LFSR ends where the last step left it. -/
def Sys2Proof.Spec.VectorStochasticRounding : Prop :=
  ∀ (s : State) (d a b : BitVec 6) (m : BitVec 3), s.myCore.vf.fmt.isInt = false → s.myCore.vf.rm = .sr →
    let A := srcF s a; let B := srcF s b; let D := srcF s d; let R := roundedSr s m
    let n := ((List.range s.myCore.vf.fmt.lanes).filter fun j => s.myCore.active m j).length
    let Sr (i : Instr) (x : Nat → Val) : Prop := Lanes s i d m (fun j => R j (x j)) ∧
      (MayIssue s i → PortsReady s i → ∃ t, exec i s = .next t ∧ t.myCore.vf.lfsr = lfsrStep^[n] s.myCore.vf.lfsr)
    Sr (.vadd d a b m) (fun j => (A j).sum false (B j)) ∧
    Sr (.vsub d a b m) (fun j => (A j).sum false (B j).neg) ∧
    Sr (.vmul d a b m) (fun j => (A j).mul (B j)) ∧
    Sr (.vdiv d a b m) (fun j => (A j).div (B j)) ∧
    Sr (.vrcp d a m) (fun j => (Val.fin false 1 0 false).div (A j)) ∧
    Sr (.vrsq d a m) (fun j => (A j).rsqrt) ∧
    Sr (.vsqrt d a m) (fun j => (A j).sqrt) ∧
    Sr (.vfma d a b m) (fun j => ((A j).mul (B j)).sum false (D j)) ∧
    Sr (.vfms d a b m) (fun j => ((A j).mul (B j)).sum false (D j).neg) ∧
    Sr (.vnfma d a b m) (fun j => ((A j).mul (B j)).neg.sum false (D j))

/-- Vector arithmetic, reductions, scans and stochastic rounding on floating types: the statements `VectorFloatArithmetic`,
`VectorFloatReductions`, `VectorStochasticRounding`. -/
def Obligations.VectorFloats : Prop := Spec.VectorFloatArithmetic ∧ Spec.VectorFloatReductions ∧ Spec.VectorStochasticRounding

/-- R236: a scan of an integer type writes to each active lane the fitted sum of the active lanes up to it. -/
def Sys2Proof.Spec.VectorIntegerScan : Prop :=
  ∀ (s : State) (d a : BitVec 6) (m : BitVec 3), isInt s →
    Lanes s (.vscan d a m) d m
      (fun j => fitted s (((List.range (j + 1)).filter fun k => s.myCore.active m k).map (srcI s a)).sum)

/-- Vector arithmetic, reductions and scans on integer types: the statements `VectorIntegerArithmetic`,
`VectorIntegerReductions`, `VectorIntegerScan`. -/
def Obligations.VectorIntegers : Prop := Spec.VectorIntegerArithmetic ∧ Spec.VectorIntegerReductions ∧ Spec.VectorIntegerScan

/-- R224, R240, R243: VCFG writes the three fields of VTYPE and clears the rest; VROTM takes 512 bytes of the two registers
from the byte offset in an x register, whatever VTYPE is; VPPE evaluates the segment that R153 selects, and rounds, under SR with
one step of LFSR for each active lane (R143). -/
def Sys2Proof.Spec.VectorSettings : Prop :=
  ∀ (s : State) (sat : BitVec 1) (r : BitVec 3) (t : BitVec 4) (d a b : BitVec 6) (m : BitVec 3) (xn : BitVec 5), let c := s.myCore
    (MayIssue s (.vcfg sat r t) → ∃ u, exec (.vcfg sat r t) s = .next u ∧ GoesOn s u ∧
      u.myCore.vf.vtype = BitVec.ofNat 64 (t.toNat + 16 * r.toNat + 256 * sat.toNat) ∧ u.myCore.vf.v = c.vf.v ∧
      u.myCore.vf.m = c.vf.m ∧ u.me.x = s.me.x ∧ OnlyMyCore s u) ∧
    (MayIssue s (.vrotm d a b xn) → PortsReady s (.vrotm d a b xn) → ∃ u, exec (.vrotm d a b xn) s = .next u ∧
      VectorRest s (.vrotm d a b xn) u ∧ ∀ j, j < 512 → let k := (s.rx xn).toNat % 512 + j
        (destRow u d.toNat).extractLsb' (8 * j) 8 =
          if k < 512 then (c.vreg a.toNat).extractLsb' (8 * k) 8 else (c.vreg b.toNat).extractLsb' (8 * (k - 512)) 8) ∧
    (c.vf.fmt.isInt = false → (Lanes s (.vppe d a m) d m fun j =>
      (roundAt s c.vf.fmt m j (if (srcF s a j).isNan then .nan
        else Fmt.fp32.decode (ppuEval c.vf.ppuSet c.vf.ppu (toFp32 c.vf.fmt (src s a j)) (c.vf.acc 0)).1)).1) ∧
      (MayIssue s (.vppe d a m) → PortsReady s (.vppe d a m) → ∃ t, exec (.vppe d a m) s = .next t ∧
        t.myCore.vf.lfsr = stepped s (actives s m c.vf.fmt.lanes)))

/-- R149, R226, R228: the flags that element arithmetic adds to VSTAT: on an integer type SA of each active lane whose exact
result is saturated, and DZ of a non-zero number divided by zero; on a floating type, under every mode, the flags of the one
rounding, NV where a NaN comes from operands that are none, and DZ of a finite non-zero value divided by zero; moves, bitwise
operations, shifts, compares and choices set none. -/
def Sys2Proof.Spec.VectorArithmeticFlags : Prop :=
  ∀ (s : State) (d a b : BitVec 6) (m e p : BitVec 3), let n := s.myCore.vf.fmt.lanes; let down := s.myCore.vf.rm == .rd
    let Each (i : Instr) (f : Nat → BitVec 6) : Prop := SetsFlags s i (flagsOf s m n f)
    (isInt s → let A := srcI s a; let B := srcI s b; let D := srcI s d
      Each (.vadd d a b m) (fun j => saOf s (A j + B j)) ∧ Each (.vsub d a b m) (fun j => saOf s (A j - B j)) ∧
      Each (.vmul d a b m) (fun j => saOf s (A j * B j)) ∧
      Each (.vdiv d a b m) (fun j => if B j = 0 then (if A j = 0 then 0 else 0x08) else saOf s ((A j).tdiv (B j))) ∧
      Each (.vabs d a m) (fun j => saOf s |A j|) ∧ Each (.vneg d a m) (fun j => saOf s (-A j)) ∧
      Each (.vfma d a b m) (fun j => saOf s (A j * B j + D j)) ∧ Each (.vfms d a b m) (fun j => saOf s (A j * B j - D j)) ∧
      Each (.vnfma d a b m) (fun j => saOf s (-(A j * B j) + D j))) ∧
    (s.myCore.vf.fmt.isInt = false → let A := srcF s a; let B := srcF s b; let D := srcF s d
      let R (ops : List Val) (j : Nat) (x : Val) : BitVec 6 :=
        (roundAt s s.myCore.vf.fmt m j x).2 ||| (if x.isNan = true ∧ ∀ o ∈ ops, o.isNan = false then 0x10 else 0)
      let Dz (x y : Val) : BitVec 6 := if y.isZero && !x.isNan && !x.isInf && !x.isZero then 0x08 else 0
      Each (.vadd d a b m) (fun j => R [A j, B j] j ((A j).sum down (B j))) ∧
      Each (.vsub d a b m) (fun j => R [A j, B j] j ((A j).sum down (B j).neg)) ∧
      Each (.vmul d a b m) (fun j => R [A j, B j] j ((A j).mul (B j))) ∧
      Each (.vdiv d a b m) (fun j => R [A j, B j] j ((A j).div (B j)) ||| Dz (A j) (B j)) ∧
      Each (.vrcp d a m) (fun j => R [A j] j ((Val.fin false 1 0 false).div (A j)) ||| if (A j).isZero then 0x08 else 0) ∧
      Each (.vrsq d a m) (fun j => R [A j] j (A j).rsqrt ||| if (A j).isZero then 0x08 else 0) ∧
      Each (.vsqrt d a m) (fun j => R [A j] j (A j).sqrt) ∧
      Each (.vfma d a b m) (fun j => R [A j, B j, D j] j (((A j).mul (B j)).sum down (D j))) ∧
      Each (.vfms d a b m) (fun j => R [A j, B j, D j] j (((A j).mul (B j)).sum down (D j).neg)) ∧
      Each (.vnfma d a b m) (fun j => R [A j, B j, D j] j (((A j).mul (B j)).neg.sum down (D j))) ∧
      SetsFlags s (.vabs d a m) 0 ∧ SetsFlags s (.vneg d a m) 0) ∧
    SetsFlags s (.vmin d a b m) 0 ∧ SetsFlags s (.vmax d a b m) 0 ∧ SetsFlags s (.vmov d a m) 0 ∧ SetsFlags s (.vand d a b m) 0 ∧
    SetsFlags s (.vor d a b m) 0 ∧ SetsFlags s (.vxor d a b m) 0 ∧ SetsFlags s (.vnot d a m) 0 ∧ SetsFlags s (.vshl d a b m) 0 ∧
    SetsFlags s (.vshr d a b m) 0 ∧ SetsFlags s (.vsra d a b m) 0 ∧ SetsFlags s (.vsel d a b m) 0 ∧ SetsFlags s (.vperm d a b) 0 ∧
    SetsFlags s (.vcmpeq e a b m) 0 ∧ SetsFlags s (.vcmplt e a b m) 0 ∧ SetsFlags s (.vcmple e a b m) 0 ∧
    SetsFlags s (.mand e p m) 0 ∧ SetsFlags s (.mor e p m) 0 ∧ SetsFlags s (.mnot e p) 0

/-- R149, R151, R232 to R236, R243: the flags that conversions, widenings, narrowings, reductions, scans and VPPE add to VSTAT:
those of each conversion or rounding, of each addition of a tree or a scan, and NV of VPPE's steps; and VNARROW with AE = 1
updates the amax register it names from each active element before narrowing, and no other, with AE = 0 none. -/
def Sys2Proof.Spec.VectorConversionFlags : Prop :=
  ∀ (s : State) (d a b : BitVec 6) (m : BitVec 3) (f : BitVec 4) (ae : BitVec 1) (n : BitVec 4) (to_ wide : Fmt) (g : Nat),
    let c := s.myCore; let t0 := c.vf.fmt
    let nv (ops : List Val) (x : Val) : BitVec 6 := if x.isNan = true ∧ ∀ o ∈ ops, o.isNan = false then 0x10 else 0
    let before (j : Nat) : Nat := ((List.range j).filter fun k => c.active m k).foldl (fun x k => (fp32Add x (toFp32 t0 (src s a k))).1) 0x80000000
    let leaves := (List.range t0.lanes).map fun j => if c.active m j then toFp32 t0 (src s a j) else 0x80000000
    let xs := ((List.range t0.lanes).filter fun j => c.active m j).map (srcI s a)
    (Fmt.ofCode f.toNat = some to_ → let gs := max 1 (t0.width / to_.width); let gd := max 1 (to_.width / t0.width)
      SetsFlags s (.vcvt d a m f) (flagsOf s m (min t0.lanes to_.lanes * max gs gd)
        fun j => (convertAt s t0 to_ m j (c.groupElem a.toNat gs t0.width j)).2)) ∧
    (widened t0 = some (wide, g) →
      (t0.isInt = true → SetsFlags s (.vwadd d a b m) 0 ∧ SetsFlags s (.vwmul d a b m) 0) ∧
      (t0.isInt = false → let A := srcF s a; let B := srcF s b
        SetsFlags s (.vwadd d a b m) (flagsOf s m t0.lanes fun j => let x := (A j).sum (c.vf.rm == .rd) (B j)
          (roundAt s wide m j x).2 ||| nv [A j, B j] x) ∧
        SetsFlags s (.vwmul d a b m) (flagsOf s m t0.lanes fun j => let x := (A j).mul (B j)
          (roundAt s wide m j x).2 ||| nv [A j, B j] x)) ∧
      SetsFlags s (.vnarrow d a ae n m) (flagsOf s m t0.lanes fun j => (convertAt s wide t0 m j (c.groupElem a.toNat g wide.width j)).2) ∧
      (MayIssue s (.vnarrow d a ae n m) → PortsReady s (.vnarrow d a ae n m) → ∃ t, exec (.vnarrow d a ae n m) s = .next t ∧
        t.myCore.vf.am = if ae = 1 then c.vf.am.set n.toFin (((List.range t0.lanes).filter fun j => c.active m j).foldl
          (fun x j => amaxUpd x (wide.decode (c.groupElem a.toNat g wide.width j))) c.vf.am[n.toFin]) else c.vf.am)) ∧
    (t0.isInt = true → SetsFlags s (.vrsum d a m) (saOf s xs.sum) ∧
      SetsFlags s (.vramax d a m) (saOf s ((xs.map Int.natAbs).foldl max 0 : Nat)) ∧
      SetsFlags s (.vscan d a m) (flagsOf s m t0.lanes fun j =>
        saOf s (((List.range (j + 1)).filter fun k => c.active m k).map (srcI s a)).sum)) ∧
    (t0.isInt = false →
      SetsFlags s (.vrsum d a m) (treeFlags 12 leaves |||
        (roundAt s t0 m 0 (Fmt.fp32.decode ((pairs^[12] leaves).headD 0x80000000))).2) ∧
      SetsFlags s (.vramax d a m) 0 ∧
      SetsFlags s (.vscan d a m) (flagsOf s m t0.lanes fun j => let z := fp32Add (before j) (toFp32 t0 (src s a j))
        z.2 ||| (roundAt s t0 m j (Fmt.fp32.decode z.1)).2) ∧
      SetsFlags s (.vppe d a m) (flagsOf s m t0.lanes fun j =>
        if (srcF s a j).isNan then (roundAt s t0 m j .nan).2
        else let z := ppuEval c.vf.ppuSet c.vf.ppu (toFp32 t0 (src s a j)) ⟨0, 0, 0⟩
          z.2.flags ||| (roundAt s t0 m j (Fmt.fp32.decode z.1)).2)) ∧
    SetsFlags s (.vrmax d a m) 0 ∧ SetsFlags s (.vrmin d a m) 0

/-- Conversions, widening and narrowing, VCFG, VROTM and VPPE: the statements `VectorConversions`, `VectorSettings`,
`VectorArithmeticFlags`, `VectorConversionFlags`. -/
def Obligations.VectorConversionsAndSettings : Prop := Spec.VectorConversions ∧ Spec.VectorSettings ∧ Spec.VectorArithmeticFlags ∧ Spec.VectorConversionFlags

/-! ## Tile commands (17_tile.md) -/

namespace Sys2Proof.Spec

/-- The command i stands at the head of its queue on the executing core and may start (R110, R254, R255): its entry is
queued, every earlier access of its class has performed, the semaphore it waits for is not 0, and its task is not stopped. -/
abbrev AtHead (s : State) (i : Instr) (q : QEntry) : Prop :=
  (s.myCore.eng[engOf i]).head? = some q ∧
  q.cmd = i ∧
  q.state = .queued ∧
  s.classClear s.cur.at_ q = true ∧
  semReady s.myCore i = true ∧
  s.myCore.stopped = false

/-- The state in which a command starts: s with one taken from the semaphore it waits for (R254). -/
def atStart (s : State) (i : Instr) : State := takeSem s s.cur.at_ i

/-- When the command i at the head of its queue starts: now, or when its queue is free again (R256). -/
def startTime (s : State) (i : Instr) : Nat := max s.now s.myCore.engFree[engOf i]

/-- The command at the head of its queue has started, with what it still writes, its stamp, its amax and the slots it
pops; the entries behind it and every other queue of its core are unchanged; the semaphore it waits for has lost one; every
context keeps its x registers and every core its vector and special registers. -/
structure Starts (s : State) (i : Instr) (q : QEntry) (todo : List EngWrite) (stamp : Option EngWrite)
    (amax : Option (BitVec 33)) (pops : List (Nat × Nat)) (t : State) : Prop where
  head : t.myCore.eng[engOf i] = { q with state := .started (startTime s i) todo stamp amax pops } :: (s.myCore.eng[engOf i]).drop 1
  queues : ∀ e : Fin 6, e ≠ engOf i → t.myCore.eng[e] = s.myCore.eng[e]
  sem : ∀ n : Fin 64, t.myCore.sem[n] =
    if (cmdHdrOf i).wv = true ∧ n = (cmdHdrOf i).wsem.toFin then s.myCore.sem[n] - 1 else s.myCore.sem[n]
  cur : t.cur = s.cur
  regs : ∀ c, (t.ctx c).x = (s.ctx c).x
  vector : ∀ r, (t.core r).vf = (s.core r).vf

/-- Row m of half b of member j of the executing core's fragment. -/
def half (s : State) (j : Nat) (b : Bool) (m : Nat) : BankRow := (s.core (s.memberAt j)).st.bank b m

/-- The PE accumulators of row m of member j. -/
def accs (s : State) (j m : Nat) : AccRow := (s.core (s.memberAt j)).st.accRow m

/-- Whether half b of a core is dirty (R257). -/
def isDirty (c : Core) (b : Bool) : Bool := if b then c.st.dirtyB else c.st.dirtyA

/-- The fragment of the executing core lies on its die (R29). -/
abbrev FragmentFits (s : State) : Prop := s.cur.at_.core.val + s.strips s.cur.at_ ≤ 8

/-- No scratchpad row and no byte of global memory has changed. -/
structure KeepsRows (s t : State) : Prop where
  rows : ∀ r i, (t.core r).row i = (s.core r).row i
  memory : ∀ a, t.homes.byte a = s.homes.byte a
  seen : ∀ i a, t.dieByte i a = s.dieByte i a

end Sys2Proof.Spec

/-- R261, R257: an MMA whose operands are at hand starts: in each active row of each member each of the 1,024 values of the
half takes R261's loop over its K-steps, the half of a member with an active row is dirty, the other half is as dirty as it was,
and every other row of either half keeps its value. Log 31: an MMA makes only members with an
active row dirty; log 13: it acts as it starts. -/
def Obligations.MmaMultiplies : Prop :=
  ∀ (s : State) (h : CmdHdr) (b : MmaBody) (q : QEntry) (ar br : List (CoreRef × Nat)) (ak bk : Nat) (s1 : State),
    AtHead s (.mma h b) q → FragmentFits s → s1 = atStart s (.mma h b) →
    let ks := kSteps b; let fa := fmtOf b.afmt; let fb := fmtOf b.bfmt; let v := h.vcnt.toNat; let n := s.strips s.cur.at_
    operandRows s1 b.aref (aCount fa ks) = .ok ar ak → operandRows s1 b.bref (bCount fb ks) = .ok br bk →
    (∀ x ∈ ((s1.members.filter fun j => decide (128 * j < v)).flatMap fun j => leadRows s1 j ar) ++ (if v = 0 then [] else br),
      s1.rowStalled x.1 x.2 = false ∧ s1.rowPoisoned x.1 x.2 = false) →
    (b.zf = true ∨ bankPoisoned s1 b.bank v = false) →
    ∃ t, exec (.mma h b) s = .next t ∧ Starts s (.mma h b) q [] none none (popsOf b.aref ak ++ popsOf b.bref bk) t ∧ KeepsRows s t ∧
      (∀ j, j < n → isDirty (t.core (t.memberAt j)) b.bank = (decide (128 * j < v) || isDirty (s.core (s.memberAt j)) b.bank) ∧
        isDirty (t.core (t.memberAt j)) (!b.bank) = isDirty (s.core (s.memberAt j)) (!b.bank)) ∧
      ∀ j m, j < n → m < 128 →
        half t j (!b.bank) m = half s j (!b.bank) m ∧
        (128 * j + m < v → ∀ k, k < 1024 →
          (lane (half t j b.bank m) 32 k, lane (accs t j m) 26 k) =
            (let x := mmaElem (operandOf s1 fa ks (memberRows s1 j ar)) (operandOf s1 fb (8 * ks) br) ((groupSize fa fb).getD 4) ks
              (2 ^ (b.plog.toNat + 4)) b.ta b.tb m k (if b.zf then 0 else lane (half s j b.bank m) 32 k) (lane (accs s j m) 26 k)
             (x.1 % 2 ^ 32, x.2 % 2 ^ 26))) ∧
        (v ≤ 128 * j + m → half t j b.bank m = half s j b.bank m ∧ accs t j m = accs s j m)

/-- R263, R257: PROMOTE adds the accumulators of each active row into its half and clears them, and the half of a member with an
active row is dirty; ZACC clears the halves and the accumulators it names in each active row, and a half that it clears in every
row of the fragment is clean; every other row keeps its values, and every other half is as dirty as it was. -/
def Sys2Proof.Spec.PromoteAndClear : Prop :=
  ∀ (s : State) (h : CmdHdr) (bank za zb zp : Bool) (q : QEntry), FragmentFits s → let v := h.vcnt.toNat; let n := s.strips s.cur.at_
    (AtHead s (.promote h bank) q → ∃ t, exec (.promote h bank) s = .next t ∧ Starts s (.promote h bank) q [] none none [] t ∧
      KeepsRows s t ∧
      (∀ j, j < n → isDirty (t.core (t.memberAt j)) bank = (decide (128 * j < v) || isDirty (s.core (s.memberAt j)) bank) ∧
        isDirty (t.core (t.memberAt j)) (!bank) = isDirty (s.core (s.memberAt j)) (!bank)) ∧
      ∀ j m, j < n → m < 128 → half t j (!bank) m = half s j (!bank) m ∧
        (128 * j + m < v → accs t j m = 0 ∧ ∀ k, k < 1024 →
          lane (half t j bank m) 32 k = promote (lane (half s j bank m) 32 k) (lane (accs s j m) 26 k) % 2 ^ 32) ∧
        (v ≤ 128 * j + m → half t j bank m = half s j bank m ∧ accs t j m = accs s j m)) ∧
    (AtHead s (.zacc h za zb zp) q → ∃ t, exec (.zacc h za zb zp) s = .next t ∧ Starts s (.zacc h za zb zp) q [] none none [] t ∧
      KeepsRows s t ∧
      (∀ j b, j < n → isDirty (t.core (t.memberAt j)) b =
        (!(decide (v = 128 * n) && (if b then zb else za)) && isDirty (s.core (s.memberAt j)) b)) ∧
      ∀ j m, j < n → m < 128 → let act : Prop := 128 * j + m < v
        half t j false m = (if act ∧ za = true then 0 else half s j false m) ∧
        half t j true m = (if act ∧ zb = true then 0 else half s j true m) ∧
        accs t j m = (if act ∧ zp = true then 0 else accs s j m))

/-- R264 to R266: a DRAIN into rows starts with the destination rows of every member still to be written, as the stream of
its half gives them; the half is then clean in every member, and +0 unless the DRAIN keeps it. That it clears every row of every
member is log 31, that it does so as it starts log 13. -/
def Sys2Proof.Spec.DrainWritesHalf : Prop :=
  ∀ (s : State) (h : CmdHdr) (b : DrainBody) (q : QEntry) (dest : List (CoreRef × Nat)) (k : Nat) (s1 : State),
    AtHead s (.drain h b) q → FragmentFits s → s1 = atStart s (.drain h b) → b.dref.mode ≠ 2 →
    let v := h.vcnt.toNat; let n := s.strips s.cur.at_; let nm := drainRows b.ofmt.toNat
    let f := fmtOf b.ofmt; let rm := (Rm.ofCode b.rm.toNat).getD .rne
    let per (j : Nat) : List (CoreRef × Nat) := ((dest.drop (j * nm)).take nm).take v
    drainDest s1 b = .ok dest k → (∀ j, j < n → ∀ x ∈ per j, s1.rowStalled x.1 x.2 = false) → drainPoisoned s1 b v = false →
    let am := if b.ae then some ((List.range n).foldl (fun a j => drainAmax (s.core (s.memberAt j)).st b f v a) 0) else none
    ∃ t, exec (.drain h b) s = .next t ∧
      Starts s (.drain h b) q ((List.range n).flatMap fun j =>
        rowWrites (per j) (drainStream (s.core (s.memberAt j)).st b f rm (memberSeed q.seed j) v)) none am [] t ∧ KeepsRows s t ∧
      ∀ j m, j < n → m < 128 → half t j (!b.bank) m = half s j (!b.bank) m ∧
        half t j b.bank m = (if b.keep then half s j b.bank m else 0) ∧
        isDirty (t.core (t.memberAt j)) b.bank = false

/-- PROMOTE, ZACC and DRAIN: the statements `PromoteAndClear`, `DrainWritesHalf`. -/
def Obligations.BankCommands : Prop := Spec.PromoteAndClear ∧ Spec.DrainWritesHalf

/-- R267: CHAIN links the outgoing side of its fragment to the fragment it names, and that one's incoming side to it;
UNCHAIN takes such a link down at both its ends. -/
def Sys2Proof.Spec.ChainLinks : Prop :=
  ∀ (s : State) (h : CmdHdr) (g : BitVec 3) (side : Bool) (q : QEntry) (o : Fin 8), let r := s.cur.at_
    (AtHead s (.chain h g) q → g.toFin ≠ r.core → ∃ t, exec (.chain h g) s = .next t ∧ Starts s (.chain h g) q [] none none [] t ∧
      t.myCore.linkOut = some g.toFin ∧ (t.core ⟨r.site, g.toFin⟩).linkIn = some r.core ∧ KeepsRows s t) ∧
    (AtHead s (.unchain h side) q → o ≠ r.core → (if side then s.myCore.linkIn else s.myCore.linkOut) = some o →
      ∃ t, exec (.unchain h side) s = .next t ∧ Starts s (.unchain h side) q [] none none [] t ∧
        (if side then t.myCore.linkIn else t.myCore.linkOut) = none ∧
        (if side then (t.core ⟨r.site, o⟩).linkOut else (t.core ⟨r.site, o⟩).linkIn) = none ∧ KeepsRows s t)

/-- R262, R265: the MMAC at the head of a fragment's queue and the DRAIN to the chain at the head of the queue upstream start
together: each active row takes R261's loop on what the chain carries, every other row keeps its values, the half is dirty in
each member with an active row, and the upstream half is clean, and +0 unless the DRAIN keeps it. An MMAC with no incoming
link takes the illegal-shape fault 0x04. Which members become dirty is log 31, the instant log 13. -/
def Sys2Proof.Spec.ChainedMultiply : Prop :=
  ∀ (s : State) (h : CmdHdr) (b : MmaBody) (q : QEntry) (g : Fin 8) (uq : QEntry) (uh : CmdHdr) (ub : DrainBody)
      (br : List (CoreRef × Nat)) (bk : Nat) (s1 : State), AtHead s (.mmac h b) q → FragmentFits s → h.eng = 0 → uh.eng = 0 →
    let r := s.cur.at_
    (s.myCore.linkIn = none → exec (.mmac h b) s =
      .next { (startFault (atStart s (.mmac h b)) q 0x04 0) with cur := s.cur }) ∧
    (s.myCore.linkIn = some g → let up := linkCore r g
      s.chainDrainAt up = some (uq, uh, ub) →
      s1 = takeSem (takeSem s up (.drain uh ub)) r (.mmac h b) →
      (∀ j i, j < s.strips r → i < s.strips up → coreSouth r j ≠ coreSouth up i) →
      let ks := kSteps b; let fa := fmtOf b.afmt; let fb := fmtOf b.bfmt; let v := h.vcnt.toNat; let gs := (groupSize fa fb).getD 4
      operandRows s1 b.bref (bCount fb ks) = .ok br bk →
      (∀ x ∈ (if v = 0 then [] else br), s1.rowStalled x.1 x.2 = false ∧ s1.rowPoisoned x.1 x.2 = false) →
      drainPoisoned { s1 with cur := ⟨up, s.cur.ctx⟩ } ub uh.vcnt.toNat = false →
      (b.zf = true ∨ bankPoisoned s1 b.bank v = false) →
      ∃ t, exec (.mmac h b) s = .next t ∧ t.cur = s.cur ∧
        t.myCore.eng[(0 : Fin 6)] = { q with state := .started s1.now [] none none (popsOf b.bref bk) } :: (s.myCore.eng[(0 : Fin 6)]).drop 1 ∧
        (t.core up).eng[(0 : Fin 6)] = { uq with state := .started s1.now [] none none [] } :: ((s.core up).eng[(0 : Fin 6)]).drop 1 ∧
        (∀ c, (t.ctx c).x = (s.ctx c).x) ∧ KeepsRows s t ∧
        (∀ j, j < s.strips r →
          isDirty (t.core (coreSouth r j)) b.bank = (decide (128 * j < v) || isDirty (s.core (coreSouth r j)) b.bank)) ∧
        (∀ j m, j < s.strips r → m < 128 →
          half t j (!b.bank) m = half s j (!b.bank) m ∧
          (128 * j + m < v → ∀ k, k < 1024 →
            (lane (half t j b.bank m) 32 k, lane (accs t j m) 26 k) =
              (let x := mmaElem (chainOperand (s.core (coreSouth up j)).st ub fa gs uh.vcnt.toNat s.free)
                (operandOf s1 fb (8 * ks) br) gs ks (2 ^ (b.plog.toNat + 4)) false b.tb m k
                (if b.zf then 0 else lane (half s j b.bank m) 32 k) (lane (accs s j m) 26 k)
               (x.1 % 2 ^ 32, x.2 % 2 ^ 26))) ∧
          (v ≤ 128 * j + m → half t j b.bank m = half s j b.bank m ∧ accs t j m = accs s j m)) ∧
        ∀ i m, i < s.strips up → m < 128 →
          (t.core (coreSouth up i)).st.bank ub.bank m = (if ub.keep then (s.core (coreSouth up i)).st.bank ub.bank m else 0) ∧
          isDirty (t.core (coreSouth up i)) ub.bank = false)

/-- CHAIN, UNCHAIN and MMAC: the statements `ChainLinks`, `ChainedMultiply`. -/
def Obligations.Chains : Prop := Spec.ChainLinks ∧ Spec.ChainedMultiply

namespace Sys2Proof.Spec

/-- A copy reads its parts of global memory now: its die's requests stand at the current homes of their pages (R96), behind its
die's own writes of the lines, nothing holds back a line of theirs and no other die holds it in M (R92, R95, R351), every DLA of
the command is reachable and none of the lines is poisoned, at its home or in its die's cache (R74, R348, R349). -/
abbrev PartsAtHand (s : State) (q : QEntry) (ps : List (Nat × Nat × Nat)) : Prop :=
  (∀ l ∈ partLines ps, s.routed s.cur.at_.site (linePage l) = true ∧ s.readClear (some s.cur.at_.site) l = true ∧
    (s.die s.cur.at_.site).landed l = true) ∧
  unreachableDla s q = none ∧
  (∀ l ∈ partLines ps, s.homes.poisoned l = false ∧ l ∉ (s.die s.cur.at_.site).badLines)

/-- No row stands in a gated or waking bank, and none is poisoned. -/
abbrev RowsAtHand (s : State) (rows : List (CoreRef × Nat)) : Prop :=
  ∀ x ∈ rows, s.rowStalled x.1 x.2 = false ∧ s.rowPoisoned x.1 x.2 = false

/-- No row stands in a gated or waking bank. -/
abbrev RowsAwake (s : State) (rows : List (CoreRef × Nat)) : Prop := ∀ x ∈ rows, s.rowStalled x.1 x.2 = false

/-- The row writes by which a copy lays a stream of source elements into its destination rows (R269, R270). -/
def laid (s : State) (q : QEntry) (b : CopyBody) (f0 : Nat) (dest : List (CoreRef × Nat)) (rows : List (List (Option SrcElem))) :
    List EngWrite :=
  let f := sideFmt q.shape b
  let ws := sideWrites s dest (sideRows f b.zpd ((ctlOf b f0 f).stream rows (memberSeed q.seed 0)) (scalesPer q.shape))
  rowWrites (ws.map Prod.fst) (ws.map Prod.snd)

/-- The amax of a copy with AE = 1 over its active source elements, of format code f0, before narrowing (R151); none with AE = 0. -/
def amaxOver (b : CopyBody) (f0 : Nat) (rows : List (List (Option SrcElem))) : Option (BitVec 33) :=
  if b.ae then some (rows.foldl (fun a l => (l.filterMap id).foldl (fun a e => amaxUpd a (srcVal ((Fmt.ofCode f0).getD .e4m3) e)) a) 0)
  else none

/-- The tokens that a load reads: row rowOf e for an active token e, zeros where it names none, nothing for the others. -/
def loadTokens (s : State) (q : QEntry) (v : Nat) (rowOf : Nat → Option Nat) : List (List (Option SrcElem)) :=
  (List.range (shTokens q.shape)).map fun e =>
    if e < v then (match rowOf e with
      | some t => (globalRow s q t).map some
      | none => List.replicate (shCols q.shape) (some (0, 0)))
    else List.replicate (shCols q.shape) none

end Sys2Proof.Spec

/-- R268 to R270: a TLOAD reads its active tile rows coherently and starts with the scratchpad rows of its stream to write; a
TGATHER reads the tile row that each active token's index names, or zeros for an index of ROWS or more. That a load
reads its sources as it starts is log 13. -/
def Sys2Proof.Spec.LoadsOfTiles : Prop :=
  ∀ (s : State) (h : CmdHdr) (b : CopyBody) (q : QEntry) (dest xr : List (CoreRef × Nat)) (k k' : Nat) (s1 : State),
    let v := h.vcnt.toNat
    let Load (i : Instr) (rowOf : Nat → Option Nat) : Prop := AtHead s i q → s1 = atStart s i →
      refWrite s1 s.cur.at_ b.sref (streamRows q.shape b) = .ok dest k →
      let ps := q.reads (rowSpans q.shape ((List.range (min v (shTokens q.shape))).filterMap rowOf))
      let rows := outOf q.shape b (loadTokens s1 q v rowOf)
      RowsAwake s1 (touched q b v dest) → PartsAtHand s1 q ps →
      ∃ t, exec i s = .next t ∧
        Starts s i q (laid s1 q b (shFmt q.shape) dest rows) (stampOf q b) (amaxOver b (shFmt q.shape) rows) [] t ∧ KeepsRows s t
    Load (.tload h b) some ∧
    (s1 = atStart s (.tgather h b) → refRead s1 s.cur.at_ b.xref (ceilDiv (shTokens q.shape * 4) 512) = .ok xr k' →
      let used := xr.take (ceilDiv (v * 4) 512); RowsAtHand s1 used →
      Load (.tgather h b) fun e => let t := elemAt 32 (s1.rowVals used) e; if t < shRows q.shape then some t else none)

/-- R270: a TCVT starts with the rows of its converted stream to write, its source popped at completion unless kept; a TSTORE
with the lines of its stream to write; each reads its active source rows as they stand. That it reads them as it
starts is log 13, that a TCVT's source has no padding log 29. -/
def Sys2Proof.Spec.ConvertsAndStoresOfTiles : Prop :=
  ∀ (s : State) (h : CmdHdr) (b : CopyBody) (q : QEntry) (src dest : List (CoreRef × Nat)) (k k' : Nat) (s1 : State),
    let v := h.vcnt.toNat; let sh := q.shape
    (AtHead s (.tcvt h b) q → s1 = atStart s (.tcvt h b) → let f := shFmt sh
      refRead s1 s.cur.at_ b.sref (ceilDiv (shTokens sh * shCols sh * codeWidth f) 4096 + scaleRows sh f) = .ok src k →
      refWrite s1 s.cur.at_ b.xref (streamRows sh b) = .ok dest k' →
      let used := (activeSide sh false false f v src.length).filterMap fun i => src[i]?
      RowsAtHand s1 used → RowsAwake s1 (touched q b v dest) → unreachableDla s1 q = none →
      let rows := outOf sh b (sideSource sh false false f v (s1.rowVals src))
      ∃ t, exec (.tcvt h b) s = .next t ∧
        Starts s (.tcvt h b) q (laid s1 q b f dest rows) (stampOf q b) (amaxOver b f rows) (popsOf b.sref k) t ∧ KeepsRows s t) ∧
    (AtHead s (.tstore h b) q → s1 = atStart s (.tstore h b) → let f := sideFmt sh b
      refRead s1 s.cur.at_ b.sref (streamRows sh b) = .ok src k →
      RowsAtHand s1 (touched q b v src) → unreachableDla s1 q = none →
      let rows := sideSource sh b.trn b.zpd f v (s1.rowVals src)
      ∃ t, exec (.tstore h b) s = .next t ∧
        Starts s (.tstore h b) q (lineWrites (storeLines q b v ((ctlOf b f (shFmt sh)).stream rows (memberSeed q.seed 0))))
          (stampOf q b) (amaxOver b f rows) (popsOf b.sref k) t ∧ KeepsRows s t)

/-- R270, R96, R101: a PREFETCH whose requests stand at the current homes, and whose lines find an awake way, starts with
nothing to write, and changes no scratchpad row and no byte as its home or any die sees it. -/
def Sys2Proof.Spec.PrefetchChangesNothing : Prop :=
  ∀ (s : State) (h : CmdHdr) (b : CopyBody) (q : QEntry), AtHead s (.prefetch h b) q →
    let ls := partLines (q.reads (rowSpans q.shape (List.range (min h.vcnt.toNat (shTokens q.shape)))))
    (∀ l ∈ ls, s.routed s.cur.at_.site (linePage l) = true ∧ s.prefetchStall s.cur.at_.site b.lvl l = false) →
    unreachableDla (atStart s (.prefetch h b)) q = none →
    ∃ t, exec (.prefetch h b) s = .next t ∧ Starts s (.prefetch h b) q [] none none [] t ∧ KeepsRows s t

/-- TLOAD, TGATHER and PREFETCH: the statements `LoadsOfTiles`, `PrefetchChangesNothing`. -/
def Obligations.TileLoads : Prop := Spec.LoadsOfTiles ∧ Spec.PrefetchChangesNothing

/-- R91, R105, R121: the n-th write of a running command lands: a row takes its data and no other row changes; of a line, the
bytes that the write names take its data at the line's home, and every other byte keeps what the line held. -/
def Sys2Proof.Spec.EngineWritesLand : Prop :=
  ∀ (s : State) (r : CoreRef) (e : Fin 6) (n at_ : Nat) (q : QEntry) (rest : List QEntry) (todo : List EngWrite)
      (stamp : Option EngWrite) (am : Option (BitVec 33)) (pops : List (Nat × Nat)) (dst : CoreRef) (row line : Nat) (data : Row)
      (mask : BitVec 128) (v : LineData),
    (s.core r).eng[e] = q :: rest → q.state = .started at_ todo stamp am pops → let t := s.land r e n
    (todo[n]? = some (.row dst row data) → (s.core dst).rowStalled row = false →
      (∀ k i, (t.core k).row i = if k = dst ∧ i = row then data else (s.core k).row i) ∧
      (t.core r).eng[e] = { q with state := .started at_ (todo.eraseIdx n) stamp am pops } :: rest ∧
      (∀ a, t.homes.byte a = s.homes.byte a)) ∧
    (todo[n]? = some (.line line mask v) → s.routed r.site (linePage line) = true → s.writeClear line = true →
      (s.die r.site).landed line = true → s.homes.noKey (linePage line) = false →
      (∀ j, j < 128 → t.homes.byte (line * 128 + j) = if mask.getLsbD j then v.extractLsb' (8 * j) 8 else s.homes.byte (line * 128 + j)) ∧
      (∀ a, lineOf a ≠ line → t.homes.byte a = s.homes.byte a) ∧
      (t.core r).eng[e] = { q with state := .started at_ (todo.eraseIdx n) stamp am pops } :: rest)

/-- TCVT, TSTORE, and the landing of a command's writes: the statements `ConvertsAndStoresOfTiles`, `EngineWritesLand`. -/
def Obligations.TileStores : Prop := Spec.ConvertsAndStoresOfTiles ∧ Spec.EngineWritesLand

/-- R273: a GATOM whose word is at hand, held by no die, starts: its word becomes what the operation makes of the old one in
one step, every other byte of memory keeps its value, and with RES the old word is still to be written to its row, the rest
of the row 0. The instant is log 13, 34 and 37's choice. -/
def Sys2Proof.Spec.GlobalAtomics : Prop :=
  ∀ (s : State) (h : CmdHdr) (b : GatomBody) (q : QEntry) (d : Nat), h.vcnt ≠ 0 → q.dla b.addr.toNat = some d →
    s.dlaOk d = true → s.homes.poisoned (lineOf d) = false → s.routed s.cur.at_.site (pageOf d) = true →
    s.writeClear (lineOf d) = true → (s.die s.cur.at_.site).landed (lineOf d) = true → s.homes.noKey (pageOf d) = false →
    lineOf (d + 7) = lineOf d →
    let old : Word := wrap (s.homes.getN d 8); let x := b.opnd
    let Atomic (i : Instr) (new : Word) : Prop := AtHead s i q → ∃ t, exec i s = .next t ∧
      Starts s i q (if b.res then [.row s.cur.at_ b.rrow.toNat (old.setWidth 4096)] else []) none none [] t ∧
      (∀ a, t.homes.byte a = if d ≤ a ∧ a < d + 8 then new.extractLsb' (8 * (a - d)) 8 else s.homes.byte a) ∧
      (∀ r j, (t.core r).row j = (s.core r).row j)
    Atomic (.gatomAdd h b) (wrap (u old + u x)) ∧
    Atomic (.gatomFadd h b) (BitVec.ofNat 64 ((fp32Add (old.toNat % 2 ^ 32) (x.toNat % 2 ^ 32)).1 % 2 ^ 32 +
      (fp32Add (old.toNat / 2 ^ 32) (x.toNat / 2 ^ 32)).1 % 2 ^ 32 * 2 ^ 32)) ∧
    Atomic (.gatomMax h b) (wrap (max (sg old) (sg x))) ∧
    Atomic (.gatomMin h b) (wrap (min (sg old) (sg x))) ∧
    Atomic (.gatomSwap h b) x ∧
    Atomic (.gatomCas h b) (if old = b.cmpv then x else old)

/-- R95, R274: a MIGRATE of a page that no other migration holds, between two reachable homes, with a stub entry free at the
old one, a place in the new one's stack (R39) and, where the page comes here from another package, its owner's key here
(R367), starts: the page's record is Migrating and its copy is under way. -/
def Sys2Proof.Spec.MigrateStarts : Prop :=
  ∀ (s : State) (h : CmdHdr) (b : MigrateBody) (q : QEntry) (d : Nat), AtHead s (.migrate h b) q → h.vcnt ≠ 0 →
    q.dla b.addr.toNat = some d → s.dlaOk d = true → s.homes.migOf (pageOf d) = none →
    let dest : Home := ⟨b.dpkg.toNat, b.dsl.toNat⟩; let cur := s.homes.curHome (pageOf d)
    dest ≠ cur → s.reachable cur.pkg = true → s.reachable dest.pkg = true →
    (dest.pkg = s.fab.pkg → cur.pkg = s.fab.pkg ∨ s.homes.noKey (pageOf d) = false) →
    (dest.pkg = s.fab.pkg → s.homes.stackFull dest = false) → s.homes.stubsDue cur < 8 →
    ∃ t m, exec (.migrate h b) s = .next t ∧ Starts s (.migrate h b) q [] none none [] t ∧
      (t.homes.placeRec (pageOf d)).st = 1 ∧ t.homes.curHome (pageOf d) = cur ∧
      t.homes.migOf (pageOf d) = some m ∧ m.dest = dest ∧ m.old = cur ∧ m.phase = .copying ∧ KeepsRows s t

/-- R271: a SCAT starts, once every window of its valid entries has been applied; with one valid entry, the row that the
entry's index names becomes the combination of the row and the entry's row, lane by lane, and every other row keeps its value.
That the windows are applied as it starts is log 13. -/
def Obligations.ScatterCombines : Prop :=
  ∀ (s : State) (h : CmdHdr) (b : ScatBody) (q : QEntry) (vr xr : List (CoreRef × Nat)) (k k' : Nat) (s1 s2 : State),
    let r := s.cur.at_; let v := h.vcnt.toNat
    let used := xr.take (ceilDiv (4 * v) 512); let idx (e : Nat) : Nat := elemAt 32 (s1.rowVals used) e
    let Scat (i : Instr) (op : Nat) : Prop := AtHead s i q → s1 = atStart s i →
      refRead s1 r b.vref (b.nent.toNat + 1) = .ok vr k → refRead s1 r b.xref (ceilDiv (4 * (b.nent.toNat + 1)) 512) = .ok xr k' →
      RowsAtHand s1 used → RowsAwake s1 (vr.take v) → (∀ e, e < v → s1.rowStalled r (b.drow.toNat + idx e) = false) →
      scatWindows s1 b op vr idx v (List.range (ceilDiv v 64)) = (s2, none) →
      ∃ t, exec i s = .next t ∧ Starts s i q [] none none (popsOf b.vref k) t ∧
        (∀ c j, (t.core c).row j = (s2.core c).row j) ∧ (t.myCore.cnt = s2.myCore.cnt) ∧
        (v = 1 → vr ≠ [] → ∀ j, t.row r j = if rowAt r j = rowAt r (b.drow.toNat + idx 0) then
          scatRow (fmtOf b.fmt) op (s.row r (b.drow.toNat + idx 0)) [s.row (vr.headD (r, 0)).1 (vr.headD (r, 0)).2] else s.row r j)
    Scat (.scatAdd h b) 0 ∧ Scat (.scatMax h b) 1 ∧ Scat (.scatMin h b) 2

/-- R272: CNTSNAP writes the 256 routing counters to two rows and clears them; no other row changes. The instant is log 13's
choice. -/
def Sys2Proof.Spec.CounterSnapshot : Prop :=
  ∀ (s : State) (h : CmdHdr) (d : OpRef) (q : QEntry), AtHead s (.cntsnap h d) q → h.vcnt ≠ 0 → d.mode = 0 →
    let r := s.cur.at_; let n := d.loc.toNat
    n + 1 < s.rowLimit r → s.rowStalled r n = false → s.rowStalled r (n + 1) = false →
    ∃ t, exec (.cntsnap h d) s = .next t ∧ Starts s (.cntsnap h d) q [] none none [] t ∧
      (∀ i : Fin 256, t.myCore.cnt[i] = 0) ∧
      (∀ j, j < 128 → lane (t.row r n) 32 j = (s.myCore.cnt[Fin.ofNat 256 j]).toNat ∧
        lane (t.row r (n + 1)) 32 j = (s.myCore.cnt[Fin.ofNat 256 (128 + j)]).toNat) ∧
      (∀ j, rowAt r j ≠ rowAt r n → rowAt r j ≠ rowAt r (n + 1) → t.row r j = s.row r j)

/-- The six global atomics and CNTSNAP: the statements `GlobalAtomics`, `CounterSnapshot`. -/
def Obligations.AtomicsAndCounters : Prop := Spec.GlobalAtomics ∧ Spec.CounterSnapshot

/-- R275: an RWRITE through an open remote-map entry fixes its rows and starts; to this package its write is still to arrive. -/
def Sys2Proof.Spec.RemoteWriteStarts : Prop :=
  ∀ (s : State) (h : CmdHdr) (b : RwriteBody) (q : QEntry) (p : Pipe) (w0 w1 : Word) (rows : List (CoreRef × Nat)) (k : Nat)
      (s1 : State), AtHead s (.rwrite h b) q → s1 = atStart s (.rwrite h b) → let r := s.cur.at_
    s.pipeOf r = some p → p.record.rmap[b.rent.toNat]? = some (w0, w1) → refRead s1 r b.sref (b.nrows.toNat + 1) = .ok rows k →
    s.rmapFenced w0 w1 = false → s.reachable (rmapPkg w0) = true → RowsAwake s1 (rows.take h.vcnt.toNat) →
    ∃ t, exec (.rwrite h b) s = .next t ∧ KeepsRows s t ∧
      Starts s (.rwrite h b) q (if rmapPkg w0 = s.fab.pkg then [.remote ⟨w1, rmapRing w0, rmapVcore w0, BitVec.ofNat 12 s.fab.pkg,
        BitVec.ofNat 6 (vcoreOf p.vdtab r), b.nrows, s1.rowVals (rows.take h.vcnt.toNat)⟩] else []) none none (popsOf b.sref k) t

namespace Sys2Proof.Spec

/-- The semaphores after a command that takes and signals as its header says (R254). -/
def semsAfter (h : CmdHdr) (v : Vector (BitVec 16) 64) : Vector (BitVec 16) 64 :=
  let v := if h.wv then v.set h.wsem.toFin (v[h.wsem.toFin] - 1) else v
  if h.sv then v.set h.ssem.toFin (v[h.ssem.toFin] + 1) else v

end Sys2Proof.Spec

/-- R254, R256, R258: SEMSIG and SEMWAIT complete as they start: the entry is gone, one is taken from the semaphore it waits
for and one is added to the semaphore it signals, and the queue is held for 1 clk. A QFENCE goes once it stands at the head of
every queue it names, and signals once; until then its entries stay. -/
def Sys2Proof.Spec.QueueSynchronization : Prop :=
  ∀ (s : State) (h : CmdHdr) (m : BitVec 6) (q : QEntry) (g : Nat),
    let Sem (i : Instr) : Prop := AtHead s i q → cmdHdrOf i = h →
      (h.sv = true → (if h.wv = true ∧ h.ssem = h.wsem then s.myCore.sem[h.ssem.toFin] - 1 else s.myCore.sem[h.ssem.toFin]) ≠ 65535) →
      ∃ t, exec i s = .next t ∧ t.myCore.sem = semsAfter h s.myCore.sem ∧
        t.myCore.eng[engOf i] = (s.myCore.eng[engOf i]).drop 1 ∧ (∀ e : Fin 6, e ≠ engOf i → t.myCore.eng[e] = s.myCore.eng[e]) ∧
        t.myCore.engFree[engOf i] = startTime s i + tClk ∧ t.me.x = s.me.x ∧ KeepsRows s t
    let AtFence (e : Fin 6) : Prop := ∃ x rest, s.myCore.eng[e] = x :: rest ∧ x.cmd = .qfence h m ∧ x.grp = g ∧ ∀ y ∈ rest, y.grp ≠ g
    Sem (.semsig h) ∧ Sem (.semwait h) ∧
    (m ≠ 0 → h.wv = false → (∀ e : Fin 6, m.getLsbD e.val = true → AtFence e) → (h.sv = true → s.myCore.sem[h.ssem.toFin] ≠ 65535) →
      ∃ t, exec (.qfence h m) s = .next t ∧ t.myCore.sem = semsAfter h s.myCore.sem ∧ KeepsRows s t ∧
        ∀ e : Fin 6, t.myCore.eng[e] = if m.getLsbD e.val then (s.myCore.eng[e]).drop 1 else s.myCore.eng[e]) ∧
    (∀ e0 : Fin 6, m.getLsbD e0.val = true → s.myCore.fenceAt e0 g = false →
      (∀ e : Fin 6, ∀ x, (s.myCore.eng[e]).head? = some x → x.cmd = .qfence h m → x.grp = g) →
      ∃ t, exec (.qfence h m) s = .next t ∧ ∀ e : Fin 6, (t.myCore.eng[e]).map QEntry.cmd = (s.myCore.eng[e]).map QEntry.cmd)

/-- R254, R256, R149: a started copy, matrix, atomic or scatter command with nothing left to write completes no earlier than its
duration after its start: it leaves its queue, its amax joins the register it names, and the semaphore it signals gains one;
VSTAT and every other vector register stay; a row that it had still to write holds its data. -/
def Sys2Proof.Spec.CommandsComplete : Prop :=
  ∀ (s : State) (r : CoreRef) (e : Fin 6) (q : QEntry) (rest : List QEntry) (at_ : Nat) (am : Option (BitVec 33))
      (dst : CoreRef) (row : Nat) (data : Row),
    (s.core r).eng[e] = q :: rest → (∀ h m, q.cmd ≠ .qfence h m) → (∀ h b, q.cmd ≠ .rwrite h b) → (∀ h b, q.cmd ≠ .migrate h b) →
    (∀ k, (s.core r).task = some k → k.phase ≠ .faulted) → let h := cmdHdrOf q.cmd
    (h.sv = true → (s.core r).sem[h.ssem.toFin] ≠ 65535) →
    let Done (t : State) : Prop := exec (.commandComplete r (BitVec.ofNat 3 e.val)) s = .next t ∧
      t.now = max s.now (at_ + durTicks s r q.shape q.cmd) ∧ (t.core r).eng[e] = rest ∧
      (t.core r).sem = (if h.sv then (s.core r).sem.set h.ssem.toFin ((s.core r).sem[h.ssem.toFin] + 1) else (s.core r).sem) ∧
      (∀ n v, amaxOf q.cmd = some n → am = some v → (t.core r).vf.am[n.toFin] = amaxJoin (s.core r).vf.am[n.toFin] v) ∧
      (t.core r).vf = { (s.core r).vf with am := (t.core r).vf.am } ∧
      (∀ a, t.homes.byte a = s.homes.byte a)
    (q.state = .started at_ [] none am [] → ∃ t, Done t ∧ ∀ c i, (t.core c).row i = (s.core c).row i) ∧
    (q.state = .started at_ [.row dst row data] none am [] → (s.core dst).rowStalled row = false →
      ∃ t, Done t ∧ ∀ c i, (t.core c).row i = if c = dst ∧ i = row then data else (s.core c).row i)

/-- QFENCE, SEMSIG, SEMWAIT, and the completion of commands: the statements `QueueSynchronization`, `CommandsComplete`. -/
def Obligations.QueuesOfCommands : Prop := Spec.QueueSynchronization ∧ Spec.CommandsComplete

namespace Sys2Proof.Spec

/-- Every write of another package that stands in the remote-write buffer names a pipeline that has not ended. -/
abbrev BufferLive (s : State) : Prop :=
  ∀ x ∈ s.fab.rwbuf, x.srcPkg.toNat = s.fab.pkg ∨ ∃ p ∈ s.fe.pipes, p.handle = x.handle ∧ p.ended = false

end Sys2Proof.Spec

/-- R364 to R366, R275: a remote write that names no open pipeline is refused and logged with code 0x4C; one that names a full
instance, with room in the buffer, is buffered; one that names an instance with a free slot writes its rows there and
publishes the slot. A refusal that reaches the sender ends its task with the remote-write-refused fault 0x12. -/
def Sys2Proof.Spec.RemoteWritesArrive : Prop :=
  ∀ (s : State) (w : RemoteWrite) (p : Pipe) (m : Member) (r : CoreRef) (e : Fin 6) (q : QEntry) (rest : List QEntry) (at_ : Nat)
      (pops : List (Nat × Nat)) (n : BitVec 6) (k : Task) (p' : Pipe),
    ((∀ x ∈ s.fe.pipes, x.handle ≠ w.handle) → BufferLive s → ∃ t, exec (.remoteWriteArrival w) s = .next t ∧
      (∃ l, t.mgmt.log = s.mgmt.log ++ [l] ∧ l.code = 0x4C) ∧ t.fab.rwbuf = s.fab.rwbuf ∧ KeepsRows s t) ∧
    ((s.fe.pipes.find? fun x => x.handle == w.handle && !x.ended && x.shut.isNone) = some p → p.pre = .none → p.savedFor w = none →
      BufferLive s → (p.pool.find? fun x => x.vnum == w.vcore.toNat && p.record.consumer w.ring.val == some x.stage) = some m →
      instTakes ((s.core m.at_).ring w.ring.val) w = true →
      (s.fab.rwbuf.any fun x => x.handle == w.handle && x.ring == w.ring && x.vcore == w.vcore) = false →
      let g := (s.core m.at_).ring w.ring.val
      (g.free = 0 → s.fab.rwbuf.length < 1024 → ∃ t, exec (.remoteWriteArrival w) s = .next t ∧
        t.fab.rwbuf = s.fab.rwbuf ++ [w] ∧ KeepsRows s t) ∧
      (g.free ≠ 0 → s.slotStalled m.at_ g (ptrIdx g.resv) w.rows.length = false → ∃ t, exec (.remoteWriteArrival w) s = .next t ∧
        (t.core m.at_).ring w.ring.val = g.reserve.publish g.resv ∧ (∀ a, t.homes.byte a = s.homes.byte a))) ∧
    ((s.core r).eng[e] = q :: rest → q.state = .started at_ [] none none pops → q.rent = some n → (s.core r).task = some k →
      k.phase ≠ .faulted → k.gangSize = 1 → s.pipe? k.pipe = some p' →
      ∃ t rec_ p2, exec (.remoteWriteRefused r (BitVec.ofNat 3 e.val)) s = .next t ∧ (t.core r).eng[e] = rest.filter QEntry.started ∧
        t.pipe? k.pipe = some p2 ∧ p2.faults = p'.faults ++ [rec_] ∧ rec_.code = 0x12 ∧ rec_.addr = n.setWidth 64 ∧
        (∀ x, (t.core r).task = some x → x.phase = .faulted) ∧ (∀ a, t.homes.byte a = s.homes.byte a))

/-- RWRITE starts, and a remote write arrives or is refused: the statements `RemoteWriteStarts`, `RemoteWritesArrive`. -/
def Obligations.RemoteWrites : Prop := Spec.RemoteWriteStarts ∧ Spec.RemoteWritesArrive

/-! ## Messages at the home slices (05_memory.md, 07_ordering.md) -/

namespace Sys2Proof.Spec

/-- No byte of memory reads otherwise: at its home, or as a die sees it. -/
structure KeepsMemory (s t : State) : Prop where
  memory : ∀ a, t.homes.byte a = s.homes.byte a
  seen : ∀ i a, t.dieByte i a = s.dieByte i a

/-- A request of a die for a page reaches the page's current home, which is on this package and can take it now: the
request is not behind a relayed one, no migration holds the page, no snoop is due on the line, no way of the home's cache is
awaited, and the die has room for the line (R81, R96, R98, R101). -/
abbrev AtHome (s : State) (i : Fin 6) (dla : Nat) : Prop :=
  pageOf dla ∉ (s.die i).relayed ∧
  s.sendTo i (pageOf dla) = s.homes.curHome (pageOf dla) ∧
  s.pageLocal (pageOf dla) = true ∧
  s.homes.held (pageOf dla) = false ∧
  s.homes.snoopDue (lineOf dla) = false ∧
  s.llcStall (lineOf dla) = false ∧
  (s.die i).cacheOff = false ∧
  s.canCache i (lineOf dla) = true

end Sys2Proof.Spec

/-- R92, R94: a read at a home of a line that no other die holds in M: the reader's die holds it in E where no other die
holds it and in S otherwise, a copy in E elsewhere becomes S, and the value can return; no byte of memory changes. That a copy
in E becomes S with no message is log 36. -/
def Sys2Proof.Spec.HomeAnswersReads : Prop :=
  ∀ (s : State) (c : CtxRef) (l : HeldLoad) (w : LoadWord), let i := c.at_.site; let line := lineOf w.dla
    (s.ctx c).status = .held l → l.words = [w] → l.isAcq = false → l.route = none → s.wordReady c l w = false →
    s.loadOldest c l = true → (s.die i).lastWrite w.dla = none → s.homes.isLost (.load c) = false → AtHome s i w.dla →
    (∀ j : Fin 6, j ≠ i → ∀ d tags, (s.die j).line line ≠ some (.m d tags)) →
    ∃ t l', exec (.homeRequest (.load c)) s = .next t ∧ KeepsMemory s t ∧
      (t.die i).line line = some (if (∀ j : Fin 6, j ≠ i → (s.die j).line line = none) then .e else .s) ∧
      (∀ j : Fin 6, j ≠ i → (t.die j).line line = if (s.die j).line line = some .e then some .s else (s.die j).line line) ∧
      (∀ j k, k ≠ line → (t.die j).line k = (s.die j).line k) ∧
      (t.ctx c).status = .held l' ∧ t.wordReady c l' w = true ∧ (t.ctx c).x = (s.ctx c).x ∧ (t.ctx c).pc = (s.ctx c).pc

/-- R92, R105: a write at a home of a line that no other die holds performs at package scope: the writer's die holds the line
in M, with the data of the write, and the write has left the die's list; every byte still reads as each die saw it. Where
other dies hold the line, each is asked for it and nothing else changes. -/
def Sys2Proof.Spec.HomePerformsWrites : Prop :=
  ∀ (s : State) (i : Fin 6) (n : Nat) (w : DieWrite), let line := lineOf w.dla
    (s.die i).buf[n]? = some w → w.rel = none → w.route = none → (∀ x ∈ (s.die i).buf, x.dla % 8 + x.size ≤ 8) →
    earlierSame (s.die i).buf n w = false → s.homes.isLost (.write w.ctx w.seq) = false → s.accepts i (pageOf w.dla) = true →
    AtHome s i w.dla →
    ((∀ j : Fin 6, j ≠ i → (s.die j).line line = none) →
      ∃ t data tags, exec (.homeRequest (.write i n)) s = .next t ∧ (t.die i).buf = (s.die i).buf.eraseIdx n ∧
        (t.die i).line line = some (.m data tags) ∧ (∀ k, k < w.size → byteOf data (w.dla % 128 + k) = byteOf w.data k) ∧
        KeepsMemory s t) ∧
    ((∃ j : Fin 6, j ≠ i ∧ (s.die j).line line ≠ none) →
      ∃ t, exec (.homeRequest (.write i n)) s = .next t ∧ t = { s with homes := { s.homes with snoops := t.homes.snoops } } ∧
        (∀ j : Fin 6, j ≠ i → (s.die j).line line ≠ none → ∃ x ∈ t.homes.snoops, x.site = j ∧ x.line = line ∧ x.forward = none) ∧
        KeepsMemory s t)

namespace Sys2Proof.Spec

/-- Line k stands in the cache of die i in M, with this data and these tags. -/
abbrev HoldsM (s : State) (i : Fin 6) (k : Nat) (data : LineData) (tags : List (CtxRef × BitVec 16)) : Prop :=
  (s.die i).line k = some (.m data tags) ∧ ∀ x ∈ (s.die i).cache, x.1 = k → x.2 = .m data tags

/-- Every line of its die, but those of a list, that holds a write which a release of context c with mask m covers is committed: its
data stand at its home, and the die keeps it in E (R114). -/
abbrev Commits (s t : State) (c : CtxRef) (m : BitVec 16) (but : List Nat) : Prop :=
  ∀ k data tags, HoldsM s c.at_.site k data tags → coversTags c m tags = true → k ∉ but → s.homes.noKey (linePage k) = false →
    (t.die c.at_.site).line k = some .e ∧ ∀ j, j < 128 → t.homes.byte (k * 128 + j) = byteOf data j

end Sys2Proof.Spec

/-- R114, R117: a REL of package or fabric scope waits at its line's home while a write that it covers waits in its die's list; then
it performs, as a write does, with every line committed that holds a covered write. One of core or die scope performs at package
scope whatever else waits, commits nothing, and is noted at its line's home with its context, mask and issue number. Where a die is
noted on the line, the home forces its publish first (R118). -/
def Sys2Proof.Spec.ReleasePerformsAtHome : Prop :=
  ∀ (s : State) (i : Fin 6) (n : Nat) (w : DieWrite) (ri : RelInfo), let line := lineOf w.dla
    (s.die i).buf[n]? = some w → w.rel = some ri → w.ctx.at_.site = i →
    (2 ≤ ri.scope.toNat → (∃ x ∈ (s.die i).buf, x.covered w.ctx ri.mask ri.seq = true) → exec (.homeRequest (.write i n)) s = .next s) ∧
    (w.route = none → w.dla % 8 = 0 → w.size = 8 → earlierSame (s.die i).buf n w = false → s.homes.isLost (.write w.ctx w.seq) = false →
      s.accepts i (pageOf w.dla) = true → AtHome s i w.dla → (∀ j : Fin 6, j ≠ i → (s.die j).line line = none) →
      (2 ≤ ri.scope.toNat → ∀ x ∈ (s.die i).buf, x.covered w.ctx ri.mask ri.seq = false) →
      (∀ x ∈ (s.die i).buf, x.dla % 8 + x.size ≤ 8) →
      (s.homes.noted line = true → exec (.homeRequest (.write i n)) s = .next (s.force line)) ∧
      (s.homes.noted line = false → ∃ t data tags, exec (.homeRequest (.write i n)) s = .next t ∧
        (t.die i).buf = (s.die i).buf.eraseIdx n ∧ (t.die i).line line = some (.m data tags) ∧
        (∀ k, k < 8 → byteOf data (w.dla % 128 + k) = byteOf w.data k) ∧
        (2 ≤ ri.scope.toNat → Commits s t w.ctx ri.mask [line] ∧ t.homes.notes = s.homes.notes) ∧
        (ri.scope.toNat < 2 → t.homes.notes = s.homes.notes ++ [⟨line, i, w.ctx, ri.mask, ri.seq, none, false⟩] ∧ KeepsMemory s t)))

/-- A home answers reads and performs writes: the statements `HomeAnswersReads`, `HomePerformsWrites`,
`ReleasePerformsAtHome`. -/
def Obligations.HomeAnswers : Prop := Spec.HomeAnswersReads ∧ Spec.HomePerformsWrites ∧ Spec.ReleasePerformsAtHome

/-- R67, R282, R120: an FPUT or FRESET that is its context's oldest access acts at its cell's current home, once no write of its die
to the word waits: FRESET clears the cell's tag and value; FPUT, when all that its release covers has performed, commits what it
covers, fills an empty cell and takes one from each record parked there, of which none is left whose count is 0; to a full cell it
is the future-full fault 0x0D of its task, with the cell's address, and the cell stays. The access is then gone. -/
def Sys2Proof.Spec.FuturesAtHome : Prop :=
  ∀ (s : State) (c : CtxRef) (n dla : Nat) (v : Word) (a : Access) (k : Task) (p : Pipe), let i := c.at_.site
    (s.ctx c).out[n]? = some a → s.oldest c a = true → dla % 8 = 0 → (∀ x ∈ (s.die i).buf, x.dla / 8 ≠ dla / 8) →
    s.reachable (s.homes.slice dla).pkg = true → s.routed i (pageOf dla) = true → s.writeClear (lineOf dla) = true →
    s.homes.noKey (pageOf dla) = false → let t := s.perform c n
    let Gone : Prop := ∀ b ∈ (t.ctx c).out, b.seq ≠ a.seq
    (a.op = .freset dla → t.homes.tagFull dla = false ∧ t.cohN dla 8 = 0 ∧ t.homes.parked = s.homes.parked ∧ Gone) ∧
    (a.op = .fput dla v → (∀ x ∈ (s.die i).buf, x.covered c allCls a.seq = false) →
      (s.homes.tagFull dla = false → t.homes.tagFull dla = true ∧ t.cohN dla 8 = v.toNat ∧ Commits s t c allCls [] ∧ Gone ∧
        (∀ x ∈ t.homes.parked, ¬(x.count = 0 ∧ x.squash = none)) ∧
        (∀ x ∈ s.homes.parked, x.cell = dla → x.count ≠ 1 ∨ x.squash ≠ none → x.count ≠ 0 →
          ({ x with count := x.count - 1 } : Parked) ∈ t.homes.parked) ∧
        (∀ x ∈ s.homes.parked, x.cell ≠ dla → x.count ≠ 0 → x ∈ t.homes.parked) ∧
        (∀ x ∈ s.homes.parked, x.cell = dla → x.count = 1 → x.squash = none → x.away = false → s.pipe? x.pipe = some p →
          p.modes[x.record.stage]? ≠ some .stopped → ∃ p', t.pipe? x.pipe = some p' ∧ ∃ y ∈ p'.replays, y.record = x.record)) ∧
      (s.homes.tagFull dla = true → (s.core c.at_).task = some k → k.phase ≠ .faulted → k.gangSize = 1 → s.pipe? k.pipe = some p →
        t.homes.tagFull dla = true ∧ t.cohN dla 8 = s.cohN dla 8 ∧ Commits s t c allCls [] ∧ Gone ∧
        (∀ x, (t.core c.at_).task = some x → x.phase = .faulted) ∧
        ∃ p' rec_, t.pipe? k.pipe = some p' ∧ p'.faults = p.faults ++ [rec_] ∧ rec_.code = 0x0D ∧ rec_.addr = a.hva ∧ rec_.pc = a.pc))

/-- FGET, FPUT and FRESET: the statements `FutureGet`, `FuturePutAndReset`, `FuturesAtHome`. -/
def Obligations.Futures : Prop := Spec.FutureGet ∧ Spec.FuturePutAndReset ∧ Spec.FuturesAtHome

/-- R92, R93, R351: a die that answers a snoop gives up the line, and its M data stand at the home; an owner that forwards a
line it holds in M keeps it in O, the home has its data, and the reader, where it keeps a copy, holds the line in S. The snoop
that was answered is gone, and no other; every other byte at the home, and every other line of the die, is as before. -/
def Sys2Proof.Spec.SnoopsAndForwards : Prop :=
  ∀ (s : State) (site : Fin 6) (line : Nat) (x : Snoop) (data : LineData) (tags : List (CtxRef × BitVec 16)) (i : Fin 6),
    s.homes.snoopAt site line = some x → s.homes.isLost (.inv site line) = false → (s.die site).line line = some (.m data tags) →
    s.homes.noKey (linePage line) = false →
    let AtHomeNow (t : State) : Prop := ∀ a, t.homes.byte a = if lineOf a = line then byteOf data (a % 128) else s.homes.byte a
    (x.forward = none → ∃ t, exec (.snoopResponse site line) s = .next t ∧ AtHomeNow t ∧ (t.die site).line line = none ∧
      (∀ k, k ≠ line → (t.die site).line k = (s.die site).line k) ∧ (∀ j, j ≠ site → (t.die j).line = (s.die j).line) ∧
      t.homes.snoops = s.homes.snoops.erase x) ∧
    (x.forward = some i → i ≠ site → (s.die i).canFill = true → ∃ t, exec (.ownerForward site line) s = .next t ∧ AtHomeNow t ∧
      (t.die site).line line = some .o ∧ (t.die i).line line = some .s ∧
      (∀ j k, k ≠ line → (t.die j).line k = (s.die j).line k) ∧ t.homes.snoops = s.homes.snoops.erase x) ∧
    (x.forward = some site → ∃ t, exec (.ownerForward site line) s = .next t ∧ AtHomeNow t ∧ (t.die site).line line = some .o ∧
      (∀ k, k ≠ line → (t.die site).line k = (s.die site).line k) ∧ (∀ j, j ≠ site → (t.die j).line = (s.die j).line) ∧
      t.homes.snoops = s.homes.snoops.erase x)

/-- R96, R97: a redirect fills or replaces the requester's owner-cache entry of the page, and leaves the others of a cache
that is not full; R209, R210: an MWAIT whose time limit has come disarms its monitor and goes on. -/
def Sys2Proof.Spec.RedirectsAndTimeLimits : Prop :=
  ∀ (s : State) (n : Nat) (i : Fin 6) (page : Nat) (h : Home) (c : CtxRef) (tick : Nat),
    (s.homes.redirects[n]? = some (.die i, page, h) → ∃ t, exec (.redirect n) s = .next t ∧
      lookup page (t.die i).owners = some h ∧ t.homes.redirects = s.homes.redirects.eraseIdx n ∧
      ((s.die i).owners.length < 4096 → ∀ p, p ≠ page → lookup p (t.die i).owners = lookup p (s.die i).owners) ∧
      (∀ j, j ≠ i → t.die j = s.die j) ∧ KeepsMemory s t) ∧
    ((s.ctx c).status = .waiting (.mwait tick) → ∃ t, exec (.mwaitTimeout c) s = .next t ∧ t.cur = c ∧ t.now = max s.now tick ∧
      t.me.mon = ⟨none, false⟩ ∧ t.me.x = (s.ctx c).x ∧ GoesOn { s with cur := c } t ∧ KeepsMemory s t)

/-- R117: a holder that is asked for a forced publish makes the write that its release covered perform at package scope: its
bytes stand at their home and it has left the die's list, and its note is acknowledged, no other; the acknowledgement clears
the note. -/
def Sys2Proof.Spec.ForcedPublishes : Prop :=
  ∀ (s : State) (line : Nat) (n : Note) (w : DieWrite),
    ((s.homes.notes.find? fun x => x.line == line && x.sent.isSome && !x.acked) = some n →
      coveredRun n.ctx ⟨1, n.mask, n.seq⟩ (s.die n.site).buf = [w] → w.rel = none → s.publishOpen [w] w = true →
      s.homes.noKey (pageOf w.dla) = false → w.size ≤ 8 → w.dla % 8 + w.size ≤ 8 →
      ∃ t, exec (.forcedPublish line) s = .next t ∧
        (∀ k, k < w.size → t.homes.byte (w.dla + k) = byteOf w.data k) ∧
        (t.die n.site).buf = (s.die n.site).buf.filter (· ≠ w) ∧
        t.homes.notes = s.homes.notes.map fun x => if x = n then { n with acked := true } else x) ∧
    (∃ t, exec (.forcedPublishAck line) s = .next t ∧
      t = { s with homes := { s.homes with notes := s.homes.notes.filter fun x => !(x.line == line && x.acked) } } ∧ KeepsMemory s t)

/-- Snoops, forwards and forced publishes: the statements `SnoopsAndForwards`, `ForcedPublishes`. -/
def Obligations.SnoopsAndPublishes : Prop := Spec.SnoopsAndForwards ∧ Spec.ForcedPublishes

/-- R155, R195, R196: the word that a context waits for, at its program counter or after a REP, comes into the instruction cache
of its core, as the four bytes stand in global memory; the context runs, its program counter unchanged. -/
def Sys2Proof.Spec.FetchReturns : Prop :=
  ∀ (s : State) (c : CtxRef) (d hva : Nat) (asked : Option Nat), (s.ctx c).status = .waiting (.fetch hva asked) →
    s.lookupXlat (.engine c.at_ ctxEng) (s.pasidOf c.at_) hva false = .hit d → s.dlaOk d = true →
    s.routed c.at_.site (pageOf d) = true → s.reachable (s.homes.slice d).pkg = true → s.readClear (some c.at_.site) (lineOf d) = true →
    s.homes.poisoned (lineOf d) = false → lineOf d ∉ (s.die c.at_.site).badLines →
    ∃ t w, exec (.instructionFetchReturn c) s = .next t ∧ t.cached c.at_ hva = some w ∧ (∀ k, k < 4 → byteOf w k = s.cohByte (d + k)) ∧
      t.ctx c = { s.ctx c with status := .running } ∧ KeepsMemory s t

/-- R76 to R78, R270, R372: a completion that grants a read fills the requester's caches with its range, so that its address
is found; one that does not sends a page request, of which at most 512 are outstanding, but for a PREFETCH, which sends none;
a page request that the host grants leaves the queue, and one that it refuses is noted as refused for whoever still waits for
it. An invalidation, with fewer than 32 outstanding, removes every translation of its range from every cache, and keeps the
others; its completion is returned once nothing uses what it removed. -/
def Sys2Proof.Spec.TranslationMessages : Prop :=
  ∀ (s : State) (n : Nat) (q : XlatReq) (lg dla pasid hva : Nat) (wr : Bool) (v : Inval),
    (s.homes.ats[n]? = some q → q.wr = false → 12 ≤ lg → lg ≤ 30 →
      (∀ d, s.lookupXlat q.user q.pasid (q.page * 4096) false ≠ .hit d) → ∃ t, exec (.atsCompletion n true lg dla wr) s = .next t ∧
        t.lookupXlat q.user q.pasid (q.page * 4096) false = .hit (dla / 2 ^ lg * 2 ^ lg + q.page * 4096 % 2 ^ lg) ∧
        t.homes.ats = s.homes.ats.eraseIdx n ∧ KeepsMemory s t) ∧
    (s.homes.ats[n]? = some q → q.skip = false → s.homes.pri.length < 512 → ∃ t, exec (.atsCompletion n false lg dla wr) s = .next t ∧
      t.homes.ats = s.homes.ats.eraseIdx n ∧ t.homes.pri = s.homes.pri ++ [q] ∧ t.dies = s.dies ∧ KeepsMemory s t) ∧
    (s.homes.ats[n]? = some q → q.skip = false → 512 ≤ s.homes.pri.length → exec (.atsCompletion n false lg dla wr) s = .next s) ∧
    (s.homes.ats[n]? = some q → q.skip = true → ∃ t, exec (.atsCompletion n false lg dla wr) s = .next t ∧
      t.homes.ats = s.homes.ats.eraseIdx n ∧ t.homes.pri = s.homes.pri ∧ t.dies = s.dies ∧ KeepsMemory s t) ∧
    (s.homes.pri[n]? = some q → q.wr = false → ∃ t, exec (.pageRequestResponse n true dla) s = .next t ∧
      t.homes.pri = s.homes.pri.eraseIdx n ∧ t.homes.refused = s.homes.refused ∧ t.dies = s.dies ∧ KeepsMemory s t) ∧
    (s.homes.pri[n]? = some q → q.wr = false → ∃ t, exec (.pageRequestResponse n false dla) s = .next t ∧
      t.homes.pri = s.homes.pri.eraseIdx n ∧
      t.homes.refused = (if s.awaits q then s.homes.refused ++ [q] else s.homes.refused) ∧ t.dies = s.dies ∧ KeepsMemory s t) ∧
    (s.homes.invals.length < 32 → ∃ t, exec (.atsInvalidation pasid hva lg) s = .next t ∧
      t.allXlats = s.allXlats.filter (fun x => !x.inRange pasid hva lg) ∧
      (∃ x, t.homes.invals = s.homes.invals ++ [x] ∧ x.pasid = pasid ∧ x.hva = hva ∧ x.lg = lg) ∧ KeepsMemory s t) ∧
    (s.homes.invals[n]? = some v →
      ((∀ x ∈ v.uses, s.inUse x = false) → exec (.atsInvalidationDone n) s =
        .next { s with homes := { s.homes with invals := s.homes.invals.eraseIdx n } }) ∧
      ((∃ x ∈ v.uses, s.inUse x = true) → exec (.atsInvalidationDone n) s = .next s))

/-- Redirects, time limits, instruction fetches and translation messages: the statements `RedirectsAndTimeLimits`,
`FetchReturns`, `TranslationMessages`. -/
def Obligations.FetchesAndTranslations : Prop := Spec.RedirectsAndTimeLimits ∧ Spec.FetchReturns ∧ Spec.TranslationMessages

/-- R250, R251, R252, R242: when the four words of a KLD return, the command register holds them, word j in bits 64j up; those of
an SHLD, where they pass the checks of a shape record, stand in the shape register, and else its task takes the shape-check fault
0x04; those of a PPLD replace the whole table, a segment from each 32 bytes, its words of 32 bits in order; each as one, the
context going on, and nothing else of it or of memory changed. -/
def Sys2Proof.Spec.CommandLoadsReturn : Prop :=
  ∀ (s : State) (c : CtxRef) (l : HeldLoad) (k : BitVec 3) (h : BitVec 4) (n : Nat), Returns s c l →
    let vals := l.words.map (s.wordValue c)
    let IsQuad (v : CmdWord) : Prop := ∀ j : Fin 4, v.extractLsb' (64 * j.val) 64 = vals.getD j.val 0
    let Done (t : State) : Prop := exec (.loadValueReturn c) s = .next t ∧ t.cur = c ∧ t.me.x = (s.ctx c).x ∧ GoesOn { s with cur := c } t ∧
      (∀ a, t.homes.byte a = s.homes.byte a) ∧ (∀ j a, t.dieByte j a = s.dieByte j a)
    (l.dest = .k k → l.words.length = 4 → ∃ t, Done t ∧ IsQuad t.me.k[k.toFin] ∧
      (∀ j : Fin 8, j ≠ k.toFin → t.me.k[j] = (s.ctx c).k[j]) ∧ t.myCore.h = (s.core c.at_).h ∧ t.myCore.vf = (s.core c.at_).vf) ∧
    (l.dest = .h h → l.words.length = 4 → ∃ v, IsQuad v ∧
      (shapeOk s v = true → ∃ t, Done t ∧ t.myCore.h = (s.core c.at_).h.set h.toFin v ∧ t.me.k = (s.ctx c).k ∧ t.myCore.vf = (s.core c.at_).vf) ∧
      (shapeOk s v = false → exec (.loadValueReturn c) s = .next (({ s with cur := c } : State).fault 0x04 0))) ∧
    (l.dest = .ppu n → l.words.length = 4 * n → ∃ t, Done t ∧ t.me.k = (s.ctx c).k ∧ t.myCore.h = (s.core c.at_).h ∧
      t.myCore.vf = { (s.core c.at_).vf with ppu := t.myCore.vf.ppu, ppuN := n, ppuSet := true } ∧ t.myCore.vf.ppu.length = n ∧
      ∀ j g, t.myCore.vf.ppu[j]? = some g → let w (b : Nat) : Word := vals.getD (4 * j + b) 0
        g.bp = (w 0).extractLsb' 0 32 ∧ g.c0 = (w 0).extractLsb' 32 32 ∧ g.c1 = (w 1).extractLsb' 0 32 ∧
        g.c2 = (w 1).extractLsb' 32 32 ∧ g.c3 = (w 2).extractLsb' 0 32)

/-- KSET, KLD, KST, SHLD, PPLD and SHAPE: the statements `CommandAssembly`, `CommandStore`, `ShapeRegister`,
`CommandLoadsReturn`. -/
def Obligations.CommandRegisters : Prop := Spec.CommandAssembly ∧ Spec.CommandStore ∧ Spec.ShapeRegister ∧ Spec.CommandLoadsReturn

/-- R276, R46: when the image of a SPAWN returns, a record whose counter and cell are aligned, whose reserved fields are 0, whose
stage its task may spawn, and whose addresses translate, stands among the context's accesses with those addresses, their pages
pinned, and the context goes on; a counter or a cell that is no multiple of 8 takes the misaligned-access fault 0x02 with its
address; of an aligned record, a bad field or stage takes the record fault 0x0C with the image's address (the order of these two
is the model's choice, log 114). -/
def Sys2Proof.Spec.SpawnImageReturns : Prop :=
  ∀ (s : State) (c : CtxRef) (l : HeldLoad) (m : BitVec 16) (no j f : Nat), Returns s c l → l.dest = .spawn m no →
    let s1 : State := { s with cur := c }; let vals := l.words.map (s.wordValue c); let e := recOf vals
    let jOk : Prop := e.j = true → e.joinAddr.toNat % 8 = 0; let fOk : Prop := e.f = true → e.futRef.toNat % 8 = 0
    (¬jOk → exec (.loadValueReturn c) s = .next (s1.fault 0x02 e.joinAddr.toNat)) ∧
    (jOk → ¬fOk → exec (.loadValueReturn c) s = .next (s1.fault 0x02 e.futRef.toNat)) ∧
    (jOk → fOk → (recClean vals && spawnStageOk s1 e) = false →
      exec (.loadValueReturn c) s = .next (s1.fault 0x0C ((l.words.map LoadWord.dla).headD 0))) ∧
    (jOk → fOk → recClean vals = true → spawnStageOk s1 e = true → spawnAddr s1 e.j e.joinAddr = .ok j → spawnAddr s1 e.f e.futRef = .ok f →
      let pages := (if e.j then [pageOf j] else []) ++ if e.f then [pageOf f] else []
      (s1.pinAll pages).isSome = true → ∃ t x, exec (.loadValueReturn c) s = .next t ∧ t.cur = c ∧ GoesOn s1 t ∧
        t.me.out = (s.ctx c).out ++ [x] ∧ t.me.x = (s.ctx c).x ∧ x.seq = (s.ctx c).seq ∧ x.pages = pages ∧
        x.op = .spawn { e with joinAddr := BitVec.ofNat 64 j, futRef := BitVec.ofNat 64 f } m no ∧
        (∀ a, t.homes.byte a = s.homes.byte a) ∧ (∀ i a, t.dieByte i a = s.dieByte i a))

/-- R276, R277, R279: the SPAWN that is its context's oldest access, once the accesses that it releases have performed, puts
its record at the end of the core's local task queue, with room there and its stage open, and, with J set, adds one to the
join counter at its home, in one step. -/
def Sys2Proof.Spec.ChildrenAreQueued : Prop :=
  ∀ (s : State) (c : CtxRef) (a : Access) (rest : List Access) (k : Task) (p : Pipe) (m : StageMode) (e : TaskRec) (cls : BitVec 16) (no : Nat),
    (s.ctx c).out = a :: rest → a.op = .spawn e cls no → (∀ b ∈ rest, a.seq < b.seq) → s.drainedBefore c cls a.seq = true →
    (s.core c.at_).kids.length < 64 → (s.core c.at_).task = some k → s.pipe? k.pipe = some p → p.modes[e.stage]? = some m → m ≠ .stopped →
    let j := e.joinAddr.toNat
    (e.j = true → j % 8 = 0 ∧ (s.die c.at_.site).writing j = false ∧ s.reachable (s.homes.slice j).pkg = true ∧
      s.routed c.at_.site (pageOf j) = true ∧ s.writeClear (lineOf j) = true ∧ s.homes.noKey (pageOf j) = false) →
    ∃ t x, exec (.spawnEnqueue c) s = .next t ∧ (t.core c.at_).kids = (s.core c.at_).kids ++ [x] ∧ x.record = e ∧ x.pipe = k.pipe ∧
      (∀ b ∈ (t.ctx c).out, b.seq ≠ a.seq) ∧ (t.ctx c).x = (s.ctx c).x ∧
      (e.j = true → t.cohN j 8 = (s.cohN j 8 + 1) % 2 ^ 64) ∧ (e.j = false → KeepsMemory s t)

/-- SPAWN, JOIN, and the queueing of a spawned child: the statements `SpawnAndJoin`, `ChildrenAreQueued`, `SpawnImageReturns`. -/
def Obligations.SpawnsAndJoins : Prop := Spec.SpawnAndJoin ∧ Spec.ChildrenAreQueued ∧ Spec.SpawnImageReturns

/-! ## The life of tasks and pipelines (03_execution.md, 19_tasks.md, 21_launch.md, 23_pipelines.md, 25_faults.md) -/

namespace Sys2Proof.Spec

/-- The context of a task that starts at pc: it runs there, x1 to x8 hold the record's arguments and every other register
holds 0, its monitor is not armed and nothing of it is outstanding (R48, R168). -/
structure Fresh (c : Context) (pc : Word) (args : Vector Word 8) (vdtab : Word) : Prop where
  pc : c.pc = pc
  status : c.status = .running
  args : ∀ j : Fin 8, c.rd (BitVec.ofNat 5 (j.val + 1)) = args[j]
  zero : ∀ r : BitVec 5, r.toNat = 0 ∨ 9 ≤ r.toNat → c.rd r = 0
  k : ∀ r : Fin 8, c.k[r] = 0
  vdtab : c.vdtab = vdtab
  idle : c.rep = none ∧ c.mon = ⟨none, false⟩ ∧ c.out = []

end Sys2Proof.Spec

/-- R48, R49, R324, R180: a pending seed record of a stage of gang size 1 whose events are set, for which a free member holds
its claims and the reservations can be made, starts there: the record runs with its claims and reservations, L, C and S stand
at the three words of the entry triple with the arguments in x1 to x8, queues, semaphores, shape registers, VTYPE and routing
counters are 0, LFSR is 1 (R143), and the record is no longer pending. -/
def Obligations.TaskStarts : Prop :=
  ∀ (s s1 : State) (id : Nat) (stage : Fin 16) (q : Pipe) (d : StageDecl) (n : Nat) (e : TaskRec) (more : List (Nat × Nat × TaskRec))
      (r : CoreRef) (resv : List Resv),
    s.pipe? id = some q → q.id = id → q.record.stages[stage.val]? = some d → q.isStopped stage.val = false → q.ended = false → q.pre = .none →
    q.seeds = [] → q.tmplDue = [] → s.lowerStarts q stage.val = false → d.gang = 1 → s.kidsOf q stage.val = [] → (q.replays.filter fun x => x.record.stage == stage.val) = [] →
    (q.seedRecs.filter fun x => x.1 == stage.val) = (stage.val, n, e) :: more →
    e.waitEv &&& ~~~q.events = 0 → s.startMember q d stage.val none = some r → reserveOuts q [] s d.outs = some (s1, resv) →
    ∃ t k, exec (.taskStart id stage) s = .next t ∧ (t.core r).task = some k ∧
      k.record = e ∧ k.pipe = id ∧ k.phase = .running ∧ k.kind = .seed ∧ k.gangSize = 1 ∧ k.sideEffect = false ∧ k.claims = d.ins ∧ k.resv = resv ∧
      Fresh ((t.core r).ctx .load) d.entry e.args q.vdtab ∧ Fresh ((t.core r).ctx .compute) (wrap (u d.entry + 4)) e.args q.vdtab ∧
      Fresh ((t.core r).ctx .store) (wrap (u d.entry + 8)) e.args q.vdtab ∧
      (∀ j : Fin 4, (t.core r).lq[j] = [] ∧ (t.core r).sq[j] = []) ∧ (∀ j : Fin 64, (t.core r).sem[j] = 0) ∧
      (∀ j : Fin 16, (t.core r).h[j] = 0) ∧ (t.core r).vf.vtype = 0 ∧ (t.core r).vf.lfsr = 1 ∧ (∀ j : Fin 256, (t.core r).cnt[j] = 0) ∧
      (∀ ring c, d.ins = [(ring, c)] → ((t.core r).ring ring).claim = ((s1.core r).ring ring).advanceN ((s1.core r).ring ring).claim c) ∧
      (∀ p, t.pipe? id = some p → (stage.val, n, e) ∉ p.seedRecs) ∧ KeepsMemory s t

/-- R52: a Retiring task with no command, claim, access or release left raises its signalled events; with J it takes one from
its join counter, with F it fills its cell with x1 as C held it at its EXIT; then it is counted as retired and leaves its
core. With F and a cell that is full it is not: the cell stays, and the task ends with the future-full fault 0x0D, of CTX 4
and PC 0, its events and its counter as they were set. -/
def Sys2Proof.Spec.TaskRetires : Prop :=
  ∀ (s : State) (r : CoreRef) (k : Task) (p : Pipe), (s.core r).task = some k → k.phase = .retiring → s.pipe? k.pipe = some p →
    (∀ e : Fin 6, (s.core r).eng[e] = []) → k.unpopped = none → s.coreReleased r = true →
    (∀ n, s.commitCovered ⟨r, n⟩ allCls = s) →
    let Ready (a : Nat) : Prop := a % 8 = 0 ∧ s.dlaOk a = true ∧ s.retireRouted r a = true ∧ s.writeClear (lineOf a) = true ∧
      s.homes.noKey (pageOf a) = false
    let Done (t : State) : Prop := exec (.taskRetire r) s = .next t ∧ (t.core r).task = none ∧ (∀ n, ((t.core r).ctx n).status = .stopped) ∧
      ∃ p', t.pipe? k.pipe = some p' ∧ p'.retired = p.retired + 1 ∧ p'.faulted = p.faulted ∧ p'.events = p.events ||| k.record.sigEv
    let j := k.record.joinAddr.toNat; let f := k.record.futRef.toNat
    (k.record.j = false → k.record.f = false → ∃ t, Done t ∧ KeepsMemory s t) ∧
    (k.record.j = true → k.record.f = false → Ready j → ∃ t, Done t ∧ t.cohN j 8 = (s.cohN j 8 + 2 ^ 64 - 1) % 2 ^ 64) ∧
    (k.record.j = false → k.record.f = true → Ready f → s.homes.tagFull f = false → ∃ t, Done t ∧ t.homes.tagFull f = true ∧
      t.cohN f 8 = k.x1AtExit.toNat) ∧
    (k.record.j = true → k.record.f = true → Ready j → Ready f → j ≠ f → s.homes.tagFull f = false → ∃ t, Done t ∧
      t.cohN j 8 = (s.cohN j 8 + 2 ^ 64 - 1) % 2 ^ 64 ∧ t.homes.tagFull f = true ∧ t.cohN f 8 = k.x1AtExit.toNat) ∧
    (k.record.f = true → (k.record.j = true → Ready j ∧ j ≠ f) → Ready f → s.homes.tagFull f = true → k.gangSize = 1 →
      ∃ t p' rec_, exec (.taskRetire r) s = .next t ∧ t.pipe? k.pipe = some p' ∧ p'.retired = p.retired ∧ p'.faulted = p.faulted + 1 ∧
        p'.events = p.events ||| k.record.sigEv ∧ p'.faults = p.faults ++ [rec_] ∧ rec_.code = 0x0D ∧ rec_.ctx = 4 ∧ rec_.pc = 0 ∧
        rec_.addr = k.record.futRef ∧ (∀ x, (t.core r).task = some x → x.phase = .faulted) ∧ t.homes.tagFull f = true ∧
        t.cohN f 8 = s.cohN f 8 ∧ (k.record.j = true → t.cohN j 8 = (s.cohN j 8 + 2 ^ 64 - 1) % 2 ^ 64))

/-- R66, R67: a squash that finishes gives the task's claims back, restores LFSR to its value at the start, frees the core,
and leaves the parked record waiting for its cell alone; no byte of memory changes. -/
def Sys2Proof.Spec.TaskSquashes : Prop :=
  ∀ (s : State) (r : CoreRef) (k : Task) (p : Pipe), (s.core r).task = some k → k.phase = .squashing → s.pipe? k.pipe = some p → p.mark = none →
    ∃ t, exec (.taskSquash r) s = .next t ∧ (t.core r).task = none ∧ (t.core r).vf.lfsr = k.lfsr0 ∧
      (∀ x ∈ k.claims, ((t.core r).ring x.1).claim = ((s.core r).ring x.1).head) ∧
      (∀ x ∈ t.homes.parked, x.squash ≠ some r) ∧ KeepsMemory s t

/-- A task retires, and a squash finishes: the statements `TaskRetires`, `TaskSquashes`. -/
def Obligations.TaskEnds : Prop := Spec.TaskRetires ∧ Spec.TaskSquashes

/-- R339, R340: the first fault record that waits is written to the next slot of its pipeline's fault ring, as eight words, and
the count of the ring goes up by one; with the ring full, only its count of dropped records does; with no ring, the record is
gone. The record has then left the pipeline. -/
def Sys2Proof.Spec.FaultRecordsAreWritten : Prop :=
  ∀ (s : State) (id : Nat) (q : Pipe) (f : FaultRec) (rest : List FaultRec) (lg b d : Nat), s.pipe? id = some q → q.id = id → q.faults = f :: rest →
    let base := q.record.fring.toNat; let slot := base + 0x40 + 64 * q.written
    let Done (t : State) (w x : Nat) : Prop := exec (.faultRecord id) s = .next t ∧
      ∃ p', t.pipe? id = some p' ∧ p'.faults = rest ∧ p'.written = w ∧ p'.dropped = x
    (q.record.fringLog = none → ∃ t, Done t q.written q.dropped ∧ KeepsMemory s t) ∧
    (q.record.fringLog = some lg → s.feXlat q.pasid base true = .ok b → b % 4096 = 0 → s.homes.noKey (pageOf b) = false →
      (q.written < 2 ^ lg → s.feXlat q.pasid slot true = .ok d →
        s.writeClear (lineOf b) = true → s.writeClear (lineOf d) = true → d % 64 = 0 → s.homes.noKey (pageOf d) = false →
        (d + 64 ≤ b + 8 ∨ b + 16 ≤ d) → ∃ t, Done t (q.written + 1) q.dropped ∧ t.cohN (b + 8) 8 = (q.written + 1) % 2 ^ 64 ∧
          ∀ k, k < 8 → t.cohN (d + 8 * k) 8 = f.words.getD k 0 % 2 ^ 64) ∧
      (2 ^ lg ≤ q.written → s.writeClear (lineOf b) = true → ∃ t, Done t q.written (q.dropped + 1) ∧ t.cohN (b + 0x10) 8 = (q.dropped + 1) % 2 ^ 64))

/-- R64, R335: where every running task of a pipeline is blocked in JOIN and a child of one of them cannot start, each ends
with the join-deadlock fault 0x10 and shutdown begins with STATUS 0x03; where in a shutdown every running task is blocked in
JOIN or EVWAIT and no stage can start a task, each ends with the shutdown fault 0x11. -/
def Sys2Proof.Spec.BlockedPipelinesEnd : Prop :=
  ∀ (s : State) (id : Nat) (q : Pipe) (kid : Child) (r0 r1 : CoreRef) (k : Task), s.pipe? id = some q → q.id = id → q.pre = .none →
    let run := s.runningCores id
    let Ended (t : State) (code : BitVec 8) (status : BitVec 8) : Prop := ∃ p' recs, t.pipe? id = some p' ∧ p'.faults = q.faults ++ recs ∧
      recs.length = run.length ∧ (∀ x ∈ recs, x.code = code) ∧ p'.faulted = q.faulted + run.length ∧
      p'.shut = (if q.shut.isSome then q.shut else some status) ∧ (∀ r ∈ run, ∀ x, (t.core r).task = some x → x.phase = .faulted) ∧ KeepsMemory s t
    (r1 ∈ run → (∀ r ∈ run, s.blockedTask false r = true) → (s.core r1).task = some k → kid ∈ (s.core r0).kids → kid.pipe = id →
      kid.parent = k.gangId → s.tryStart q kid.record.stage (kidSite (r0, kid)) kid.record .child 0 1 [] none = none →
      ∃ t, exec (.joinDeadlock id) s = .next t ∧ Ended t 0x10 0x03) ∧
    (run ≠ [] → (∀ r ∈ run, s.blockedTask true r = true) → q.shut.isSome = true → s.canStart q = false →
      ∃ t, exec (.shutdownFault id) s = .next t ∧ Ended t 0x11 0x01)

/-- R336, R61, R67, R315: a shutdown completes when no task of the pipeline runs and no stage can start one: the pipeline ends,
what is parked is discarded and counted, no child of it stays queued, its requests are gone and every lease of it is
returning. -/
def Sys2Proof.Spec.ShutdownCompletes : Prop :=
  ∀ (s : State) (id : Nat) (q : Pipe), s.pipe? id = some q → q.id = id → q.shut.isSome = true → q.ended = false → q.pre = .none →
    s.runningCores id = [] → s.canStart q = false →
    ∃ t p', exec (.shutdownComplete id) s = .next t ∧ t.pipe? id = some p' ∧ p'.ended = true ∧ p'.shut = q.shut ∧
      p'.discarded = q.discarded + (s.homes.parked.filter fun x => x.pipe == id).length ∧
      (∀ x ∈ t.homes.parked, x.pipe ≠ id) ∧ (∀ x ∈ t.fe.reqs, x.pipe ≠ id) ∧ (∀ r, ∀ x ∈ (t.core r).kids, x.pipe ≠ id) ∧
      (∀ i, ∀ l ∈ (t.die i).leases, l.pipe = id → l.returning = true) ∧ KeepsMemory s t

/-- Fault records, blocked pipelines and the end of a shutdown: the statements `FaultRecordsAreWritten`,
`BlockedPipelinesEnd`, `ShutdownCompletes`. -/
def Obligations.PipelineEnds : Prop := Spec.FaultRecordsAreWritten ∧ Spec.BlockedPipelinesEnd ∧ Spec.ShutdownCompletes

/-- R326 to R330: a sample of the Reel comes one interval after the last; with a donor and a recipient, the member that the donor
gives moves to the recipient's pool: its lease and its pool entry name the recipient, and it is barred from moving for two
samples; with no member to give, the pair is marked; with no pair, no member moves. -/
def Obligations.ReelSamples : Prop :=
  ∀ (s : State) (id : Nat) (q : Pipe) (i j : Nat) (m : Member), s.pipe? id = some q → q.id = id → reelEn q = true → q.ended = false → q.pre = .none →
    q.shut = none →
    let q1 := { q with sampleAt := q.sampleAt + reelTicks q, mark := none, pool := q.pool.map fun x => { x with moved := x.moved - 1 } }
    let s1 := (s.at_ q1.sampleAt).updPipe id fun _ => q1
    let Done (t : State) (f : Pipe → Prop) : Prop := exec (.reelSample id) s = .next t ∧ t.now = max s.now (q.sampleAt + reelTicks q) ∧
      (∃ p', t.pipe? id = some p' ∧ p'.sampleAt = q.sampleAt + reelTicks q ∧ f p') ∧ KeepsMemory s t
    (s1.reelPair q1 = none → ∃ t, Done t fun p' => p'.pool = q1.pool ∧ p'.mark = none) ∧
    (s1.reelPair q1 = some (i, j) → s1.sampleGift q1 i = none → ∃ t, Done t fun p' => p'.pool = q1.pool ∧ p'.mark = some (i, j)) ∧
    (s1.reelPair q1 = some (i, j) → s1.sampleGift q1 i = some m → ∃ t, (Done t fun p' => p'.mark = none ∧
        p'.pool = q1.pool.map fun x => if x.at_ = m.at_ then { x with stage := j, moved := 2 } else x) ∧
      ∀ l ∈ (t.die m.at_.site).leases, l.pipe = id → l.kind.lead = m.at_.core → l.stage = j)

/-- R306, R307, R309, R340: an operator that expands with no operator of its chain running starts, once the CFG of its fault
ring has been read: its pipeline stands, its tasks' VDTAB binds the present, unfenced sites of SITES densely in ascending
order, one request for each stage goes to the Sett; with one running, the record stands in the shadow bank. A record that is
rejected stops its queue with error 0x07 and, with no completion address, ends its chain. -/
def Sys2Proof.Spec.OperatorsExpand : Prop :=
  ∀ (s s1 : State) (id a : Nat) (c : Chain) (r : OpRecord) (n : Option Nat) (x : WorkQueue), s.chain? id = some c → c.id = id →
    c.ending = none →
    (c.active = none → c.shadow = none → s.expand c c.opIdx = .ok r → s.readRing c.pasid r = .ok n → (∀ d ∈ r.stages, d.tmpl = 0) →
      (∀ y ∈ s.fe.pipes, y.id ≠ s.fe.nextId) →
      ∃ t p c', exec (.expansionStep id) s = .next t ∧ t.pipe? s.fe.nextId = some p ∧ p.record = { r with fringLog := n } ∧ p.chain = id ∧
        p.events = 0 ∧ p.pool = [] ∧
        (∀ v x, (s.liveSites r.sites)[v]? = some x → Bound p.vdtab v x.val) ∧
        (∀ v, (s.liveSites r.sites).length ≤ v → Unbound p.vdtab v) ∧
        t.fe.reqs.length = s.fe.reqs.length + r.stages.length ∧
        (∀ j d, r.stages[j]? = some d → ∃ y ∈ t.fe.reqs, y.pipe = p.id ∧ y.stage = j ∧ y.cls = d.cls ∧ y.count = d.pool) ∧
        t.chain? id = some c' ∧ c'.active = some p.id ∧ c'.opIdx = c.opIdx ∧ (∀ k, (t.core k).icache = [])) ∧
    (c.active = some a → c.shadow = none → c.opIdx + 1 < c.nops → s.expand c (c.opIdx + 1) = .ok r →
      ∃ t c', exec (.expansionStep id) s = .next t ∧ t.chain? id = some c' ∧ c'.shadow = some (.ok r) ∧ c'.active = some a) ∧
    (c.active = none → c.shadow = none → s.expand c c.opIdx = .rejected s1 → c.cmp = 0 → s1.chainWrites c = false → (s1.fe.queues.find? fun y => y.no == c.queue) = some x →
      x.stop = false → ∃ t x', exec (.expansionStep id) s = .next t ∧ t.chain? id = none ∧
        (t.fe.queues.find? fun y => y.no == c.queue) = some x' ∧ x'.stop = true ∧ x'.err = 0x07)

/-- R319, R320: a core and a die report once nothing of an ended pipeline is left there; with every die's report, and every
write of the chain's tasks performed, the last operator of a chain completes it: its completion record, where it has an
address, is written as four words, its interrupt is raised where it asked for one, and the chain is gone. -/
def Sys2Proof.Spec.CompletionReports : Prop :=
  ∀ (s : State) (id : Nat) (q : Pipe) (r : CoreRef) (i : Fin 6) (c : Chain) (d : Nat), s.pipe? id = some q → q.id = id → q.ended = true →
    (q.held r = true → s.coreDone q r = true → ∃ t p', exec (.completionReport id (.core r)) s = .next t ∧ t.pipe? id = some p' ∧
      p'.coreRep = addNew r q.coreRep ∧ t.dies = s.dies ∧ KeepsMemory s t) ∧
    (s.dieDone q i = true → ∃ t p', exec (.completionReport id (.die i)) s = .next t ∧ t.pipe? id = some p' ∧
      p'.dieRep = addNew i q.dieRep ∧ t.dies = s.dies ∧ KeepsMemory s t) ∧
    (q.faults = [] → (∀ m ∈ q.pool, m.at_.site ∈ q.dieRep) → s.chain? q.chain = some c → c.nops ≤ c.opIdx + 1 → q.shut = none →
      c.ending = none → s.chainWrites c = false → (c.irq = true → s.mgmt.masked c.vec = false) →
      let irqs := if c.irq then s.fe.irqs ++ [c.vec] else s.fe.irqs
      (c.cmp = 0 → ∃ t, exec (.completionReport id .package) s = .next t ∧ t.fe.irqs = irqs ∧ t.chain? c.id = none ∧
        (∀ p ∈ t.fe.pipes, p.chain ≠ c.id) ∧ KeepsMemory s t) ∧
      (c.cmp ≠ 0 → s.feXlat c.pasid c.cmp.toNat true = .ok d → d % 32 = 0 → s.writeClear (lineOf d) = true → s.homes.noKey (pageOf d) = false →
        ∃ t, exec (.completionReport id .package) s = .next t ∧ t.fe.irqs = irqs ∧ t.chain? c.id = none ∧
          t.cohN d 8 = c.tag.toNat * 2 ^ 32 + c.opIdx % 256 * 2 ^ 16 + (if c.ud || q.ud then 1 else 0) ∧
          t.cohN (d + 8) 8 = (c.done + q.retired) % 2 ^ 64 ∧
          t.cohN (d + 16) 8 = (c.faulted + q.faulted) % 2 ^ 32 * 2 ^ 32 + (c.discarded + q.discarded) % 2 ^ 32 ∧
          t.cohN (d + 24) 8 = c.doneAt.getD (s.now / 210) % 2 ^ 64))

/-- Operators expand, and their completion is reported: the statements `OperatorsExpand`, `CompletionReports`. -/
def Obligations.Operators : Prop := Spec.OperatorsExpand ∧ Spec.CompletionReports

/-! ## Leases (21_launch.md) -/

/-- R310 to R313: the first request in order, when it can be granted whole, is granted whole: every fragment, or for class none
every core, with its strip where that is Free, that it takes is leased to its stage and joins the stage's pool, and the
request is gone. -/
def Sys2Proof.Spec.GrantsAreWhole : Prop :=
  ∀ (s : State) (q : SettReq) (rest : List SettReq) (p : Pipe), s.reqOrder = q :: rest → s.pipe? q.pipe = some p →
    let Granted (l : List (CoreRef × LeaseKind)) : Prop := ∃ t p', exec .settGrant s = .next t ∧ (∀ x ∈ t.fe.reqs, x.order ≠ q.order) ∧
      t.pipe? p.id = some p' ∧
      (∀ x ∈ l, (∃ y ∈ (t.die x.1.site).leases, y.pipe = p.id ∧ y.stage = q.stage ∧ y.kind = x.2 ∧ y.returning = false) ∧
        ∃ m ∈ p'.pool, m.stage = q.stage ∧ m.at_ = x.1) ∧
      p'.pool.length = p.pool.length + q.count ∧ KeepsMemory s t
    (q.cls ≠ 0 → p.pre = .none → (s.fragPicks q).length = q.count →
      Granted ((s.fragPicks q).map fun x => (⟨x.1, Fin.ofNat 8 x.2⟩, .frag (Fin.ofNat 8 x.2) (clsStrips q.cls)))) ∧
    (q.cls = 0 → q.count ≤ (s.barePool q (s.reqSites q)).length →
      Granted (((s.barePool q (s.reqSites q)).take q.count).map fun x => (x.1, .bare x.1.core x.2)))

/-- R313, R316: a grant of one fragment zeroes, of each strip that another owned last, every row of its window, and of each
core that another owned last, its private rows and routing counters, and no other row; each of its strips that another owned
last is Zeroing for 2,048 clk, each other one Leased; each takes the grant's owner and has clean halves. -/
def Sys2Proof.Spec.GrantsZeroStrangers : Prop :=
  ∀ (s : State) (q : SettReq) (rest : List SettReq) (p : Pipe) (i : Fin 6) (lead : Nat), s.reqOrder = q :: rest → s.pipe? q.pipe = some p →
    q.cls ≠ 0 → p.pre = .none → q.count = 1 → s.fragPicks q = [(i, lead)] →
    let mine (c : Fin 8) : Prop := lead ≤ c.val ∧ c.val < lead + clsStrips q.cls
    ∃ t, exec .settGrant s = .next t ∧
      (∀ c : Fin 8, mine c → (t.die i).stripOwner[c] = some p.key ∧ (t.die i).coreOwner[c] = some p.key ∧
        (t.core ⟨i, c⟩).st.dirtyA = false ∧ (t.core ⟨i, c⟩).st.dirtyB = false ∧
        ((s.die i).stripOwner[c] ≠ some p.key → (t.die i).strips[c] = .zeroing (s.now + 2048 * 160)) ∧
        ((s.die i).stripOwner[c] = some p.key → (t.die i).strips[c] = .leased) ∧
        ((s.die i).coreOwner[c] ≠ some p.key → ∀ k : Fin 256, (t.core ⟨i, c⟩).cnt[k] = 0)) ∧
      (∀ c : Fin 8, ¬mine c → (t.die i).strips[c] = (s.die i).strips[c] ∧ (t.die i).stripOwner[c] = (s.die i).stripOwner[c]) ∧
      ∀ (r : CoreRef) (j : Nat), (t.core r).row j =
        if r.site = i ∧ mine r.core ∧ ((2048 ≤ j ∧ (s.die i).stripOwner[r.core] ≠ some p.key) ∨
          (j < 2048 ∧ (s.die i).coreOwner[r.core] ≠ some p.key)) then 0 else (s.core r).row j

/-- A grant is whole, and zeroes what strangers left: the statements `GrantsAreWhole`, `GrantsZeroStrangers`. -/
def Obligations.Grants : Prop := Spec.GrantsAreWhole ∧ Spec.GrantsZeroStrangers

/-- R315, R316: when the earliest zeroing of a die ends, the strips that end there are Leased, or, of a lease that returns,
Returning, and no lease of that end waits any more; strips that end later stay Zeroing. -/
def Sys2Proof.Spec.ZeroingEnds : Prop :=
  ∀ (s : State) (i : Fin 6) (tick : Nat), (s.die i).zeroEnd = some tick →
    ∃ t, exec (.zeroingDone i) s = .next t ∧ t.now = max s.now tick ∧
      (∀ c : Fin 8, let back : Prop := ∃ l ∈ (s.die i).leases, l.returning = true ∧ l.zeroedBy tick = true ∧
          ∃ lead n, l.kind = .frag lead n ∧ c ∈ stripsOf lead.val n
        (back → (t.die i).strips[c] = .returning) ∧
        (¬back → (t.die i).strips[c] = match (s.die i).strips[c] with
          | .zeroing e => if e ≤ tick then .leased else .zeroing e
          | x => x)) ∧
      (∀ l ∈ (t.die i).leases, ∀ e, l.zeroUntil = some e → tick < e) ∧ (∀ j, j ≠ i → t.die j = s.die j) ∧ KeepsMemory s t

/-- R314: a request that has waited for SETTAGE reserves dies of its operator that no other request reserves, until those could
hold the whole request or none is left; it keeps those that it held. -/
def Sys2Proof.Spec.RequestsReserveDies : Prop :=
  ∀ (s : State) (n : Nat) (q : SettReq), s.fe.reqs[n]? = some q → s.considered q = true →
    ∃ t x, exec (.settReserve n) s = .next t ∧ t.now = max s.now (q.since + s.mgmt.settAge.toNat * 336000) ∧ t.fe.reqs[n]? = some x ∧
      x.order = q.order ∧ q.reserved <+: x.reserved ∧
      (∀ i ∈ x.reserved, i ∈ q.reserved ∨ i ∈ s.reqSites q) ∧
      (q.count ≤ x.reserved.length * q.perDie ∨ ∀ i ∈ s.reqSites q, i ∈ x.reserved) ∧ t.dies = s.dies

/-- R315 to R317: a returning lease whose core is quiet, and whose drain rules hold, is freed: it is gone and the strips of its
fragment are Free; where a drain rule fails, a scrub of 128 clk begins and its pipeline is marked UD. A scrub that ends has
zeroed both halves and the PE accumulators of every strip, taken down the links, and freed the lease. -/
def Sys2Proof.Spec.LeasesReturn : Prop :=
  ∀ (s : State) (r : CoreRef) (l : Lease) (lead : Fin 8) (n : Nat) (p : Pipe), l.kind = .frag lead n → lead.val + n ≤ 8 →
    let Freed (t : State) : Prop := (t.die r.site).leases = (s.die r.site).leases.erase l ∧
      ∀ c : Fin 8, (t.die r.site).strips[c] = if lead.val ≤ c.val ∧ c.val < lead.val + n then .free else (s.die r.site).strips[c]
    (s.returningAt r = some l → (s.core r).task = none → (s.core r).quiet = true →
      (l.noScrub = true ∨ s.drainedFrag r.site l = true → ∃ t, exec (.leaseReturn r) s = .next t ∧ Freed t ∧ KeepsMemory s t) ∧
      (l.noScrub = false → s.drainedFrag r.site l = false → s.pipe? l.pipe = some p → ∃ t p', exec (.leaseReturn r) s = .next t ∧
        { l with scrubUntil := some (s.now + 128 * 160) } ∈ (t.die r.site).leases ∧ t.pipe? l.pipe = some p' ∧ p'.ud = true ∧
        (t.die r.site).strips = (s.die r.site).strips ∧ KeepsMemory s t)) ∧
    (((s.die r.site).leases.find? fun x => x.kind.lead == r.core && x.scrubUntil.isSome) = some l →
      ∃ t, exec (.scrubDone r) s = .next t ∧ t.now = max s.now (l.scrubUntil.getD 0) ∧ Freed t ∧
        (∀ c : Fin 8, lead.val ≤ c.val → c.val < lead.val + n → let x := (t.core ⟨r.site, c⟩).st
          x.acc = [] ∧ x.bankA = [] ∧ x.bankB = [] ∧ x.dirtyA = false ∧ x.dirtyB = false) ∧
        (t.core r).linkOut = none ∧ (t.core r).linkIn = none ∧ (∀ k : Fin 32, (t.core r).rings[k] = RingInst.reset) ∧ KeepsMemory s t)

/-- Zeroing ends, requests reserve dies, and leases return: the statements `ZeroingEnds`, `RequestsReserveDies`,
`LeasesReturn`. -/
def Obligations.Leases : Prop := Spec.ZeroingEnds ∧ Spec.RequestsReserveDies ∧ Spec.LeasesReturn

/-! ## Pre-emption and time slices (25_faults.md, 27_fabric.md) -/

/-- R72, R344: once every task of a pipeline that stops has stopped, nothing of its cores runs and all their accesses have
performed at package scope, its leases are zeroed, and its save area translates and can be written, the pre-emption is
complete: each member's stage, number, task, registers, queues and stores are saved (of a core whose strip is another's, not
the strip's), the members' cores run no task, their leases are returning, and the pool is empty. What is saved is kept as
data (log 38). -/
def Sys2Proof.Spec.PreemptionSaves : Prop :=
  ∀ (s : State) (id : Nat) (q : Pipe) (dlas : List Nat), s.pipe? id = some q → q.id = id → q.pre = .stopping →
    (s.fab.switching = none ∨ s.fab.sliceNo = none) →
    (∀ r k, (s.core r).task = some k → k.pipe = id → k.phase = .stopped) → (∀ m ∈ q.pool, s.savable m.at_ = true) →
    s.zeroedAll id = true → s.xlatSave q.pasid q.record.savePages = .ok dlas → (∀ l ∈ dlas.flatMap saveLines, s.writeClear l = true) →
    (∀ w ∈ s.fab.rwbuf, w.handle ≠ q.handle) →
    ∃ t p', exec (.preemptionComplete id) s = .next t ∧ t.pipe? id = some p' ∧ p'.pre = .stopped ∧ p'.pool = [] ∧
      p'.saved.length = q.pool.length ∧
      (∀ (j : Nat) (m : Member) (v : Saved), q.pool[j]? = some m → p'.saved[j]? = some v → let c := s.core m.at_
        v.stage = m.stage ∧ v.vnum = m.vnum ∧ v.task = c.task ∧ v.lead.vf = c.vf ∧ v.lead.h = c.h ∧ v.lead.sem = c.sem ∧
        v.lead.st = (if s.ownsStrip id m.at_ then c.st else c.st.zeroStrip) ∧ v.lead.cnt = c.cnt ∧ v.lead.rings = c.rings ∧ ∀ n, (v.lead.ctx n).x = (c.ctx n).x ∧ (v.lead.ctx n).k = (c.ctx n).k ∧ (v.lead.ctx n).pc = (c.ctx n).pc) ∧
      (∀ m ∈ q.pool, (t.core m.at_).task = none) ∧
      (∀ i, ∀ l ∈ (t.die i).leases, l.pipe = id → l.returning = true)

/-- R345: a resumption whose requests are granted and whose leases are zeroed restores each saved member on the core that took
its place: its task goes on, with the saved x and vector registers, shape registers, semaphores, routing counters and ring
pointers, and nothing of the pipeline is saved any more. Of one member, private rows and, where its lease holds its strip, the
rows of the save extent are the saved ones and the other rows keep what the core held. VSTAT comes back with the vector
registers (log 39); which rows of a bare member come back is log 38. -/
def Sys2Proof.Spec.ResumptionRestores : Prop :=
  ∀ (s : State) (id : Nat) (q : Pipe), s.pipe? id = some q → q.id = id → q.pre = .resuming → s.slicedOut q = false →
    (∀ x ∈ s.fe.reqs, x.pipe ≠ id) → (∀ i, ∀ l ∈ (s.die i).leases, l.pipe = id → l.zeroUntil = none) →
    let l := matchMembers q.pool q.saved
    l.length = q.saved.length → (l.map Prod.snd).Nodup → s.fab.rwbuf = [] →
    ∃ t p', exec (.resumption id) s = .next t ∧ t.pipe? id = some p' ∧ p'.pre = .none ∧ p'.saved = [] ∧
      p'.pool.length = q.saved.length + (q.pool.filter fun m => !q.saved.any fun v => v.stage == m.stage).length ∧
      (∀ x ∈ l, ∀ k, x.1.task = some k → k.phase = .stopped → let c := t.core x.2
        (∃ k', c.task = some k' ∧ k'.phase = .running ∧ k'.record = k.record ∧ k'.claims = k.claims ∧ k'.gangId = k.gangId) ∧
        c.vf = x.1.lead.vf ∧ c.h = x.1.lead.h ∧ c.sem = x.1.lead.sem ∧ c.cnt = x.1.lead.cnt ∧ c.rings = x.1.lead.rings ∧
        ∀ n, (c.ctx n).x = (x.1.lead.ctx n).x ∧ (c.ctx n).pc = (x.1.lead.ctx n).pc) ∧
      (∀ v r d, l = [(v, r)] → v.members = [] → q.record.stages[v.stage]? = some d →
        let n := if ((s.die r.site).leaseOf id r.core).map Lease.kind = some (.bare r.core false) then 0 else q.record.extent v.stage d
        ∀ j, (t.core r).row j = if j < 2048 ∨ j - 2048 < n then v.lead.row j else (s.core r).row j) ∧ KeepsMemory s t

/-- A pre-emption saves its tasks, and a resumption restores them: the statements `PreemptionSaves`, `ResumptionRestores`. -/
def Obligations.SavesAndResumptions : Prop := Spec.PreemptionSaves ∧ Spec.ResumptionRestores

/-- R370: at a slice boundary the next slice begins, and every running pipeline of a sliced tenant other than the incoming one
is to stop; a pipeline that is not sliced is left alone. -/
def Sys2Proof.Spec.SliceBoundaries : Prop :=
  ∀ (s : State) (p : Pipe), s.fab.sliceEn = true → p ∈ s.fe.pipes → (s.fe.pipes.map Pipe.id).Nodup →
    let k := match s.fab.sliceNo with | some n => n + 1 | none => 0
    ∃ t p', exec .sliceBoundary s = .next t ∧ t.fab = { s.fab with sliceNo := some k, switching := t.fab.switching } ∧ t.pipe? p.id = some p' ∧
      (s.sliced p = true → byteOf s.fab.slKeys (k % (s.fab.sliceN.toNat + 1)) ≠ p.key → p.pre = .none → p.ended = false → p'.pre = .stopping) ∧
      (s.sliced p = false → p'.pre = p.pre) ∧ KeepsMemory s t

/-! ## Migrations and stubs (05_memory.md, 25_faults.md) -/

/-- R95, R355: the copy of a page ends and its pin wait begins; with no pin and no release awaited, the switch begins and every
die that holds a line of the page is asked for it; a wait of 1 ms with a pin left aborts: the migration is gone, the page
stays at its home and ST is what it was; a migration that the driver starts begins as one of MIGRATE does. -/
def Sys2Proof.Spec.MigrationsProceed : Prop :=
  ∀ (s : State) (page : Nat) (m : Migration) (since : Nat) (dp : BitVec 12) (ds : BitVec 4),
    (s.homes.migOf page = some m → m.phase = .copying → ∃ t, exec (.migrationCopyDone page) s = .next t ∧
      t.homes.migOf page = some { m with phase := .pinWait s.now } ∧ t.dies = s.dies ∧ KeepsMemory s t) ∧
    (s.homes.migOf page = some m → m.phase = .pinWait since → getKey 0 page s.homes.pins = 0 →
      s.homes.pageNoted page = false → ∃ t, exec (.migrationPinsCleared page) s = .next t ∧
      t.homes.migOf page = some { m with phase := .switching } ∧ t.homes.held page = true ∧ t.dies = s.dies ∧
      (∀ x ∈ s.heldLines page, ∃ y ∈ t.homes.snoops, y.site = x.1 ∧ y.line = x.2 ∧ y.forward = none) ∧ KeepsMemory s t) ∧
    ((s.homes.migs.filter fun x => x.page == page) = [m] → m.phase = .pinWait since → getKey 0 page s.homes.pins ≠ 0 → m.core = none →
      m.stat = none → ∃ t, exec (.migrationPinTimeout page) s = .next t ∧ t.now = max s.now (since + 1000 * 336000) ∧
      t.homes.migOf page = none ∧ t.homes.placeRec page = { s.homes.placeRec page with st := m.st0 } ∧ t.homes.stubs = s.homes.stubs ∧
      KeepsMemory s t) ∧
    (s.regsOpen = true → ds.toNat ≤ 11 → s.homes.migOf page = none → let dest : Home := ⟨dp.toNat, ds.toNat⟩; let cur := s.homes.curHome page
      dest ≠ cur → s.reachable cur.pkg = true → s.reachable dest.pkg = true →
      (dest.pkg = s.fab.pkg → (cur.pkg = s.fab.pkg ∨ s.homes.noKey page = false) ∧ s.homes.stackFull dest = false) → s.homes.stubsDue cur < 8 →
      ∃ t m', exec (.driverStartedMigration page dp ds) s = .next t ∧ t.homes.migOf page = some m' ∧ m'.phase = .copying ∧ m'.dest = dest ∧
        m'.old = cur ∧ m'.driver = true ∧ (t.homes.placeRec page).st = 1 ∧ KeepsMemory s t)

/-- R95 steps 6 to 8, R82: once every copy has come back, the new home accepts the page: requests go to it, GEN has advanced, ST
is 0 at the birth home and 2 elsewhere, a stub at the old home names the new one, and every byte of the page reads as before. -/
def Sys2Proof.Spec.MigrationsSwitch : Prop :=
  ∀ (s : State) (page : Nat) (m : Migration), (s.homes.migs.filter fun x => x.page == page) = [m] → m.phase = .switching →
    (∀ x ∈ s.homes.snoops, linePage x.line ≠ page) → s.heldLines page = [] → m.core = none → m.stat = none →
    ∃ t, exec (.migrationAccept page) s = .next t ∧ t.homes.migOf page = none ∧ t.homes.curHome page = m.dest ∧
      (t.homes.placeRec page).gen = (s.homes.placeRec page).gen + 1 ∧
      (t.homes.placeRec page).st = (if m.dest = birthHome page then 0 else 2) ∧
      (∃ x, t.homes.stubAt page m.old = some x ∧ x.to_ = m.dest ∧ x.mask = [] ∧ x.reclaiming = none) ∧
      (∀ q, q ≠ page → t.homes.placeRec q = s.homes.placeRec q) ∧ KeepsMemory s t

/-- R99: a stub that has served nobody for STUBAGE begins to reclaim, awaiting every agent that it served; an agent that is told
forgets its owner-cache entry; with the last acknowledgement, and no relayed request to the page, the stub is gone. -/
def Sys2Proof.Spec.StubsAreReclaimed : Prop :=
  ∀ (s : State) (n k : Nat) (x : Stub) (i : Fin 6) (a : Agent), s.homes.stubs[n]? = some x →
    (x.reclaiming = none → x.mask ≠ [] → ∃ t, exec (.stubAgeExpiry n) s = .next t ∧
      ∃ now, { x with reclaiming := some (x.mask.map fun a => (a, now)) } ∈ t.homes.stubs) ∧
    (x.reclaiming.isSome = true → .die i ∈ x.mask → s.relaying i x.page = false →
      ∃ t, exec (.ownerCacheInvalidation n (.die i)) s = .next t ∧ lookup x.page (t.die i).owners = none ∧
        (∀ p, p ≠ x.page → lookup p (t.die i).owners = lookup p (s.die i).owners) ∧
        t.homes.stubs[n]? = some { x with mask := x.mask.filter (· != .die i) } ∧ KeepsMemory s t) ∧
    (x.reclaiming = some [(a, k)] → a ∉ x.mask → s.relayOut x.page = false →
      ∃ t, exec (.stubAck n a) s = .next t ∧ ∀ y ∈ t.homes.stubs, y ∈ s.homes.stubs.eraseIdx n)

/-- Migrations start, proceed and switch, and stubs are reclaimed: the statements `MigrateStarts`, `MigrationsProceed`,
`MigrationsSwitch`, `StubsAreReclaimed`. -/
def Obligations.Migrations : Prop := Spec.MigrateStarts ∧ Spec.MigrationsProceed ∧ Spec.MigrationsSwitch ∧ Spec.StubsAreReclaimed

/-! ## Power gating (05_memory.md) -/

/-- R101, R102: a GATECMD that gates banks of a strip makes their rows read 0 and leaves every other row; one that gates ways of
a die cache writes the die's M lines back and drops its lines; a GATECMD whose fields are out of range sets ERR and does
nothing else. One that wakes moves the gated units that it names to waking, and at the end of the wake nothing is waking. What
becomes of the lines of gated ways is log 23. -/
def Obligations.PowerGating : Prop :=
  ∀ (s : State) (v : Word), s.regsOpen = true → let r := gcRef v; let m : BitVec 16 := v.setWidth 16
    let Busy (t : State) : Prop := t.mgmt.gateBusy = some v ∧ t.mgmt.gateErr = false
    (gcOp v = 1 → gcFieldsOk v = true → gcUnit v = 0 → s.bankGateOk r = true → ∃ t, exec (.gatecmdGate v) s = .next t ∧ Busy t ∧
      (t.core r).st.gated = (s.core r).st.gated ||| m ∧
      (∀ k j, (t.core k).row j = if k = r ∧ 2048 ≤ j ∧ m.getLsbD ((j - 2048) % 16) = true then 0 else (s.core k).row j) ∧ KeepsMemory s t) ∧
    (gcOp v = 1 → gcFieldsOk v = true → gcUnit v = 1 → m ≠ 0 → ∃ t, exec (.gatecmdGate v) s = .next t ∧ Busy t ∧
      (t.die r.site).gated = (s.die r.site).gated ||| m ∧ (t.die r.site).cache = [] ∧
      (∀ line data tags, (s.die r.site).line line = some (.m data tags) → s.homes.noKey (linePage line) = false →
        ∀ k, k < 128 → t.homes.byte (line * 128 + k) = byteOf data k)) ∧
    (gcOp v = 1 → gcFieldsOk v = true → gcUnit v = 2 → ∃ t, exec (.gatecmdGate v) s = .next t ∧ Busy t ∧
      getKey 0 (gcSlice v) t.homes.gatedLlc = getKey 0 (gcSlice v) s.homes.gatedLlc ||| v.setWidth 24 ∧ KeepsMemory s t) ∧
    (gcOp v = 2 → gcFieldsOk v = true → gcUnit v = 2 → ∃ t, exec (.gatecmdWake v) s = .next t ∧ Busy t ∧
      getKey 0 (gcSlice v) t.homes.gatedLlc = getKey 0 (gcSlice v) s.homes.gatedLlc &&& ~~~(v.setWidth 24) ∧ KeepsMemory s t) ∧
    (gcFieldsOk v = false → exec (.gatecmdGate v) s = .next { s with mgmt := { s.mgmt with gateErr := true } } ∧
      exec (.gatecmdWake v) s = .next { s with mgmt := { s.mgmt with gateErr := true } }) ∧
    (gcOp v = 2 → gcFieldsOk v = true → gcUnit v = 0 → ∃ t, exec (.gatecmdWake v) s = .next t ∧ Busy t ∧
      (t.core r).st.gated = (s.core r).st.gated &&& ~~~m ∧
      (t.core r).st.waking = (s.core r).st.waking ||| ((s.core r).st.gated &&& m) ∧ (∀ k j, (t.core k).row j = (s.core k).row j)) ∧
    (gcOp v = 2 → gcFieldsOk v = true → gcUnit v = 1 → ∃ t, exec (.gatecmdWake v) s = .next t ∧ Busy t ∧
      (t.die r.site).gated = (s.die r.site).gated &&& ~~~m ∧
      (t.die r.site).waking = (s.die r.site).waking ||| ((s.die r.site).gated &&& m)) ∧
    (s.fab.rwbuf = [] → ∃ t, exec .gateDone s = .next t ∧ t.mgmt.gateBusy = none ∧ (∀ k, (t.core k).st.waking = 0 ∧ (t.core k).st.gated = (s.core k).st.gated) ∧
      (∀ i, (t.die i).waking = 0) ∧ (∀ k j, (t.core k).row j = (s.core k).row j) ∧ KeepsMemory s t)

/-! ## Work queues and packets (21_launch.md) -/

namespace Sys2Proof.Spec

/-- Of the work queues only the one with number no has changed: it is now x. -/
structure QueueNow (s t : State) (no : BitVec 14) (x : WorkQueue) : Prop where
  this : t.queue no = x
  others : ∀ m, m ≠ no → t.queue m = s.queue m

/-- An MSI-X vector that is not masked is raised; its message is the last sent. -/
abbrev Raises (s t : State) (v : Nat) : Prop := s.mgmt.masked v = false → t.fe.irqs = s.fe.irqs ++ [v]

/-- A queue that has stopped with an error and its index, and reads no slot any more (R294, R298). -/
def stoppedWith (x : WorkQueue) (err idx : BitVec 8) : WorkQueue := { x with stop := true, err := err, idx := idx, repoll := none }

/-- The queue's next packet, of this type, has completed as it started (R297). -/
def completed (x : WorkQueue) : WorkQueue := { x with pkts := dropNext x.pkts }

end Sys2Proof.Spec

/-- R291, R296, R298: a queue that reads finds the packet of its expected phase in the slot at CONS: it is consumed and stands to
start next, or, malformed, stops the queue with error 0x03; a slot whose phase is old is read again, 125 ns after and then up
to fifteen times more; the sixteenth read that finds it old stops the queue with error 0x01. R298 speaks of each packet up to KICK:
that one KICK_EVENT reads one packet, and the next is read only once nothing consumed waits to start, is the model's choice
(log 33). -/
def Sys2Proof.Spec.PacketsAreRead : Prop :=
  ∀ (s : State) (no : BitVec 14) (l : List Word) (t0 n : Nat), let x := s.queue no; x.reads = true → x.batch = none →
    let x1 : WorkQueue := { x with cons := x.cons + 1, repoll := none }
    let Reads (i : Instr) (s' : State) : Prop :=
      (s'.readSlot x = .current l → malformed l false = false → ∃ t, exec i s = .next t ∧
        QueueNow s t no { x1 with pkts := x.pkts ++ [packetOf l 0 false] } ∧ KeepsMemory s t) ∧
      (s'.readSlot x = .current l → malformed l false = true → ∃ t, exec i s = .next t ∧
        QueueNow s t no (stoppedWith x1 0x03 0) ∧ Raises s t x.vec.toNat ∧ KeepsMemory s t)
    (x.repoll = none → Reads (.kickEvent no) s ∧ (s.readSlot x = .old →
      ∃ t, exec (.kickEvent no) s = .next t ∧ QueueNow s t no { x with repoll := some (s.now, 0) } ∧ KeepsMemory s t)) ∧
    (x.repoll = some (t0, n) → let s' := s.at_ (t0 + (n + 1) * 42000)
      Reads (.packetRepoll no) s' ∧ (s'.readSlot x = .old → n + 1 < 16 →
        ∃ t, exec (.packetRepoll no) s = .next t ∧ t.now = max s.now (t0 + (n + 1) * 42000) ∧
          QueueNow s t no { x with repoll := some (t0, n + 1) } ∧ KeepsMemory s t) ∧
      (s'.readSlot x = .old → 16 ≤ n + 1 → ∃ t, exec (.packetRepoll no) s = .next t ∧
        QueueNow s t no (stoppedWith x 0x01 0) ∧ Raises s t x.vec.toNat ∧ KeepsMemory s t))

/-- R297, R303: an OPCHAIN that a live queue starts makes a chain with the packet's tag, count, address, completion address and
interrupt, under the queue's PASID, key, class and vector; the packet stays until its chain ends. FENCE, once every packet
before it has completed, and NOP complete as they start. -/
def Sys2Proof.Spec.PacketsStart : Prop :=
  ∀ (s : State) (no : BitVec 14) (p : Packet), let x := s.queue no
    (s.toStart no 1 = some p → ∃ t c, exec (.opchain no) s = .next t ∧ t.fe.chains = s.fe.chains ++ [c] ∧ c.id = s.fe.nextId ∧
      c.tag.toNat = p.w0.toNat % 2 ^ 32 ∧ c.nops = p.w2.toNat % 2 ^ 8 + 1 ∧ c.irq = p.w2.getLsbD 8 ∧ c.cmp = p.w3 ∧ c.next = p.w1 ∧
      c.queue = x.no ∧ c.pasid = x.pasid.toNat ∧ c.key = x.key ∧ c.cls = x.cls.toNat ∧ c.vec = x.vec.toNat ∧ c.active = none ∧ c.opIdx = 0 ∧
      QueueNow s t no { x with pkts := updNext (fun p => { p with started := true, chain := some c.id }) x.pkts } ∧ KeepsMemory s t) ∧
    (s.toStart no 4 = some p → s.allDoneBefore no = true → ∃ t, exec (.fencePacket no) s = .next t ∧ QueueNow s t no (completed x) ∧ KeepsMemory s t) ∧
    (s.toStart no 4 = some p → s.allDoneBefore no = false → exec (.fencePacket no) s = .next s) ∧
    (s.toStart no 7 = some p → ∃ t, exec (.nopPacket no) s = .next t ∧ QueueNow s t no (completed x) ∧ KeepsMemory s t)

/-- R297: SIGNAL, once every packet before it has completed, writes its value to its word and, with its flag, raises its
queue's vector; WAIT completes where its word meets its condition, and otherwise its word's home watches it; it completes once
a write has met the condition, or, with a time limit, its queue stops with error 0x05 when that has passed since its start
(the limit counts from the WAIT's start: log 49) with the condition not met. -/
def Sys2Proof.Spec.SignalAndWait : Prop :=
  ∀ (s : State) (no : BitVec 14) (p : Packet) (d tick : Nat), let x := s.queue no; let hva := p.w1.toNat
    (s.toStart no 5 = some p → s.allDoneBefore no = true → s.feXlat x.pasid.toNat hva true = .ok d → d % 8 = 0 → s.writeClear (lineOf d) = true →
      s.homes.noted (lineOf d) = false → s.homes.noKey (pageOf d) = false → ∃ t, exec (.signal no) s = .next t ∧
      t.cohN d 8 = p.w2.toNat ∧ (∀ a, lineOf a ≠ lineOf d → t.homes.byte a = s.homes.byte a) ∧ QueueNow s t no (completed x) ∧
      (p.w3.getLsbD 0 = true → Raises s t x.vec.toNat) ∧ (p.w3.getLsbD 0 = false → t.fe.irqs = s.fe.irqs)) ∧
    (s.feXlat x.pasid.toNat hva false = .ok d → s.readClear none (lineOf d) = true → s.homes.noted (lineOf d) = false →
      let w := s.cohN d 8; let v := p.w2.toNat
      let met : Prop := (p.w3.toNat % 4 = 0 ∧ w = v) ∨ (p.w3.toNat % 4 = 1 ∧ w ≠ v) ∨ (p.w3.toNat % 4 = 2 ∧ v ≤ w)
      p.w3.toNat % 4 ≠ 3 →
      (s.toStart no 6 = some p → p.watch = false → met → ∃ t, exec (.waitPacket no) s = .next t ∧ QueueNow s t no (completed x) ∧ KeepsMemory s t) ∧
      (s.toStart no 6 = some p → p.watch = false → ¬met → ∃ t, exec (.waitPacket no) s = .next t ∧ KeepsMemory s t ∧
        (let due := if p.w3.toNat / 2 ^ 32 = 0 then none else some (s.now + p.w3.toNat / 2 ^ 32 * 336000)
         QueueNow s t no { x with pkts := updNext (fun p => { p with watch := true, due := due }) x.pkts }) ∧
        ∃ y ∈ t.homes.watches, y.queue = x.no ∧ y.dla = d ∧ y.cond = p.w3.toNat % 4 ∧ y.val = p.w2 ∧ y.hit = false) ∧
      (s.watching no = some p → s.watchOf no = none → met → ∃ t, exec (.waitPacketSatisfied no) s = .next t ∧ QueueNow s t no (completed x) ∧ KeepsMemory s t)) ∧
    (∀ y, s.watching no = some p → s.watchOf no = some y →
      (y.hit = true → exec (.waitPacketTimeout no) s = .next s) ∧
      (y.hit = true → s.homes.noted (lineOf y.dla) = false → s.readClear none (lineOf y.dla) = true → ∃ t, exec (.waitPacketSatisfied no) s = .next t ∧ QueueNow s t no (completed x) ∧ KeepsMemory s t) ∧
      (y.hit = false → exec (.waitPacketSatisfied no) s = .next s)) ∧
    (s.watching no = some p → p.due = some tick → x.stop = false → (∀ y, s.watchOf no = some y → y.hit = false) → ∃ t, exec (.waitPacketTimeout no) s = .next t ∧ t.now = max s.now tick ∧
      QueueNow s t no (stoppedWith (completed x) 0x05 (BitVec.ofNat 8 p.idx)) ∧ Raises s t x.vec.toNat ∧ KeepsMemory s t)

/-- OPCHAIN, FENCE, NOP, SIGNAL and WAIT packets: the statements `PacketsStart`, `SignalAndWait`. -/
def Obligations.PacketsStart : Prop := Spec.PacketsStart ∧ Spec.SignalAndWait

/-- R299, R300: BATCH_BEGIN starts the reading of a batch of its NMEM members; a batch that is ready and valid gives its members to
start in order, and one with a packet that fails its check stops the queue with error 0x04 and that packet's index, with none
of them started. -/
def Sys2Proof.Spec.BatchesCommitWhole : Prop :=
  ∀ (s s1 : State) (no : BitVec 14) (p : Packet) (b : Batch) (l : List Packet) (idx : Nat), let x := s.queue no
    (s.toStart no 2 = some p → ∃ t, exec (.batchBegin no) s = .next t ∧
      QueueNow s t no { completed x with batch := some ⟨p.w1.toNat, [], false⟩ } ∧ KeepsMemory s t) ∧
    (x.live = true → x.batch = some b → b.ready = true →
      (s.validAll x.pasid.toNat b.nmem b.seen = .ok l → ∃ t, exec (.batchCommit no) s = .next t ∧ KeepsMemory s t ∧
        QueueNow s t no { x with batch := none, pkts := x.pkts ++ l.filter fun p => p.type != 3 }) ∧
      (s.validAll x.pasid.toNat b.nmem b.seen = .fail s1 idx → ∃ t, exec (.batchCommit no) s = .next t ∧ KeepsMemory s t ∧
        QueueNow s t no (stoppedWith { x with batch := none } 0x04 (BitVec.ofNat 8 idx)) ∧ Raises s t x.vec.toNat))

/-- Packets are read, and batches commit whole: the statements `PacketsAreRead`, `BatchesCommitWhole`. -/
def Obligations.PacketsAndBatches : Prop := Spec.PacketsAreRead ∧ Spec.BatchesCommitWhole

/-- R292 to R294: a write of WQCFG to a queue that is not enabled stores its fields, and with EN enables it where LOGN is 4 to 16,
the features have been negotiated and the key's slot is loaded, with CONS, KICK and WQSTAT 0; to an enabled queue it can only
clear EN. WQKICK takes a count that is at most N ahead of CONS, and stops the queue with error 0x02 otherwise. A write of
WQSTAT with STOP set clears STOP and ERR. That enabling drops packets not started, that IDX stays and that a kick out
of range is not recorded is log 47. -/
def Sys2Proof.Spec.QueueRegisters : Prop :=
  ∀ (s : State) (no : BitVec 14) (v : Word), s.regsOpen = true → let x := s.queue no
    let c : WorkQueue := { x with vec := (v >>> 53).setWidth 11, key := (v >>> 36).setWidth 8, cls := (v >>> 33).setWidth 3, pasid := (v >>> 12).setWidth 20, logn := (v >>> 4).setWidth 5 }
    let may : Prop := 4 ≤ c.logn.toNat ∧ c.logn.toNat ≤ 16 ∧ s.mgmt.featDone = true ∧ (lookup c.key.toNat s.homes.keys).isSome = true
    let k : BitVec 32 := v.setWidth 32
    let on : WorkQueue := { c with en := true, cons := 0, kick := 0, stop := false, err := 0, idx := 0, pkts := x.pkts.filter Packet.started, batch := none, repoll := none }
    let Now (i : Instr) (y : WorkQueue) : Prop := ∃ t, exec i s = .next t ∧ QueueNow s t no y ∧ t.fe.irqs = s.fe.irqs ∧ KeepsMemory s t
    (x.en = true → Now (.wqcfgWrite no v) { x with en := v.getLsbD 32 }) ∧
    (x.en = false → ¬(v.getLsbD 32 = true ∧ may) → Now (.wqcfgWrite no v) c) ∧
    (x.en = false → v.getLsbD 32 = true → may → Now (.wqcfgWrite no v) on) ∧
    (x.en = true → (k - x.cons).toNat ≤ 2 ^ x.logn.toNat → Now (.wqkick no v) { x with kick := k }) ∧
    (x.en = true → k ≠ x.kick → 2 ^ x.logn.toNat < (k - x.cons).toNat → x.stop = false →
      ∃ t, exec (.wqkick no v) s = .next t ∧ QueueNow s t no (stoppedWith x 0x02 0) ∧ Raises s t x.vec.toNat ∧ KeepsMemory s t) ∧
    (v.getLsbD 55 = true → Now (.wqstatStopClear no v) { x with stop := false, err := 0 }) ∧
    (v.getLsbD 55 = false → Now (.wqstatStopClear no v) x)

/-! ## Fencing (25_faults.md, 29_platform.md) -/

namespace Sys2Proof.Spec

/-- What a fence of the die i, logged with a code, has done (R24, R318, R352 to R354): the die is fenced, its strips are
Fenced and it holds no lease; its running tasks have ended as faulted, and the shutdown of their pipelines has begun with
STATUS 0x04 where none had; nothing is left in its cores' queues; no context's VDTAB binds its site, other entries stand; no
pool has a member there; every slice has the fence still to apply; and no byte of a home has changed. -/
structure Fenced (s t : State) (i : Fin 6) (code : BitVec 8) : Prop where
  fenced : (t.die i).fenced = true
  strips : ∀ c : Fin 8, (t.die i).strips[c] = .fenced
  leases : (t.die i).leases = []
  ended : ∀ c : Fin 8, ∀ k, (t.core ⟨i, c⟩).task = some k → k.phase = .faulted
  queues : ∀ (c : Fin 8) (e : Fin 6), (t.core ⟨i, c⟩).eng[e] = []
  out : ∀ (c : Fin 8) (n : CtxName), (t.ctx ⟨⟨i, c⟩, n⟩).out = []
  shut : ∀ c k p, (s.core ⟨i, c⟩).task = some k → k.phase ≠ .faulted → k.phase ≠ .squashing → s.pipe? k.pipe = some p → p.shut = none →
    ∃ p', t.pipe? k.pipe = some p' ∧ p'.shut = some 0x04
  kept : ∀ c v x, x ≠ i.val → Bound (s.ctx c).vdtab v x → Bound (t.ctx c).vdtab v x
  cleared : ∀ c v, Bound (s.ctx c).vdtab v i.val → (∀ v', Bound (s.ctx c).vdtab v' i.val → v' = v) → Unbound (t.ctx c).vdtab v
  pools : ∀ p ∈ t.fe.pipes, ∀ m ∈ p.pool, m.at_.site ≠ i
  due : ∀ k, k < 12 → (k, i) ∈ t.homes.fenceDue
  logged : ∃ e ∈ t.mgmt.log, e.code = code ∧ e.site.toNat = i.val
  x : ∀ c r, (t.ctx c).rd r = (s.ctx c).rd r

end Sys2Proof.Spec

/-- R352 to R354, R351, R377, R389: DIEFENCE fences each present, unfenced die that it names, logged with 0x48; so do a die that has
not answered for 200 us, with 0x46, one whose link does not train again, with 0x47, and one that reaches its critical
temperature, with 0x4D. That nothing is left in the die's queues at that instant is log 50. -/
def Sys2Proof.Spec.DiesAreFenced : Prop :=
  ∀ (s : State) (i : Fin 6) (v : Word) (since : Nat), (s.die i).present = true → (s.die i).fenced = false →
    (s.regsOpen = true → (∀ j : Fin 6, v.getLsbD j.val = decide (j = i)) → ∃ t, exec (.diefence v) s = .next t ∧ Fenced s t i 0x48) ∧
    (s.unanswered i = some since → ∃ t, exec (.dieDead i) s = .next t ∧ Fenced s t i 0x46 ∧
      ((s.die i).grantAt = none → t.now = max s.now (since + 200 * 336000))) ∧
    ((s.die i).training = false → ∃ t, exec (.dieLinkTrainingFailed i) s = .next t ∧ Fenced s t i 0x47) ∧
    (∃ t, exec (.thermalCritical i) s = .next t ∧ Fenced s t i 0x4D)

/-- R353: a slice that applies the fence of a die drops, of the die's lines, writes, snoops and noted releases, those of the pages
that it homes; the die's lines and writes are all gone once the last slice has applied it. -/
def Sys2Proof.Spec.SlicesApplyFences : Prop :=
  ∀ (s : State) (sl : Fin 12) (i : Fin 6), (sl.val, i) ∈ s.homes.fenceDue →
    ∃ t, exec (.fenceApply sl i) s = .next t ∧ t.homes.fenceDue = s.homes.fenceDue.filter (· ≠ (sl.val, i)) ∧
      (∀ x ∈ (t.die i).cache, s.homedAt sl.val (linePage x.1) = false) ∧ (∀ w ∈ (t.die i).buf, s.homedAt sl.val (pageOf w.dla) = false) ∧
      (∀ x ∈ t.homes.snoops, x.site = i → s.homedAt sl.val (linePage x.line) = false) ∧
      (∀ x ∈ t.homes.notes, x.site = i → s.homedAt sl.val (linePage x.line) = false) ∧
      ((∀ x ∈ s.homes.fenceDue, x.2 = i → x.1 = sl.val) → (t.die i).cache = [] ∧ (t.die i).buf = [])

/-- R377, R318, R341: DIEREADMIT resets a fenced die and its link trains; its cores hold their reset values but for their side
logs. When the link has trained, the die is fenced no longer and every strip is Free and the layout whole; when it has not,
the die stays fenced and the failure is logged with 0x47. The values 0 of rows and registers are log 1 and 2. -/
def Sys2Proof.Spec.DiesAreReadmitted : Prop :=
  ∀ (s : State) (i : Fin 6) (v : Word),
    (s.regsOpen = true → (∀ j : Fin 6, v.getLsbD j.val = decide (j = i)) → (s.die i).present = true → (s.die i).fenced = true →
      (∀ x ∈ s.homes.fenceDue, x.2 ≠ i) → ∃ t, exec (.diereadmit v) s = .next t ∧ (t.die i).training = true ∧ (t.die i).fenced = true ∧
        (∀ c : Fin 8, (t.core ⟨i, c⟩).sideLog = (s.core ⟨i, c⟩).sideLog ∧ (t.core ⟨i, c⟩).task = none ∧ (t.core ⟨i, c⟩).vf = VectorFile.reset ∧
          (∀ n r, (t.ctx ⟨⟨i, c⟩, n⟩).rd r = 0) ∧ ∀ j, (t.core ⟨i, c⟩).row j = 0) ∧ (∀ j, j ≠ i → t.die j = s.die j) ∧
        (∀ a, t.homes.byte a = s.homes.byte a)) ∧
    ((s.die i).training = true → ∃ t, exec (.dieReadmitDone i true) s = .next t ∧ (t.die i).fenced = false ∧ (t.die i).training = false ∧
      (t.die i).layout = 0 ∧ (∀ c : Fin 8, (t.die i).strips[c] = .free) ∧ (∀ r, t.core r = s.core r) ∧ KeepsMemory s t) ∧
    ((s.die i).training = true → ∃ t e, exec (.dieReadmitDone i false) s = .next t ∧ (t.die i).training = false ∧
      (t.die i).fenced = (s.die i).fenced ∧ t.mgmt.log = s.mgmt.log ++ [e] ∧ e.code = 0x47 ∧ e.site.toNat = i.val ∧ KeepsMemory s t)

/-- Dies are fenced, slices apply the fence, and dies are readmitted: the statements `DiesAreFenced`, `SlicesApplyFences`,
`DiesAreReadmitted`. -/
def Obligations.Fences : Prop := Spec.DiesAreFenced ∧ Spec.SlicesApplyFences ∧ Spec.DiesAreReadmitted

/-- R350, R351: a flit that a replay delivers loses nothing; one that carried line data poisons the line, logged with 0x42,
or, with the data of a read, the copy of the die that read, the home's line intact, or, with row data, the row; a lost
directory message makes the line suspect and drops every die's copy, logged with 0x43; a lost acknowledgement is awaited until
it is sent again after 2 us, logged with 0x44. A die that has not answered a snoop for 8 us is logged with 0x45, once. -/
def Sys2Proof.Spec.LostMessages : Prop :=
  ∀ (s : State) (l : Nat) (r : CoreRef) (row : Nat) (i : Fin 6) (n since : Nat) (x : Snoop),
    let Logs (t : State) (code : BitVec 8) : Prop := ∃ e, t.mgmt.log = s.mgmt.log ++ [e] ∧ e.code = code
    (exec (.flitCrcError .replayed) s = .next s) ∧
    (∃ t, exec (.flitCrcError (.lineData l)) s = .next t ∧ t.homes.poisoned l = true ∧ Logs t 0x42 ∧
      (∀ k, k ≠ l → t.homes.poisoned k = s.homes.poisoned k) ∧ t.dies = s.dies ∧ KeepsMemory s t) ∧
    (((s.die i).line l).isSome = true → ∃ t, exec (.flitCrcError (.readData i l)) s = .next t ∧ l ∈ (t.die i).badLines ∧ Logs t 0x42 ∧
      (∀ k, t.homes.poisoned k = s.homes.poisoned k) ∧ ∀ a, t.homes.byte a = s.homes.byte a) ∧
    (∃ t, exec (.flitCrcError (.rowData r row)) s = .next t ∧ row ∈ (t.core r).st.poison ∧ Logs t 0x42 ∧ KeepsMemory s t) ∧
    (∃ t, exec (.flitCrcError (.directory l)) s = .next t ∧ t.homes.poisoned l = true ∧ Logs t 0x43 ∧
      (∀ j, (t.die j).line l = none) ∧ (∀ a, t.homes.byte a = s.homes.byte a)) ∧
    ((s.homes.snoopAt i l).isSome = true → ∃ t, exec (.flitCrcError (.invAck i l)) s = .next t ∧ t.homes.isLost (.inv i l) = true ∧
      t.dies = s.dies ∧ KeepsMemory s t) ∧
    (s.homes.lost[n]? = some (since, .inv i l) → ∃ t, exec (.resendTimeout n) s = .next t ∧ t.now = max s.now (since + 2 * 336000) ∧
      t.homes.lost = s.homes.lost.eraseIdx n ∧ Logs t 0x44 ∧ KeepsMemory s t) ∧
    (s.homes.snoopAt i l = some x → x.logged = false → ∃ t, exec (.dieAsleepTimeout i l) s = .next t ∧
      t.now = max s.now (x.since + 8 * 336000) ∧ Logs t 0x45 ∧ t.homes.snoopAt i l = some { x with logged := true } ∧ KeepsMemory s t)

/-- R347, R348: an uncorrectable ECC error is logged with 0x41 and poisons the line at its home, or the row, or the bank row,
that it strikes; a die's M copy of a line is written back as poison, and any other copy is left as it is. A corrected one is
logged with 0x40, unless its source has one logged within the last ms: then it counts in the next. -/
def Sys2Proof.Spec.EccErrors : Prop :=
  ∀ (s : State) (rest : List Turn) (u : EccUnit) (l : Nat) (r : CoreRef) (row : Nat) (b : Bool) (i : Fin 6) (data : LineData)
      (tags : List (CtxRef × BitVec 16)) (t0 n : Nat),
    let Logs (t : State) (code : BitVec 8) (count : Nat) : Prop := ∃ e, t.mgmt.log = s.mgmt.log ++ [e] ∧ e.code = code ∧ e.count = count
    let Struck (corrected : Bool) (u : EccUnit) (p : State → Prop) : Prop :=
      s.agenda = .ecc corrected u :: rest → ∃ t, step s = .next t ∧ t.agenda = rest ∧ p t
    (s.homes.migOf (linePage l) = none → Struck false (.line l) fun t => t.homes.poisoned l = true ∧ Logs t 0x41 1 ∧ t.dies = s.dies ∧
      KeepsMemory s t) ∧
    Struck false (.row r row) (fun t => row ∈ (t.core r).st.poison ∧ Logs t 0x41 1 ∧ KeepsMemory s t) ∧
    Struck false (.bank r b row) (fun t => row ∈ (if b then (t.core r).st.poisonB else (t.core r).st.poisonA) ∧ Logs t 0x41 1 ∧
      KeepsMemory s t) ∧
    ((s.die i).line l = some (.m data tags) → Struck false (.copy i l) fun t => t.homes.poisoned l = true ∧ (t.die i).line l = none ∧
      Logs t 0x41 1) ∧
    ((∀ d g, (s.die i).line l ≠ some (.m d g)) → Struck false (.copy i l) fun t => t = { s with agenda := rest }) ∧
    (let k := (s.eccPlace u).1 * 8 + (s.eccPlace u).2.1
     (lookup k s.mgmt.ecc = none → Struck true u fun t => Logs t 0x40 1 ∧ lookup k t.mgmt.ecc = some (s.now, 0)) ∧
     (lookup k s.mgmt.ecc = some (t0, n) → t0 + 1000 * 336000 ≤ s.now → Struck true u fun t => Logs t 0x40 (n + 1) ∧
       lookup k t.mgmt.ecc = some (s.now, 0)) ∧
     (lookup k s.mgmt.ecc = some (t0, n) → s.now < t0 + 1000 * 336000 → Struck true u fun t => t.mgmt.log = s.mgmt.log ∧
       lookup k t.mgmt.ecc = some (t0, n + 1)))

/-! ## Management registers (29_platform.md) -/

/-- R375: with a set of accepted features that the package offers and that has every mandatory one, FEATCTL sets DONE; with another
it sets ERR. No other register changes. A feature has effect only once DONE is set. -/
def Sys2Proof.Spec.FeatureNegotiation : Prop :=
  ∀ (s : State) (v : Word), s.regsOpen = true → v.getLsbD 0 = true →
    let ok : Prop := ∀ j, j < 128 → (s.mgmt.featAcc.getLsbD j = true → s.featOff.getLsbD j = true) ∧
      (j = 0 ∨ j = 5 → s.mgmt.featAcc.getLsbD j = true)
    (ok → exec (.featctlGo v) s = .next { s with mgmt := { s.mgmt with featDone := true, featErr := false } }) ∧
    (¬ok → exec (.featctlGo v) s = .next { s with mgmt := { s.mgmt with featErr := true } }) ∧
    ∀ n, s.feature n = (s.mgmt.featDone && s.mgmt.featAcc.getLsbD n)

/-- The registers of work queues, and feature negotiation: the statements `QueueRegisters`, `FeatureNegotiation`. -/
def Obligations.QueueRegisters : Prop := Spec.QueueRegisters ∧ Spec.FeatureNegotiation

/-- R376, R71, R222, R344, R345: PREEMPT with the handle of a running operator makes its pipeline stop: a task whose region is
open, in a gang of one, stops there: each context, but one that exited in an earlier region, stands at the entry of its region
with the named inputs of that region, every other x and every k register is 0, and so are all v, m and h registers; the VTYPE,
the LFSR and the PPU table are those that the region began with, and the entries of the engine queues stay. A task whose
region is closed goes on to its next barrier. RESUME of a stopped pipeline asks for as many members of each stage as it
held. -/
def Sys2Proof.Spec.PreemptAndResume : Prop :=
  ∀ (s : State) (v : Word) (p : Pipe), s.regsOpen = true → s.ofHandle v = some p → s.pipe? p.id = some p →
    (p.pre = .none → ∃ t p', exec (.preempt v) s = .next t ∧ t.pipe? p.id = some p' ∧ p'.pre = .stopping ∧ t.mgmt.lastHandle = some v ∧
      (∀ r k, (s.core r).task = some k → k.pipe = p.id → k.phase = .running → k.gangSize = 1 →
        ((s.core r).closed = false → let c := s.core r; let c' := t.core r
          c'.task = some { k with phase := .stopped } ∧ (∀ j : Fin 56, c'.vf.v[j] = 0) ∧ (∀ j : Fin 8, c'.vf.m[j] = 0) ∧ (∀ j : Fin 16, c'.h[j] = 0) ∧
          c'.vf.vtype = c.snap.vtype ∧ c'.vf.lfsr = c.snap.lfsr ∧ c'.vf.ppu = c.snap.ppu ∧ c'.eng = c.eng ∧ c'.rings = c.rings ∧
          ∀ n, (c.ctx n).status ≠ .parked ∨ (c.ctx n).arrived = false → (c'.ctx n).pc = (c.ctx n).entry ∧ (∀ j : Fin 8, (c'.ctx n).k[j] = 0) ∧
            ∀ j : Fin 32, (c'.ctx n).x[j] = if j ≠ 0 ∧ (c.ctx n).inputs.getLsbD (j.val - 1) = true then (c.ctx n).x[j] else 0) ∧
        ((s.core r).closed = true → t.core r = { s.core r with task := some { k with phase := .stopping } })) ∧ KeepsMemory s t) ∧
    (p.pre = .stopped → s.slicedOut p = false → ∃ t p', exec (.resume v) s = .next t ∧ t.pipe? p.id = some p' ∧ p'.pre = .resuming ∧
      t.mgmt.lastHandle = some v ∧ t.dies = s.dies ∧
      (∀ j d, p.record.stages[j]? = some d → (p.saved.filter fun x => x.stage == j) ≠ [] →
        ∃ y ∈ t.fe.reqs, y.pipe = p.id ∧ y.stage = j ∧ y.cls = d.cls ∧ y.count = (p.saved.filter fun x => x.stage == j).length) ∧ KeepsMemory s t)

/-- Slice boundaries, PREEMPT and RESUME: the statements `SliceBoundaries`, `PreemptAndResume`. -/
def Obligations.SlicesAndPreemption : Prop := Spec.SliceBoundaries ∧ Spec.PreemptAndResume

/-- A byte of memory as it reads once its page is read under a key: the ciphertext of its line stays and is decrypted under that
key; under the key that the page is sealed with, the byte itself. -/
def readUnder (h : Homes) (key : BitVec 512) (a : Nat) : Byte :=
  let old := h.sealOf (pageOf a)
  if old = key then h.mem.read a
  else byteOf (xtsDec key (lineOf a) (xtsEnc old (lineOf a) (BitVec.ofNat 1024 (bytesNat h.mem.read (lineOf a * 128) 128)))) (a % 128)

/-- R378, R386, R387: a write of PLQ is read back, and PLREC then gives the record of its page. PGASSIGN of a page of this
package that nothing pins, that does not migrate and on which no task is parked gives it to its owner: its lines read as their
old ciphertext decrypted under the key in the new owner's slot (0 while that slot is empty; the byte order of keys and lines
in AES-256-XTS is log 116's choice; a page given to the owner that it has keeps its contents, log 53), its full tags are gone,
no die holds a line of it, every other page keeps its bytes, and PGSTAT is 0; of a page that something pins it changes nothing
but PGSTAT, which is 1. -/
def Sys2Proof.Spec.PageRegisters : Prop :=
  ∀ (s : State) (v : Word) (page : Nat), s.regsOpen = true → page = v.toNat / 2 ^ 16 % 2 ^ 41 → let key : BitVec 8 := v.setWidth 8
    (∃ t, exec (.plq v) s = .next t ∧ t = { s with mgmt := { s.mgmt with plq := some v } } ∧ t.readReg 0x70 = v ∧
      (s.reachable (dlaPkg v.toNat) = true → t.readReg 0x78 = (s.homes.placeRec (v.toNat % 2 ^ 57 / 65536)).word)) ∧
    (page / 2 ^ 29 = s.fab.pkg → s.reachable (s.homes.curHome page).pkg = true →
      (getKey 0 page s.homes.pins = 0 → s.homes.migOf page = none → (∀ x ∈ s.homes.parked, pageOf x.cell ≠ page) →
        ∃ t, exec (.pgassign v) s = .next t ∧ t.homes.owner page = key ∧ t.mgmt.pgstat = 0 ∧
          (∀ a, pageOf a = page → t.homes.byte a = match lookup key.toNat s.homes.keys with | some k => readUnder s.homes k a | none => 0) ∧
          (∀ a, pageOf a ≠ page → t.homes.mem.read a = s.homes.mem.read a) ∧ (∀ a, pageOf a = page → t.homes.tagFull a = false) ∧
          (∀ i l, linePage l = page → (t.die i).line l = none)) ∧
      (getKey 0 page s.homes.pins ≠ 0 → exec (.pgassign v) s = .next { s with mgmt := { s.mgmt with pgstat := 1 } }))

/-- R386: KEYCMD loads the key that KEYDATA holds into a slot from 1 to 255 that no enabled queue names, and erases such a
slot; either clears KEYDATA. The bytes of a page whose owner's slot is empty read 0; once its slot is loaded, they read as
their ciphertext decrypted under that key (byte order of the cipher: log 116), so erasing a key and loading the same one
changes nothing. A command for slot 0 does nothing. -/
def Sys2Proof.Spec.KeySlots : Prop :=
  ∀ (s : State) (v : Word), s.regsOpen = true → v.toNat < 2 ^ 10 → (s.homes.pageOwner.map Prod.fst).Nodup → let k := v.toNat % 256
    (v.toNat / 256 = 1 → k ≠ 0 → (∀ q ∈ s.fe.queues, q.en = true → q.key.toNat ≠ k) → ∃ t, exec (.keycmdLoad v) s = .next t ∧
      lookup k t.homes.keys = some s.mgmt.keydata ∧ t.mgmt.keydata = 0 ∧ (∀ j, j ≠ k → lookup j t.homes.keys = lookup j s.homes.keys) ∧
      (∀ a, t.homes.byte a = if (s.homes.owner (pageOf a)).toNat = k then readUnder s.homes s.mgmt.keydata a else s.homes.byte a)) ∧
    (v.toNat / 256 = 2 → k ≠ 0 → (∀ q ∈ s.fe.queues, q.en = true → q.key.toNat ≠ k) → ∃ t, exec (.keycmdErase v) s = .next t ∧
      lookup k t.homes.keys = none ∧ t.mgmt.keydata = 0 ∧ (∀ j, j ≠ k → lookup j t.homes.keys = lookup j s.homes.keys) ∧
      (∀ a, t.homes.byte a = if (s.homes.owner (pageOf a)).toNat = k then 0 else s.homes.byte a)) ∧
    (k = 0 → exec (.keycmdLoad v) s = .next s ∧ exec (.keycmdErase v) s = .next s)

/-- R373, R358, R292: a register of the management space that software reads and writes holds what is written: the slice
table's epoch and keys, the network slots and tenant indices, the MSI-X table, a route where feature 3 is accepted, the base
of a queue that is not enabled; SETTAGE and STUBAGE take any count of us but 0. That offsets 0x10000 to 0x17FFF are the MSI-X
table, 16 bytes a vector, every word of which reads back as written, is the model's choice (log 103); so is it that the base
of a queue holds any value, whatever its low bits (log 47). -/
def Sys2Proof.Spec.RegistersHoldWrites : Prop :=
  ∀ (s : State) (off : Nat) (v : Word), s.regsOpen = true →
    let Holds (w : Word) : Prop := ∃ t, exec (.registerWrite off v) s = .next t ∧ t.readReg off = w ∧ t.dies = s.dies
    (off = 0x118 ∨ off = 0x120 ∨ off = 0x128 → Holds v) ∧
    (off % 8 = 0 → (0x140 ≤ off ∧ off < 0x1E0) ∨ (0x10000 ≤ off ∧ off < 0x18000) → Holds v) ∧
    (off % 8 = 0 → s.mgmt.featDone = false → (off = 0x20 ∨ off = 0x28) → Holds v) ∧
    (off % 8 = 0 → s.feature 3 = true → (0x100000 ≤ off ∧ off < 0x108000) → ∃ t, exec (.registerWrite off v) s = .next t ∧ t.readReg off = v) ∧
    (off % 32 = 0 → (0x200000 ≤ off ∧ off < 0x280000) → (s.queue (BitVec.ofNat 14 ((off - 0x200000) / 32))).en = false → Holds v) ∧
    (off = 0x40 ∨ off = 0x98 → v.toNat % 2 ^ 16 ≠ 0 → Holds (wrap (v.toNat % 2 ^ 16 : Nat))) ∧
    (off = 0x200 → 3000 ≤ v.toNat % 2 ^ 16 → v.toNat % 2 ^ 16 ≤ 7500 → Holds (wrap (v.toNat % 2 ^ 16 : Nat)))

/-- Page registers, key slots, and registers that hold what is written: the statements `PageRegisters`, `KeySlots`,
`RegistersHoldWrites`. -/
def Obligations.ManagementRegisters : Prop := Spec.PageRegisters ∧ Spec.KeySlots ∧ Spec.RegistersHoldWrites

/-! ## Fabric, clock and power (27_fabric.md, 29_platform.md) -/

/-- R358, R360, R361: a fabric link that goes down, and one that was down and fails its training, is logged with 0x4A, and one
that comes up is up, unless the package came up with its links down; other links are as before. A request that its remote home
has not answered 200 us after it was sent gives up: the load's task
takes the unreachable-package fault 0x0A, and a write has left its die's list; one that has not been sent does not time out. -/
def Sys2Proof.Spec.FabricLinks : Prop :=
  ∀ (s : State) (port : BitVec 6) (c : CtxRef) (l : HeldLoad) (w : LoadWord) (i : Fin 6) (n : Nat) (x : DieWrite),
    (s.fab.up.getLsbD port.toNat = true → ∃ t, exec (.fabricLinkDown port) s = .next t ∧
      (∀ j, j < 64 → t.fab.up.getLsbD j = (s.fab.up.getLsbD j && !(j == port.toNat))) ∧ (∃ e ∈ t.mgmt.log, e.code = 0x4A) ∧
      (s.homes.migs = [] → t.dies = s.dies ∧ KeepsMemory s t)) ∧
    (s.fab.up.getLsbD port.toNat = false → ∃ t e, exec (.fabricLinkDown port) s = .next t ∧ t = { s with mgmt := t.mgmt } ∧
      t.mgmt.log = s.mgmt.log ++ [e] ∧ e.code = 0x4A) ∧
    (s.mgmt.degr.getLsbD 4 = false → ∃ t, exec (.fabricLinkUp port) s = .next t ∧
      (∀ j, j < 64 → t.fab.up.getLsbD j = (s.fab.up.getLsbD j || j == port.toNat)) ∧ t.dies = s.dies ∧ KeepsMemory s t) ∧
    (s.mgmt.degr.getLsbD 4 = true → exec (.fabricLinkUp port) s = .next s) ∧
    ((s.ctx c).status = .held l → (l.words.find? fun y => y.home.isNone && s.remotePage (pageOf y.dla)) = some w →
      (∀ k, l.asked = some k → exec (.remoteRequestTimeout (.load c)) s = .next ((s.at_ (k + 200 * 336000)).ctxFault c 0x0A w.dla)) ∧
      (l.asked = none → exec (.remoteRequestTimeout (.load c)) s = .next s)) ∧
    ((s.die i).buf[n]? = some x → x.asked = none → exec (.remoteRequestTimeout (.write i n)) s = .next s) ∧
    (∀ k, (s.die i).buf[n]? = some x → x.asked = some k → s.remotePage (pageOf x.dla) = true → ∃ t, exec (.remoteRequestTimeout (.write i n)) s = .next t ∧
      (t.die i).buf = (s.die i).buf.eraseIdx n ∧ t.now = max s.now (k + 200 * 336000) ∧
      (∀ k, (s.core x.ctx.at_).task = some k → x.gang = some (k.pipe, k.gangId) → ∀ k', (t.core x.ctx.at_).task = some k' → k'.phase = .faulted) ∧
      ∀ a, t.homes.byte a = s.homes.byte a)

/-- Lost flits, ECC errors, unanswered messages, and fabric links: the statements `LostMessages`, `FabricLinks`, `EccErrors`. -/
def Obligations.LostMessagesAndLinks : Prop := Spec.LostMessages ∧ Spec.FabricLinks ∧ Spec.EccErrors

/-- R368, R371, R389: a PTP message sets fabric time, but for the grandmaster's own, which goes on, and locks it; losing the
lock, for more than 1 ms since the last message, is logged with 0x4E; at a frame boundary, every 64
bclk, the network slots that were written take effect; above the power cap clk falls by 100 MHz, to 1,000 MHz at the least, and
below it rises again, to 2,100 MHz. -/
def Sys2Proof.Spec.TimeAndPower : Prop :=
  ∀ (s : State) (above : Bool),
    (s.mgmt.degr.getLsbD 5 = false → s.fab.grandmaster.toNat ≠ s.fab.pkg → ∃ t n, exec .ptpMessage s = .next t ∧ t.fab.lock = true ∧ t.fabricTime = Config.ptpTime n ∧ t.now = s.now ∧
      t.dies = s.dies ∧ KeepsMemory s t) ∧
    (s.mgmt.degr.getLsbD 5 = false → s.fab.grandmaster.toNat = s.fab.pkg →
      exec .ptpMessage s = .next { s with fab := { s.fab with lock := true } }) ∧
    (s.fab.lock = true → ∃ t e, exec .ptpLockLost s = .next t ∧ s.fab.ftimeAt + 1000 * 336000 < t.now ∧ t.fab = { s.fab with lock := false } ∧ t.mgmt.log = s.mgmt.log ++ [e] ∧
      e.code = 0x4E ∧ t.dies = s.dies ∧ KeepsMemory s t) ∧
    (∃ t, exec .netslotFrameBoundary s = .next t ∧ t.fab = { s.fab with netslotNow := s.fab.netslot } ∧ t.now % (64 * 210) = 0 ∧
      s.now < t.now ∧ t.now ≤ s.now + 64 * 210 ∧ t.dies = s.dies ∧ KeepsMemory s t) ∧
    (∃ t, exec (.powerCapExceeded above) s = .next t ∧ t = { s with mgmt := { s.mgmt with mhz := t.mgmt.mhz } } ∧
      t.mgmt.mhz = (if above then max 1000 (s.mgmt.mhz - 100) else min 2100 (s.mgmt.mhz + 100)))

/-- R380, R382, R384, R385: a flash write puts its bytes into a slot that does not run, and is refused for the one that runs;
a loss of power leaves flash alone; outside recovery a mailbox write is read back; the attestation nonce is the one written
last. That a loss of power leaves dies and front end at their reset values is log 58. -/
def Sys2Proof.Spec.FlashAndMailbox : Prop :=
  ∀ (s : State) (off : Nat) (v : Word) (w : BitVec 256),
    (s.flash.powered = true →
      (s.mgmt.slot = true → ∃ t, exec (.flashUpdateWrite .slotA off v) s = .next t ∧ (∀ k, k < 8 → getKey 0 (off + k) t.flash.slotA = byteOf v k) ∧
        (∀ a, a < off ∨ off + 8 ≤ a → getKey 0 a t.flash.slotA = getKey 0 a s.flash.slotA) ∧ t = { s with flash := { s.flash with slotA := t.flash.slotA } }) ∧
      (s.mgmt.slot = false → s.mgmt.mode ≠ 2 ∨ s.mgmt.slotRuns = true → exec (.flashUpdateWrite .slotA off v) s = .next s) ∧
      (s.mgmt.slot = true → s.mgmt.mode ≠ 2 ∨ s.mgmt.slotRuns = true → exec (.flashUpdateWrite .slotB off v) s = .next s) ∧
      (s.mgmt.mode ≠ 2 → off + 8 ≤ 0x1000 → s.mgmt.mailFree = none → ∃ t, exec (.recoveryMailboxCommand off v) s = .next t ∧
        (∀ k, k < 8 → t.mgmt.mail (off + k) = byteOf v k) ∧ t.dies = s.dies ∧ KeepsMemory s t) ∧
      exec (.attestationNonceWrite w) s = .next { s with mgmt := { s.mgmt with nonce := w } }) ∧
    (∃ t, exec .powerLost s = .next t ∧ t.flash = { s.flash with powered := false } ∧ t.dies = State.reset.dies ∧ t.fe = State.reset.fe ∧
      t.regsOpen = false)

/-- R383: a package reset leaves every core at its reset values and no queue, chain or pipeline, keeps the slots of flash and the
markers, and leaves the package starting, running or in recovery; it runs only with every step's record done. BOOTCLR clears
the journal of the steps that it names. That it boots in the same step, and that rows and registers read 0 after it, are log 58, 1
and 2. -/
def Sys2Proof.Spec.PackageStarts : Prop :=
  ∀ (s : State) (v : Word),
    (∃ t, exec .packageReset s = .next t ∧ (∀ r, t.core r = Core.reset) ∧ t.fe = State.reset.fe ∧ t.now = 0 ∧ t.agenda = s.agenda ∧
      t.flash.slotA = s.flash.slotA ∧ t.flash.slotB = s.flash.slotB ∧ t.flash.m0 = s.flash.m0 ∧ t.flash.m1 = s.flash.m1 ∧
      t.homes.pins = [] ∧ t.homes.recs = [] ∧ t.homes.full = [] ∧ t.fab = { Fabric.reset with pkg := s.flash.blobPkg } ∧
      (∀ i, (t.die i).present = true → s.flash.blobSites.getLsbD i.val = true) ∧
      t.mgmt.mode ∈ [(0 : BitVec 3), 1, 2] ∧
      (t.mgmt.mode = 1 → ∀ k ∈ [0, 1, 2, 4, 5, 6, 7], lookup k t.flash.journal = some true)) ∧
    (s.regsOpen = true → ∃ t, exec (.bootclr v) s = .next t ∧ (∀ k, v.getLsbD (stepOf k) = true → lookup k t.flash.journal = none ∧ k ∉ t.flash.conservative) ∧
      (∀ k, v.getLsbD (stepOf k) = false → lookup k t.flash.journal = lookup k s.flash.journal) ∧
      t = { s with flash := { s.flash with journal := t.flash.journal, conservative := t.flash.conservative } })

/-- Fabric time, power, flash, the mailbox, and package start: the statements `TimeAndPower`, `FlashAndMailbox`,
`PackageStarts`. -/
def Obligations.Platform : Prop := Spec.TimeAndPower ∧ Spec.FlashAndMailbox ∧ Spec.PackageStarts

/-! ## Decoding, steps, reset and the invariant (11_encoding.md, 03_execution.md, 05_memory.md) -/

/-- Words that the manual writes out decode to the instructions that it names beside them (R184, R186, R190, R195, R203, R205,
R211, R217, R229, R231, R288, R289). -/
def Obligations.DecodeSanity : Prop :=
  decode 0x00642801 = .ok (.add 3 4 5) ∧ decode 0x0042_0021 = .ok (.sext16 2 2) ∧ decode 0x03E7001C = .ok (.jalr 31 7) ∧
  decode 0x18852003 = .ok (.shri 4 5 3) ∧ decode 0x19288407 = .ok (.bfi 9 8 16 7) ∧ decode 0x20E92B03 = .ok (.st 7 9 2 3) ∧
  decode 0x3864000A = .ok (.bltu 3 4 10) ∧ decode 0x2680FFFA = .ok (.loop 20 (-6)) ∧ decode 0xF8000100 = .ok (.jal 0x100) ∧
  decode 0xE0853004 = .ok (.vdhop 4 5 6) ∧ decode 0xE0000212 = .ok (.trap 0x12) ∧ decode 0x48217901 = .ok (.vcmplt 2 5 57 0) ∧
  decode 0x4C708003 = .ok (.mpop 7 2) ∧ decode 0xCC008004 = .ok (.sems 4) ∧ decode 0xD0000003 = .ok (.evwait 3)

/-- R42, R43, R155, R175, R196: where the turn of a context has come, its die is present and it can issue, and the word that
it fetches (the next repeat of its REP, or, running, the word at its program counter in the instruction cache, or, waiting,
the word that it issued) decodes to i, a step is i's meaning, executed by that context in its next slot; the register values,
the program counter and memory are those before the step, and time is not earlier. A word that decodes to nothing takes the
illegal-instruction fault; an instruction of R65 while an FGET of its task is out waits (log 104). A turn that starts a
queue's head is the meaning of the head command; a turn of an event is the event's meaning; with no turn left, a clk passes.
So it is unless an event that falls at an earlier tick than the turn's, or a context's fault that counts before an engine's in
the same clk, goes before the turn; a step is then that event or that fault. That the agenda says who moves, and what goes
before a turn, are the model's choices (log 3, 102, 115). -/
def Obligations.StepRunsDecoded : Prop :=
  ∀ (s : State) (rest : List Turn), let s0 : State := { s with agenda := rest }
    let Runs (o : Host.Outcome State Fault Refusal) : Prop :=
      (∀ t, o = .next t → (∀ x ∈ s.deadlines, t.now ≤ x.1) → (s.agenda.head?.any Turn.ofEngine = true → s.ctxFirst t = none) → step s = o) ∧
      (∀ t, o = .next t → step s ≠ o → ∃ u, step s = .next u ∧ ((∃ x ∈ s.deadlines, x.1 < t.now ∧ x.2.run s = .next u) ∨ s.ctxFirst t = some u)) ∧
      ((∀ t, o ≠ .next t) → step s = o)
    (∀ (c : CtxRef) (w : CtlWord), s.agenda = .issue c :: rest → (s.die c.at_.site).present = true → s.mayGo c = true →
      s.fetch c = some w →
      (∀ q, (s.ctx c).rep = some q → stepWord q.word q.mask q.j = some w) ∧
      ((s.ctx c).rep = none → (s.ctx c).status = .running → s.cached c.at_ (s.ctx c).pc.toNat = some w) ∧
      (∀ v x, (s.ctx c).rep = none → (s.ctx c).status = .waiting x → (∀ a b, x ≠ .fetch a b) → (s.ctx c).word = some v → v = w) ∧
      ∃ s1, s1.cur = c ∧ s1.me = { s.ctx c with fresh := false, word := some w } ∧ s1.agenda = rest ∧ s.now ≤ s1.now ∧ s1.homes = s.homes ∧ s1.fe = s.fe ∧
        s1 = { s0 with now := s1.now, cur := c, dies := s1.dies } ∧
        (∀ r, r ≠ c.at_ → s1.core r = s.core r) ∧
        s1.myCore = { (s.core c.at_).updCtx c.ctx fun _ => s1.me with lastIssue := s1.myCore.lastIssue } ∧
        (∀ i, decode w = .ok i → s.heldBack c i = false → Runs (exec i s1)) ∧
        (∀ i, decode w = .ok i → s.heldBack c i = true → Runs (.next { s0 with now := s1.now, cur := c })) ∧
        (∀ e, decode w = .error e → Runs (.next (s1.illegal w)))) ∧
    (∀ (r : CoreRef) (e : Fin 6) (q : QEntry) (more : List QEntry), s.agenda = .start r (BitVec.ofNat 3 e.val) :: rest →
      (s.core r).eng[e] = q :: more → Runs (exec q.cmd { s0 with cur := ⟨r, q.ctx⟩ })) ∧
    (∀ i, s.agenda = .event i :: rest → groupOf i = .none → isCommand i = false → Runs (exec i s0)) ∧
    (s.agenda = [] → Runs (.next { s with now := s.now + 160 }))

/-- Encoding a well-formed control word and decoding it gives back the instruction, with every operand (R155 to R167). -/
def Sys2Proof.Spec.ControlWordsRoundTrip : Prop :=
  ∀ (i : Instr) (w : CtlWord), i.wf = true → encode i = some w → decode w = .ok i

/-- Every control word form has an encoding: only tile commands and events have none (R155, R157). -/
def Sys2Proof.Spec.ControlWordsEncode : Prop := ∀ i : Instr, groupOf i ≠ .none → (encode i).isSome = true

/-- Every control word form has an encoding, and decoding it gives the instruction back: the statements `ControlWordsEncode`,
`ControlWordsRoundTrip`. -/
def Obligations.ControlWordsRoundTrip : Prop := Spec.ControlWordsEncode ∧ Spec.ControlWordsRoundTrip

/-- Encoding a well-formed tile command and decoding it gives back the command, with every field of its header and body, and
every tile command has an encoding (R171 to R173, R253). -/
def Obligations.CommandWordsRoundTrip : Prop :=
  (∀ (i : Instr) (w : CmdWord), i.wf = true → encodeCmd i = some w → decodeCmd w = .ok i) ∧
  (∀ i : Instr, isCommand i = true → (encodeCmd i).isSome = true)

/-- Every step keeps global memory in its canonical form: addresses strictly rising, and no entry equal to what an unlisted
address reads as (the model's own form of R74; log 2). -/
def Obligations.MemoryStaysCanonical : Prop :=
  ∀ s t : State, s.homes.mem.wf = true → step s = .next t → t.homes.mem.wf = true

/-- Reset leaves memory in its canonical form, LFSR 1 (R143), VTYPE, VSTAT, amax registers, command and shape registers, VDTAB and
LAYOUT 0 (R20, R32, R149, R150, R170, R171, R251), every ring empty and undefined (R85, R86), every strip Free (R316), SETTAGE
64, STUBAGE 1,000, SLICECFG.LEN 0x07D0, POWERCAP 7,500 and clk 2,100 MHz (R369, R373, R389), every entry of NETSLOT and TIDX 15
(R371), no queue enabled, no route, no feature accepted and an empty error log (R292, R358, R375, R379). -/
def Obligations.ResetState : Prop :=
  let s := State.reset
  s.homes.mem.wf = true ∧
  (∀ c : CtxRef, (s.ctx c).vdtab = 0 ∧ ∀ k : Fin 8, (s.ctx c).k[k] = 0) ∧
  (∀ r : CoreRef, let c := s.core r
    c.vf.lfsr = 1 ∧ c.vf.vtype = 0 ∧ c.vf.vstat = 0 ∧ (∀ n : Fin 16, c.vf.am[n] = 0 ∧ c.h[n] = 0) ∧
    (∀ n : Fin 32, c.rings[n] = ⟨0, 0, 0, 0, 0, 0⟩)) ∧
  (∀ i : Fin 6, (s.die i).layout = 0 ∧ (s.die i).fenced = false ∧ ∀ c : Fin 8, (s.die i).strips[c] = .free) ∧
  s.mgmt.settAge = 64 ∧ s.mgmt.stubAge = 1000 ∧ s.fab.sliceLen = 0x07D0 ∧ s.fab.sliceEn = false ∧ s.mgmt.powercap = 7500 ∧
  s.mgmt.mhz = 2100 ∧ s.fab.netslot = BitVec.allOnes 256 ∧ s.fab.tidx = BitVec.allOnes 1024 ∧
  (∀ no, (s.queue no).en = false ∧ (s.queue no).cons = 0 ∧ (s.queue no).kick = 0) ∧ s.fab.routes = [] ∧ s.mgmt.featDone = false ∧
  s.mgmt.log = [] ∧ s.mgmt.errCnt = 0
end

