-- ==== Sys2Proof/Laws/Bits.lean ====
section
/-! SUPPORT. Fields and lanes: what a lane of a packed register is, and what a field of a word keeps of it. -/

namespace Sys2Proof.Machine

theorem fld_lt {n : Nat} (w : BitVec n) (lo len : Nat) : fld w lo len < 2 ^ len := Nat.mod_lt _ (Nat.two_pow_pos len)

theorem lane_lt {n : Nat} (r : BitVec n) (w i : Nat) : lane r w i < 2 ^ w := fld_lt r _ _

@[simp] theorem fld_all {n : Nat} (w : BitVec n) : fld w 0 n = w.toNat := by
  simp [fld, Nat.mod_eq_of_lt w.isLt]

theorem fld_eq_extract {n : Nat} (w : BitVec n) (lo len : Nat) : fld w lo len = (w.extractLsb' lo len).toNat := by
  simp [fld, BitVec.extractLsb'_toNat]

/-- Element i of elements laid from bit 0 up (R127). -/
theorem packNat_elem (w : Nat) (l : List Nat) (i : Nat) : packNat w l / 2 ^ (w * i) % 2 ^ w = l.getD i 0 % 2 ^ w := by
  induction l generalizing i with
  | nil => simp [packNat]
  | cons x t ih =>
    have step : packNat w (x :: t) = x % 2 ^ w + 2 ^ w * packNat w t := rfl
    cases i with
    | zero => simp [step]
    | succ i =>
      have h : packNat w (x :: t) / 2 ^ w = packNat w t := by
        rw [step, Nat.add_mul_div_left _ _ (Nat.two_pow_pos w), Nat.div_eq_of_lt (Nat.mod_lt _ (Nat.two_pow_pos w)), Nat.zero_add]
      rw [Nat.mul_succ, Nat.add_comm, Nat.pow_add, ← Nat.div_div_eq_div_mul, h, ih]
      simp

/-- Lane i of a packed register is element i, where the register has room for it. -/
theorem lane_pack (m w : Nat) (l : List Nat) (i : Nat) (h : w * (i + 1) ≤ m) : lane (pack m w l) w i = l.getD i 0 % 2 ^ w := by
  rw [← packNat_elem w l i]
  simp only [lane, fld, pack, BitVec.toNat_ofNat, Nat.shiftRight_eq_div_pow]
  obtain ⟨d, rfl⟩ : ∃ d, m = w * i + (w + d) := ⟨m - w * (i + 1), by rw [Nat.mul_succ] at h ⊢; omega⟩
  rw [Nat.pow_add, Nat.mod_mul_right_div_self, Nat.pow_add, Nat.mod_mul_right_mod]

theorem lanes_length {m : Nat} (w n : Nat) (r : BitVec m) : (lanes w n r).length = n := by simp [lanes]

theorem lanes_pack (m w n : Nat) (l : List Nat) (hn : l.length = n) (h : w * n ≤ m) :
    lanes w n (pack m w l) = l.map (· % 2 ^ w) := by
  apply List.ext_getElem
  · simp [lanes, hn]
  · intro i h1 h2
    have hi : i < n := by simpa [lanes] using h1
    have hl : w * (i + 1) ≤ m := le_trans (Nat.mul_le_mul_left w hi) h
    simp [lanes, lane_pack m w l i hl, hn, hi]

theorem ofSigned_lt (w : Nat) (i : Int) : ofSigned w i < 2 ^ w := by
  unfold ofSigned
  have h : (0 : Int) < 2 ^ w := by positivity
  have h1 := Int.emod_lt_of_pos i h
  have h2 := Int.emod_nonneg i h.ne'
  have h3 : ((i % 2 ^ w).toNat : Int) < ((2 ^ w : Nat) : Int) := by rw [Int.toNat_of_nonneg h2]; exact_mod_cast h1
  exact_mod_cast h3

/-- A code read as two's complement and written back is the code (R8). -/
theorem ofSigned_toSigned (w n : Nat) (h : n < 2 ^ w) : ofSigned w (toSigned w n) = n := by
  unfold ofSigned toSigned
  rw [Nat.mod_eq_of_lt h]
  have h0 : (n : Int) < 2 ^ w := by exact_mod_cast h
  split
  · rw [Int.emod_eq_of_lt (by positivity) h0, Int.toNat_natCast]
  · rw [Int.sub_emod_right, Int.emod_eq_of_lt (by positivity) h0, Int.toNat_natCast]

theorem popNat_le (n k : Nat) : popNat n k ≤ k := by
  unfold popNat
  exact le_trans (List.length_filter_le _ _) (by simp)

end Sys2Proof.Machine
end

