-- ==== Sys2Proof/Laws/State.lean ====
section
/-! SUPPORT. What each update of the state leaves and what it changes, field by field, so that no later proof unfolds a
record update. -/

namespace Sys2Proof.Machine

/-! ## One die, one core, one context -/

@[simp] theorem State.die_updDie (s : State) (i : Fin 6) (f : Die → Die) : (s.updDie i f).die i = f (s.die i) := by
  simp [State.die, State.updDie]

theorem State.die_updDie_ne (s : State) {i j : Fin 6} (f : Die → Die) (h : j ≠ i) : (s.updDie i f).die j = s.die j := by
  have : i.val ≠ j.val := fun e => h (Fin.ext e.symm)
  simp [State.die, State.updDie, this]

theorem State.die_updDie_eq (s : State) (i j : Fin 6) (f : Die → Die) :
    (s.updDie i f).die j = if j = i then f (s.die j) else s.die j := by
  by_cases h : j = i
  · subst h; simp
  · simp [h, State.die_updDie_ne]

@[simp] theorem Die.cores_updCore (d : Die) (i : Fin 8) (f : Core → Core) : (d.updCore i f).cores[i] = f d.cores[i] := by
  simp [Die.updCore]

theorem Die.cores_updCore_ne (d : Die) {i j : Fin 8} (f : Core → Core) (h : j ≠ i) : (d.updCore i f).cores[j] = d.cores[j] := by
  have : i.val ≠ j.val := fun e => h (Fin.ext e.symm)
  simp [Die.updCore, this]

@[simp] theorem State.core_updCore (s : State) (r : CoreRef) (f : Core → Core) : (s.updCore r f).core r = f (s.core r) := by
  unfold State.core State.updCore
  rw [State.die_updDie, Die.cores_updCore]

theorem State.core_updCore_ne (s : State) {r k : CoreRef} (f : Core → Core) (h : k ≠ r) : (s.updCore r f).core k = s.core k := by
  unfold State.core State.updCore
  by_cases hs : k.site = r.site
  · have hc : k.core ≠ r.core := fun e => h (by cases k; cases r; simp_all)
    rw [hs, State.die_updDie, Die.cores_updCore_ne _ _ hc]
  · rw [State.die_updDie_ne _ _ hs]

@[simp] theorem Core.ctx_updCtx (c : Core) (n : CtxName) (f : Context → Context) : (c.updCtx n f).ctx n = f (c.ctx n) := by
  cases n <;> rfl

theorem Core.ctx_updCtx_ne (c : Core) {n m : CtxName} (f : Context → Context) (h : m ≠ n) : (c.updCtx n f).ctx m = c.ctx m := by
  cases n <;> cases m <;> first | rfl | exact absurd rfl h

@[simp] theorem Core.ctx_updCtxs (c : Core) (n : CtxName) (f : Context → Context) : (c.updCtxs f).ctx n = f (c.ctx n) := by
  cases n <;> rfl

@[simp] theorem State.ctx_updCtx (s : State) (c : CtxRef) (f : Context → Context) : (s.updCtx c f).ctx c = f (s.ctx c) := by
  simp [State.ctx, State.updCtx]

@[simp] theorem State.me_updMe (s : State) (f : Context → Context) : (s.updMe f).me = f s.me := State.ctx_updCtx s s.cur f

/-! ## The parts of the state that an update does not touch -/

@[simp] theorem State.homes_updDie (s : State) (i : Fin 6) (f : Die → Die) : (s.updDie i f).homes = s.homes := rfl
@[simp] theorem State.fe_updDie (s : State) (i : Fin 6) (f : Die → Die) : (s.updDie i f).fe = s.fe := rfl
@[simp] theorem State.mgmt_updDie (s : State) (i : Fin 6) (f : Die → Die) : (s.updDie i f).mgmt = s.mgmt := rfl
@[simp] theorem State.fab_updDie (s : State) (i : Fin 6) (f : Die → Die) : (s.updDie i f).fab = s.fab := rfl
@[simp] theorem State.flash_updDie (s : State) (i : Fin 6) (f : Die → Die) : (s.updDie i f).flash = s.flash := rfl
@[simp] theorem State.now_updDie (s : State) (i : Fin 6) (f : Die → Die) : (s.updDie i f).now = s.now := rfl
@[simp] theorem State.cur_updDie (s : State) (i : Fin 6) (f : Die → Die) : (s.updDie i f).cur = s.cur := rfl
@[simp] theorem State.agenda_updDie (s : State) (i : Fin 6) (f : Die → Die) : (s.updDie i f).agenda = s.agenda := rfl
@[simp] theorem State.free_updDie (s : State) (i : Fin 6) (f : Die → Die) : (s.updDie i f).free = s.free := rfl
@[simp] theorem State.homes_updCore (s : State) (r : CoreRef) (f : Core → Core) : (s.updCore r f).homes = s.homes := rfl
@[simp] theorem State.fe_updCore (s : State) (r : CoreRef) (f : Core → Core) : (s.updCore r f).fe = s.fe := rfl
@[simp] theorem State.mgmt_updCore (s : State) (r : CoreRef) (f : Core → Core) : (s.updCore r f).mgmt = s.mgmt := rfl
@[simp] theorem State.fab_updCore (s : State) (r : CoreRef) (f : Core → Core) : (s.updCore r f).fab = s.fab := rfl
@[simp] theorem State.flash_updCore (s : State) (r : CoreRef) (f : Core → Core) : (s.updCore r f).flash = s.flash := rfl
@[simp] theorem State.now_updCore (s : State) (r : CoreRef) (f : Core → Core) : (s.updCore r f).now = s.now := rfl
@[simp] theorem State.cur_updCore (s : State) (r : CoreRef) (f : Core → Core) : (s.updCore r f).cur = s.cur := rfl
@[simp] theorem State.agenda_updCore (s : State) (r : CoreRef) (f : Core → Core) : (s.updCore r f).agenda = s.agenda := rfl
@[simp] theorem State.free_updCore (s : State) (r : CoreRef) (f : Core → Core) : (s.updCore r f).free = s.free := rfl
@[simp] theorem State.homes_updMe (s : State) (f : Context → Context) : (s.updMe f).homes = s.homes := rfl
@[simp] theorem State.fe_updMe (s : State) (f : Context → Context) : (s.updMe f).fe = s.fe := rfl
@[simp] theorem State.mgmt_updMe (s : State) (f : Context → Context) : (s.updMe f).mgmt = s.mgmt := rfl
@[simp] theorem State.fab_updMe (s : State) (f : Context → Context) : (s.updMe f).fab = s.fab := rfl
@[simp] theorem State.flash_updMe (s : State) (f : Context → Context) : (s.updMe f).flash = s.flash := rfl
@[simp] theorem State.now_updMe (s : State) (f : Context → Context) : (s.updMe f).now = s.now := rfl
@[simp] theorem State.cur_updMe (s : State) (f : Context → Context) : (s.updMe f).cur = s.cur := rfl
@[simp] theorem State.agenda_updMe (s : State) (f : Context → Context) : (s.updMe f).agenda = s.agenda := rfl
@[simp] theorem State.free_updMe (s : State) (f : Context → Context) : (s.updMe f).free = s.free := rfl
@[simp] theorem State.homes_updMyCore (s : State) (f : Core → Core) : (s.updMyCore f).homes = s.homes := rfl
@[simp] theorem State.fe_updMyCore (s : State) (f : Core → Core) : (s.updMyCore f).fe = s.fe := rfl
@[simp] theorem State.mgmt_updMyCore (s : State) (f : Core → Core) : (s.updMyCore f).mgmt = s.mgmt := rfl
@[simp] theorem State.fab_updMyCore (s : State) (f : Core → Core) : (s.updMyCore f).fab = s.fab := rfl
@[simp] theorem State.flash_updMyCore (s : State) (f : Core → Core) : (s.updMyCore f).flash = s.flash := rfl
@[simp] theorem State.now_updMyCore (s : State) (f : Core → Core) : (s.updMyCore f).now = s.now := rfl
@[simp] theorem State.cur_updMyCore (s : State) (f : Core → Core) : (s.updMyCore f).cur = s.cur := rfl
@[simp] theorem State.agenda_updMyCore (s : State) (f : Core → Core) : (s.updMyCore f).agenda = s.agenda := rfl
@[simp] theorem State.free_updMyCore (s : State) (f : Core → Core) : (s.updMyCore f).free = s.free := rfl
@[simp] theorem State.homes_updHomes (s : State) (f : Homes → Homes) : (s.updHomes f).homes = f s.homes := rfl
@[simp] theorem State.dies_updHomes (s : State) (f : Homes → Homes) : (s.updHomes f).dies = s.dies := rfl
@[simp] theorem State.die_updHomes (s : State) (f : Homes → Homes) (i : Fin 6) : (s.updHomes f).die i = s.die i := rfl
@[simp] theorem State.core_updHomes (s : State) (f : Homes → Homes) (r : CoreRef) : (s.updHomes f).core r = s.core r := rfl
@[simp] theorem State.ctx_updHomes (s : State) (f : Homes → Homes) (c : CtxRef) : (s.updHomes f).ctx c = s.ctx c := rfl
@[simp] theorem State.me_updHomes (s : State) (f : Homes → Homes) : (s.updHomes f).me = s.me := rfl
@[simp] theorem State.myCore_updHomes (s : State) (f : Homes → Homes) : (s.updHomes f).myCore = s.myCore := rfl
@[simp] theorem State.fe_updHomes (s : State) (f : Homes → Homes) : (s.updHomes f).fe = s.fe := rfl
@[simp] theorem State.mgmt_updHomes (s : State) (f : Homes → Homes) : (s.updHomes f).mgmt = s.mgmt := rfl
@[simp] theorem State.fab_updHomes (s : State) (f : Homes → Homes) : (s.updHomes f).fab = s.fab := rfl
@[simp] theorem State.flash_updHomes (s : State) (f : Homes → Homes) : (s.updHomes f).flash = s.flash := rfl
@[simp] theorem State.now_updHomes (s : State) (f : Homes → Homes) : (s.updHomes f).now = s.now := rfl
@[simp] theorem State.cur_updHomes (s : State) (f : Homes → Homes) : (s.updHomes f).cur = s.cur := rfl
@[simp] theorem State.agenda_updHomes (s : State) (f : Homes → Homes) : (s.updHomes f).agenda = s.agenda := rfl
@[simp] theorem State.free_updHomes (s : State) (f : Homes → Homes) : (s.updHomes f).free = s.free := rfl
@[simp] theorem State.fe_updFe (s : State) (f : FrontEnd → FrontEnd) : (s.updFe f).fe = f s.fe := rfl
@[simp] theorem State.dies_updFe (s : State) (f : FrontEnd → FrontEnd) : (s.updFe f).dies = s.dies := rfl
@[simp] theorem State.die_updFe (s : State) (f : FrontEnd → FrontEnd) (i : Fin 6) : (s.updFe f).die i = s.die i := rfl
@[simp] theorem State.core_updFe (s : State) (f : FrontEnd → FrontEnd) (r : CoreRef) : (s.updFe f).core r = s.core r := rfl
@[simp] theorem State.ctx_updFe (s : State) (f : FrontEnd → FrontEnd) (c : CtxRef) : (s.updFe f).ctx c = s.ctx c := rfl
@[simp] theorem State.me_updFe (s : State) (f : FrontEnd → FrontEnd) : (s.updFe f).me = s.me := rfl
@[simp] theorem State.myCore_updFe (s : State) (f : FrontEnd → FrontEnd) : (s.updFe f).myCore = s.myCore := rfl
@[simp] theorem State.homes_updFe (s : State) (f : FrontEnd → FrontEnd) : (s.updFe f).homes = s.homes := rfl
@[simp] theorem State.mgmt_updFe (s : State) (f : FrontEnd → FrontEnd) : (s.updFe f).mgmt = s.mgmt := rfl
@[simp] theorem State.fab_updFe (s : State) (f : FrontEnd → FrontEnd) : (s.updFe f).fab = s.fab := rfl
@[simp] theorem State.flash_updFe (s : State) (f : FrontEnd → FrontEnd) : (s.updFe f).flash = s.flash := rfl
@[simp] theorem State.now_updFe (s : State) (f : FrontEnd → FrontEnd) : (s.updFe f).now = s.now := rfl
@[simp] theorem State.cur_updFe (s : State) (f : FrontEnd → FrontEnd) : (s.updFe f).cur = s.cur := rfl
@[simp] theorem State.agenda_updFe (s : State) (f : FrontEnd → FrontEnd) : (s.updFe f).agenda = s.agenda := rfl
@[simp] theorem State.free_updFe (s : State) (f : FrontEnd → FrontEnd) : (s.updFe f).free = s.free := rfl
@[simp] theorem State.homes_updPipe (s : State) (n : Nat) (f : Pipe → Pipe) : (s.updPipe n f).homes = s.homes := rfl
@[simp] theorem State.dies_updPipe (s : State) (n : Nat) (f : Pipe → Pipe) : (s.updPipe n f).dies = s.dies := rfl
@[simp] theorem State.core_updPipe (s : State) (n : Nat) (f : Pipe → Pipe) (r : CoreRef) : (s.updPipe n f).core r = s.core r := rfl
@[simp] theorem State.me_updPipe (s : State) (n : Nat) (f : Pipe → Pipe) : (s.updPipe n f).me = s.me := rfl
@[simp] theorem State.cur_updPipe (s : State) (n : Nat) (f : Pipe → Pipe) : (s.updPipe n f).cur = s.cur := rfl

/-! ## The executing context among the rest of its core -/

@[simp] theorem State.myCore_updMyCore (s : State) (f : Core → Core) : (s.updMyCore f).myCore = f s.myCore := by
  simp [State.myCore, State.updMyCore]

@[simp] theorem State.myCore_updMe (s : State) (f : Context → Context) : (s.updMe f).myCore = s.myCore.updCtx s.cur.ctx f := by
  simp [State.myCore, State.updMe, State.updCtx]

theorem State.me_eq (s : State) : s.me = s.myCore.ctx s.cur.ctx := rfl

theorem State.updMe_updMe (s : State) (f g : Context → Context) : (s.updMe f).updMe g = s.updMe fun c => g (f c) := by
  cases h : s.cur with | mk r n => cases n <;>
    simp [State.updMe, State.updCtx, State.updCore, State.updDie, Die.updCore, Core.updCtx, h]

theorem State.updMyCore_updMe (s : State) (f : Core → Core) (g : Context → Context) :
    (s.updMyCore f).updMe g = s.updMyCore fun c => (f c).updCtx s.cur.ctx g := by
  simp [State.updMe, State.updCtx, State.updCore, State.updDie, Die.updCore, State.updMyCore]

/-- What an update gives depends only on what it makes of the executing context. -/
theorem State.updMe_const (s : State) (f : Context → Context) : (s.updMe fun _ => f s.me) = s.updMe f := by
  cases h : s.cur with | mk r n => cases n <;>
    simp [State.updMe, State.updCtx, State.updCore, State.updDie, Die.updCore, Core.updCtx, State.me, State.ctx, Core.ctx,
      State.core, State.die, h]

/-- An update of the executing context leaves what a die holds of memory. -/
theorem State.dieByte_updCore (s : State) (r : CoreRef) (f : Core → Core) (i : Fin 6) (a : Nat) :
    (s.updCore r f).dieByte i a = s.dieByte i a := by
  have h : ((s.updCore r f).die i).buf = (s.die i).buf ∧ ((s.updCore r f).die i).cache = (s.die i).cache := by
    unfold State.updCore
    rw [State.die_updDie_eq]
    split <;> exact ⟨rfl, rfl⟩
  simp only [State.dieByte, Die.mByte, Die.line, h.1, h.2, State.homes_updCore]

/-! ## Scalar registers (R168, R181) -/

@[simp] theorem Context.rd_zero (c : Context) : c.rd 0#5 = 0#64 := rfl

@[simp] theorem State.rx_zero (s : State) : s.rx 0#5 = 0#64 := rfl

theorem Context.rd_wr (c : Context) (d r : BitVec 5) (v : Word) :
    (c.wr d v).rd r = if r = d ∧ r ≠ 0 then v else c.rd r := by
  unfold Context.rd Context.wr
  by_cases hr : r = 0
  · rw [if_pos hr, if_pos hr, if_neg fun h => h.2 hr]
  · rw [if_neg hr, if_neg hr]
    by_cases hd : d = 0
    · rw [if_pos hd, if_neg fun h => hr (h.1.trans hd)]
    · rw [if_neg hd]
      by_cases h : r = d
      · subst h
        rw [if_pos ⟨rfl, hr⟩]
        exact Vector.getElem_set_self _
      · rw [if_neg fun e => h e.1]
        exact Vector.getElem_set_ne d.toFin.isLt r.toFin.isLt fun e => h (BitVec.eq_of_toNat_eq e.symm)

theorem State.rx_wx (s : State) (d r : BitVec 5) (v : Word) :
    (s.wx d v).rx r = if r = d ∧ r ≠ 0 then v else s.rx r := by
  simp [State.rx, State.wx, Context.rd_wr]

end Sys2Proof.Machine
end

