-- ==== Sys2Proof/Laws/Memory.lean ====
section
/-! SUPPORT. Lists by key, and global memory: what a read gives after a write, and that every operation keeps the
canonical form. -/

namespace Sys2Proof.Machine

/-! ## Lists by key -/

section keys

variable {β : Type}

/-- The keys of the list rise strictly. -/
def KeysRise (l : List (Nat × β)) : Prop := l.Pairwise fun a b => a.1 < b.1

theorem lookup_insertKey (k j : Nat) (v : β) (l : List (Nat × β)) :
    lookup j (insertKey k v l) = if j = k then some v else lookup j l := by
  induction l with
  | nil => simp only [insertKey, lookup, eq_comm]
  | cons x t ih =>
    obtain ⟨a, b⟩ := x
    by_cases h1 : k < a
    · by_cases h : j = k
      · simp [insertKey, h1, lookup, h]
      · simp [insertKey, h1, lookup, h, Ne.symm h]
    · by_cases h2 : k = a
      · subst h2
        by_cases h : j = k
        · simp [insertKey, lookup, h]
        · simp [insertKey, lookup, h, Ne.symm h]
      · by_cases h : j = k
        · subst h; simp [insertKey, h1, h2, lookup, Ne.symm h2, ih]
        · simp [insertKey, h1, h2, lookup, ih, h]

theorem lookup_eraseKey (k j : Nat) (l : List (Nat × β)) :
    lookup j (eraseKey k l) = if j = k then none else lookup j l := by
  induction l with
  | nil => simp [eraseKey, lookup]
  | cons x t ih =>
    obtain ⟨a, b⟩ := x
    simp only [eraseKey] at ih ⊢
    by_cases h1 : a = k
    · subst h1
      by_cases h : j = a
      · subst h; simpa using ih
      · simp [lookup, ih, h, Ne.symm h]
    · by_cases h2 : a = j
      · subst h2; simp [h1, lookup]
      · simp [h1, h2, lookup, ih]

/-- What a canonical list reads as after a key is written. -/
theorem getKey_putKey [DecidableEq β] (d : β) (k j : Nat) (v : β) (l : List (Nat × β)) :
    getKey d j (putKey d k v l) = if j = k then v else getKey d j l := by
  unfold getKey putKey
  by_cases hv : v = d
  · by_cases h : j = k <;> simp [hv, lookup_eraseKey, h]
  · by_cases h : j = k <;> simp [hv, lookup_insertKey, h]

theorem mem_insertKey {k : Nat} {v : β} {l : List (Nat × β)} {x : Nat × β} (h : x ∈ insertKey k v l) :
    x = (k, v) ∨ x ∈ l := by
  induction l with
  | nil => exact .inl (by simpa [insertKey] using h)
  | cons y t ih =>
    obtain ⟨a, b⟩ := y
    by_cases h1 : k < a
    · simpa [insertKey, h1] using h
    · by_cases h2 : k = a
      · subst h2
        simp only [insertKey, lt_irrefl, if_false, if_true, List.mem_cons] at h
        exact h.imp id (List.mem_cons_of_mem _)
      · simp only [insertKey, h1, h2, if_false, List.mem_cons] at h
        rcases h with h | h
        · exact .inr (h ▸ List.mem_cons_self)
        · exact (ih h).imp id (List.mem_cons_of_mem _)

theorem KeysRise.insertKey {l : List (Nat × β)} (h : KeysRise l) (k : Nat) (v : β) : KeysRise (insertKey k v l) := by
  induction l with
  | nil => simp [KeysRise, Machine.insertKey]
  | cons y t ih =>
    obtain ⟨a, b⟩ := y
    obtain ⟨hy, ht⟩ := List.pairwise_cons.1 h
    by_cases h1 : k < a
    · simp only [Machine.insertKey, h1, if_true]
      refine List.pairwise_cons.2 ⟨fun x hx => ?_, h⟩
      rcases List.mem_cons.1 hx with rfl | hx
      · exact h1
      · exact lt_trans h1 (hy x hx)
    · by_cases h2 : k = a
      · subst h2
        simp only [Machine.insertKey, lt_irrefl, if_false, if_true]
        exact List.pairwise_cons.2 ⟨hy, ht⟩
      · simp only [Machine.insertKey, h1, h2, if_false]
        refine List.pairwise_cons.2 ⟨fun x hx => ?_, ih ht⟩
        rcases mem_insertKey hx with rfl | hx
        · exact lt_of_le_of_ne (not_lt.1 h1) (Ne.symm h2)
        · exact hy x hx

theorem KeysRise.eraseKey {l : List (Nat × β)} (h : KeysRise l) (k : Nat) : KeysRise (eraseKey k l) := List.Pairwise.filter _ h

theorem KeysRise.putKey [DecidableEq β] {l : List (Nat × β)} (h : KeysRise l) (d : β) (k : Nat) (v : β) :
    KeysRise (putKey d k v l) := by
  unfold Machine.putKey
  split
  · exact h.eraseKey k
  · exact h.insertKey k v

/-- Writing a key keeps a canonical list canonical: no entry holds the default of its key. -/
theorem mem_putKey [DecidableEq β] {d v : β} {k : Nat} {l : List (Nat × β)} {x : Nat × β} (h : x ∈ putKey d k v l) :
    (x = (k, v) ∧ v ≠ d) ∨ x ∈ l := by
  unfold putKey at h
  split at h
  · exact .inr (List.mem_filter.1 h).1
  · next hv => exact (mem_insertKey h).imp (fun e => ⟨e, hv⟩) id

end keys

/-! ## Global memory -/

/-- The canonical form, said of the list: its addresses rise, and no entry equals what an unlisted address reads as. -/
theorem cellsOk_iff (m : Memory) (l : List Host.Cell) :
    cellsOk m l = true ↔ KeysRise l ∧ ∀ x ∈ l, x.2 ≠ m.unlisted x.1 := by
  induction l with
  | nil => simp [cellsOk, KeysRise]
  | cons y t ih =>
    obtain ⟨a, b⟩ := y
    cases t with
    | nil => simp [cellsOk, KeysRise]
    | cons z t =>
      obtain ⟨a', b'⟩ := z
      simp only [cellsOk, Bool.and_eq_true, bne_iff_ne, decide_eq_true_eq, ih, KeysRise, List.pairwise_cons (a := (a, b)),
        List.forall_mem_cons (a := (a, b))]
      constructor
      · rintro ⟨⟨hb, ha⟩, hp, hm⟩
        refine ⟨⟨fun x hx => ?_, hp⟩, hb, hm⟩
        rcases List.mem_cons.1 hx with rfl | hx
        · exact ha
        · exact lt_trans ha ((List.pairwise_cons.1 hp).1 x hx)
      · rintro ⟨⟨ha, hp⟩, hb, hm⟩
        exact ⟨⟨hb, ha _ List.mem_cons_self⟩, hp, hm⟩

theorem Memory.wf_iff (m : Memory) : m.wf = true ↔ KeysRise m.cells ∧ ∀ x ∈ m.cells, x.2 ≠ m.unlisted x.1 := cellsOk_iff m m.cells

@[simp] theorem Memory.unlisted_write (m : Memory) (a b : Nat) (v : Byte) : (m.write a v).unlisted b = m.unlisted b := rfl

theorem Memory.wf_write {m : Memory} (h : m.wf = true) (a : Nat) (b : Byte) : (m.write a b).wf = true := by
  rw [Memory.wf_iff] at h ⊢
  refine ⟨h.1.putKey _ a b, fun x hx => ?_⟩
  rcases mem_putKey hx with ⟨rfl, hv⟩ | hx
  · exact hv
  · exact h.2 x hx

theorem Memory.wf_writeN {m : Memory} (h : m.wf = true) (a w n : Nat) : (m.writeN a w n).wf = true := by
  induction n generalizing m a w with
  | zero => exact h
  | succ n ih => exact ih (Memory.wf_write h a _) _ _

/-- 4 KiB whose contents became free read as free values; other addresses read as before. -/
theorem Memory.unlisted_freePage (m : Memory) (p n a : Nat) :
    (m.freePage p n).unlisted a = if a / 4096 = p then Config.cipherByte n a else m.unlisted a := by
  by_cases h : a / 4096 = p <;> simp [Memory.unlisted, Memory.freePage, lookup_insertKey, h]

theorem Memory.wf_freePage {m : Memory} (h : m.wf = true) (p n : Nat) : (m.freePage p n).wf = true := by
  rw [Memory.wf_iff] at h ⊢
  refine ⟨List.Pairwise.filter _ h.1, fun x hx => ?_⟩
  obtain ⟨hm, hp⟩ := List.mem_filter.1 hx
  rw [Memory.unlisted_freePage, if_neg (by simpa using hp)]
  exact h.2 x hm

theorem Memory.wf_recrypt {m : Memory} (h : m.wf = true) (old new : BitVec 512) (l : Nat) : (m.recrypt old new l).wf = true :=
  Memory.wf_writeN h _ _ _

/-- A page that is read under another key keeps memory canonical; nothing but memory and the seals changes. -/
theorem Homes.wf_reseal {h : Homes} (w : h.mem.wf = true) (page : Nat) (key : BitVec 512) : (h.reseal page key).mem.wf = true := by
  unfold Homes.reseal
  split
  · exact w
  · generalize List.range 512 = l
    show (l.foldl _ h.mem).wf = true
    generalize h.mem = m at w
    induction l generalizing m with
    | nil => exact w
    | cons k t ih => exact ih _ (Memory.wf_recrypt w _ _ _)

theorem Homes.wf_resealAs {h : Homes} (w : h.mem.wf = true) (page : Nat) (owner : BitVec 8) : (h.resealAs page owner).mem.wf = true := by
  unfold Homes.resealAs
  split
  · exact Homes.wf_reseal w _ _
  · exact w

theorem Homes.wf_loadKey {h : Homes} (w : h.mem.wf = true) (k : Nat) (v : BitVec 512) : (h.loadKey k v).mem.wf = true := by
  unfold Homes.loadKey
  generalize h.pageOwner.filter _ = l
  have w' : ({ h with keys := insertKey k v h.keys } : Homes).mem.wf = true := w
  generalize ({ h with keys := insertKey k v h.keys } : Homes) = h' at w'
  induction l generalizing h' with
  | nil => exact w'
  | cons x t ih => exact ih _ (Homes.wf_reseal w' _ _)

/-- A memory that lists nothing is canonical, whatever an unlisted address reads as. -/
theorem Memory.wf_empty (r : List (Nat × Nat)) (e : Option Nat) : Memory.wf ⟨[], r, e⟩ = true := rfl

theorem Memory.read_write (m : Memory) (a b : Nat) (v : Byte) : (m.write a v).read b = if b = a then v else m.read b := by
  unfold Memory.read
  rw [Memory.unlisted_write]
  by_cases hv : v = m.unlisted a
  · by_cases h : b = a <;> simp [Memory.write, putKey, hv, lookup_eraseKey, h]
  · by_cases h : b = a <;> simp [Memory.write, putKey, hv, lookup_insertKey, h]

theorem Memory.read_writeN (m : Memory) (a w n b : Nat) :
    (m.writeN a w n).read b = if a ≤ b ∧ b < a + n then BitVec.ofNat 8 (w / 256 ^ (b - a)) else m.read b := by
  induction n generalizing m a w with
  | zero =>
    have : ¬(a ≤ b ∧ b < a + 0) := by omega
    rw [if_neg this]; rfl
  | succ n ih =>
    rw [Memory.writeN, ih, Memory.read_write]
    by_cases h0 : b = a
    · subst h0
      simp
    · by_cases h1 : a + 1 ≤ b ∧ b < a + 1 + n
      · have h2 : a ≤ b ∧ b < a + (n + 1) := by omega
        obtain ⟨j, hj⟩ : ∃ j, b - a = j + 1 := ⟨b - a - 1, by omega⟩
        have h3 : b - (a + 1) = j := by omega
        rw [if_pos h1, if_pos h2, h3, hj, Nat.pow_succ', Nat.div_div_eq_div_mul]
      · have h2 : ¬(a ≤ b ∧ b < a + (n + 1)) := by omega
        rw [if_neg h1, if_neg h2, if_neg h0]

/-! ## The home slices -/

@[simp] theorem Homes.noKey_put (h : Homes) (a size w page : Nat) : (h.put a size w).noKey page = h.noKey page := by
  unfold Homes.put; split <;> rfl

/-- A home's byte after a write: the written byte where the write covers it, but for a page whose owner's key slot is
empty, which a write leaves alone (R386). -/
theorem Homes.byte_put (h : Homes) (a size w b : Nat) :
    (h.put a size w).byte b =
      if h.noKey (pageOf a) = false ∧ h.noKey (pageOf b) = false ∧ a ≤ b ∧ b < a + size then BitVec.ofNat 8 (w / 256 ^ (b - a))
      else h.byte b := by
  unfold Homes.byte
  rw [Homes.noKey_put]
  cases hb : h.noKey (pageOf b)
  · cases ha : h.noKey (pageOf a)
    · simp only [Homes.put, ha, Homes.markLine, Memory.read_writeN, Bool.false_eq_true, if_false, true_and]
    · simp [Homes.put, ha]
  · simp

theorem Homes.mem_markLine (h : Homes) (l : Nat) : (h.markLine l).mem = h.mem := rfl

theorem Homes.wf_put {h : Homes} (hw : h.mem.wf = true) (a size w : Nat) : (h.put a size w).mem.wf = true := by
  unfold Homes.put
  split
  · exact hw
  · exact Memory.wf_writeN hw _ _ _

theorem Homes.wf_commit {h : Homes} (hw : h.mem.wf = true) (l : Nat) (data : LineData) : (h.commit l data).mem.wf = true :=
  Homes.wf_put hw _ _ _

/-! ## Operations of the dies over memory -/

theorem State.mem_carryPoison (s : State) (i : Fin 6) (l : Nat) : (s.carryPoison i l).homes.mem = s.homes.mem := by
  unfold State.carryPoison; split <;> rfl

theorem State.wf_forwardLine {s : State} (h : s.homes.mem.wf = true) (i : Fin 6) (l : Nat) :
    (s.forwardLine i l).homes.mem.wf = true := by
  unfold State.forwardLine
  split
  · exact Homes.wf_commit (h := (s.carryPoison i l).homes) ((State.mem_carryPoison s i l).symm ▸ h) _ _
  · exact h
  · exact h

theorem State.wf_recallFrom {s : State} (h : s.homes.mem.wf = true) (i : Fin 6) (l : Nat) :
    (s.recallFrom i l).homes.mem.wf = true := by
  unfold State.recallFrom
  split
  · exact Homes.wf_commit (h := (s.carryPoison i l).homes) ((State.mem_carryPoison s i l).symm ▸ h) _ _
  · exact h
  · exact h

/-- What each step of a list keeps, the whole of them keeps. -/
theorem foldl_keeps {α : Type} {P : State → Prop} {f : State → α → State} (hf : ∀ s a, P s → P (f s a)) (l : List α) (s : State)
    (h : P s) : P (l.foldl f s) := by
  induction l generalizing s with
  | nil => exact h
  | cons a t ih => exact ih _ (hf s a h)

theorem State.wf_forwardOthers {s : State} (h : s.homes.mem.wf = true) (i : Fin 6) (l : Nat) :
    (s.forwardOthers i l).homes.mem.wf = true := by
  unfold State.forwardOthers
  refine foldl_keeps (P := fun s => s.homes.mem.wf = true) (fun s k hs => ?_) _ _ h
  by_cases hk : k = i
  · simpa only [if_pos hk] using hs
  · simpa only [if_neg hk] using State.wf_forwardLine hs k l

theorem State.wf_recallLine {s : State} (h : s.homes.mem.wf = true) (l : Nat) : (s.recallLine l).homes.mem.wf = true := by
  unfold State.recallLine
  exact foldl_keeps (P := fun s => s.homes.mem.wf = true) (fun s k hs => State.wf_recallFrom hs k l) _ _ h

/-- A trigger reaches the armed monitors and the front end's watches; it leaves memory. -/
theorem State.mem_triggerAll (s : State) (l : Nat) : (s.triggerAll l).homes.mem = s.homes.mem := by
  show (sites.foldl (fun s i => s.triggerDie i l) s).homes.mem = s.homes.mem
  exact foldl_keeps (P := fun t => t.homes.mem = s.homes.mem) (f := fun s i => s.triggerDie i l) (fun t k ht => ht) _ _ rfl

/-- Placing a line in a last-level cache leaves memory. -/
theorem State.mem_touchLlc (s : State) (l : Nat) : (s.touchLlc l).homes.mem = s.homes.mem := by
  unfold State.touchLlc
  split
  · rfl
  · rfl

@[simp] theorem State.homes_overwrite (s : State) (p : Nat → Bool) : (s.overwrite p).homes = s.homes := rfl

theorem State.wf_homeWrite {s : State} (h : s.homes.mem.wf = true) (a size w : Nat) :
    (s.homeWrite a size w).homes.mem.wf = true := by
  unfold State.homeWrite
  rw [State.mem_triggerAll, State.homes_overwrite, State.mem_touchLlc, State.homes_updHomes]
  exact Homes.wf_put (State.wf_recallLine h (lineOf a)) a size w

/-- Memory at reset stands in its canonical form. -/
theorem State.wf_reset : State.reset.homes.mem.wf = true := rfl

/-! ## Rows -/

/-- A row of a core's scratchpad after a write of one row (R83). -/
theorem Core.row_setRow (c : Core) (i j : Nat) (v : Row) : (c.setRow i v).row j = if j = i then v else c.row j :=
  getKey_putKey 0 i j v c.st.rows

end Sys2Proof.Machine
end

