-- ==== Sys2Proof/Laws/Issue.lean ====
section
/-! SUPPORT. What the operations that control words share can do: issue, going on, a result, an aligned address, a
translated access, waiting, and taking a fault. -/

namespace Sys2Proof.Machine

open Sys2Proof.Spec

/-! ## Issue (R167, R175, R201) -/

theorem issue_of_may {i : Instr} {s : State} (k : State → State) (h : MayIssue s i) : issue i s k = k s := by
  simp [issue, h.1, h.2]

theorem issue_not {i : Instr} {s : State} (k : State → State) (h : ¬MayIssue s i) : issue i s k = s.illegal (wordOfInstr i) := by
  unfold issue
  rw [if_neg]
  intro e
  simp only [Bool.and_eq_true, Bool.not_eq_true'] at e
  exact h e

/-- Everything that issue can do. -/
theorem issue_cases (i : Instr) (s : State) (k : State → State) :
    (MayIssue s i ∧ issue i s k = k s) ∨ (¬MayIssue s i ∧ issue i s k = s.illegal (wordOfInstr i)) := by
  by_cases h : MayIssue s i
  · exact .inl ⟨h, issue_of_may k h⟩
  · exact .inr ⟨h, issue_not k h⟩

/-! ## Going on and waiting (R43, R196) -/

@[simp] theorem Context.rd_next (c : Context) (r : BitVec 5) : c.next.rd r = c.rd r := by
  unfold Context.next
  split
  · split <;> rfl
  · rfl

/-- The executing context's registers, accesses, monitor and region are not touched as it goes on. -/
theorem Context.next_eq (c : Context) : c.next = { c with pc := c.next.pc, status := .running, rep := c.next.rep, begun := none } := by
  unfold Context.next
  split
  · split <;> rfl
  · rfl

/-- An update of the executing context alone leaves the rest of the machine. -/
theorem onlyMe_updMe (s : State) (f : Context → Context) : OnlyMe s (s.updMe f) where
  rest := by rw [State.me_updMe, State.updMe_const]
  memory _ := rfl
  seen i a := State.dieByte_updCore _ _ _ i a

theorem goesOn_next (s : State) (f : Context → Context) (h : ∀ c, (f c).rep = c.rep ∧ (f c).pc = c.pc) :
    GoesOn s (s.updMe fun c => (f c).next) := by
  refine ⟨?_, fun h' => ?_, fun q hq hj => ?_, fun q hq hj => ?_⟩ <;> simp only [State.me_updMe, Context.next, (h _).1, (h _).2]
  · split
    · split <;> rfl
    · rfl
  · simp [h']
  · simp [hq, hj]
  · simp [hq, hj]

theorem goesOn_goOn (s : State) : GoesOn s s.goOn := goesOn_next s id fun _ => ⟨rfl, rfl⟩

/-- A wait changes the executing context's status and nothing else. -/
theorem State.me_block (s : State) (w : Wait) : (s.block w).me = { s.me with status := .waiting w } := State.me_updMe s _

theorem onlyMe_block (s : State) (w : Wait) : OnlyMe s (s.block w) := onlyMe_updMe s _

@[simp] theorem State.takeSeq_number (s : State) : s.takeSeq.2 = s.me.seq := rfl
@[simp] theorem State.homes_takeSeq (s : State) : s.takeSeq.1.homes = s.homes := rfl

theorem State.me_takeSeq (s : State) : s.takeSeq.1.me = { s.me with seq := s.me.seq + 1 } := State.me_updMe s _

/-- An access takes the next issue number and stands last among the outstanding ones. -/
theorem State.me_issueAccess (s : State) (cls : BitVec 16) (op : AccOp) (hva : Word) (pages : List Nat) :
    (s.issueAccess cls op hva pages).me = { s.me with
      seq := s.me.seq + 1, out := s.me.out ++ [⟨s.me.seq, cls, op, s.me.faultPc, hva, pages, s.me.faultRep, none⟩] } := by
  unfold State.issueAccess State.takeSeq
  simp only [State.me_updMe]
  rfl

theorem onlyMe_issueAccess (s : State) (cls : BitVec 16) (op : AccOp) (hva : Word) (pages : List Nat) :
    OnlyMe s (s.issueAccess cls op hva pages) := by
  unfold State.issueAccess State.takeSeq
  simp only [State.updMe_updMe]
  exact onlyMe_updMe s _

/-- Everything that a release by the executing context can do: what follows it, at once, with the covered lines committed
where it is wide; or it is outstanding and the context goes on (R43). -/
theorem withRelease_cases (s : State) (op : AccOp) (wide : Bool) (k : State → State) :
    (s.releaseReady s.cur allCls wide = true ∧
      withRelease s op wide k = k (if wide then s.commitCovered s.cur allCls else s)) ∨
    (s.releaseReady s.cur allCls wide = false ∧
      withRelease s op wide k = (s.sideEffect.issueAccess 0 op 0 []).goOn) := by
  unfold withRelease
  cases h : s.releaseReady s.cur allCls wide
  · exact .inr ⟨rfl, by simp⟩
  · exact .inl ⟨rfl, by simp⟩

/-! ## Results (R181) -/

theorem Context.wr_keep (c : Context) (d : BitVec 5) (v : Word) : (c.wr d v).rep = c.rep ∧ (c.wr d v).pc = c.pc := by
  unfold Context.wr; split <;> exact ⟨rfl, rfl⟩

theorem State.result_eq (s : State) (d : BitVec 5) (v : Word) : s.result d v = s.updMe fun c => (c.wr d v).next := by
  simp [State.result, State.goOn, State.wx, State.updMe_updMe]

/-- What a scalar result does, and all that it does. -/
theorem setsX_result (s : State) (d : BitVec 5) (v : Word) : SetsX s d v (s.result d v) := by
  rw [State.result_eq]
  refine ⟨fun hd => ?_, rfl, fun r hr => ?_, goesOn_next _ _ fun c => Context.wr_keep c d v, ?_, onlyMe_updMe _ _⟩
  · simp only [State.rx, State.me_updMe, Context.rd_next, Context.rd_wr]
    rw [if_pos ⟨trivial, hd⟩]
  · simp only [State.rx, State.me_updMe, Context.rd_next, Context.rd_wr]
    rw [if_neg fun h => hr h.1]
  · simp only [State.me_updMe]
    unfold Context.next Context.wr
    split <;> (try split) <;> (try split) <;> rfl

/-- An instruction whose meaning is a result has that result wherever it may issue. -/
theorem result_of {i : Instr} {d : BitVec 5} {v : Word} {s : State} (h : MayIssue s i → exec i s = .next (s.result d v)) :
    Result i d v s := fun m => ⟨_, h m, setsX_result s d v⟩

theorem binop_eq {i : Instr} {d a b : BitVec 5} {f : Word → Word → Word} {s : State} (m : MayIssue s i) :
    binop i d a b f s = .next (s.result d (f (s.rx a) (s.rx b))) := by
  simp only [binop, go, issue_of_may _ m]

theorem unop_eq {i : Instr} {d a : BitVec 5} {f : Word → Word} {s : State} (m : MayIssue s i) :
    unop i d a f s = .next (s.result d (f (s.rx a))) := by
  simp only [unop, go, issue_of_may _ m]

/-! ## Accesses (R75, R79, R188) -/

theorem withAligned_of {s : State} {e n : Nat} (k : State → State) (h : e % n = 0) : withAligned s e n k = k s := by
  simp [withAligned, h]

theorem withAligned_not {s : State} {e n : Nat} (k : State → State) (h : e % n ≠ 0) : withAligned s e n k = s.fault 0x02 e := by
  simp [withAligned, h, fMisaligned]

theorem eaOf_eq (s : State) (xa : BitVec 5) (off : BitVec 8) (size : Nat) : eaOf s xa off size = ea s xa off size := by
  simp only [eaOf, ea, u]
  simp [BitVec.toNat_add, BitVec.toNat_ofInt]
  omega

theorem pinEach_eq {pkg : Nat} {h h' : Homes} {l : List Nat} (e : h.pinEach pkg l = some h') : h' = l.foldl Homes.pin h := by
  induction l generalizing h with
  | nil => exact (Option.some.inj e).symm
  | cons p t ih =>
    unfold Homes.pinEach at e
    split at e
    · exact ih e
    · cases e

theorem pinAll_eq {s s' : State} {l : List Nat} (h : s.pinAll l = some s') : s' = s.updHomes fun h => l.foldl Homes.pin h := by
  obtain ⟨g, h1, rfl⟩ := Option.map_eq_some_iff.1 h
  rw [pinEach_eq h1]; rfl

theorem Homes.byte_pin (h : Homes) (p a : Nat) : (h.pin p).byte a = h.byte a := rfl

/-- Everything that pinning can do: the wait for a pin, the fault of an unreachable address, or going on with the pages
pinned. -/
theorem withPins_cases (s : State) (dlas : List Nat) (k : State → State) :
    withPins s dlas k = s.block .pin ∨ (∃ a, withPins s dlas k = s.fault 0x0A a) ∨
    ((∀ a ∈ dlas, s.dlaOk a = true) ∧
      withPins s dlas k = k (s.updHomes fun h => (dlas.map pageOf).foldl Homes.pin h)) := by
  unfold withPins
  split
  · exact .inl rfl
  · next h =>
    split
    · exact .inr (.inl ⟨_, rfl⟩)
    · next hok => exact .inr (.inr ⟨fun a ha => by simpa using List.find?_eq_none.1 hok a ha, by rw [pinAll_eq h]⟩)

/-- An access of one word that translates, is reachable and whose page can be pinned goes on, its page pinned. -/
theorem withXlat_one {s : State} {e dla : Nat} {wr : Bool} (h : Reaches s e dla wr) (asked paged : State → Nat → State)
    (k : State → List Nat → State) :
    withXlat s [e] wr asked paged k = k (s.updHomes fun h => h.pin (pageOf dla)) [dla] := by
  obtain ⟨h1, h2, h3⟩ := h
  obtain ⟨s', h4⟩ := Option.isSome_iff_exists.mp h3
  have h5 : s' = s.updHomes fun h => h.pin (pageOf dla) := pinAll_eq h4
  unfold withXlat withPins
  simp only [State.xlatWords, h1, List.find?, h2, Bool.not_true, List.map, h4, h5]

/-- Everything that a translated access can do before it goes on: an unreachable address, a refused page, the wait for a
pin, or what its form does on an outstanding page request or translation; else it goes on with its pages pinned. -/
theorem withXlat_cases (s : State) (hvas : List Nat) (wr : Bool) (asked paged : State → Nat → State)
    (k : State → List Nat → State) :
    let t := withXlat s hvas wr asked paged k
    (∃ a, t = s.fault 0x0A a) ∨ (∃ a, t = (s.dropRefused (.engine s.cur.at_ ctxEng) (s.pasidOf s.cur.at_) a).fault 0x09 a) ∨
    (∃ a, t = paged s a) ∨ t = s.block .pin ∨
    (∃ a, t = asked (s.askXlat (.engine s.cur.at_ ctxEng) (s.pasidOf s.cur.at_) a wr) a) ∨
    (∃ dlas, (∀ a ∈ dlas, s.dlaOk a = true) ∧ t = k (s.updHomes fun h => (dlas.map pageOf).foldl Homes.pin h) dlas) := by
  dsimp only
  unfold withXlat
  dsimp only
  split
  · next dlas _ =>
    rcases withPins_cases s dlas fun s => k s dlas with h | h | h
    · exact .inr (.inr (.inr (.inl h)))
    · exact .inl h
    · exact .inr (.inr (.inr (.inr (.inr ⟨dlas, h⟩))))
  · exact .inr (.inl ⟨_, rfl⟩)
  · exact .inr (.inr (.inl ⟨_, rfl⟩))
  · exact .inr (.inr (.inr (.inr (.inl ⟨_, rfl⟩))))

/-- A load of one word holds its context, with its page pinned. -/
theorem issueLoad_one {s : State} {e dla size : Nat} {cls : BitVec 16} {dest : LoadDest} (hl : s.logged s.cur cls = false)
    (h : Reaches s e dla false) :
    Holds s ⟨s.me.seq, dest, cls, [⟨dla, e, size, none⟩], none, 0, [pageOf dla], none⟩ dla (issueLoad s [e] size cls dest) := by
  have e1 : issueLoad s [e] size cls dest = (s.updHomes fun h => h.pin (pageOf dla)).updMe fun c =>
      { c with status := .held ⟨s.me.seq, dest, cls, [⟨dla, e, size, none⟩], none, 0, [pageOf dla], none⟩, seq := c.seq + 1 } := by
    unfold issueLoad
    rw [hl]
    simp only [Bool.false_eq_true, if_false, withXlat_one h, State.takeSeq, State.updMe_updMe]
    rfl
  rw [e1]
  refine ⟨?_, ?_, fun a => rfl, fun i a => ?_⟩
  · simp [State.me_updMe]
  · simp only [State.me_updMe]
    exact (State.updMe_const (s.updHomes fun h => h.pin (pageOf dla)) _).symm
  · exact State.dieByte_updCore (s.updHomes fun h => h.pin (pageOf dla)) _ _ i a

/-- A store of one word pins its page, marks the side effect, becomes outstanding and goes on. -/
theorem issueStore_one {s : State} {e dla : Nat} {cls : BitVec 16} {op : LogOp}
    (hl : s.logged s.cur cls = false) (h : Reaches s e dla true) :
    issueStore s cls [(e, op)] =
      ((s.updHomes fun h => h.pin (pageOf dla)).sideEffect.issueAccess cls (op.access dla) (BitVec.ofNat 64 e) [pageOf dla]).goOn := by
  unfold issueStore
  rw [hl]
  simp only [Bool.false_eq_true, if_false, List.map, withXlat_one h, List.zip, List.zipWith, List.foldl]

/-! ## Taking a fault (R338) -/

/-- A core whose task has faulted, or that runs none, takes no fault. -/
theorem takeFault_ended {s : State} {r : CoreRef} (f : FaultInfo) (h : ∀ k, (s.core r).task = some k → k.live = false) :
    s.takeFault r f = s := by
  unfold State.takeFault
  split
  · rfl
  · next k hk => simp [h k hk]

theorem Homes.mem_unpin (h : Homes) (p : Nat) : (h.unpin p).mem = h.mem := by
  unfold Homes.unpin; dsimp only; split <;> rfl

theorem State.mem_unpin (s : State) (l : List Nat) : (s.unpin l).homes.mem = s.homes.mem := by
  unfold State.unpin
  show (l.foldl Homes.unpin s.homes).mem = s.homes.mem
  generalize s.homes = h
  induction l generalizing h with
  | nil => rfl
  | cons p t ih => exact (ih _).trans (Homes.mem_unpin h p)

theorem State.mem_dropHeld (s : State) (r : CoreRef) : (s.dropHeld r).homes.mem = s.homes.mem := by
  unfold State.dropHeld
  rw [State.homes_updDie, State.mem_unpin]

theorem State.mem_settle (s : State) (r : CoreRef) : (s.settle r).homes.mem = s.homes.mem := by
  unfold State.settle
  split
  · split <;> rfl
  · rfl

theorem State.mem_endTask (s : State) (r : CoreRef) (f : FaultInfo) (first : Option Nat) :
    (s.endTask r f first).homes.mem = s.homes.mem := by
  unfold State.endTask
  split
  · rfl
  · dsimp only
    rw [State.mem_settle, State.homes_updPipe, State.homes_updCore, State.mem_dropHeld, State.mem_unpin]

theorem State.mem_dropKids (s : State) (id : Nat) : (s.dropKids id).homes.mem = s.homes.mem := by
  unfold State.dropKids
  split
  · rfl
  · exact foldl_keeps (P := fun t => t.homes.mem = s.homes.mem)
      (fun t r h => by rw [State.homes_updCore]; exact h) _ _ rfl

theorem State.mem_beginShutdown (s : State) (id status : Nat) (l : List Nat) :
    (s.beginShutdown id status l).homes.mem = s.homes.mem := by
  unfold State.beginShutdown
  split
  · rw [State.mem_dropKids, State.homes_updPipe]
  · rfl

theorem State.mem_endGang (s : State) (r : CoreRef) (f : FaultInfo) : (s.endGang r f).homes.mem = s.homes.mem := by
  unfold State.endGang
  split
  · rfl
  · split
    · exact foldl_keeps (P := fun t => t.homes.mem = s.homes.mem) (fun t a h => (State.mem_endTask t a f _).trans h) _ _
        (State.mem_endTask s r f none)
    · rfl

/-- Taking a fault leaves global memory. -/
theorem State.mem_takeFault (s : State) (r : CoreRef) (f : FaultInfo) : (s.takeFault r f).homes.mem = s.homes.mem := by
  unfold State.takeFault
  split
  · rfl
  · split
    · rw [State.mem_beginShutdown, State.mem_endGang]
    · rfl

/-- So does the fault of several tasks at one instant. -/
theorem State.mem_takeFaults (s : State) (l : List (CoreRef × FaultInfo)) : (s.takeFaults l).homes.mem = s.homes.mem := by
  unfold State.takeFaults
  exact foldl_keeps (P := fun t => t.homes.mem = s.homes.mem) (fun t _ h => (State.mem_beginShutdown t _ _ _).trans h) _ _
    (foldl_keeps (P := fun t => t.homes.mem = s.homes.mem) (fun t x h => (State.mem_endGang t x.1 x.2).trans h) _ _ rfl)

end Sys2Proof.Machine
end

