-- ==== Sys2Proof/Laws/Frame.lean ====
section
/-! SUPPORT. Which shared operations leave global memory, and which keep its canonical form. -/

namespace Sys2Proof.Machine

open Sys2Proof.Spec

/-! ## Operations that leave the home slices -/

@[simp] theorem State.homes_goOn (s : State) : s.goOn.homes = s.homes := rfl
@[simp] theorem State.homes_block (s : State) (w : Wait) : (s.block w).homes = s.homes := rfl
@[simp] theorem State.homes_wx (s : State) (r : BitVec 5) (v : Word) : (s.wx r v).homes = s.homes := rfl
@[simp] theorem State.homes_result (s : State) (d : BitVec 5) (v : Word) : (s.result d v).homes = s.homes := rfl
@[simp] theorem State.homes_jump (s : State) (t : Word) : (s.jump t).homes = s.homes := rfl
@[simp] theorem State.homes_at_ (s : State) (t : Nat) : (s.at_ t).homes = s.homes := rfl
@[simp] theorem State.homes_draw (s : State) : s.draw.1.homes = s.homes := rfl
@[simp] theorem State.homes_logErr (s : State) (c sl si d n : Nat) : (s.logErr c sl si d n).homes = s.homes := rfl
@[simp] theorem State.homes_raiseIrq (s : State) (v : Nat) : (s.raiseIrq v).homes = s.homes := by
  unfold State.raiseIrq; split <;> rfl
@[simp] theorem State.homes_updTask (s : State) (r : CoreRef) (f : Task → Task) : (s.updTask r f).homes = s.homes := rfl
@[simp] theorem State.homes_setRow (s : State) (r : CoreRef) (i : Nat) (v : Row) : (s.setRow r i v).homes = s.homes := rfl
@[simp] theorem State.homes_wakeRow (s : State) (r : CoreRef) (i : Nat) : (s.wakeRow r i).homes = s.homes := rfl
@[simp] theorem State.homes_sideEffect (s : State) : s.sideEffect.homes = s.homes := rfl
@[simp] theorem State.homes_triggerDie (s : State) (i : Fin 6) (l : Nat) : (s.triggerDie i l).homes = s.homes := rfl
@[simp] theorem State.homes_disarmDie (s : State) (i : Fin 6) (l : Nat) : (s.disarmDie i l).homes = s.homes := rfl

/-- Publishing a slot leaves the home slices. -/
theorem State.homes_publish (s : State) (pipe ring : Nat) (r : CoreRef) (p : BitVec 9) : (s.publish pipe ring r p).homes = s.homes := by
  unfold State.publish
  dsimp only
  split
  · rfl
  · split <;> rfl

theorem State.homes_setRows (s : State) (r : CoreRef) (base : Nat) (l : List (Row × Nat)) :
    (l.foldl (fun s x => s.setRow r (base + x.2) x.1) s).homes = s.homes := by
  induction l generalizing s with
  | nil => rfl
  | cons x t ih => exact (ih _).trans (State.homes_setRow s r _ _)

/-- An RWRITE's arrival at an instance leaves the home slices (R90). -/
theorem State.homes_applyWrite (s : State) (pipe : Nat) (r : CoreRef) (w : RemoteWrite) : (s.applyWrite pipe r w).homes = s.homes := by
  unfold State.applyWrite
  dsimp only
  rw [State.homes_publish, State.homes_setRows, State.homes_updCore]

theorem State.homes_wakeSlot (s : State) (r : CoreRef) (g : RingInst) (i n : Nat) : (s.wakeSlot r g i n).homes = s.homes :=
  foldl_keeps (P := fun t => t.homes = s.homes) (fun t _ h => (State.homes_wakeRow t r _).trans h) _ _ rfl

theorem State.homes_applyWaiting (s : State) (r : CoreRef) (ring n : Nat) : (s.applyWaiting r ring n).homes = s.homes := by
  induction n generalizing s with
  | zero => rfl
  | succ n ih =>
    unfold State.applyWaiting
    dsimp only
    split
    · split
      · split
        · exact State.homes_wakeSlot s _ _ _ _
        · rw [ih]; exact State.homes_applyWrite s _ _ _
      · rfl
    · rfl

/-- Popping slots leaves the home slices (R88). -/
theorem State.homes_popSlot (s : State) (r : CoreRef) (ring : Nat) : (s.popSlot r ring).homes = s.homes := by
  unfold State.popSlot
  dsimp only
  rw [State.homes_applyWaiting, State.homes_updTask, State.homes_updCore]

theorem State.homes_popSlots (s : State) (r : CoreRef) (ring n : Nat) : (s.popSlots r ring n).homes = s.homes := by
  induction n generalizing s with
  | zero => rfl
  | succ n ih => exact (ih _).trans (State.homes_popSlot s r ring)

/-! ## Operations that leave the bytes of memory -/

theorem Homes.mem_pin (h : Homes) (p : Nat) : (h.pin p).mem = h.mem := rfl

theorem State.mem_pinAll {s s' : State} {l : List Nat} (h : s.pinAll l = some s') : s'.homes.mem = s.homes.mem := by
  rw [pinAll_eq h]
  show (l.foldl Homes.pin s.homes).mem = s.homes.mem
  clear h
  generalize s.homes = g
  induction l generalizing g with
  | nil => rfl
  | cons p t ih => exact (ih _).trans (Homes.mem_pin g p)

theorem State.mem_addSnoop (s : State) (i : Fin 6) (l : Nat) (f : Option (Fin 6)) (r : Bool) :
    (s.addSnoop i l f r).homes.mem = s.homes.mem := by
  unfold State.addSnoop; split <;> rfl

theorem State.mem_askXlat (s : State) (u : XlatUser) (p a : Nat) (wr : Bool) : (s.askXlat u p a wr).homes.mem = s.homes.mem := by
  unfold State.askXlat; dsimp only; split <;> rfl

theorem State.mem_dropRefused (s : State) (u : XlatUser) (p a : Nat) : (s.dropRefused u p a).homes.mem = s.homes.mem := rfl

theorem State.mem_fault (s : State) (code addr : Nat) : (s.fault code addr).homes.mem = s.homes.mem := State.mem_takeFault s _ _

theorem State.mem_illegal (s : State) (w : CtlWord) : (s.illegal w).homes.mem = s.homes.mem := State.mem_takeFault s _ _

/-! ## What keeps the canonical form -/

/-- A form that may not issue leaves memory; one that may is as its meaning is. -/
theorem wf_issue {i : Instr} {s : State} {k : State → State} (h : s.homes.mem.wf = true)
    (hk : MayIssue s i → (k s).homes.mem.wf = true) : (issue i s k).homes.mem.wf = true := by
  rcases issue_cases i s k with ⟨m, e⟩ | ⟨-, e⟩
  · rw [e]; exact hk m
  · rw [e, State.mem_illegal]; exact h

theorem wf_withAligned {s : State} {e n : Nat} {k : State → State} (h : s.homes.mem.wf = true)
    (hk : (k s).homes.mem.wf = true) : (withAligned s e n k).homes.mem.wf = true := by
  unfold withAligned
  split
  · rw [State.mem_fault]; exact h
  · exact hk

theorem State.wf_commitLine {s : State} (h : s.homes.mem.wf = true) (l : Nat) (data : LineData) :
    (s.commitLine l data).homes.mem.wf = true := Homes.wf_commit h l data

theorem State.wf_commitCovered {s : State} (h : s.homes.mem.wf = true) (c : CtxRef) (m : BitVec 16) :
    (s.commitCovered c m).homes.mem.wf = true := by
  unfold State.commitCovered
  refine foldl_keeps (P := fun s => s.homes.mem.wf = true) (fun s x hs => ?_) _ _ h
  split
  · split
    · refine State.wf_commitLine ?_ _ _
      rw [State.homes_updDie, State.mem_carryPoison]; exact hs
    · exact hs
  · exact hs

theorem wf_withRelease {s : State} {op : AccOp} {wide : Bool} {k : State → State} (h : s.homes.mem.wf = true)
    (hk : ∀ t, t.homes.mem.wf = true → (k t).homes.mem.wf = true) : (withRelease s op wide k).homes.mem.wf = true := by
  unfold withRelease
  split
  · refine hk _ ?_
    split
    · exact State.wf_commitCovered h _ _
    · exact h
  · exact h

end Sys2Proof.Machine
end

