-- ==== Sys2Proof/Safety.lean ====
section
/-! DEFINITION. What counts as a safe run: no step ends in a fault or a refusal. -/

namespace Sys2Proof

/-- The next k steps all answer a next state. -/
def safeFor (k : Nat) (s : Machine.State) : Bool :=
  match k with
  | 0 => true
  | k + 1 => match Machine.step s with
    | .next s' => safeFor k s'
    | .fault _ => false
    | .refused _ => false

end Sys2Proof
end

