-- ==== Sys2Proof/Tests/Slice0.lean ====
section
/-! SUPPORT. The model's own tests: words written out from the encodings of 11_encoding.md, 13_scalar.md, 15_vector.md, 17_tile.md
and 19_tasks.md; ill-formed terms that the checks refuse; worked values of the manual; and, for every statement, a state and
operands that meet its hypotheses. -/

set_option Elab.async false

namespace Sys2Proof.Tests

open Sys2Proof Sys2Proof.Machine Sys2Proof.Spec

/-! ## Decoding -/

/-- Each word decodes to the instruction beside it. -/
def reads (l : List (CtlWord × Instr)) : Bool := l.all fun x => match decode x.1 with | .ok i => decide (i = x.2) | .error _ => false

/-- Each command word decodes to the command beside it. -/
def readsCmd (l : List (CmdWord × Instr)) : Bool := l.all fun x => match decodeCmd x.1 with | .ok i => decide (i = x.2) | .error _ => false

/-- No word of these is a well-formed instruction (R175). -/
def refused (l : List CtlWord) : Bool := l.all fun w => match decode w with | .ok i => !i.wf | .error _ => true

/-- No command word of these is a well-formed command (step 1 of R174). -/
def refusedCmd (l : List CmdWord) : Bool := l.all fun w => match decodeCmd w with | .ok i => !i.wf | .error _ => true

/-- Every one of these terms is ill formed. -/
def illFormed (l : List Instr) : Bool := l.all fun i => !i.wf

/-- The formats of R156: [31:26] op, then the fields of each. -/
def rr (op d a b fn : Nat) : CtlWord := BitVec.ofNat 32 (op * 2 ^ 26 + d * 2 ^ 21 + a * 2 ^ 16 + b * 2 ^ 11 + fn)
def ri (op d a imm : Nat) : CtlWord := BitVec.ofNat 32 (op * 2 ^ 26 + d * 2 ^ 21 + a * 2 ^ 16 + imm)
def jj (op off : Nat) : CtlWord := BitVec.ofNat 32 (op * 2 ^ 26 + off)
def vv (op d a b m fn : Nat) : CtlWord := BitVec.ofNat 32 (op * 2 ^ 26 + d * 2 ^ 20 + a * 2 ^ 14 + b * 2 ^ 8 + m * 2 ^ 5 + fn)

/-- Words that the manual writes out in full, with their assembly form (R155 to R290). -/
theorem test_manual_words : reads [
    (0x04A6FFFD, .addi 5 6 (-3)), (0x20E92602, .ld 7 9 2 2), (0x2CA0FFFC, .bne 5 0 (-4)), (0x00653404, .sel 3 5 6 4),
    (0x40307800, .vadd 3 1 56 0), (0x43C04240, .vadd 60 1 2 2), (0xE000041B, .rep 3 3), (0xE080060A, .srd 4 0x0A),
    (0xE8000024, .fence 0x24), (0xF4000003, .jmp 3), (0x00642801, .add 3 4 5), (0x014B6007, .divu 10 11 12),
    (0x00420021, .sext16 2 2), (0x03E7001C, .jalr 31 7), (0x18852003, .shri 4 5 3), (0x19288407, .bfi 9 8 16 7),
    (0x20E92B03, .st 7 9 2 3), (0x204303FE, .ldhu 2 3 0 (-2)), (0x3864000A, .bltu 3 4 10), (0x2680FFFA, .loop 20 (-6)),
    (0xF8000100, .jal 0x100), (0xF0000103, .region 0x103), (0xEC000210, .wait 0 2 1 0), (0xE800000C, .fence 0x0C),
    (0xE4AA6180, .acq 5 10 12 2), (0xE5063A40, .rel 8 6 7 1), (0xE40A0300, .mon 10), (0xE00B0005, .mwait 11)] = true := by decide +kernel

theorem test_manual_words_2 : reads [
    (0xE0853004, .vdhop 4 5 6), (0xE1200003, .time 9), (0xE0070713, .swr 7 0x13), (0xE0000212, .trap 0x12), (0xE0000002, .brk),
    (0x67C04000, .vbcast 60 1), (0x44404260, .vfma 4 1 2 3), (0x48217901, .vcmplt 2 5 57 0), (0x48108383, .vsel 1 2 3 4),
    (0x4C708003, .mpop 7 2), (0x57C22302, .vnarrow 60 8 1 3 0), (0x5C518022, .vcompress 5 6 1), (0xB80C1007, .ppld 12 1 7),
    (0x60910020, .vppe 9 4 1), (0x84000000, .qldr 0 0 0 0 0), (0x8C050000, .qstr 0 5 0 0 0), (0x90A00000, .rres 5 0),
    (0x90052000, .rpub 5 0), (0x90004000, .rpop 0), (0x94070003, .rcfg 7 3), (0xB0610000, .shape 3 1), (0xB4A80000, .shld 5 8 0 0),
    (0xA8242002, .kst 1 4 2 2), (0x6C000103, .vcfg 1 0 3), (0x5861C000, .vrsum 6 7 0), (0x5861C004, .vscan 6 7 0),
    (0x80290001, .qld 1 9 0 1), (0x703E3948, .vrotm 3 56 57 9), (0x43DE000B, .vmov 61 56 0), (0x88200000, .qst 1 0 0 0)] = true := by
  decide +kernel

theorem test_manual_words_3 : reads [
    (0xC0150004, .spawn 21 4), (0xC4160001, .join 22), (0xC4000002, .exit), (0xC8AB0001, .fget 5 11), (0xC80B3002, .fput 11 6),
    (0xC80B0003, .freset 11), (0xCC000004, .semw 4), (0xCC008004, .sems 4), (0xD0000003, .evwait 3), (0xD0008003, .evsig 3),
    (0x06B50080, .addi 21 21 128), (0xE0000001, .nop)] = true := by decide +kernel

/-- Major 0x00, by fn (R158). -/
theorem test_decode_registers : reads [
    (rr 0 1 2 3 0x01, .add 1 2 3), (rr 0 1 2 3 0x02, .sub 1 2 3), (rr 0 1 2 3 0x03, .mul 1 2 3), (rr 0 1 2 3 0x04, .mulh 1 2 3),
    (rr 0 1 2 3 0x05, .mulhu 1 2 3), (rr 0 1 2 3 0x06, .div 1 2 3), (rr 0 1 2 3 0x07, .divu 1 2 3), (rr 0 1 2 3 0x08, .rem 1 2 3),
    (rr 0 1 2 3 0x09, .remu 1 2 3), (rr 0 1 2 3 0x0A, .and 1 2 3), (rr 0 1 2 3 0x0B, .or 1 2 3), (rr 0 1 2 3 0x0C, .xor 1 2 3),
    (rr 0 1 2 3 0x0D, .shl 1 2 3), (rr 0 1 2 3 0x0E, .shr 1 2 3), (rr 0 1 2 3 0x0F, .sra 1 2 3), (rr 0 1 2 3 0x10, .slt 1 2 3),
    (rr 0 1 2 3 0x11, .sltu 1 2 3), (rr 0 1 2 3 0x12, .min 1 2 3), (rr 0 1 2 3 0x13, .max 1 2 3), (rr 0 1 2 3 0x14, .minu 1 2 3),
    (rr 0 1 2 3 0x15, .maxu 1 2 3), (rr 0 1 2 3 0x16, .sadd 1 2 3), (rr 0 31 30 0 0x18, .clz 31 30), (rr 0 31 30 0 0x19, .ctz 31 30),
    (rr 0 31 30 0 0x1A, .popc 31 30), (rr 0 31 30 0 0x1C, .jalr 31 30), (rr 0 31 30 0 0x20, .sext8 31 30),
    (rr 0 31 30 0 0x21, .sext16 31 30), (rr 0 31 30 0 0x22, .sext32 31 30), (rr 0 31 30 0 0x24, .zext8 31 30),
    (rr 0 31 30 0 0x25, .zext16 31 30), (rr 0 31 30 0 0x26, .zext32 31 30), (rr 0 1 2 3 0x41F, .sel 1 2 3 31)] = true := by decide +kernel

/-- Majors 0x01 to 0x0F (R157, R159, R160). -/
theorem test_decode_immediates : reads [
    (ri 1 1 2 0x8000, .addi 1 2 0x8000), (ri 2 1 2 3, .andi 1 2 3), (ri 3 1 2 3, .ori 1 2 3), (ri 4 1 2 3, .xori 1 2 3),
    (ri 5 1 2 3, .slti 1 2 3), (ri 6 1 2 (0 * 2 ^ 13 + 63), .shli 1 2 63), (ri 6 1 2 (1 * 2 ^ 13 + 63), .shri 1 2 63),
    (ri 6 1 2 (2 * 2 ^ 13 + 63), .srai 1 2 63), (ri 6 1 2 (3 * 2 ^ 13 + 60 * 2 ^ 6 + 3), .bfx 1 2 60 3),
    (ri 6 1 2 (4 * 2 ^ 13 + 0 * 2 ^ 6 + 63), .bfi 1 2 0 63), (ri 7 1 0 0xFFFF, .li 1 0xFFFF), (ri 7 1 7 0x1234, .lih 1 3 0x1234),
    (ri 8 1 2 0x5080, .ldb 1 2 5 0x80), (ri 8 1 2 0x5180, .ldbu 1 2 5 0x80), (ri 8 1 2 0x5280, .ldh 1 2 5 0x80),
    (ri 8 1 2 0x5380, .ldhu 1 2 5 0x80), (ri 8 1 2 0x5480, .ldw 1 2 5 0x80), (ri 8 1 2 0x5580, .ldwu 1 2 5 0x80),
    (ri 8 1 2 0x5680, .ld 1 2 5 0x80), (ri 8 1 2 0x5880, .stb 1 2 5 0x80), (ri 8 1 2 0x5980, .sth 1 2 5 0x80),
    (ri 8 1 2 0x5A80, .stw 1 2 5 0x80), (ri 8 1 2 0x5B80, .st 1 2 5 0x80), (ri 9 1 0 0x8000, .loop 1 0x8000),
    (ri 0x0A 1 2 3, .beq 1 2 3), (ri 0x0B 1 2 3, .bne 1 2 3), (ri 0x0C 1 2 3, .blt 1 2 3), (ri 0x0D 1 2 3, .bge 1 2 3),
    (ri 0x0E 1 2 3, .bltu 1 2 3), (ri 0x0F 1 2 3, .bgeu 1 2 3)] = true := by decide +kernel

/-- Majors 0x10 to 0x13 (R163). -/
theorem test_decode_lanes : reads [
    (vv 0x10 60 1 59 7 0, .vadd 60 1 59 7), (vv 0x10 1 2 3 1 1, .vsub 1 2 3 1), (vv 0x10 1 2 3 1 2, .vmul 1 2 3 1),
    (vv 0x10 1 2 3 1 3, .vdiv 1 2 3 1), (vv 0x10 1 2 3 1 4, .vmin 1 2 3 1), (vv 0x10 1 2 3 1 5, .vmax 1 2 3 1),
    (vv 0x10 1 2 0 1 6, .vabs 1 2 1), (vv 0x10 1 2 0 1 7, .vneg 1 2 1), (vv 0x10 1 2 0 1 8, .vrcp 1 2 1), (vv 0x10 1 2 0 1 9, .vrsq 1 2 1),
    (vv 0x10 1 2 0 1 10, .vsqrt 1 2 1), (vv 0x10 1 2 0 1 11, .vmov 1 2 1), (vv 0x10 1 2 3 1 12, .vand 1 2 3 1),
    (vv 0x10 1 2 3 1 13, .vor 1 2 3 1), (vv 0x10 1 2 3 1 14, .vxor 1 2 3 1), (vv 0x10 1 2 0 1 15, .vnot 1 2 1),
    (vv 0x10 1 2 3 1 16, .vshl 1 2 3 1), (vv 0x10 1 2 3 1 17, .vshr 1 2 3 1), (vv 0x10 1 2 3 1 18, .vsra 1 2 3 1),
    (vv 0x11 55 2 3 1 0, .vfma 55 2 3 1), (vv 0x11 1 2 3 1 1, .vfms 1 2 3 1), (vv 0x11 1 2 3 1 2, .vnfma 1 2 3 1),
    (vv 0x12 7 2 3 1 0, .vcmpeq 7 2 3 1), (vv 0x12 1 2 3 1 1, .vcmplt 1 2 3 1), (vv 0x12 1 2 3 1 2, .vcmple 1 2 3 1),
    (vv 0x12 1 2 3 4 3, .vsel 1 2 3 4), (vv 0x13 7 1 2 0 0, .mand 7 1 2), (vv 0x13 7 1 2 0 1, .mor 7 1 2), (vv 0x13 7 1 0 0 2, .mnot 7 1),
    (vv 0x13 31 7 0 0 3, .mpop 31 7), (vv 0x13 31 7 0 0 4, .mfirst 31 7)] = true := by decide +kernel

/-- Majors 0x14 to 0x1C (R163, R170, R240). -/
theorem test_decode_vectors : reads [
    (vv 0x14 1 2 0 3 11, .vcvt 1 2 3 11), (vv 0x15 1 2 3 4 0, .vwadd 1 2 3 4), (vv 0x15 1 2 3 4 1, .vwmul 1 2 3 4),
    (vv 0x15 60 8 (2 ^ 5 + 3) 0 2, .vnarrow 60 8 1 3 0), (vv 0x16 1 2 0 3 0, .vrsum 1 2 3), (vv 0x16 1 2 0 3 1, .vrmax 1 2 3),
    (vv 0x16 1 2 0 3 2, .vrmin 1 2 3), (vv 0x16 1 2 0 3 3, .vramax 1 2 3), (vv 0x16 1 2 0 3 4, .vscan 1 2 3), (vv 0x17 1 2 3 0 0, .vperm 1 2 3),
    (vv 0x17 1 0 0 3 1, .viota 1 3), (vv 0x17 1 2 0 3 2, .vcompress 1 2 3), (vv 0x17 1 2 0 3 3, .vexpand 1 2 3), (vv 0x18 1 2 0 3 0, .vppe 1 2 3),
    (vv 0x19 1 31 0 0 0, .vbcast 1 31), (vv 0x19 31 59 30 0 1, .vextr 31 59 30), (jj 0x1A (55 * 2 ^ 20 + 0xABCD), .vli 55 0xABCD),
    (ri 0x1B 0 0 0x14B, .vcfg 1 4 11), (vv 0x1C 1 2 3 (31 / 4) (31 % 4 * 8), .vrotm 1 2 3 31)] = true := by decide +kernel

/-- Majors 0x20 to 0x34 (R164 to R166, R245 to R252, R276 to R289). -/
theorem test_decode_access_tasks : reads [
    (ri 0x20 3 1 0x4FFF, .qld 3 1 4 0xFFF), (ri 0x21 3 1 (4 * 2 ^ 12 + 63 * 2 ^ 6 + 31), .qldr 3 1 4 63 31), (ri 0x22 3 1 0x4FFF, .qst 3 1 4 0xFFF),
    (ri 0x23 3 1 (4 * 2 ^ 12 + 63 * 2 ^ 6 + 31), .qstr 3 1 4 63 31), (ri 0x24 1 0 31, .rres 1 31), (ri 0x24 0 1 (2 ^ 13 + 31), .rpub 1 31),
    (ri 0x24 0 0 (2 * 2 ^ 13 + 31), .rpop 31), (ri 0x24 1 0 (3 * 2 ^ 13 + 31), .rpeek 1 31), (rr 0x25 0 7 0 31, .rcfg 7 31),
    (rr 0x28 7 1 0 3, .kset 7 1 3), (ri 0x29 7 1 0x4FFF, .kld 7 1 4 0xFFF), (ri 0x2A 7 1 0x4FFF, .kst 7 1 4 0xFFF), (rr 0x2B 7 0 0 0, .push 7),
    (rr 0x2C 15 7 0 0, .shape 15 7), (ri 0x2D 15 1 0x4FFF, .shld 15 1 4 0xFFF), (ri 0x2E 0 1 0x403F, .ppld 1 4 63),
    (ri 0x30 0 1 0x8001, .spawn 1 0x8001), (rr 0x31 0 1 0 1, .join 1), (rr 0x31 0 0 0 2, .exit), (rr 0x31 0 0 0 3, .gbar),
    (rr 0x32 1 2 0 1, .fget 1 2), (rr 0x32 0 1 2 2, .fput 1 2), (rr 0x32 0 1 0 3, .freset 1), (ri 0x33 0 0 63, .semw 63),
    (ri 0x33 0 0 0x803F, .sems 63), (ri 0x34 0 0 63, .evwait 63), (ri 0x34 0 0 0x803F, .evsig 63)] = true := by decide +kernel

/-- Majors 0x38 to 0x3E (R161, R162). -/
theorem test_decode_system : reads [
    (rr 0x38 0 0 0 1, .nop), (rr 0x38 0 0 0 2, .brk), (rr 0x38 1 0 0 3, .time 1), (rr 0x38 1 2 3 4, .vdhop 1 2 3), (rr 0x38 0 1 0 5, .mwait 1),
    (rr 0x38 0 0 0 0x3FF, .trap 0x1FF), (rr 0x38 0 0 0 0x5FF, .rep 63 7), (rr 0x38 1 0 0 0x61F, .srd 1 0x1F), (rr 0x38 0 1 0 0x71F, .swr 1 0x1F),
    (rr 0x39 1 2 3 0x1C0, .acq 1 2 3 3), (rr 0x39 1 2 3 0x280, .rel 1 2 3 2), (rr 0x39 0 1 0 0x300, .mon 1), (ri 0x3A 0 0 0x8001, .fence 0x8001),
    (ri 0x3B 0 0 0x1234, .wait 1 2 3 4), (jj 0x3C 0x3FFFFFF, .region 0x3FFFFFF), (jj 0x3D 0x2000000, .jmp 0x2000000),
    (jj 0x3E 0x3FFFFFE, .jal 0x3FFFFFE)] = true := by decide +kernel

/-- The words of 12_encoding_notes.md and R175 that are not instructions, and a non-zero reserved field of each format. -/
theorem test_refused_words : refused [
    0x00000000, 0xFFFFFFFF, 0x00000017, rr 0 1 2 1 0x18, 0x18436F07, ri 6 1 2 (2 ^ 12), ri 6 1 2 (2 ^ 6), ri 7 1 1 0, ri 8 1 2 0x0700,
    ri 9 1 1 0, ri 9 0 0 4, 0x43908300, vv 0x10 1 2 1 0 6, vv 0x11 60 1 2 0 0, vv 0x12 8 1 2 0 0, vv 0x12 0 1 2 0 0, vv 0x13 0 1 2 0 0,
    vv 0x13 1 1 2 1 0, vv 0x13 40 1 0 0 3, vv 0x14 1 2 0 0 7, vv 0x19 40 1 2 0 1, ri 0x1B 0 0 0x50, ri 0x1B 0 0 7, ri 0x20 4 0 0, ri 0x24 0 0 0x8000,
    rr 0x28 8 0 0 0, rr 0x2C 16 0 0 0, ri 0x33 0 0 0x40, rr 0x38 0 0 0 6, rr 0x38 1 0 0 0x603, rr 0x38 0 1 0 0x70A, rr 0x39 1 1 0 0x300,
    jj 0x1D 0, jj 0x26 0, jj 0x2F 0, jj 0x35 0, jj 0x3F 0] = true := by decide +kernel

/-- The checks of WellFormed, one ill-formed term each (R41, R163, R169, R186, R193, R224, R234). -/
theorem test_ill_formed_terms : illFormed [
    .bfx 1 2 60 7, .bfi 1 2 63 1, .loop 0 4, .vadd 57 2 3 0, .vadd 1 60 3 0, .vadd 1 2 60 0, .vperm 56 2 3, .vrotm 1 2 63 0, .vabs 56 1 0,
    .vmov 1 60 0, .vfma 60 1 2 0, .vfms 55 60 2 0, .vcmpeq 0 1 2 0, .vcmplt 1 60 2 0, .mand 0 1 2, .mnot 0 1, .vcvt 1 2 0 7, .vcvt 1 2 0 12,
    .vcvt 56 2 0 0, .vnarrow 1 2 0 3 0, .vnarrow 1 60 1 3 0, .viota 57 0, .vbcast 58 1, .vextr 1 60 2, .vli 59 0, .vcfg 0 5 0, .vcfg 0 0 7,
    .srd 1 3, .swr 1 0x0A, .swr 1 8] = true := by decide +kernel

/-! ## Command words -/

/-- A command word from its four 64-bit words, 3 first (R171). -/
def cw (w3 w2 w1 w0 : Nat) : CmdWord := BitVec.ofNat 256 (w3 * 2 ^ 192 + w2 * 2 ^ 128 + w1 * 2 ^ 64 + w0)

/-- A header with queue e, class 1, no semaphore and a valid count. -/
def hdr (e : BitVec 4) (v : BitVec 16) : CmdHdr := ⟨e, 1, false, 0, false, 0, v⟩

/-- The MMA and the DRAIN worked after R267, word by word, and the header of 12_encoding_notes.md. -/
theorem test_manual_commands : readsCmd [
    (cw 0x0100008400000080 0x4000034000043320 0x0FF0000000000000 0,
      .mma ⟨0, 0, false, 0, true, 4, 128⟩ ⟨⟨1, false, 3⟩, ⟨1, false, 4⟩, 3, 3, 2, 255, false, false, false, false⟩),
    (cw 0x0400000000000100 0x0050003162000000 0 0,
      .drain ⟨0, 0, false, 0, false, 0, 256⟩ ⟨⟨0, false, 20480⟩, 3, 0, true, 1, true, 2, false, 0, false, false⟩),
    (cw 0x0400008600040100 0x0021004140800000 0x4380000000000000 0,
      .drain ⟨0, 0, false, 0, true, 6, 256⟩ ⟨⟨0, false, 8448⟩, 4, 0, true, 1, false, 0, true, 0x43800000, true, false⟩),
    (cw 0x0103828500000080 0 0 0, .mma ⟨0, 3, true, 2, true, 5, 128⟩ ⟨⟨0, false, 0⟩, ⟨0, false, 0⟩, 0, 0, 0, 0, false, false, false, false⟩)] = true := by
  decide +kernel

/-- A command word from its fields, each by its lowest bit, as the tables of R171 and 17_tile.md place them. -/
def fw (l : List (Nat × Nat)) : CmdWord := BitVec.ofNat 256 (l.foldl (fun n x => n + x.2 * 2 ^ x.1) 0)

/-- Header fields of a command: CMD, ENG, class 1, VCNT. -/
def fh (cmd eng vcnt : Nat) : List (Nat × Nat) := [(248, cmd), (244, eng), (240, 1), (192, vcnt)]

/-- A rows reference and a ring reference. -/
def rows (n : BitVec 18) : OpRef := ⟨0, false, n⟩
def ringRef (n : BitVec 18) : OpRef := ⟨1, false, n⟩

/-- A copy body with nothing enabled. -/
def copy0 (sh : BitVec 4) (sref : OpRef) : CopyBody :=
  ⟨sh, sref, false, false, false, false, false, 0, 0, false, false, false, 0, 0, 0, rows 0, false⟩

/-- Matrix commands (R261 to R267). -/
theorem test_decode_matrix : readsCmd [
    (fw (fh 1 0 5 ++ [(208, 1), (210, 1), (190, 1), (189, 1), (168, 31), (144, 0x3FFFF), (140, 12), (136, 11), (132, 8), (116, 0xFFF)]),
      .mma (hdr 0 5) ⟨⟨1, true, 31⟩, rows 0x3FFFF, 12, 11, 8, 0xFFF, true, false, true, false⟩),
    (fw (fh 2 0 5 ++ [(209, 1), (211, 1), (144, 7), (136, 3)]), .mmac (hdr 0 5) ⟨rows 0, rows 7, 0, 3, 0, 0, false, true, false, true⟩),
    (fw (fh 3 0 5 ++ [(210, 1)]), .promote (hdr 0 5) true),
    (fw (fh 4 0 5 ++ [(191, 1), (164, 7), (161, 4), (160, 1), (158, 2), (157, 1), (152, 15), (151, 1), (96, 0xFFFFFFFF), (210, 1), (211, 1)]),
      .drain (hdr 0 5) ⟨⟨2, false, 0⟩, 7, 4, true, 2, true, 15, true, 0xFFFFFFFF, true, true⟩),
    (fw (fh 5 0 5 ++ [(208, 1), (210, 1)]), .zacc (hdr 0 5) true false true),
    (fw (fh 6 0 0 ++ [(189, 6)]), .chain (hdr 0 0) 6), (fw (fh 7 0 0 ++ [(191, 1)]), .unchain (hdr 0 0) true)] = true := by decide +kernel

/-- Copy commands (R268). -/
theorem test_decode_copies : readsCmd [
    (fw (fh 0x10 1 5 ++ [(188, 15), (182, 1), (160, 0x1FFF), (159, 1), (158, 1), (155, 1), (140, 10), (137, 4), (136, 1), (134, 1), (130, 9)]),
      .tload (hdr 1 5) ⟨15, ringRef 0x1FFF, true, true, false, false, true, 10, 4, true, false, true, 9, 0, 0, rows 0, false⟩),
    (fw (fh 0x11 1 5 ++ [(160, 4096), (156, 1), (0, 77)]), .tgather (hdr 1 5) { copy0 0 (rows 4096) with gix := true, xref := rows 77 }),
    (fw (fh 0x12 2 5 ++ [(181, 1), (182, 1), (160, 3), (157, 1), (135, 1), (64, 8), (32, 9), (22, 1), (0, 37)]),
      .tcvt (hdr 2 5) { copy0 0 ⟨1, true, 3⟩ with bsc := true, ste := true, staddr := 8, stval := 9, xref := ringRef 37 }),
    (fw (fh 0x13 1 5 ++ [(188, 3), (208, 1)]), .prefetch (hdr 1 5) { copy0 3 (rows 0) with lvl := true }),
    (fw (fh 0x14 2 5 ++ [(188, 3), (160, 2048)]), .tstore (hdr 2 5) (copy0 3 (rows 2048)))] = true := by decide +kernel

/-- Atomics, migration, scatter, remote and synchronising commands (R258, R271 to R275). -/
theorem test_decode_other_commands : readsCmd [
    (fw (fh 0x15 2 1 ++ [(208, 0), (128, 64), (64, 7)]), .gatomAdd (hdr 2 1) ⟨64, 7, 0, false, 0⟩),
    (fw (fh 0x15 2 1 ++ [(208, 1), (211, 1), (213, 0x7FF)]), .gatomFadd (hdr 2 1) ⟨0, 0, 0, true, 0x7FF⟩),
    (fw (fh 0x15 2 1 ++ [(208, 2)]), .gatomMax (hdr 2 1) ⟨0, 0, 0, false, 0⟩),
    (fw (fh 0x15 2 1 ++ [(208, 3)]), .gatomMin (hdr 2 1) ⟨0, 0, 0, false, 0⟩),
    (fw (fh 0x15 2 1 ++ [(208, 4)]), .gatomSwap (hdr 2 1) ⟨0, 0, 0, false, 0⟩),
    (fw (fh 0x15 2 1 ++ [(208, 5), (0, 3)]), .gatomCas (hdr 2 1) ⟨0, 0, 3, false, 0⟩),
    (fw (fh 0x16 2 1 ++ [(128, 0x10000), (116, 0xABC), (112, 11), (48, 8)]), .migrate (hdr 2 1) ⟨0x10000, 0xABC, 11, 8⟩),
    (fw (fh 0x20 3 1 ++ [(168, 5), (144, 6), (126, 7), (122, 1), (120, 0), (119, 1), (107, 0xFFF)]), .scatAdd (hdr 3 1) ⟨rows 5, rows 6, 7, 1, true, 0xFFF⟩),
    (fw (fh 0x20 3 1 ++ [(120, 1)]), .scatMax (hdr 3 1) ⟨rows 0, rows 0, 0, 0, false, 0⟩),
    (fw (fh 0x20 3 1 ++ [(120, 2)]), .scatMin (hdr 3 1) ⟨rows 0, rows 0, 0, 0, false, 0⟩),
    (fw (fh 0x21 3 1 ++ [(168, 9)]), .cntsnap (hdr 3 1) (rows 9)),
    (fw (fh 0x28 5 1 ++ [(186, 63), (180, 2), (144, 2)]), .rwrite (hdr 5 1) ⟨63, 2, rows 2⟩),
    (fw (fh 0x30 0 0 ++ [(208, 0x3F)]), .qfence (hdr 0 0) 0x3F),
    (fw (fh 0x31 3 0 ++ [(231, 1), (224, 5)]), .semsig ⟨3, 1, false, 0, true, 5, 0⟩),
    (fw (fh 0x32 5 0 ++ [(239, 1), (232, 63)]), .semwait ⟨5, 1, true, 63, false, 0, 0⟩)] = true := by decide +kernel

/-- Command words that step 1 of R174 refuses: an unassigned code, a queue it may not enter, reserved fields. -/
theorem test_refused_commands : refusedCmd [
    0, fw (fh 0x08 0 1), fw (fh 0x01 1 1), fw (fh 0x10 0 1), fw (fh 0x14 1 1), fw (fh 0x28 3 1), fw (fh 0x31 6 0), fw (fh 0x01 0 1 ++ [(238, 1)]),
    fw (fh 0x01 0 1 ++ [(232, 1)]), fw (fh 0x01 0 1 ++ [(224, 1)]), fw (fh 0x01 0 1 ++ [(212, 1)]), fw (fh 0x01 0 1 ++ [(128, 1)]),
    fw (fh 0x01 0 1 ++ [(190, 3)]), fw (fh 0x01 0 1 ++ [(189, 1)]), fw (fh 0x01 0 1 ++ [(186, 1)]), fw (fh 0x02 0 1 ++ [(168, 1)]),
    fw (fh 0x04 0 1 ++ [(152, 1)]), fw (fh 0x10 1 1 ++ [(140, 1)]), fw (fh 0x13 1 1 ++ [(160, 1)]), fw (fh 0x15 2 1 ++ [(212, 1)]),
    fw (fh 0x15 2 1 ++ [(0, 1)]), fw (fh 0x16 2 1 ++ [(0, 1)]), fw (fh 0x30 0 0 ++ [(239, 1)]), fw (fh 0x21 3 1 ++ [(0, 1)])] = true := by
  decide +kernel

/-- Ill-formed commands, one for each check of a header, a reference and a body. -/
theorem test_ill_formed_commands : illFormed [
    .promote (hdr 1 0) false, .zacc ⟨0, 0, false, 1, false, 0, 0⟩ true true true, .chain ⟨0, 0, false, 0, false, 1, 0⟩ 1,
    .cntsnap (hdr 3 1) ⟨3, false, 0⟩, .cntsnap (hdr 3 1) ⟨0, true, 0⟩, .rwrite (hdr 4 1) ⟨0, 0, ⟨1, false, 32⟩⟩, .rwrite (hdr 4 1) ⟨0, 0, ⟨2, false, 1⟩⟩,
    .gatomAdd (hdr 2 1) ⟨0, 0, 1, false, 0⟩, .tload (hdr 1 1) { copy0 0 (rows 0) with spfmt := 1 }, .tstore (hdr 2 1) { copy0 0 (rows 0) with amn := 1 },
    .tcvt (hdr 1 1) { copy0 0 (rows 0) with staddr := 8 }, .tgather (hdr 1 1) { copy0 0 (rows 0) with lvl := true },
    .prefetch (hdr 1 1) { copy0 0 (rows 0) with cvt := true }, .mmac (hdr 0 1) ⟨rows 1, rows 0, 0, 0, 0, 0, false, false, false, false⟩,
    .qfence ⟨0, 0, true, 0, false, 0, 0⟩ 1, .semsig (hdr 6 0)] = true := by decide +kernel
/-! ## States to test on -/

/-- L of a core that runs the placed task, a strip task on core 0 of site 0; its C and S. -/
def base : State := State.reset.placed
def onC : State := { base with cur := ⟨⟨0, 0⟩, .compute⟩ }
def onS : State := { base with cur := ⟨⟨0, 0⟩, .store⟩ }

/-- The state with x registers set. -/
def regs (l : List (BitVec 5 × Word)) (s : State) : State := l.foldl (fun s p => s.wx p.1 p.2) s

/-- The outcome is a next state of which p holds. -/
def nx (o : Host.Outcome State Fault Refusal) (p : State → Bool) : Bool := match o with | .next t => p t | _ => false

/-- Every one of these forms may issue. -/
def mayAll (s : State) (l : List Instr) : Bool := l.all fun i => decide (MayIssue s i)

/-- What is true of each context. -/
theorem each_ctx {p : CtxName → Prop} (h : p .load ∧ p .compute ∧ p .store) : ∀ n, p n := by
  intro n; cases n
  · exact h.1
  · exact h.2.1
  · exact h.2.2

/-- What is true of each core. -/
theorem each_core {p : CoreRef → Prop} (h : ∀ (i : Fin 6) (c : Fin 8), p ⟨i, c⟩) : ∀ r, p r := fun r => h r.site r.core

/-- x3 after an instruction on x1 and x2. -/
def x3 (i : Instr) (a b : Word) : Option Word := match exec i (regs [(1, a), (2, b)] base) with | .next t => some (t.rx 3) | _ => none

/-! ## Scalar instructions -/

theorem witness_BinaryRegisterOperations : mayAll base [.add 3 1 2, .sub 0 31 31, .mul 3 1 2, .mulh 3 1 2, .mulhu 3 1 2, .div 3 1 2,
    .divu 3 1 2, .rem 3 1 2, .remu 3 1 2, .and 3 1 2, .or 3 1 2, .xor 3 1 2, .shl 3 1 2, .shr 3 1 2, .sra 3 1 2, .slt 3 1 2, .sltu 3 1 2,
    .min 3 1 2, .max 3 1 2, .minu 3 1 2, .maxu 3 1 2, .sadd 3 1 2] = true := by decide +kernel

/-- The worked values of R182. -/
theorem test_division : x3 (.div 3 1 2) 7 (-2) = some (-3) ∧ x3 (.rem 3 1 2) 7 (-2) = some 1 ∧ x3 (.div 3 1 2) (-7) 2 = some (-3) ∧
    x3 (.rem 3 1 2) (-7) 2 = some (-1) ∧ x3 (.div 3 1 2) 5 0 = some 0xFFFFFFFFFFFFFFFF ∧ x3 (.rem 3 1 2) 5 0 = some 5 ∧
    x3 (.div 3 1 2) 0x8000000000000000 (-1) = some 0x8000000000000000 ∧ x3 (.rem 3 1 2) 0x8000000000000000 (-1) = some 0 ∧
    x3 (.divu 3 1 2) 7 0 = some 0xFFFFFFFFFFFFFFFF ∧ x3 (.remu 3 1 2) 7 0 = some 7 := by decide +kernel

theorem test_wide_products : x3 (.mulh 3 1 2) 0xFFFFFFFFFFFFFFFF 2 = some 0xFFFFFFFFFFFFFFFF ∧ x3 (.mulhu 3 1 2) 0xFFFFFFFFFFFFFFFF 2 = some 1 ∧
    x3 (.sadd 3 1 2) 0x7FFFFFFFFFFFFFFF 1 = some 0x7FFFFFFFFFFFFFFF := by decide +kernel

theorem test_shifts_and_compares : x3 (.shl 3 1 2) 1 65 = some 2 ∧ x3 (.shr 3 1 2) 0x8000000000000000 63 = some 1 ∧
    x3 (.sra 3 1 2) 0x8000000000000000 63 = some 0xFFFFFFFFFFFFFFFF ∧ x3 (.slt 3 1 2) (-1) 0 = some 1 ∧ x3 (.sltu 3 1 2) (-1) 0 = some 0 ∧
    x3 (.minu 3 1 2) (-1) 1 = some 1 ∧ x3 (.max 3 1 2) (-1) 1 = some 1 := by decide +kernel

theorem witness_UnaryRegisterOperations : mayAll base [.clz 3 1, .ctz 3 1, .popc 3 1, .sext8 3 1, .sext16 3 1, .sext32 3 1, .zext8 3 1,
    .zext16 3 1, .zext32 3 1, .sel 3 1 2 4] = true := by decide +kernel

theorem test_counts : x3 (.clz 3 1) 0 0 = some 64 ∧ x3 (.clz 3 1) 1 0 = some 63 ∧ x3 (.ctz 3 1) 0 0 = some 64 ∧ x3 (.ctz 3 1) 8 0 = some 3 ∧
    x3 (.popc 3 1) 0xF0F0 0 = some 8 ∧ x3 (.sext8 3 1) 0x80 0 = some 0xFFFFFFFFFFFFFF80 ∧ x3 (.zext16 3 1) 0x12345 0 = some 0x2345 ∧
    x3 (.sel 3 1 2 0) 5 6 = some 6 ∧ x3 (.sel 3 1 2 1) 5 6 = some 5 := by decide +kernel

theorem witness_ImmediateOperations : mayAll base [.addi 3 1 5, .andi 3 1 5, .ori 3 1 5, .xori 3 1 5, .slti 3 1 5, .shli 3 1 63, .shri 3 1 63,
    .srai 3 1 63, .bfx 3 1 63 0, .bfx 3 1 0 63, .bfi 3 1 60 3, .li 3 0x8000, .lih 3 3 7] = true := by decide +kernel

theorem test_immediates : x3 (.addi 3 1 (-3)) 1 0 = some (-2) ∧ x3 (.andi 3 1 (-16)) 0xFFFFFFFFFFFFFFFF 0 = some (-16) ∧
    x3 (.bfx 3 1 60 3) 0xA000000000000000 0 = some 0xA ∧ x3 (.bfi 3 1 60 3) 0x5 0 = some 0x5000000000000000 ∧ x3 (.li 3 0x8000) 0 0 = some (-32768) ∧
    x3 (.lih 3 1 0xABCD) 0 0 = some 0xABCD0000 ∧ x3 (.slti 3 1 0) (-1) 0 = some 1 := by decide +kernel

theorem witness_ConditionalBranches : (mayAll base [.beq 1 2 5, .bne 1 2 0x8000, .blt 1 2 5, .bge 1 2 5, .bltu 1 2 5, .bgeu 1 2 0x7FFF] = true) ∧
    base.me.rep = none := by decide +kernel

theorem test_branches : nx (exec (.bltu 3 4 10) (regs [(4, 1)] base)) (fun t => t.me.pc == 40) = true ∧
    nx (exec (.beq 3 4 10) (regs [(4, 1)] base)) (fun t => t.me.pc == 4) = true ∧
    nx (exec (.beq 3 4 0x8000) base) (fun t => t.me.pc == -131072) = true := by decide +kernel

theorem witness_LoopCountsDown : MayIssue base (.loop 20 (-6)) ∧ base.me.rep = none := by decide +kernel

theorem test_loop : nx (exec (.loop 20 (-6)) (regs [(20, 2)] base)) (fun t => t.me.pc == -24 && t.rx 20 == 1) = true ∧
    nx (exec (.loop 20 (-6)) (regs [(20, 1)] base)) (fun t => t.me.pc == 4 && t.rx 20 == 0) = true := by decide +kernel

theorem witness_JumpsAndLinks : (mayAll (regs [(7, 64)] base) [.jmp 3, .jal 0x100, .jalr 7 7] = true) ∧ (regs [(7, 64)] base).me.rep = none ∧
    u ((regs [(7, 64)] base).rx 7) % 4 = 0 ∧ MayIssue (regs [(7, 66)] base) (.jalr 31 7) ∧ u ((regs [(7, 66)] base).rx 7) % 4 ≠ 0 := by
  decide +kernel

theorem test_jumps : nx (exec (.jalr 7 7) (regs [(7, 64)] base)) (fun t => t.me.pc == 64 && t.rx 7 == 4) = true ∧
    nx (exec (.jal 0x100) base) (fun t => t.me.pc == 0x400 && t.rx 31 == 4) = true := by decide +kernel

/-! ## Faults -/

/-- A vector instruction in L. -/
theorem witness_ForbiddenFormsFault : groupOf (.vadd 1 2 3 0) ≠ .none ∧ ¬MayIssue base (.vadd 1 2 3 0) := by decide +kernel

theorem witness_FaultEndsTask : (base.core placedCore).task = some placedTask ∧ placedTask.phase ≠ .faulted ∧ placedTask.gangSize = 1 ∧
    base.pipe? placedTask.pipe = some placedPipe := by decide +kernel

/-- A core without a task takes no fault. -/
theorem witness_FaultTakenOnce : (base.core ⟨5, 7⟩).task = none := by decide +kernel

theorem witness_BreakAndTrap : (mayAll base [.brk, .trap 0x12] = true) ∧ base.me.rep = none := by decide +kernel

theorem test_trap : nx (exec (.trap 0x12) (regs [(1, 5)] base)) (fun t => match t.pipe? 0 with
    | some p => p.shut == some 1 && (p.faults.map fun f => (f.code, f.info, f.data)) == [(0x13, 0x12, 5)]
    | none => false) = true := by decide +kernel

/-! ## Loads and stores -/

theorem witness_ScalarLoadsHold : let s := regs [(4, 0x1000)] base; let t := regs [(4, 0x1001)] base
    (mayAll s [.ldb 3 4 2 1, .ldbu 3 4 2 1, .ldh 3 4 2 1, .ldhu 3 4 2 1, .ldw 3 4 2 1, .ldwu 3 4 2 1, .ld 0 4 2 0x80] = true) ∧
    ea s 4 1 8 % 8 = 0 ∧ s.logged s.cur (clsBit 2) = false ∧ Reaches s (ea s 4 1 8) 0x1008 false ∧ Reaches s (ea s 4 1 1) 0x1001 false ∧
    Reaches s (ea s 4 0x80 8) 0xC00 false ∧ MayIssue t (.ldh 3 4 2 0) ∧ ea t 4 0 2 % 2 ≠ 0 := by decide +kernel

theorem witness_ScalarStoresIssue : let s := regs [(4, 0x1000)] base; let t := regs [(4, 0x1001)] base
    (mayAll s [.stb 3 4 2 1, .sth 3 4 2 1, .stw 3 4 2 1, .st 3 4 2 1] = true) ∧ ea s 4 1 8 % 8 = 0 ∧ s.logged s.cur (clsBit 2) = false ∧
    Reaches s (ea s 4 1 8) 0x1008 true ∧ Reaches s (ea s 4 1 4) 0x1004 true ∧ Reaches s (ea s 4 1 2) 0x1002 true ∧ Reaches s (ea s 4 1 1) 0x1001 true ∧
    MayIssue t (.st 3 4 2 0) ∧ ea t 4 0 8 % 8 ≠ 0 := by decide +kernel

/-- An address beyond the mapped gigabyte, with a page request out. -/
def paged : State := (regs [(4, 0x40000000)] base).updHomes fun h => { h with pri := [⟨.engine ⟨0, 0⟩ 6, 0, 0x40000, true, false⟩] }

theorem witness_StoreWaitsInSideLog : (mayAll paged [.stb 3 4 2 0, .sth 3 4 2 0, .stw 3 4 2 0, .st 3 4 2 0] = true) ∧ ea paged 4 0 8 % 8 = 0 ∧
    paged.lookupXlat (.engine paged.cur.at_ ctxEng) (paged.pasidOf paged.cur.at_) (ea paged 4 0 8) true = .paging ∧ ea paged 4 0 1 = ea paged 4 0 8 ∧
    paged.myCore.sideLog.length < 64 ∧ nx (exec (.sth 3 4 2 0) paged) (fun t => (t.myCore.sideLog.map LogEntry.op) == [.store 2 0]) = true := by decide +kernel

/-- A store of L is outstanding. -/
def storing : State := base.updMe fun c => { c with out := [⟨0, 4, .store 0x1003 2 0xABCD, 0, 0x1003, [0], none, none⟩], seq := 1 }

theorem witness_StorePerformsOnItsDie : (storing.ctx storing.cur).out[0]? = some ⟨0, 4, .store 0x1003 2 0xABCD, 0, 0x1003, [0], none, none⟩ ∧
    storing.oldest storing.cur ⟨0, 4, .store 0x1003 2 0xABCD, 0, 0x1003, [0], none, none⟩ = true := by decide +kernel

/-- The store is seen on its die, and neither elsewhere nor at its home. -/
theorem test_store_performs : (storing.perform storing.cur 0).dieByte 0 0x1004 = 0xAB ∧ (storing.perform storing.cur 0).dieByte 1 0x1004 = 0 ∧
    (storing.perform storing.cur 0).homes.byte 0x1004 = 0 := by decide +kernel

/-- A load of one byte that is still to return. -/
def byteLoad (home : Option Word) : HeldLoad := ⟨1, .x 3 true, 4, [⟨0x1004, 0x1004, 1, home⟩], none, 0, [0], none⟩

/-- L is held by a load of a word that its die has written. -/
def loading (home : Option Word) : State := (storing.perform storing.cur 0).updMe fun c => { c with status := .held (byteLoad home) }

/-- The die has written the byte, or the home has fixed it. -/
theorem witness_LoadValueReturns : let s := loading none; let f := loading (some 0xAB)
    (s.ctx s.cur).status = .held (byteLoad none) ∧ s.loadOldest s.cur (byteLoad none) = true ∧ s.wordBad s.cur ⟨0x1004, 0x1004, 1, none⟩ = false ∧
    s.wordReady s.cur (byteLoad none) ⟨0x1004, 0x1004, 1, none⟩ = true ∧ ((s.die s.cur.at_.site).lastWrite 0x1004).map (fun x => (x.dla, x.size)) = some (0x1003, 2) ∧
    f.loadOldest f.cur (byteLoad (some 0xAB)) = true ∧ f.wordBad f.cur ⟨0x1004, 0x1004, 1, some 0xAB⟩ = false ∧
    f.wordReady f.cur (byteLoad (some 0xAB)) ⟨0x1004, 0x1004, 1, some 0xAB⟩ = true := by decide +kernel

theorem test_load_returns : nx (exec (.loadValueReturn storing.cur) (loading none)) (fun t => t.rx 3 == 0xFFFFFFFFFFFFFFAB && t.me.pc == 4) = true := by
  decide +kernel

theorem witness_AcquireReleaseMonitor : let s := regs [(4, 0x1008), (5, 0x30)] base; let t := regs [(4, 0x1009)] base
    (mayAll s [.acq 3 4 5 2, .rel 3 4 0 3, .mon 4] = true) ∧ (s.rx 4).toNat % 8 = 0 ∧ s.logged s.cur 0x30 = false ∧ s.logged s.cur 1 = false ∧
    Reaches s 0x1008 0x1008 false ∧ Reaches s 0x1008 0x1008 true ∧ (mayAll t [.acq 3 4 5 0, .rel 3 4 5 0, .mon 4] = true) ∧ (t.rx 4).toNat % 8 ≠ 0 ∧
    Reaches t (0x1009 - 0x1009 % 8) 0x1008 false := by decide +kernel

/-- A write that a release of L covers, with classes 2 and 4. -/
def releasedWrite : DieWrite := ⟨⟨⟨0, 0⟩, .load⟩, 0, 4, 0x1000, 8, 5, none, [], [], none, 0, 8, none, 0x1000, 0, some (0, 0), 0, none⟩

/-- L holds an ACQ of the word at 0x2000, or a MON of it; its die holds the line, and the word's release covers the write. -/
def acquiring (d : LoadDest) : State := (base.updDie 0 fun x => { x with
    buf := [releasedWrite], cache := [(33, .m 7 [(⟨⟨0, 0⟩, .load⟩, 4)]), (64, .m 5 [])], rels := [(0x400, ⟨⟨0, 0⟩, .load⟩, ⟨1, 4, 9⟩)] }).updMe fun c =>
  { c with seq := 2, status := .held ⟨1, d, 1, [⟨0x2000, 0x2000, 8, none⟩], none, 0, [0], none⟩ }

/-- After the ACQ the covered write, and the M line with it, are visible in its classes. -/
theorem witness_AcquireAndMonitorReturn : Returns (acquiring (.acq 3 1 2)) (acquiring .mon).cur ⟨1, .acq 3 1 2, 1, [⟨0x2000, 0x2000, 8, none⟩], none, 0, [0], none⟩ ∧
    Returns (acquiring .mon) (acquiring .mon).cur ⟨1, .mon, 1, [⟨0x2000, 0x2000, 8, none⟩], none, 0, [0], none⟩ ∧
    Returns (acquiring (.acq 3 1 0)) (acquiring .mon).cur ⟨1, .acq 3 1 0, 1, [⟨0x2000, 0x2000, 8, none⟩], none, 0, [0], none⟩ ∧
    releasedWrite.covered ⟨⟨0, 0⟩, .load⟩ 4 9 = true ∧ coversTags ⟨⟨0, 0⟩, .load⟩ 4 [(⟨⟨0, 0⟩, .load⟩, 4)] = true ∧
    nx (exec (.loadValueReturn base.cur) (acquiring (.acq 3 1 2))) (fun t => t.rx 3 == 5 && ((t.die 0).buf.map DieWrite.vis) == [[(base.cur, 2, 1)]]) = true ∧
    nx (exec (.loadValueReturn base.cur) (acquiring .mon)) (fun t => t.me.mon == ⟨some 64, false⟩) = true := by decide +kernel

/-! ## Control and system -/

theorem witness_SystemReads : (mayAll base [.nop, .time 3, .vdhop 3 1 2, .srd 3 0, .srd 3 1, .srd 3 2, .srd 3 8, .srd 3 9, .srd 3 0x0A, .srd 3 0x0B, .srd 3 0x10,
      .srd 3 0x1F] = true) ∧
    Bound base.me.vdtab 0 0 ∧ Unbound base.me.vdtab 7 ∧ Unbound base.me.vdtab 8 ∧ base.myCore.task = some placedTask ∧ base.pipe? 0 = some placedPipe ∧
    placedPipe.record.stages[placedTask.record.stage]? = some placedStage ∧ Bound base.myCore.c.vdtab 0 0 ∧
    (base.die 0).fragOf 0 = some (0, 1) ∧ placedStage.cls ≠ 0 := by decide +kernel

/-- A task of class 0 on a strip that no fragment holds. -/
def bareTask : State := (base.updPipe 0 fun p => { p with record := { p.record with stages := [{ placedStage with cls := 0 }] } }).updDie 0 fun d => { d with layout := 0, leases := [] }

theorem witness_SystemReads_bare : (bareTask.die 0).fragOf 0 = none ∧ nx (exec (.srd 3 0x0A) bareTask) (fun t => t.rx 3 == 0) = true ∧
    nx (exec (.srd 3 0x0B) bareTask) (fun t => t.rx 3 == 0x100) = true := by decide +kernel

/-- Site 5 is two columns east and one row south of site 0 (R23). -/
theorem test_vdhop : nx (exec (.vdhop 3 1 2) ((regs [(2, 1)] base).updMe fun c => { c with vdtab := 0x8580 })) (fun t => t.rx 3 == 3) = true := by
  decide +kernel

/-- C writes VTYPE, VSTAT, LFSR and an amax register; a reserved bit or format is refused. -/
theorem witness_SystemWrites : (mayAll onC [.swr 1 0, .swr 1 1, .swr 1 2, .swr 1 0x10, .swr 1 0x1F] = true) ∧
    nx (exec (.swr 1 2) onC) (fun t => t.myCore.vf.lfsr == 1) = true ∧
    nx (exec (.swr 1 0) (regs [(1, 0x10A)] onC)) (fun t => t.myCore.vf.vtype == 0x10A) = true ∧
    nx (exec (.swr 1 0) (regs [(1, 0x80)] onC)) (fun t => t.me.status == .stopped) = true ∧
    nx (exec (.swr 1 0x1F) (regs [(1, 0x17F800000)] onC)) (fun t => t.myCore.vf.am[15] == 0x17F800000) = true := by decide +kernel

/-- A context with a store and a QLD outstanding, and one with neither. -/
theorem witness_WaitsAndFences : (mayAll storing [.wait 0 0 0 0, .wait 15 15 15 15, .fence 4, .fence 8, .mwait 4] = true) ∧
    ¬ storing.storesOut storing.cur ≤ 0 ∧ storing.storesOut storing.cur ≤ 15 ∧ storing.drained storing.cur 8 = true ∧
    storing.drained storing.cur 4 = false ∧ storing.me.mon.armed = none ∧ storing.me.status = .running := by decide +kernel

/-- A context whose monitor is armed. -/
def armed (b : Bool) : State := (regs [(4, 3000000)] base).updMe fun c => { c with mon := ⟨some 32, b⟩ }

theorem test_mwait : nx (exec (.mwait 4) (armed true)) (fun t => t.me.pc == 4 && t.me.mon == ⟨none, false⟩) = true ∧
    nx (exec (.mwait 4) (armed false)) (fun t => t.me.status == .waiting (.mwait (2097152 * 160))) = true ∧ (armed false).rx 4 ≠ 0 ∧
    MayIssue (armed false) (.mwait 5) ∧ (armed false).rx 5 = 0 ∧ nx (exec (.mwait 5) (armed false)) (fun t => t.me.pc == 4 && t.me.mon == ⟨none, false⟩) = true := by
  decide +kernel

/-- REP of ADD x3, x4, x5, and of a word that may not be repeated. -/
def repeating (w : CtlWord) : State := base.updCore ⟨0, 0⟩ fun c => { c with icache := [(4, w)] }

theorem witness_RepeatUnit : MayIssue (repeating 0x00642801) (.rep 3 7) ∧
    (repeating 0x00642801).cached ⟨0, 0⟩ 4 = some 0x00642801 ∧ repOk (repeating 0x00642801) 0x00642801 4 7 = true ∧
    (repeating 0xE0000002).cached ⟨0, 0⟩ 4 = some 0xE0000002 ∧ repOk (repeating 0xE0000002) 0xE0000002 4 0 = false ∧
    repOk (repeating 0x00642801) 0x00642801 64 1 = false := by decide +kernel

theorem witness_RegionBarrier : MayIssue base (.region 3) ∧ base.me.arrived = false ∧ (base.myCore.ctx .compute).atBarrier = false ∧
    (base.myCore.ctx .store).atBarrier = false := by decide +kernel

/-- C and S stand at the barrier. -/
def gathered : State := base.updMyCore fun c => (c.updCtx .compute fun x => { x with arrived := true, nextInputs := 4, status := .waiting .barrier }).updCtx .store
  fun x => { x with status := .parked }

theorem witness_RegionBarrier_last : (∀ n, n ≠ CtxName.load → (gathered.myCore.ctx n).atBarrier = true) ∧ gathered.myCore.queuesHold = false ∧
    (∀ n, gathered.settled ⟨gathered.cur.at_, n⟩ = true) ∧ gathered.myCore.task = some placedTask ∧ MayIssue gathered (.region 3) :=
  ⟨each_ctx (by decide +kernel), by decide +kernel, each_ctx (by decide +kernel), by decide +kernel, by decide +kernel⟩

theorem test_region : nx (exec (.region 3) gathered) (fun t => t.me.inputs == 3 && (t.myCore.ctx .compute).inputs == 4 && (t.myCore.ctx .compute).pc == 4 &&
    (t.myCore.ctx .store).status == .parked) = true := by decide +kernel

/-- A row is left in a load queue as the last context comes to the barrier. -/
def unread : State := gathered.updMyCore fun c => { c with lq := c.lq.set 1 [some 5] }

theorem witness_RegionBarrier_queue : (∀ n, n ≠ CtxName.load → (unread.myCore.ctx n).atBarrier = true) ∧ unread.myCore.queuesHold = true ∧ MayIssue unread .exit ∧
    (∀ q ∈ unread.gang unread.cur.at_, q ≠ unread.cur.at_ → ∀ j, ((unread.core q).ctx unread.cur.ctx).status ≠ .waiting (.gbar j)) ∧ (unread.myCore.ctx .compute).status ≠ .parked ∧
    unread.myCore.orphanAt unread.cur.ctx = none ∧
    nx (exec (.region 3) unread) (fun t => ((t.pipe? 0).map fun p => p.faults.map FaultRec.code) == some [0x01]) = true ∧
    nx (exec .exit unread) (fun t => ((t.pipe? 0).map fun p => p.faults.map FaultRec.code) == some [0x01]) = true :=
  ⟨each_ctx (by decide +kernel), by decide +kernel, by decide +kernel, by
    have h : unread.gang unread.cur.at_ = [unread.cur.at_] := by decide +kernel
    simp [h], by decide +kernel, by decide +kernel, by decide +kernel, by decide +kernel⟩

/-! ## Tasks -/

theorem witness_Semaphores : let s := base.updMyCore fun c => { c with sem := c.sem.set 4 1 |>.set 5 65535 }
    (mayAll s [.semw 4, .semw 63, .sems 4, .sems 5] = true) ∧ s.myCore.sem[4] ≠ 0 ∧ s.myCore.sem[63] = 0 ∧ s.drained s.cur allCls = true ∧
    s.myCore.sem[4] ≠ 65535 ∧ s.myCore.sem[5] = 65535 ∧
    nx (exec (.semw 4) s) (fun t => t.myCore.sem[4] == 0) = true ∧ nx (exec (.sems 4) s) (fun t => t.myCore.sem[4] == 2) = true ∧
    nx (exec (.semw 63) s) (fun t => t.me.status == .waiting (.semw 63)) = true ∧
    MayIssue storing (.sems 4) ∧ storing.drained storing.cur allCls = false := by decide +kernel

/-- A SEMS behind a store goes on, and takes effect once the store has performed (R43, R120). -/
theorem test_sems_is_late : nx (exec (.sems 4) storing) (fun t => t.me.pc == 4 && t.myCore.sem[4] == 0 &&
    ((t.perform t.cur 0).perform t.cur 0).myCore.sem[4] == 1) = true := by decide +kernel

theorem witness_Events : let s := base.updPipe 0 fun p => { p with events := 8 }
    s.myCore.task = some placedTask ∧ s.pipe? 0 = some { placedPipe with events := 8 } ∧ (mayAll s [.evwait 3, .evwait 63, .evsig 63] = true) ∧
    s.releaseReady s.cur allCls true = true ∧
    nx (exec (.evsig 63) s) (fun t => ((t.pipe? 0).map Pipe.events) == some 0x8000000000000008) = true ∧
    MayIssue storing (.evsig 63) ∧ storing.releaseReady storing.cur allCls true = false := by decide +kernel

theorem witness_FutureGet : let s := regs [(11, 0x1008)] base; let f := s.updHomes fun h => { h with full := [32] }
    MayIssue s (.fget 5 11) ∧ s.myCore.task = some placedTask ∧ placedTask.sideEffect = false ∧ placedTask.gangSize = 1 ∧
    placedTask.usedQldr = false ∧ (s.rx 11).toNat % 8 = 0 ∧ Reaches s 0x1008 0x1008 false ∧ ReadAtHome s 0x1008 ∧ s.homes.poisoned (lineOf 0x1008) = false ∧
    (s.die 0).badLines = [] ∧ s.homes.tagFull 0x1008 = false ∧ s.homes.parkRoom 0x1008 = true ∧ f.homes.tagFull 0x1008 = true ∧
    nx (exec (.fget 5 11) s) (fun t => t.homes.parked.length == 1 && t.me.status == .stopped) = true := by decide +kernel

theorem witness_FuturePutAndReset : let s := regs [(11, 0x1008)] base
    (s.rx 11).toNat % 8 = 0 ∧ s.logged s.cur allCls = false ∧ Reaches s 0x1008 0x1008 true ∧ (mayAll s [.fput 11 6, .freset 11] = true) := by decide +kernel

theorem witness_SpawnAndJoin : let s := regs [(21, 0x1080), (22, 0x2000), (20, 0x1081)] base; let j := s.homeWrite 0x2000 8 3
    (mayAll s [.spawn 21 4, .spawn 20 4, .join 22] = true) ∧ (s.rx 21).toNat % 128 = 0 ∧ (s.rx 20).toNat % 128 ≠ 0 ∧
    s.myCore.kids.length + s.myCore.spawns.length < 64 ∧ s.myCore.spawns = [] ∧ s.logged s.cur (maskClasses 4) = false ∧
    ReachAll s ((List.range 16).map fun j => 0x1080 + 8 * j) ((List.range 16).map fun j => 0x1080 + 8 * j) false ∧ (s.rx 22).toNat % 8 = 0 ∧
    Reaches s 0x2000 0x2000 false ∧ ReadAtHome s 0x2000 ∧ ReadAtHome j 0x2000 ∧ s.homes.poisoned (lineOf 0x2000) = false ∧ (s.die 0).badLines = [] ∧ s.cohN 0x2000 8 = 0 ∧ j.cohN 0x2000 8 = 3 ∧
    nx (exec (.join 22) j) (fun t => t.me.status == .waiting (.join 0x2000 0x2000)) = true := by decide +kernel

theorem witness_GangBarrier : MayIssue base .gbar ∧ base.myCore.task = some placedTask ∧ base.me.status = .running ∧
    (base.gang base.cur.at_).length = placedTask.gangSize ∧ base.gbarPassed base.cur.at_ .load < base.me.gbar + 1 ∧
    (∀ q ∈ base.gang base.cur.at_, base.releaseReady ⟨q, .load⟩ allCls true = true) ∧
    (∀ q ∈ base.gang base.cur.at_, q ≠ base.cur.at_ → ((base.core q).ctx .load).status = .waiting (.gbar 1)) ∧
    nx (exec .gbar base) (fun t => t.me.gbar == 1 && t.me.pc == 4) = true := by decide +kernel

/-- A gang of two on cores 0 and 1: the other L waits at barrier 1. -/
def gang2 : State :=
  let k : Task := { placedTask with gangSize := 2, gangId := 9 }
  let s := base.updCore ⟨0, 0⟩ fun c => { c with task := some k }
  s.updCore ⟨0, 1⟩ fun c => { c.updCtx .load (fun x => { x with status := .waiting (.gbar 1) }) with task := some { k with member := 1 } }

theorem witness_GangBarrier_two : MayIssue gang2 .gbar ∧ gang2.gang ⟨0, 0⟩ = [⟨0, 0⟩, ⟨0, 1⟩] ∧
    (∀ q ∈ gang2.gang ⟨0, 0⟩, gang2.releaseReady ⟨q, .load⟩ allCls true = true) ∧
    (∀ q ∈ gang2.gang ⟨0, 0⟩, q ≠ ⟨0, 0⟩ → ((gang2.core q).ctx .load).status = .waiting (.gbar 1)) ∧
    (gang2.gang ⟨0, 0⟩).find? (fun q => ((gang2.core q).ctx .load).missed 1) = none ∧
    nx (exec .gbar gang2) (fun t => ((t.core ⟨0, 1⟩).ctx .load).status == .running && ((t.core ⟨0, 1⟩).ctx .load).gbar == 1) = true := by decide +kernel

/-- The other L still runs; the barrier is already passed; the other L has exited before it. -/
theorem witness_GangBarrier_waits : let late := gang2.updCore ⟨0, 1⟩ fun c => c.updCtx .load fun x => { x with status := .running }
    let passed := base.updPipe 0 fun p => { p with gbarDone := [(placedTask.gangId, .load, 1)] }
    let gone := gang2.updCore ⟨0, 1⟩ fun c => c.updCtx .load fun x => { x with status := .parked }
    MayIssue late .gbar ∧ (late.gang ⟨0, 0⟩).find? (fun q => ((late.core q).ctx .load).missed 1) = none ∧ late.gbarPassed ⟨0, 0⟩ .load < 1 ∧
    (⟨0, 1⟩ : CoreRef) ∈ late.gang ⟨0, 0⟩ ∧ ((late.core ⟨0, 1⟩).ctx .load).status = .running ∧
    1 ≤ passed.gbarPassed ⟨0, 0⟩ .load ∧ passed.releaseReady passed.cur allCls true = true ∧
    (gone.gang ⟨0, 0⟩).find? (fun q => ((gone.core q).ctx .load).missed 1) = some ⟨0, 1⟩ ∧
    nx (exec .gbar gone) (fun t => ((t.pipe? 0).map fun p => p.faults.map fun f => (f.code, f.first, f.peer)) ==
      some [(0x0F, 1, false), (0x0F, 1, true)]) = true := by decide +kernel

/-- C and S have exited. -/
def lastExit : State := base.updMyCore fun c => (c.updCtx .compute fun x => { x with status := .parked }).updCtx .store fun x => { x with status := .parked }

theorem witness_ExitParksOrRetires : (mayAll base [.exit] = true) ∧ (mayAll lastExit [.exit] = true) ∧ base.me.status = .running ∧
    base.gang base.cur.at_ = [base.cur.at_] ∧ base.myCore.orphanAt .load = none ∧ lastExit.myCore.orphanAt .load = none ∧
    (base.myCore.ctx .store).atBarrier = false ∧ lastExit.myCore.leftQueue = none ∧ placedTask.leftSlot = none ∧
    nx (exec .exit lastExit) (fun t => (t.myCore.task.map Task.phase) == some .retiring) = true ∧
    nx (exec .exit base) (fun t => t.me.status == .parked && (t.myCore.task.map Task.phase) == some .running) = true := by decide +kernel

/-- A load queue still holds a row; a reserved slot is not published. -/
theorem witness_ExitParksOrRetires_faults : let q := lastExit.updMyCore fun c => { c with lq := c.lq.set 2 [some 7] }
    let k : Task := { placedTask with resv := [⟨4, ⟨0, 0⟩, [⟨1, true, false⟩]⟩] }
    q.myCore.leftQueue = some 2 ∧ k.leftSlot = some (1 * 32 + 4) ∧ q.myCore.orphanAt .load = none := by decide +kernel

theorem witness_ExitParksOrRetires_last : ∀ n, n ≠ CtxName.load → (lastExit.myCore.ctx n).status = .parked := each_ctx (by decide +kernel)

/-! ## Rows and rings -/

/-- An instance of 4 slots of 2 rows at row b (R85). -/
def ring4 (b : Nat) : Word := BitVec.ofNat 64 (2 ^ 63 + 3 * 2 ^ 48 + 1 * 2 ^ 42 + b * 2 ^ 22)

/-- The task consumes ring 3, with two claims, and has reserved two slots of ring 4, the second handed out. -/
def ringing : State :=
  let s := base.updCore ⟨0, 0⟩ fun c => { c with
    rings := (c.rings.set 3 ⟨ring4 4096, 0, 2, 3, 3, 7⟩).set 4 ⟨ring4 8192, 0, 0, 0, 2, 0⟩
    sq := c.sq.set 1 [5, 6]
    task := some { placedTask with claims := [(3, 2)], resv := [⟨4, ⟨0, 0⟩, [⟨0, false, false⟩, ⟨1, true, false⟩]⟩] } }
  s.updPipe 0 fun p => { p with record := { placedOp with stages := [{ placedStage with ins := [(3, 2)], outs := [(4, 2)] }] } }

def ringingS : State := { ringing with cur := ⟨⟨0, 0⟩, .store⟩ }

theorem witness_QueueRowAccesses : let s := regs [(9, 0x1000)] ringing; let t := regs [(9, 0x1000)] ringingS; let e := regs [(9, 0x1000000)] ringing
    MayIssue s (.qld 3 9 2 5) ∧ (0x1000 + 512 * 5) / 512 < s.rowLimit ⟨0, 0⟩ ∧ (s.myCore.lq[3]).length < 8 ∧ MayIssue t (.qst 1 9 2 5) ∧
    t.myCore.sq[1] = [5, 6] ∧ MayIssue e (.qld 3 9 2 0) ∧ e.rowLimit ⟨0, 0⟩ ≤ 0x1000000 / 512 ∧ e.rowLimit ⟨0, 0⟩ = 32768 ∧
    MayIssue (regs [(9, 0x1000000)] ringingS) (.qst 1 9 2 0) ∧
    nx (exec (.qld 3 9 2 5) s) (fun t => (t.me.out.map Access.op) == [.qld 3 ⟨0, 0⟩ 13 none none]) = true ∧
    nx (exec (.qst 1 9 2 5) t) (fun t => (t.me.out.map Access.op) == [.qst ⟨0, 0⟩ 13 5]) = true := by decide +kernel

theorem witness_RingRowAccesses : let s := regs [(9, 1)] ringing; let t := regs [(9, 1)] ringingS
    MayIssue s (.qldr 3 9 2 1 3) ∧ (s.rx 9).toNat < s.claimsOn ⟨0, 0⟩ 3 ∧ 1 < (s.myCore.ring 3).rowsPer ∧ (s.myCore.ring 3).valid = true ∧
    (s.myCore.lq[3]).length < 8 ∧ ¬((regs [(9, 2)] ringing).rx 9).toNat < s.claimsOn ⟨0, 0⟩ 3 ∧ MayIssue t (.qstr 1 9 2 1 4) ∧
    t.resvOn ⟨0, 0⟩ 4 = some ⟨4, ⟨0, 0⟩, [⟨0, false, false⟩, ⟨1, true, false⟩]⟩ ∧ t.unbound ⟨0, 0⟩ 0 = false ∧
    (Resv.slot ⟨4, ⟨0, 0⟩, [⟨0, false, false⟩, ⟨1, true, false⟩]⟩ 1) = some ⟨1, true, false⟩ ∧ 1 < (t.myCore.ring 4).rowsPer ∧
    t.resvOn ⟨0, 0⟩ 5 = none ∧ MayIssue t (.qstr 1 9 2 1 5) ∧
    (Resv.slot ⟨4, ⟨0, 0⟩, [⟨0, false, false⟩, ⟨1, true, false⟩]⟩ 2) = none ∧
    nx (exec (.qldr 3 9 2 1 3) s) (fun t => (t.me.out.map Access.op) == [.qld 3 ⟨0, 0⟩ 4099 (some (3, 1)) none]) = true ∧
    nx (exec (.qstr 1 9 2 1 4) t) (fun t => (t.me.out.map Access.op) == [.qst ⟨0, 0⟩ 8195 5]) = true := by decide +kernel

/-- A QLD of row 13, which holds 7, and a QST to it of 5, are outstanding. -/
def rowsOut : State :=
  let s := (base.setRow ⟨0, 0⟩ 13 7).updMyCore fun c => { c with lq := c.lq.set 3 [none] }
  (s.updCtx ⟨⟨0, 0⟩, .load⟩ fun c => { c with out := [⟨0, 4, .qld 3 ⟨0, 0⟩ 13 none none, 0, 0, [], none, none⟩] }).updCtx ⟨⟨0, 0⟩, .store⟩ fun c =>
    { c with out := [⟨0, 4, .qst ⟨0, 0⟩ 13 5, 0, 0, [], none, none⟩] }

theorem witness_RowAccessesPerform : let l : CtxRef := ⟨⟨0, 0⟩, .load⟩; let t : CtxRef := ⟨⟨0, 0⟩, .store⟩
    (rowsOut.ctx l).out = [⟨0, 4, .qld 3 ⟨0, 0⟩ 13 none none, 0, 0, [], none, none⟩] ∧
    rowsOut.oldest l ⟨0, 4, .qld 3 ⟨0, 0⟩ 13 none none, 0, 0, [], none, none⟩ = true ∧
    (rowsOut.core ⟨0, 0⟩).rowStalled 13 = false ∧ (rowsOut.ctx t).out[0]? = some ⟨0, 4, .qst ⟨0, 0⟩ 13 5, 0, 0, [], none, none⟩ ∧
    rowsOut.oldest t ⟨0, 4, .qst ⟨0, 0⟩ 13 5, 0, 0, [], none, none⟩ = true ∧ ((rowsOut.perform l 0).core ⟨0, 0⟩).lq[3] = [some 7] ∧
    ((rowsOut.perform t 0).core ⟨0, 0⟩).row 13 = 5 := by decide +kernel

theorem witness_QldRowArrives : (rowsOut.ctx ⟨⟨0, 0⟩, .load⟩).out = [⟨0, 4, .qld (3 : BitVec 2).toFin ⟨0, 0⟩ 13 none none, 0, 0, [], none, none⟩] ∧
    rowsOut.logged ⟨⟨0, 0⟩, .load⟩ 4 = false ∧ nx (exec (.qldRowArrival ⟨0, 0⟩ 3) rowsOut) (fun t => t.myCore.lq[3] == [some 7]) = true := by decide +kernel

theorem witness_RingInstructions : let s := regs [(5, 1)] ringing
    s.myCore.task.isSome = true ∧ (mayAll s [.rres 6 4, .rpub 5 4, .rpub 5 5, .rpop 3, .rpop 7, .rpeek 6 3] = true) ∧
    s.production ⟨0, 0⟩ 4 = some (1 + 1) ∧ s.resvOn ⟨0, 0⟩ 4 = some ⟨4, ⟨0, 0⟩, [⟨0, false, false⟩, ⟨1, true, false⟩]⟩ ∧ s.resvOn ⟨0, 0⟩ 5 = none ∧
    s.me.writesRows (slotRows ⟨0, 0⟩ (s.myCore.ring 4) 1) s.me.seq = false ∧ s.claimsOn ⟨0, 0⟩ 3 ≠ 0 ∧ s.claimsOn ⟨0, 0⟩ 7 = 0 ∧
    s.myCore.readsSlot 3 0 = false ∧ s.fab.rwbuf = [] ∧ s.consumes ⟨0, 0⟩ 3 = true := by decide +kernel

theorem test_rings : let s := regs [(5, 1)] ringing
    nx (exec (.rres 6 4) s) (fun t => t.rx 6 == 0) = true ∧ nx (exec (.rpop 3) s) (fun t => (t.myCore.ring 3).head == 1 && t.claimsOn ⟨0, 0⟩ 3 == 1) = true ∧
    nx (exec (.rpub 5 4) s) (fun t => (t.myCore.ring 4).rb == 2 && (t.myCore.ring 4).tail == 0) = true ∧
    nx (exec (.rpeek 6 3) s) (fun t => t.rx 6 == BitVec.ofNat 64 (2 * 2 ^ 9 + 3 * 2 ^ 18 + 3 * 2 ^ 27)) = true := by decide +kernel

theorem witness_RingConfigure : let s := regs [(7, ring4 4096)] base; let f := regs [(7, ring4 4096)] ringing; let g := regs [(7, ring4 100)] base
    (mayAll s [.rcfg 7 3] = true) ∧ ringOk (s.rx 7) (s.rowLimit ⟨0, 0⟩) (s.myCore.otherRings 3) = true ∧ (s.myCore.ring 3).head = (s.myCore.ring 3).resv ∧
    (mayAll f [.rcfg 7 3] = true) ∧ (f.myCore.ring 3).head ≠ (f.myCore.ring 3).claim ∧ (mayAll g [.rcfg 7 3] = true) ∧ (g.rx 7).getLsbD 63 = true ∧
    ringOk (g.rx 7) (g.rowLimit ⟨0, 0⟩) (g.myCore.otherRings 3) = false := by decide +kernel

/-! ## Command assembly -/

/-- A shape record: FP32, 1 row of 128 elements, one plane, at 0x10000. -/
def shape0 : CmdWord := fw [(192, 0x10000), (32, 127)]

theorem witness_CommandAssembly : let s := regs [(4, 0x1000)] base; let m := regs [(4, 0x1001)] base
    let four := [0x1040, 0x1048, 0x1050, 0x1058]; let seg := (List.range (4 * (1 + 1))).map fun j => (0x1000 + 8 * j) % 2 ^ 64
    (mayAll s [.kset 7 4 3, .kld 7 4 2 2, .shld 15 4 2 2] = true) ∧ ((u (s.rx 4) + 32 * 2) % 2 ^ 64).toNat = 0x1040 ∧ s.logged s.cur (clsBit 2) = false ∧
    ReachAll s four four false ∧ ReachAll { s with cur := ⟨⟨0, 0⟩, .compute⟩ } seg seg false ∧ (mayAll (regs [(4, 0x1000)] onC) [.ppld 4 2 1] = true) ∧
    (mayAll m [.kld 7 4 2 2, .shld 15 4 2 2] = true) ∧ (mayAll (regs [(4, 0x1001)] onC) [.ppld 4 2 1] = true) := by decide +kernel

theorem test_kset : nx (exec (.kset 7 4 3) (regs [(4, 5)] base)) (fun t => t.me.k[7] == BitVec.ofNat 256 (5 * 2 ^ 192)) = true := by decide +kernel

theorem witness_CommandStore : let s := regs [(4, 0x1000)] base; let four := [0x1040, 0x1048, 0x1050, 0x1058]
    MayIssue s (.kst 1 4 2 2) ∧ ((u (s.rx 4) + 32 * 2) % 2 ^ 64).toNat % 32 = 0 ∧ s.logged s.cur (clsBit 2) = false ∧ ReachAll s four four true ∧
    (mayAll (regs [(4, 0x1001)] base) [.kst 1 4 2 2] = true) ∧ ((u ((regs [(4, 0x1001)] base).rx 4) + 32 * 2) % 2 ^ 64).toNat % 32 ≠ 0 := by decide +kernel

theorem witness_ShapeRegister : let s := base.updMe fun c => { c with k := c.k.set 1 shape0 }
    MayIssue s (.shape 3 1) ∧ shapeOk s s.me.k[1] = true ∧ shapeOk s (fw [(32, 126)]) = false ∧
    nx (exec (.shape 3 1) s) (fun t => t.myCore.h[3] == shape0) = true := by decide +kernel

/-- SEMSIG of semaphore 5 in queue 3 stands in k1, and a word that is no command in k2. -/
def pushing : State := base.updMe fun c => { c with k := (c.k.set 1 (fw [(248, 0x31), (244, 3), (231, 1), (224, 5)])).set 2 (fw [(248, 0x08)]) }

theorem witness_PushEntersQueues : let i : Instr := .semsig ⟨3, 0, false, 0, true, 5, 0⟩
    MayIssue pushing (.push 1) ∧ pushCheck pushing pushing.cur pushing.me.k[1] pushing.me.heldShape = .ok i 0 ∧ pushRoom pushing.myCore i = true ∧
    pushXlat pushing (.engine ⟨0, 0⟩ 3) 0 false (spanPages (cmdSpans 0 i) 12) = .ok [] ∧ (pushing.pinAll (cmdPins i [])).isSome = true ∧
    MayIssue pushing (.push 2) ∧ pushCheck pushing pushing.cur pushing.me.k[2] pushing.me.heldShape = .illegal ∧
    nx (exec (.push 1) pushing) (fun t => (t.myCore.eng[3].map QEntry.cmd) == [i] && t.me.pc == 4) = true := by decide +kernel

/-- k1 holds a TLOAD, whose shape record nothing has written, k2 a GATOM of a misaligned word, k3 the SEMSIG of a full queue. -/
def blocked : State := (base.updMe fun c => { c with k := ((c.k.set 1 ((encodeCmd (.tload (hdr 1 1) (copy0 0 (rows 600)))).getD 0)).set 2
    ((encodeCmd (.gatomAdd (hdr 2 1) ⟨0x10009, 5, 0, false, 0⟩)).getD 0)).set 3 (fw [(248, 0x31), (244, 3), (231, 1), (224, 5)]) }).updMyCore fun c =>
  { c with eng := c.eng.set 3 (List.replicate 64 (placedEntry 0 (.semsig ⟨3, 0, false, 0, true, 5, 0⟩))) }

theorem witness_PushStops : let i : Instr := .tload (hdr 1 1) (copy0 0 (rows 600)); let g : Instr := .gatomAdd (hdr 2 1) ⟨0x10009, 5, 0, false, 0⟩
    let f : Instr := .semsig ⟨3, 0, false, 0, true, 5, 0⟩
    mayAll blocked [.push 1, .push 2, .push 3] = true ∧ readsCmd [(blocked.me.k[1], i), (blocked.me.k[2], g)] = true ∧ usesSr i = false ∧ usesSr g = false ∧
    blocked.me.heldShape = none ∧ (copyBodyOf i).isSome = true ∧ copyBodyOf g = none ∧ pushShapeOk blocked blocked.cur.at_ 0 i = false ∧
    pushShapeOk blocked blocked.cur.at_ 0 g = true ∧ ((cmdAligns 0 g).find? fun x => x.1 % x.2 ≠ 0) = some (0x10009, 8) ∧
    pushCheck blocked blocked.cur blocked.me.k[3] blocked.me.heldShape = .ok f 0 ∧ pushRoom blocked.myCore f = false ∧
    [.push 1, .push 2].map (fun i => nx (exec i blocked) fun t => ((t.pipe? 0).map fun p => p.faults.map FaultRec.code) == some [0x04]) = [true, false] ∧
    nx (exec (.push 2) blocked) (fun t => ((t.pipe? 0).map fun p => p.faults.map fun f => (f.code, f.addr)) == some [(0x03, 0x10009)]) = true ∧
    nx (exec (.push 3) blocked) (fun t => t.me.status == .waiting .engine && t.me.heldShape == some 0 && t.me.pc == 0) = true := by decide +kernel

/-! ## Vector instructions -/

/-- C under a VTYPE, with a row at the head of lq1 and lanes 0 and 1 in m1. -/
def typed (t : Word) : State := onC.updMyCore fun c => { c with
  vf := { c.vf with vtype := t, m := c.vf.m.set 1 3, v := (c.vf.v.set 1 (pack 4096 32 [0x3F800000, 0x40000000])).set 2 (pack 4096 32 [0x40400000, 0xBF800000]) }
  lq := c.lq.set 1 [some (pack 4096 32 [0x3F800000])] }

/-- Every one of these may issue, and its ports are ready. -/
def readyAll (s : State) (l : List Instr) : Bool := l.all fun i => decide (MayIssue s i) && decide (PortsReady s i)

/-- INT16 with saturation. -/
theorem witness_VectorIntegerArithmetic : isInt (typed 0x10A) ∧ readyAll (typed 0x10A) [.vadd 60 57 2 1, .vsub 3 1 2 1, .vmul 3 1 2 1, .vdiv 3 1 2 1, .vmin 3 1 2 1,
    .vmax 3 1 2 1, .vabs 3 1 1, .vneg 3 1 1, .vfma 3 1 2 1, .vfms 3 1 2 1, .vnfma 3 1 2 1, .vmov 3 1 0] = true := by decide +kernel

/-- Lane j of v3 after an instruction, under a VTYPE. -/
def v3 (t : Word) (i : Instr) (w j : Nat) : Option Nat := match exec i (typed t) with | .next t => some (lane t.myCore.vf.v[3] w j) | _ => none

theorem test_vector_arithmetic : v3 0 (.vadd 3 1 2 0) 32 0 = some 0x40800000 ∧ v3 0 (.vadd 3 1 2 0) 32 1 = some 0x3F800000 ∧ v3 0 (.vmul 3 1 2 0) 32 0 = some 0x40400000 ∧
    v3 0 (.vsub 3 1 2 0) 32 0 = some 0xC0000000 ∧ v3 0x0B (.vadd 3 1 2 0) 32 0 = some 0x7FC00000 ∧ v3 0x10B (.vmul 3 1 2 0) 32 0 = some 0x7FFFFFFF ∧
    v3 0x0B (.vdiv 3 1 4 0) 32 0 = some 0xFFFFFFFF := by decide +kernel

theorem witness_VectorIntegerReductions : isInt (typed 0x10A) ∧ readyAll (typed 0x10A) [.vrsum 3 1 1, .vrmax 3 1 1, .vrmin 3 57 1, .vramax 60 1 1] = true := by
  decide +kernel

theorem witness_VectorIntegerScan : isInt (typed 0x0B) ∧ readyAll (typed 0x0B) [.vscan 3 1 0] = true := by decide +kernel

theorem witness_VectorFloatArithmetic : isFloat (typed 0) ∧ readyAll (typed 0) [.vadd 60 57 2 1, .vsub 3 1 2 1, .vmul 3 1 2 1, .vdiv 3 1 2 1, .vmin 3 1 2 1,
    .vmax 3 1 2 1, .vabs 3 1 1, .vneg 3 1 1, .vrcp 3 1 1, .vrsq 3 1 1, .vsqrt 3 1 1, .vmov 3 1 0, .vfma 3 1 2 1, .vfms 3 1 2 1, .vnfma 3 1 2 1] = true := by
  decide +kernel

theorem witness_VectorFloatReductions : isFloat (typed 0) ∧ readyAll (typed 0) [.vrsum 3 1 0, .vrmax 3 1 0, .vrmin 3 1 0, .vramax 3 1 1, .vscan 3 1 1] = true ∧
    ((List.range 128).filter fun j => (typed 0).myCore.active 1 j) = [0, 1] := by decide +kernel

/-- The flags that an instruction leaves in VSTAT under a VTYPE. -/
def flags (t : Word) (i : Instr) : Option (BitVec 6) := match exec i (typed t) with | .next t => some t.myCore.vf.vstat | _ => none

theorem witness_VectorArithmeticFlags : isInt (typed 0x10A) ∧ (typed 0).myCore.vf.fmt.isInt = false ∧
    readyAll (typed 0x10A) [.vadd 60 57 2 1, .vdiv 3 1 2 1, .vneg 3 1 1, .vnfma 3 1 2 1, .vshl 3 1 2 0, .vmin 3 1 2 1, .mnot 2 1] = true ∧
    readyAll (typed 0) [.vadd 60 57 2 1, .vrcp 3 1 1, .vrsq 3 1 1, .vsqrt 3 1 1, .vfms 3 1 2 1, .vabs 3 1 1, .vcmpeq 7 57 2 1, .vsel 3 1 2 1, .vperm 3 1 4] = true ∧
    flags 0 (.vsqrt 3 2 1) = some 0x11 ∧ flags 0 (.vrcp 3 4 1) = some 0x08 ∧ flags 0x10B (.vmul 3 1 1 1) = some 0x20 ∧ flags 0x0B (.vmul 3 1 1 1) = some 0 := by
  decide +kernel

theorem witness_VectorConversionFlags : Fmt.ofCode 10 = some .int16 ∧ (widened (typed 0x09).myCore.vf.fmt).isSome = true ∧ isInt (typed 0x10B) ∧
    (widened (typed 0x03).myCore.vf.fmt).isSome = true ∧ (typed 0).myCore.vf.fmt.isInt = false ∧
    readyAll (typed 0x03) [.vcvt 4 1 1 10, .vwadd 4 1 2 1, .vwmul 4 1 2 1, .vnarrow 2 4 1 3 1] = true ∧
    readyAll (typed 0x10B) [.vrsum 3 1 1, .vramax 3 1 1, .vscan 3 1 1, .vrmax 3 1 1, .vrmin 3 1 1] = true ∧
    readyAll (typed 0) [.vrsum 3 1 1, .vramax 3 1 1, .vscan 3 1 1, .vppe 3 1 1] = true ∧ flags 0 (.vrsum 3 1 1) = some 0 ∧ flags 0 (.vcvt 4 2 1 11) = some 0 := by decide +kernel

/-- The same under SR, and with no active lane. -/
theorem witness_VectorFloatReductions_sr : (typed 0x40).myCore.vf.fmt.isInt = false ∧ (typed 0x40).myCore.vf.rm = .sr ∧ (typed 0x43).myCore.vf.rm = .sr ∧
    readyAll (typed 0x40) [.vrsum 3 1 0, .vscan 3 1 1, .vppe 3 1 1, .vcvt 4 2 1 10] = true ∧ readyAll (typed 0x43) [.vwadd 4 1 2 1, .vwmul 4 1 2 1, .vnarrow 2 4 0 0 1] = true ∧
    ((List.range 128).filter fun j => (typed 0).myCore.active 2 j) = [] ∧ readyAll (typed 0) [.vrmax 3 1 2, .vrmin 3 1 2] = true ∧
    v3 0 (.vrmax 3 1 2) 32 0 = some 0xFF800000 := by decide +kernel

theorem test_vector_reductions : v3 0 (.vrsum 3 1 1) 32 0 = some 0x40400000 ∧ v3 0 (.vrmax 3 1 1) 32 0 = some 0x40000000 ∧ v3 0 (.vrmin 3 1 1) 32 0 = some 0x3F800000 ∧
    v3 0 (.vscan 3 1 1) 32 1 = some 0x40400000 := by decide +kernel

theorem witness_VectorStochasticRounding : (typed 0x40).myCore.vf.fmt.isInt = false ∧ (typed 0x40).myCore.vf.rm = .sr ∧ readyAll (typed 0x40) [.vadd 3 1 2 1, .vsub 3 1 2 1,
    .vmul 3 1 2 1, .vdiv 3 1 2 1, .vrcp 3 1 1, .vrsq 3 1 1, .vsqrt 3 1 1, .vfma 3 1 2 1, .vfms 3 1 2 1, .vnfma 3 1 2 1] = true := by decide +kernel

/-- The first steps of the generator from 1 (R143). -/
theorem test_lfsr : lfsrStep 1 = 0x80200003 ∧ lfsrStep (lfsrStep 1) = 0xC0300002 ∧ lfsrStep (lfsrStep (lfsrStep 1)) = 0x60180001 := by decide +kernel

theorem witness_VectorBitsAndShifts : readyAll (typed 0x0B) [.vand 60 57 2 1, .vor 3 1 2 1, .vxor 3 1 2 1, .vnot 3 1 1, .vshl 3 1 2 0, .vshr 3 1 2 0, .vsra 3 1 2 0] = true := by
  decide +kernel

theorem test_vector_bits : v3 0x0B (.vshl 3 1 1 0) 32 0 = some 0x3F800000 ∧ v3 0x0B (.vnot 3 4 0) 32 7 = some 0xFFFFFFFF ∧ v3 0x0B (.vsra 3 2 2 0) 32 1 = some 0xBF800000 ∧
    v3 0x0B (.vand 3 1 2 0) 32 0 = some 0 := by decide +kernel

theorem witness_VectorRearrangement : readyAll (typed 0x0A) [.vsel 60 57 2 1, .vperm 3 1 4, .viota 3 1, .vexpand 3 1 1, .vcompress 3 1 1, .vbcast 3 1, .vli 3 0xFFFF] = true := by
  decide +kernel

theorem test_vector_rearrangement : v3 0 (.vsel 3 1 2 1) 32 1 = some 0x40000000 ∧ v3 0 (.vcompress 3 2 1) 32 1 = some 0xBF800000 ∧ v3 0 (.vexpand 3 2 1) 32 1 = some 0xBF800000 ∧
    v3 0 (.vli 3 0x3F80) 32 100 = some 0x3F800000 ∧ v3 0x0B (.vli 3 0x8000) 32 100 = some 0xFFFF8000 ∧ v3 0x0B (.viota 3 1) 32 1 = some 1 ∧
    v3 0 (.vperm 3 1 4) 32 50 = some 0x3F800000 := by decide +kernel

theorem witness_VectorComparesAndMasks : readyAll (typed 0) [.vcmpeq 7 57 2 1, .vcmplt 2 1 2 0, .vcmple 2 1 2 0, .mand 2 0 1, .mor 2 0 1, .mnot 2 1] = true := by decide +kernel

theorem test_masks : nx (exec (.vcmplt 2 2 1 0) (typed 0)) (fun t => t.myCore.vf.m[2] == 2) = true ∧
    nx (exec (.mnot 2 1) (typed 0)) (fun t => t.myCore.vf.m[2] == BitVec.ofNat 1024 (2 ^ 1024 - 4)) = true := by decide +kernel

theorem witness_VectorToScalar : readyAll (typed 0) [.mpop 3 1, .mfirst 3 0, .vextr 3 57 2, .vextr 0 1 2] = true ∧
    nx (exec (.mpop 3 1) (typed 0)) (fun t => t.rx 3 == 2) = true ∧ nx (exec (.mfirst 3 2) (typed 0)) (fun t => t.rx 3 == 128) = true ∧
    nx (exec (.vextr 3 2 4) (regs [(4, 1)] (typed 0x0B))) (fun t => t.rx 3 == 0xFFFFFFFFBF800000) = true ∧
    nx (exec (.vextr 3 2 4) (regs [(4, 128)] (typed 0x0B))) (fun t => t.rx 3 == 0) = true := by decide +kernel

theorem witness_VectorConversions : Fmt.ofCode 0 = some .fp32 ∧ (typed 0x09).myCore.vf.rm ≠ .sr ∧ readyAll (typed 0x09) [.vcvt 4 1 1 0, .vwadd 4 1 2 1, .vwmul 4 1 2 1,
    .vnarrow 2 4 1 3 1] = true ∧ (widened (typed 0x09).myCore.vf.fmt).isSome = true ∧ isInt (typed 0x09) ∧ (widened (typed 0x03).myCore.vf.fmt).isSome = true ∧
    readyAll (typed 0x03) [.vwadd 4 1 2 1, .vwmul 4 1 2 1, .vnarrow 2 4 0 0 1] = true ∧ isFloat (typed 0x03) := by decide +kernel

theorem witness_VectorSettings : readyAll (typed 0) [.vcfg 1 4 11, .vrotm 3 1 2 9, .vrotm 60 57 2 9, .vppe 3 1 1] = true ∧ isFloat (typed 0) ∧
    nx (exec (.vcfg 1 0 10) (typed 0)) (fun t => t.myCore.vf.vtype == 0x10A) = true ∧
    nx (exec (.vrotm 3 1 2 9) (regs [(9, 508)] (typed 0))) (fun t => lane t.myCore.vf.v[3] 32 1 == 0x40400000) = true := by decide +kernel

/-! ## Tile commands -/

/-- An entry with this command and shape. -/
def entry (i : Instr) (sh : CmdWord := 0) : QEntry := { placedEntry 0 i with
  shape := sh, xlat := (spanPages (cmdSpans sh i) 12).map fun x => pageXlat 0 x.1 (x.1 * 4096) x.2 }

/-- The command stands alone in its queue. -/
def withCmd (i : Instr) (s : State) (sh : CmdWord := 0) : State := s.updMyCore fun c => { c with eng := c.eng.set (engOf i) [entry i sh] }

/-- The command may start. -/
def heads (i : Instr) (s : State) (sh : CmdWord := 0) : Bool := decide (AtHead (withCmd i s sh) i (entry i sh))

/-- The head of queue e has started, with a number of writes left. -/
def begunWith (e : Fin 6) (n : Nat) (t : State) : Bool := match (t.myCore.eng[e]).head? with
  | some q => match q.state with | .started _ todo _ _ _ => todo.length == n | _ => false
  | none => false

/-- A of one row and B of eight in the strip window, E4M3 with 4 elements a step: A is (1 2 0 0; ..), B (2 1 0 0; ..). -/
def mma1 : MmaBody := ⟨rows 3000, rows 4000, 3, 3, 0, 0, false, false, false, true⟩
def mul1 (v : BitVec 16) : Instr := .mma (hdr 0 v) mma1
def mulState : State := (base.setRow ⟨0, 0⟩ 3000 (pack 4096 8 [0x38, 0x40])).setRow ⟨0, 0⟩ 4000 (pack 4096 8 [0x40, 0x38])

theorem witness_MmaMultiplies : (heads (mul1 1) mulState = true) ∧ FragmentFits mulState ∧
    operandRows mulState mma1.aref (aCount .e4m3 1) = .ok [(⟨0, 0⟩, 3000)] 0 ∧
    operandRows mulState mma1.bref (bCount .e4m3 1) = .ok ((List.range 8).map fun k => (⟨0, 0⟩, 4000 + k)) 0 ∧
    (∀ x ∈ (List.range 8).map fun k => ((⟨0, 0⟩ : CoreRef), 4000 + k), mulState.rowStalled x.1 x.2 = false ∧ mulState.rowPoisoned x.1 x.2 = false) ∧
    mulState.rowStalled ⟨0, 0⟩ 3000 = false ∧ mulState.rowPoisoned ⟨0, 0⟩ 3000 = false ∧ mma1.zf = true := by decide +kernel

/-- 1·2 + 2·1 is 4 (R135, R139). -/
theorem test_mma : nx (exec (mul1 1) (withCmd (mul1 1) mulState)) (fun t => lane (half t 0 false 0) 32 0 == 0x40800000 && lane (accs t 0 0) 26 0 == 0 &&
    half t 0 false 1 == 0 && t.myCore.st.dirtyA && begunWith 0 0 t) = true := by decide +kernel

theorem witness_PromoteAndClear : FragmentFits base ∧ heads (.promote (hdr 0 128) true) base = true ∧ heads (.zacc (hdr 0 0) true false true) base = true ∧
    nx (exec (.zacc (hdr 0 1) true false false) (withCmd (.zacc (hdr 0 1) true false false)
      (base.updSt ⟨0, 0⟩ fun t => (t.setBank false 0 7).setBank false 1 9))) (fun t => half t 0 false 0 == 0 && half t 0 false 1 == 9) = true := by decide +kernel

/-- A DRAIN of half A to rows in FP32. -/
def drain1 : DrainBody := ⟨rows 5000, 0, 0, false, 0, false, 0, false, 0, false, false⟩
def drained : State := base.updSt ⟨0, 0⟩ fun t => (t.setBank false 0 0x40800000).setDirty false true

theorem witness_DrainWritesHalf : (heads (.drain (hdr 0 1) drain1) drained = true) ∧ FragmentFits drained ∧ drain1.dref.mode ≠ 2 ∧
    drainDest drained drain1 = .ok ((List.range 1024).map fun k => (⟨0, 0⟩, 5000 + k)) 0 ∧ drained.rowStalled ⟨0, 0⟩ 5000 = false ∧
    drainPoisoned drained drain1 1 = false := by decide +kernel

theorem test_drain : nx (exec (.drain (hdr 0 1) drain1) (withCmd (.drain (hdr 0 1) drain1) drained)) (fun t => begunWith 0 1 t &&
    half t 0 false 0 == 0 && !t.myCore.st.dirtyA && (match (t.myCore.eng[0]).head? with
      | some q => q.state == .started 0 [.row ⟨0, 0⟩ 5000 0x40800000] none none [] | none => false)) = true := by decide +kernel

/-- Core 1 leads a second fragment of the pipeline, linked from core 0's. -/
def linked : State := (base.updCore ⟨0, 0⟩ fun c => { c with linkOut := some 1 }).updCore ⟨0, 1⟩ fun c => { c with linkIn := some 0 }

theorem witness_ChainLinks : heads (.chain (hdr 0 0) 1) base = true ∧ (1 : BitVec 3).toFin ≠ base.cur.at_.core ∧
    heads (.unchain (hdr 0 0) false) linked = true ∧ linked.myCore.linkOut = some 1 ∧
    nx (exec (.chain (hdr 0 0) 1) (withCmd (.chain (hdr 0 0) 1) base)) (fun t => t.myCore.linkOut == some 1) = true ∧
    nx (exec (.unchain (hdr 0 0) false) (withCmd (.unchain (hdr 0 0) false) linked)) (fun t => (t.core ⟨0, 1⟩).linkIn == none) = true := by
  decide +kernel

/-- Core 1 runs at the far end of the link; its MMAC and the DRAIN upstream are at their heads. -/
def mmac1 : Instr := .mmac (hdr 0 1) { mma1 with km1 := 255 }
def drainC : DrainBody := { drain1 with dref := ⟨2, false, 0⟩ }
def chained : State :=
  let s := linked.updDie 0 fun d => { d with leases := [⟨0, 0, .frag 0 1, none, none, false, false⟩, ⟨0, 0, .frag 1 1, none, none, false, false⟩] }
  let s := withCmd (.drain (hdr 0 1) drainC) (s.updCore ⟨0, 1⟩ fun c => { c with task := some { placedTask with member := 0, gangId := 5 } })
  withCmd mmac1 { s with cur := ⟨⟨0, 1⟩, .load⟩ }

theorem witness_ChainedMultiply : AtHead chained mmac1 (entry mmac1) ∧ FragmentFits chained ∧ chained.myCore.linkIn = some 0 ∧
    chained.chainDrainAt ⟨0, 0⟩ = some (entry (.drain (hdr 0 1) drainC), hdr 0 1, drainC) ∧ chained.strips ⟨0, 1⟩ = 1 ∧ chained.strips ⟨0, 0⟩ = 1 ∧
    coreSouth ⟨0, 1⟩ 0 ≠ coreSouth ⟨0, 0⟩ 0 ∧
    operandRows chained mma1.bref (bCount .e4m3 256) = .ok ((List.range 2048).map fun k => (⟨0, 1⟩, 4000 + k)) 0 ∧
    drainPoisoned { chained with cur := ⟨⟨0, 0⟩, .load⟩ } drainC 1 = false ∧ mma1.zf = true ∧
    (withCmd mmac1 base).myCore.linkIn = none ∧ AtHead (withCmd mmac1 base) mmac1 (entry mmac1) := by decide +kernel

/-- A tile of one row of 32 FP32 elements at 0x10000. -/
def tile1 : CmdWord := fw [(192, 0x10000), (32, 31)]
def copyTo (r : BitVec 18) : CopyBody := { copy0 0 (rows r) with xref := rows 100 }
def tiled : State := base.homeWrite 0x10000 8 0x40800000

theorem witness_LoadsOfTiles : let i : Instr := .tload (hdr 1 1) (copyTo 600); let g : Instr := .tgather (hdr 1 1) { copyTo 600 with gix := true }
    heads i tiled tile1 = true ∧ heads g tiled tile1 = true ∧ refWrite tiled ⟨0, 0⟩ (rows 600) (streamRows tile1 (copyTo 600)) = .ok [(⟨0, 0⟩, 600)] 0 ∧
    refRead tiled ⟨0, 0⟩ (rows 100) (ceilDiv (shTokens tile1 * 4) 512) = .ok [(⟨0, 0⟩, 100)] 0 ∧ RowsAwake tiled [(⟨0, 0⟩, 600)] ∧
    RowsAtHand tiled [(⟨0, 0⟩, 100)] ∧ PartsAtHand tiled (entry i tile1) ((entry i tile1).reads (rowSpans tile1 [0])) ∧
    nx (exec i (withCmd i tiled tile1)) (fun t => begunWith 1 1 t && (match (t.myCore.eng[1]).head? with
      | some q => q.state == .started 0 [.row ⟨0, 0⟩ 600 0x40800000] none none [] | none => false)) = true ∧
    nx (exec g (withCmd g tiled tile1)) (begunWith 1 1) = true := by decide +kernel

theorem witness_ConvertsAndStoresOfTiles : let b := copyTo 600; let i : Instr := .tcvt (hdr 2 1) b; let j : Instr := .tstore (hdr 2 1) b
    heads i tiled tile1 = true ∧ heads j tiled tile1 = true ∧ refRead tiled ⟨0, 0⟩ b.sref 1 = .ok [(⟨0, 0⟩, 600)] 0 ∧
    (ceilDiv (shTokens tile1 * shCols tile1 * codeWidth (shFmt tile1)) 4096 + scaleRows tile1 (shFmt tile1), streamRows tile1 b) = (1, 1) ∧
    refWrite tiled ⟨0, 0⟩ b.xref 1 = .ok [(⟨0, 0⟩, 100)] 0 ∧ RowsAtHand tiled [(⟨0, 0⟩, 600)] ∧ RowsAwake tiled [(⟨0, 0⟩, 100)] ∧
    unreachableDla tiled (entry i tile1) = none ∧
    nx (exec i (withCmd i tiled tile1)) (begunWith 2 1) = true ∧ nx (exec j (withCmd j tiled tile1)) (begunWith 2 1) = true := by decide +kernel

theorem witness_PrefetchChangesNothing : let i : Instr := .prefetch (hdr 1 1) (copyTo 0)
    heads i tiled tile1 = true ∧ unreachableDla tiled (entry i tile1) = none ∧
    (partLines ((entry i tile1).reads (rowSpans tile1 [0]))).all (fun l => tiled.routed 0 (linePage l) && !tiled.prefetchStall 0 false l) = true ∧
    nx (exec i (withCmd i tiled tile1)) (begunWith 1 0) = true := by
  decide +kernel

/-- Queue 1 of core 0 has two writes left. -/
def landing : State := base.updMyCore fun c => { c with eng := c.eng.set 1 [{ entry (.tload (hdr 1 1) (copyTo 600)) tile1 with
  state := .started 0 [.row ⟨0, 0⟩ 600 7, .line 512 3 0xABCD] none none [] }] }

theorem witness_EngineWritesLand : (landing.core ⟨0, 0⟩).rowStalled 600 = false ∧ landing.routed 0 (linePage 512) = true ∧ landing.writeClear 512 = true ∧
    landing.homes.noKey (linePage 512) = false ∧ (landing.die 0).landed 512 = true ∧
    ((landing.land ⟨0, 0⟩ 1 0).core ⟨0, 0⟩).row 600 = 7 ∧ (landing.land ⟨0, 0⟩ 1 1).homes.byte 0x10000 = 0xCD ∧ (landing.land ⟨0, 0⟩ 1 1).homes.byte 0x10001 = 0xAB := by
  decide +kernel

/-- One bit written beyond a line's first two bytes is outside the mask. -/
theorem test_line_mask : (landing.land ⟨0, 0⟩ 1 1).homes.byte 0x10002 = 0 := by decide +kernel

theorem witness_GlobalAtomics : let b : GatomBody := ⟨0x10008, 5, 7, true, 9⟩; let s := base.homeWrite 0x10008 8 7
    ([.gatomAdd (hdr 2 1) b, .gatomFadd (hdr 2 1) b, .gatomMax (hdr 2 1) b, .gatomMin (hdr 2 1) b, .gatomSwap (hdr 2 1) b, .gatomCas (hdr 2 1) b].all
      fun i => heads i s && nx (exec i (withCmd i s)) (begunWith 2 1)) = true ∧ (entry (.gatomAdd (hdr 2 1) b)).dla 0x10008 = some 0x10008 ∧
    s.dlaOk 0x10008 = true ∧ s.homes.poisoned (lineOf 0x10008) = false ∧ s.routed 0 (pageOf 0x10008) = true ∧ s.writeClear (lineOf 0x10008) = true ∧
    s.homes.noKey (pageOf 0x10008) = false ∧ (s.die 0).landed (lineOf 0x10008) = true ∧ lineOf (0x10008 + 7) = lineOf 0x10008 ∧
    nx (exec (.gatomAdd (hdr 2 1) b) (withCmd (.gatomAdd (hdr 2 1) b) s)) (fun t => t.homes.getN 0x10008 8 == 12) = true ∧
    nx (exec (.gatomCas (hdr 2 1) b) (withCmd (.gatomCas (hdr 2 1) b) s)) (fun t => t.homes.getN 0x10008 8 == 5) = true := by decide +kernel

theorem witness_MigrateStarts : let b : MigrateBody := ⟨0x10000, 0, 5, 0⟩; let i : Instr := .migrate (hdr 2 1) b
    heads i base = true ∧ (entry i).dla 0x10000 = some 0x10000 ∧ base.dlaOk 0x10000 = true ∧ base.homes.migOf (pageOf 0x10000) = none ∧
    (⟨0, 5⟩ : Home) ≠ base.homes.curHome (pageOf 0x10000) ∧ base.reachable (base.homes.curHome (pageOf 0x10000)).pkg = true ∧ base.reachable 0 = true ∧
    base.homes.stubsDue (base.homes.curHome (pageOf 0x10000)) < 8 ∧ base.homes.noKey 1 = false ∧ base.homes.stackFull ⟨0, 5⟩ = false ∧
    nx (exec i (withCmd i base)) (fun t => (t.homes.placeRec 1).st == 1) = true := by decide +kernel

theorem witness_ScatterCombines : let b : ScatBody := ⟨rows 600, rows 100, 700, 0, true, 0⟩; let i : Instr := .scatAdd (hdr 3 1) b
    let s := (base.setRow ⟨0, 0⟩ 600 0x40800000).setRow ⟨0, 0⟩ 701 0x3F800000 |>.setRow ⟨0, 0⟩ 100 1
    heads i s = true ∧ heads (.scatMax (hdr 3 1) b) s = true ∧ heads (.scatMin (hdr 3 1) b) s = true ∧
    refRead s ⟨0, 0⟩ b.vref (b.nent.toNat + 1) = .ok [(⟨0, 0⟩, 600)] 0 ∧ refRead s ⟨0, 0⟩ b.xref 1 = .ok [(⟨0, 0⟩, 100)] 0 ∧
    RowsAtHand s [(⟨0, 0⟩, 100)] ∧ RowsAwake s [(⟨0, 0⟩, 600)] ∧ s.rowStalled ⟨0, 0⟩ 701 = false ∧
    (scatWindows s b 0 [(⟨0, 0⟩, 600)] (fun _ => 1) 1 (List.range (ceilDiv 1 64))).2 = none ∧
    nx (exec i (withCmd i s)) (fun t => t.row ⟨0, 0⟩ 701 == 0x40A00000 && t.myCore.cnt[1] == 1 && begunWith 3 0 t) = true := by decide +kernel

theorem witness_CounterSnapshot : let i : Instr := .cntsnap (hdr 3 1) (rows 600); let s := base.updMyCore fun c => { c with cnt := c.cnt.set 130 9 }
    heads i s = true ∧ 600 + 1 < s.rowLimit ⟨0, 0⟩ ∧ s.rowStalled ⟨0, 0⟩ 600 = false ∧ s.rowStalled ⟨0, 0⟩ 601 = false ∧
    nx (exec i (withCmd i s)) (fun t => t.row ⟨0, 0⟩ 601 == 9 * 2 ^ 64 && t.myCore.cnt[130] == 0) = true := by decide +kernel

/-- Remote-map entry 0 names ring 3 of core 0 of this package, of the pipeline with handle 0x77. -/
def mapped : State := base.updPipe 0 fun p => { p with handle := 0x77, record := { placedOp with rmap := [(BitVec.ofNat 64 (2 ^ 63 + 3), 0x77)] } }

theorem witness_RemoteWriteStarts : let i : Instr := .rwrite (hdr 5 1) ⟨0, 0, rows 600⟩
    heads i mapped = true ∧ ((mapped.pipeOf ⟨0, 0⟩).bind fun p => p.record.rmap[0]?) = some (BitVec.ofNat 64 (2 ^ 63 + 3), 0x77) ∧
    refRead mapped ⟨0, 0⟩ (rows 600) 1 = .ok [(⟨0, 0⟩, 600)] 0 ∧ mapped.rmapFenced (BitVec.ofNat 64 (2 ^ 63 + 3)) 0x77 = false ∧
    rmapPkg (BitVec.ofNat 64 (2 ^ 63 + 3)) = 0 ∧ mapped.reachable 0 = true ∧ RowsAwake mapped [(⟨0, 0⟩, 600)] ∧
    nx (exec i (withCmd i mapped)) (begunWith 5 1) = true := by decide +kernel

/-- A header that takes from semaphore 4 and gives to 5. -/
def semHdr (e : BitVec 4) : CmdHdr := ⟨e, 0, true, 4, true, 5, 0⟩

/-- A QFENCE of queues 0 and 5 at the heads of both, or of the first only. -/
def fenced (both : Bool) : State :=
  let i : Instr := .qfence ⟨0, 0, false, 0, true, 5, 0⟩ 0x21
  base.updMyCore fun c => { c with eng := (c.eng.set 0 [entry i]).set 5 (if both then [entry i] else [entry (.semsig (semHdr 5)), entry i]) }

theorem witness_QueueSynchronization : let s := base.updMyCore fun c => { c with sem := c.sem.set 4 1 }; let h : CmdHdr := ⟨0, 0, false, 0, true, 5, 0⟩
    heads (.semsig (semHdr 3)) s = true ∧ heads (.semwait (semHdr 0)) s = true ∧ s.myCore.sem[5] ≠ 65535 ∧
    nx (exec (.semsig (semHdr 3)) (withCmd (.semsig (semHdr 3)) s)) (fun t => t.myCore.sem[4] == 0 && t.myCore.sem[5] == 1 && t.myCore.eng[3] == []) = true ∧
    (fenced true).myCore.eng[0] = [entry (.qfence h 0x21)] ∧ (fenced true).myCore.eng[5] = [entry (.qfence h 0x21)] ∧ (fenced true).myCore.sem[5] ≠ 65535 ∧
    (fenced false).myCore.fenceAt 5 0 = false ∧
    nx (exec (.qfence h 0x21) (fenced true)) (fun t => t.myCore.eng[0] == [] && t.myCore.eng[5] == [] && t.myCore.sem[5] == 1) = true ∧
    nx (exec (.qfence h 0x21) (fenced false)) (fun t => (t.myCore.eng[0]).length == 1 && (t.myCore.eng[5]).length == 2) = true := by decide +kernel

/-- A TLOAD on queue 1 that signals semaphore 5 and joins amax register 2, with one row or none left to write. -/
def completing (l : List EngWrite) : QEntry := { entry (.tload ⟨1, 0, false, 0, true, 5, 1⟩ { copyTo 600 with ae := true, amn := 2, cvt := true }) tile1 with
  state := .started 0 l none (some 0x40800000) [] }
def complete (l : List EngWrite) : State := base.updMyCore fun c => { c with eng := c.eng.set 1 [completing l] }

theorem witness_CommandsComplete : (base.core ⟨0, 0⟩).sem[5] ≠ 65535 ∧ ((complete [.row ⟨0, 0⟩ 600 7]).core ⟨0, 0⟩).rowStalled 600 = false ∧
    nx (exec (.commandComplete ⟨0, 0⟩ 1) (complete [.row ⟨0, 0⟩ 600 7])) (fun t => t.myCore.eng[1] == [] && t.myCore.sem[5] == 1 &&
      t.row ⟨0, 0⟩ 600 == 7 && t.myCore.vf.am[2] == 0x40800000 && t.now == (17 + 32) * 160) = true ∧
    nx (exec (.commandComplete ⟨0, 0⟩ 1) (complete [])) (fun t => t.myCore.eng[1] == []) = true := by decide +kernel

/-- Word 0 of a ring of four slots of two rows that takes remote writes (R85). -/
def remRing : Word := BitVec.ofNat 64 (2 ^ 63 + 2 ^ 62 + 3 * 2 ^ 48 + 1 * 2 ^ 42 + 4096 * 2 ^ 22)

/-- A write into ring 3 of virtual core 0; the pipeline's stage 0 consumes ring 3. -/
def arriving (b : Nat) : State :=
  let s := base.updPipe 0 fun p => { p with handle := 0x77, record := { placedOp with stages := [{ placedStage with ins := [(3, 1)] }], rings := List.replicate 4 (remRing, 0) } }
  s.updCore ⟨0, 0⟩ fun c => { c with rings := c.rings.set 3 { RingInst.define remRing with
    tail := BitVec.ofNat 9 b, resv := BitVec.ofNat 9 b } }
def rw1 : RemoteWrite := ⟨0x77, 3, 0, 0, 0, 0, [9]⟩

theorem witness_RemoteWritesArrive : let s := arriving 0; let f := arriving 256
    (∀ x ∈ base.fe.pipes, x.handle ≠ rw1.handle) ∧ ((s.fe.pipes.find? fun x => x.handle == rw1.handle && !x.ended && x.shut.isNone).map Pipe.pre) = some .none ∧
    (s.fe.pipes.head?.bind fun p => p.pool.find? fun x => x.vnum == rw1.vcore.toNat && p.record.consumer 3 == some x.stage) = some ⟨0, ⟨0, 0⟩, 0, 0⟩ ∧
    instTakes ((s.core ⟨0, 0⟩).ring 3) rw1 = true ∧ instTakes ((f.core ⟨0, 0⟩).ring 3) rw1 = true ∧ s.fab.rwbuf = [] ∧
    ((s.core ⟨0, 0⟩).ring 3).free ≠ 0 ∧ ((f.core ⟨0, 0⟩).ring 3).free = 0 ∧ (s.fe.pipes.all fun p => (p.savedFor rw1).isNone) = true ∧
    s.slotStalled ⟨0, 0⟩ ((s.core ⟨0, 0⟩).ring 3) (ptrIdx ((s.core ⟨0, 0⟩).ring 3).resv) 1 = false ∧
    nx (exec (.remoteWriteArrival rw1) s) (fun t => (t.core ⟨0, 0⟩).row 4096 == 9 && ((t.core ⟨0, 0⟩).ring 3).tail == 1) = true ∧
    nx (exec (.remoteWriteArrival rw1) f) (fun t => t.fab.rwbuf == [rw1]) = true ∧
    nx (exec (.remoteWriteArrival rw1) base) (fun t => (t.mgmt.log.map LogRec.code) == [0x4C]) = true := by decide +kernel

/-- An RWRITE through entry 9 has started. -/
def refusing : State := mapped.updMyCore fun c => { c with eng := c.eng.set 5 [{ entry (.rwrite (hdr 5 1) ⟨9, 0, rows 600⟩) with state := .started 0 [] none none [] }] }

theorem witness_RemoteWritesArrive_refused : (((refusing.core ⟨0, 0⟩).eng[5]).map QEntry.rent) = [some 9] ∧ (refusing.core ⟨0, 0⟩).task = some placedTask ∧
    nx (exec (.remoteWriteRefused ⟨0, 0⟩ 5) refusing) (fun t => ((t.pipe? 0).map fun p => p.faults.map FaultRec.code) == some [0x12]) = true := by decide +kernel

/-! ## Messages at the home slices -/

/-- L is held by a load of one word at 0x1004, which no die holds. -/
def asking : State := base.updMe fun c => { c with status := .held (byteLoad none), seq := 2 }

/-- Die 1 holds the line in E. -/
def shared : State := asking.updDie 1 fun d => { d with cache := [(32, .e)] }

theorem witness_HomeAnswersReads : let s := asking; let l := byteLoad none
    (s.ctx s.cur).status = .held l ∧ l.isAcq = false ∧ s.wordReady s.cur l ⟨0x1004, 0x1004, 1, none⟩ = false ∧ s.homes.isLost (.load s.cur) = false ∧
    s.loadOldest s.cur l = true ∧ shared.loadOldest s.cur l = true ∧ (s.die 0).lastWrite 0x1004 = none ∧
    AtHome s 0 0x1004 ∧ AtHome shared 0 0x1004 ∧ shared.wordReady s.cur l ⟨0x1004, 0x1004, 1, none⟩ = false ∧
    (∀ j : Fin 6, (s.die j).line 32 = none) ∧ (∀ j : Fin 6, j ≠ 0 → (shared.die j).line 32 = none ∨ (shared.die j).line 32 = some .e) ∧
    nx (exec (.homeRequest (.load s.cur)) s) (fun t => (t.die 0).line 32 == some .e) = true ∧
    nx (exec (.homeRequest (.load s.cur)) shared) (fun t => (t.die 0).line 32 == some .s && (t.die 1).line 32 == some .s) = true := by decide +kernel

/-- Site 0 has written 0xABCD to 0x1003 at die scope. -/
def written : State := storing.perform storing.cur 0

theorem witness_HomePerformsWrites : ((written.die 0).buf.map fun w => (w.dla, w.size, w.rel, w.route)) = [(0x1003, 2, none, none)] ∧
    ((written.die 0).buf[0]?).any (fun w => !earlierSame (written.die 0).buf 0 w && !written.homes.isLost (.write w.ctx w.seq)) = true ∧
    written.accepts 0 (pageOf 0x1003) = true ∧ AtHome written 0 0x1003 ∧ (∀ j : Fin 6, (written.die j).line 32 = none) ∧
    nx (exec (.homeRequest (.write 0 0)) written) (fun t => t.dieByte 0 0x1004 == 0xAB && t.dieByte 1 0x1004 == 0 && (t.die 0).buf == []) = true ∧
    nx (exec (.homeRequest (.write 0 0)) (written.updDie 1 fun d => { d with cache := [(32, .e)] })) (fun t => (t.homes.snoops.map fun x => (x.site, x.line)) == [(1, 32)]) = true := by
  decide +kernel

/-- A REL of site 0, with a scope, covers the write before it, or nothing. -/
def relWrite (sc : BitVec 2) : DieWrite := { releasedWrite with dla := 0x2000, data := 6, seq := 9, rel := some ⟨sc, 4, 9⟩ }
def releasing (sc : BitVec 2) (l : List DieWrite) : State := base.updDie 0 fun d => { d with buf := l ++ [relWrite sc], cache := [(33, .m 7 [(⟨⟨0, 0⟩, .load⟩, 4)])] }

theorem witness_ReleasePerformsAtHome : (releasedWrite.covered base.cur 4 9 = true ∧ (relWrite 2).covered base.cur 4 9 = false) ∧
    earlierSame ((releasing 2 []).die 0).buf 0 (relWrite 2) = false ∧ (releasing 2 []).accepts 0 (pageOf 0x2000) = true ∧ AtHome (releasing 2 []) 0 0x2000 ∧
    (∀ j : Fin 6, ((releasing 2 []).die j).line 64 = none) ∧ (releasing 2 []).homes.noted 64 = false ∧ HoldsM (releasing 2 []) 0 33 7 [(base.cur, 4)] ∧
    nx (exec (.homeRequest (.write 0 1)) (releasing 2 [releasedWrite])) (fun t => t == releasing 2 [releasedWrite]) = true ∧
    nx (exec (.homeRequest (.write 0 0)) (releasing 2 [])) (fun t => (t.die 0).line 33 == some .e && t.homes.byte 0x1080 == 7 && t.dieByte 0 0x2000 == 6) = true ∧
    nx (exec (.homeRequest (.write 0 0)) (releasing 1 [])) (fun t => (t.die 0).line 33 != some .e && (t.homes.notes.map Note.line) == [64]) = true := by decide +kernel

/-- L's oldest access is an FPUT or FRESET of the cell at 0x1008, which is full or empty, with a record parked there. -/
def cellAccess (op : AccOp) : Access := ⟨3, 0xFFFF, op, 0x40, 0x1008, [], none, none⟩
def celled (full : Bool) (op : AccOp) : State :=
  let s := ((base.updMe fun c => { c with out := [cellAccess op] }).updDie 0 fun d => { d with cache := [(33, .m 7 [(⟨⟨0, 0⟩, .load⟩, 4)])] }).updHomes fun h => { h with
    parked := [⟨0x1008, 0, placedRecord, [], 1, none, 0, false⟩] }
  if full then s.fillCell 0x1008 5 |>.updHomes fun h => { h with parked := [] } else s

theorem witness_FuturesAtHome : (celled false (.fput 0x1008 6)).oldest base.cur (cellAccess (.fput 0x1008 6)) = true ∧
    (celled true (.freset 0x1008)).oldest base.cur (cellAccess (.freset 0x1008)) = true ∧ ((celled false (.fput 0x1008 6)).die 0).buf = [] ∧
    (celled false (.fput 0x1008 6)).reachable ((celled false (.fput 0x1008 6)).homes.slice 0x1008).pkg = true ∧ (celled false (.fput 0x1008 6)).routed 0 (pageOf 0x1008) = true ∧
    (celled false (.fput 0x1008 6)).writeClear (lineOf 0x1008) = true ∧ (celled false (.fput 0x1008 6)).homes.noKey (pageOf 0x1008) = false ∧
    (celled true (.fput 0x1008 6)).homes.tagFull 0x1008 = true ∧ (celled false (.fput 0x1008 6)).homes.tagFull 0x1008 = false ∧
    HoldsM (celled false (.fput 0x1008 6)) 0 33 7 [(base.cur, 4)] ∧
    (let t := (celled false (.fput 0x1008 6)).perform base.cur 0
     t.homes.tagFull 0x1008 && t.cohN 0x1008 8 == 6 && t.homes.parked == [] && (t.die 0).line 33 == some .e && ((t.pipe? 0).map fun p => p.replays.length) == some 1) = true ∧
    (let t := (celled true (.freset 0x1008)).perform base.cur 0; !t.homes.tagFull 0x1008 && t.cohN 0x1008 8 == 0) = true ∧
    (let t := (celled true (.fput 0x1008 6)).perform base.cur 0; t.cohN 0x1008 8 == 5 && ((t.pipe? 0).map fun p => p.faults.map FaultRec.code) == some [0x0D]) = true := by
  decide +kernel

/-- Die 1 holds line 32 in M and owes it. -/
def owing (f : Option (Fin 6)) : State := (base.updDie 1 fun d => { d with cache := [(32, .m 0xCD []), (33, .e)] }).updHomes fun h => { h with
  snoops := [⟨1, 32, 0, false, f, false⟩] }

theorem witness_SnoopsAndForwards : (owing none).homes.snoopAt 1 32 = some ⟨1, 32, 0, false, none, false⟩ ∧ (owing (some 2)).homes.snoopAt 1 32 = some ⟨1, 32, 0, false, some 2, false⟩ ∧
    (owing none).homes.isLost (.inv 1 32) = false ∧ (owing none).homes.noKey (linePage 32) = false ∧ ((owing (some 2)).die 2).canFill = true ∧ (owing (some 1)).homes.snoopAt 1 32 = some ⟨1, 32, 0, false, some 1, false⟩ ∧
    nx (exec (.ownerForward 1 32) (owing (some 1))) (fun t => (t.die 1).line 32 == some .o && t.homes.byte 0x1000 == 0xCD) = true ∧
    nx (exec (.snoopResponse 1 32) (owing none)) (fun t => (t.die 1).line 32 == none && (t.die 1).line 33 == some .e && t.homes.byte 0x1000 == 0xCD) = true ∧
    nx (exec (.ownerForward 1 32) (owing (some 2))) (fun t => (t.die 1).line 32 == some .o && (t.die 2).line 32 == some .s && t.homes.byte 0x1000 == 0xCD) = true := by
  decide +kernel

theorem witness_RedirectsAndTimeLimits : let s := base.updHomes fun h => { h with redirects := [(.die 2, 5, ⟨0, 3⟩)] }
    let w := base.updMe fun c => { c with status := .waiting (.mwait 999), mon := ⟨some 32, false⟩ }
    (s.die 2).owners.length < 4096 ∧ nx (exec (.redirect 0) s) (fun t => lookup 5 (t.die 2).owners == some ⟨0, 3⟩ && t.homes.redirects == []) = true ∧
    nx (exec (.mwaitTimeout w.cur) w) (fun t => t.me.status == .running && t.me.mon == ⟨none, false⟩ && t.now == 999 && t.me.pc == 4) = true := by decide +kernel

/-- A release of L on site 0 covers its one write, and its line's note is sent. -/
def publishing : State := written.updHomes fun h => { h with notes := [⟨32, 0, ⟨⟨0, 0⟩, .load⟩, 4, 9, some 3, false⟩] }

theorem witness_ForcedPublishes : let n : Note := ⟨32, 0, ⟨⟨0, 0⟩, .load⟩, 4, 9, some 3, false⟩
    (publishing.homes.notes.find? fun x => x.line == 32 && x.sent.isSome && !x.acked) = some n ∧
    ((coveredRun n.ctx ⟨1, n.mask, n.seq⟩ (publishing.die 0).buf).map fun w => (w.dla, w.size)) = [(0x1003, 2)] ∧
    (publishing.die 0).buf.all (publishing.publishOpen (publishing.die 0).buf) = true ∧ publishing.homes.noKey (pageOf 0x1003) = false ∧
    nx (exec (.forcedPublish 32) publishing) (fun t => t.homes.byte 0x1004 == 0xAB && (t.homes.notes.map Note.acked) == [true]) = true := by decide +kernel

/-- L waits for the word at 0x1000. -/
def fetching : State := (base.homeWrite 0x1000 4 0x00642801).updMe fun c => { c with pc := 0x1000, status := .waiting (.fetch 0x1000 none) }

theorem witness_FetchReturns : fetching.cached ⟨0, 0⟩ 0x1000 = none ∧
    fetching.lookupXlat (.engine ⟨0, 0⟩ ctxEng) (fetching.pasidOf ⟨0, 0⟩) 0x1000 false = .hit 0x1000 ∧ fetching.dlaOk 0x1000 = true ∧
    fetching.routed 0 (pageOf 0x1000) = true ∧ fetching.reachable (fetching.homes.slice 0x1000).pkg = true ∧
    fetching.readClear (some 0) (lineOf 0x1000) = true ∧ fetching.homes.poisoned (lineOf 0x1000) = false ∧ (fetching.die 0).badLines = [] ∧
    nx (exec (.instructionFetchReturn fetching.cur) fetching) (fun t => t.cached ⟨0, 0⟩ 0x1000 == some 0x00642801 && t.me.status == .running) = true := by decide +kernel

/-- A request for the page at 0x40000000. -/
def xreq : XlatReq := ⟨.engine ⟨0, 0⟩ 6, 0, 0x40000, false, false⟩
def xuse : Option Nat × CtxRef × Nat := (none, ⟨⟨0, 0⟩, .load⟩, 0)
def asked : State := storing.updHomes fun h => { h with ats := [xreq, { xreq with skip := true }], pri := [xreq], invals := [⟨0, 0, 12, [xuse]⟩, ⟨0, 0, 12, []⟩] }
/-- L waits for the page. -/
def pageWaiting : State := asked.updMe fun c => { c with status := .waiting (.translation 0x40000 false) }

theorem witness_TranslationMessages : asked.lookupXlat xreq.user xreq.pasid (xreq.page * 4096) false = .paging ∧
    asked.homes.invals[0]? = some ⟨0, 0, 12, [xuse]⟩ ∧ asked.homes.invals[1]? = some ⟨0, 0, 12, []⟩ ∧ asked.inUse xuse = true ∧
    asked.awaits xreq = false ∧ pageWaiting.awaits xreq = true ∧
    nx (exec (.atsCompletion 0 false 12 0 false) (asked.updHomes fun h => { h with pri := List.replicate 512 xreq })) (fun t => t.homes.ats.length == 2) = true ∧
    nx (exec (.atsCompletion 1 false 12 0 false) asked) (fun t => t.homes.ats == [xreq] && t.homes.pri == [xreq]) = true ∧
    nx (exec (.atsCompletion 0 true 12 0x5000 false) asked) (fun t => t.lookupXlat xreq.user 0 0x40000000 false == .hit 0x5000) = true ∧
    nx (exec (.atsCompletion 0 true 30 0x40000000 false) asked) (fun t => t.lookupXlat xreq.user 0 0x40000FFF false == .hit 0x40000FFF) = true ∧
    nx (exec (.atsCompletion 0 false 12 0 false) asked) (fun t => t.homes.pri == [xreq, xreq]) = true ∧
    nx (exec (.pageRequestResponse 0 true 0) asked) (fun t => t.homes.pri == [] && t.homes.refused == []) = true ∧
    nx (exec (.pageRequestResponse 0 false 0) asked) (fun t => t.homes.refused == []) = true ∧
    nx (exec (.pageRequestResponse 0 false 0) pageWaiting) (fun t => t.homes.refused == [xreq]) = true ∧
    nx (exec (.atsInvalidation 0 0x1000 12) asked) (fun t => t.homes.invals.length == 3 && t.allXlats == []) = true ∧
    nx (exec (.atsInvalidationDone 0) asked) (fun t => t.homes.invals.length == 2) = true ∧ asked.homes.invals.length < 32 ∧
    nx (exec (.atsInvalidationDone 1) asked) (fun t => t.homes.invals.length == 1) = true := by decide +kernel

/-- L's oldest access is a SPAWN of stage 0, with a join counter at 0x2000 or with none. -/
def spawning (j : Bool) : State := base.updMe fun c => { c with out := [⟨3, 4, .spawn { placedRecord with j := j, joinAddr := 0x2000 } 4 0, 0, 0, [], none, none⟩] }

/-- L holds loads of four words at 0x1000: a shape record's, a command word's, or those of a PPU segment. -/
def fourWords (d : LoadDest) : HeldLoad := ⟨1, d, 1, (List.range 4).map fun j => ⟨0x1000 + 8 * j, 0x1000 + 8 * j, 8, none⟩, none, 0, [0], none⟩
def quad (d : LoadDest) (v : Nat) : State :=
  (base.updDie 0 fun x => { x with cache := [(32, .m (BitVec.ofNat 1024 v) [])] }).updMe fun c => { c with seq := 2, status := .held (fourWords d) }

theorem witness_CommandLoadsReturn : Returns (quad (.k 5) 7) base.cur (fourWords (.k 5)) ∧ Returns (quad (.h 3) shape0.toNat) base.cur (fourWords (.h 3)) ∧
    Returns (quad (.ppu 1) 7) base.cur (fourWords (.ppu 1)) ∧ shapeOk (quad (.h 3) 0) shape0 = true ∧ shapeOk (quad (.h 3) 0) 0 = false ∧
    nx (exec (.loadValueReturn base.cur) (quad (.k 5) (2 ^ 64 + 7))) (fun t => t.me.k[5] == BitVec.ofNat 256 (2 ^ 64 + 7) && t.me.status == .running) = true ∧
    nx (exec (.loadValueReturn base.cur) (quad (.h 3) shape0.toNat)) (fun t => t.myCore.h[3] == shape0) = true ∧
    nx (exec (.loadValueReturn base.cur) (quad (.h 3) 0)) (fun t => ((t.pipe? 0).map fun p => p.faults.map FaultRec.code) == some [0x04]) = true ∧
    nx (exec (.loadValueReturn base.cur) (quad (.ppu 1) (9 * 2 ^ 32 + 7))) (fun t => (t.myCore.vf.ppu.map fun g => (g.bp, g.c0)) == [(7, 9)] && t.myCore.vf.ppuN == 1) = true := by
  decide +kernel

/-- The image of a SPAWN, 16 words at 0x1000, of a task of stage 0 with a join counter at an address and no future. -/
def imageLoad : HeldLoad := ⟨1, .spawn 4 0, 1, (List.range 16).map fun j => ⟨0x1000 + 8 * j, 0x1000 + 8 * j, 8, none⟩, none, 0, [0], none⟩
def imaged (join head : Nat) : State := ((base.updPipe 0 fun p => { p with record := { p.record with stages := [{ placedStage with spawn := 1 }] } }).updDie 0 fun x =>
  { x with cache := [(32, .m (BitVec.ofNat 1024 (head + join * 2 ^ 768)) [])] }).updMe fun c => { c with seq := 2, status := .held imageLoad }
def imageVals (join head : Nat) : List Word := imageLoad.words.map ((imaged join head).wordValue base.cur)

theorem witness_SpawnImageReturns : Returns (imaged 0x2000 0x10000) base.cur imageLoad ∧ recClean (imageVals 0x2000 0x10000) = true ∧
    spawnStageOk (imaged 0x2000 0x10000) (recOf (imageVals 0x2000 0x10000)) = true ∧ (recOf (imageVals 0x2000 0x10000)).j = true ∧
    spawnAddr (imaged 0x2000 0x10000) true 0x2000 = .ok 0x2000 ∧ spawnAddr (imaged 0x2000 0x10000) false 0 = .ok 0 ∧
    ((imaged 0x2000 0x10000).pinAll [pageOf 0x2000]).isSome = true ∧ recClean (imageVals 0x2000 0x10010) = false ∧
    (recOf (imageVals 0x2001 0x10000)).joinAddr = 0x2001 ∧ (recOf (imageVals 0x2000 0x20000)).f = true ∧
    nx (exec (.loadValueReturn base.cur) (imaged 0x2000 0x10000)) (fun t => t.me.out.length == 1 && t.me.pc == 4) = true ∧
    nx (exec (.loadValueReturn base.cur) (imaged 0x2001 0x10000)) (fun t => ((t.pipe? 0).map fun p => p.faults.map FaultRec.code) == some [0x02]) = true ∧
    nx (exec (.loadValueReturn base.cur) (imaged 0x2000 0x10010)) (fun t => ((t.pipe? 0).map fun p => p.faults.map FaultRec.code) == some [0x0C]) = true := by decide +kernel

theorem witness_ChildrenAreQueued : (spawning true).drainedBefore base.cur 4 3 = true ∧ (spawning true).myCore.kids.length < 64 ∧
    ((spawning true).pipe? 0).map Pipe.modes = some [.open_] ∧ StageMode.open_ ≠ .stopped ∧ ((spawning true).die 0).writing 0x2000 = false ∧
    (spawning true).reachable ((spawning true).homes.slice 0x2000).pkg = true ∧ (spawning true).routed 0 (pageOf 0x2000) = true ∧
    (spawning true).writeClear (lineOf 0x2000) = true ∧ (spawning true).homes.noKey (pageOf 0x2000) = false ∧
    nx (exec (.spawnEnqueue base.cur) (spawning true)) (fun t => t.myCore.kids.length == 1 && t.cohN 0x2000 8 == 1 && t.me.out == []) = true ∧
    nx (exec (.spawnEnqueue base.cur) (spawning false)) (fun t => t.myCore.kids.length == 1 && t.cohN 0x2000 8 == 0) = true := by decide +kernel

/-! ## The life of tasks and pipelines -/

/-- The pipeline is there but no task runs; its member is free. -/
def idle0 : State := (base.updCore ⟨0, 0⟩ fun c => { c.updCtxs (fun x => { x with status := .stopped }) with task := none }).updHomes fun h => { h with
  feXlat := [placedXlat] }

/-- A pending seed record with an event to wait for and arguments, for a stage that claims one slot of ring 3 and produces one of ring 4. -/
def seedRec : TaskRec := { placedRecord with args := Vector.replicate 8 6, waitEv := 2 }
def seedStage : StageDecl := ⟨0x400, 0, 0, 0, 1, 1, 1, 0, 1, [(3, 1)], [(4, 1)]⟩
def seeded : State :=
  let s := idle0.updCore ⟨0, 0⟩ fun c => { c with vf := { c.vf with lfsr := 9, vtype := 1 }, rings := (c.rings.set 3 ⟨ring4 4096, 0, 0, 1, 1, 1⟩).set 4 (RingInst.define (ring4 8192)) }
  s.updPipe 0 fun p => { p with events := 2, seedRecs := [(0, 0, seedRec)], record := { placedOp with stages := [seedStage], rings := List.replicate 5 (ring4 8192, 0) } }

theorem witness_TaskStarts : ((seeded.pipe? 0).map fun q => (q.id, q.isStopped 0, q.ended, q.pre)) = some (0, false, false, .none) ∧
    ((seeded.pipe? 0).map fun q => (q.record.stages[0]?, q.seeds, q.replays)) = some (some seedStage, [], []) := by decide +kernel

theorem witness_TaskStarts_first : ((seeded.pipe? 0).map fun q => q.tmplDue) = some [] ∧ ((seeded.pipe? 0).map fun q => seeded.lowerStarts q 0) = some false ∧
    ((seeded.pipe? 0).map fun q => seeded.kidsOf q 0) = some [] ∧
    ((seeded.pipe? 0).map fun q => q.seedRecs.filter fun x => x.1 == 0) = some [(0, 0, seedRec)] ∧
    ((seeded.pipe? 0).map fun q => seedRec.waitEv &&& ~~~q.events) = some 0 ∧
    ((seeded.pipe? 0).bind fun q => seeded.startMember q seedStage 0 none) = some ⟨0, 0⟩ ∧
    (((seeded.pipe? 0).bind fun q => (reserveOuts q [] seeded seedStage.outs).map Prod.snd)) = some [⟨4, ⟨0, 0⟩, [⟨0, false, false⟩]⟩] := by decide +kernel

theorem test_task_start : nx (exec (.taskStart 0 0) seeded) (fun t => let c := t.core ⟨0, 0⟩
    c.l.pc == 0x400 && c.c.pc == 0x404 && c.s.pc == 0x408 && c.l.rd 8 == 6 && c.c.rd 9 == 0 && c.vf.lfsr == 1 && c.vf.vtype == 0 && (c.ring 3).claim == 1 &&
    (c.ring 4).resv == 1 && (c.task.map Task.claims) == some [(3, 1)]) = true := by decide +kernel

/-- A task that retires, joining at 0x2000 and filling the cell at 0x3000 where asked. -/
def retiring (j f : Bool) : State := base.updCore ⟨0, 0⟩ fun c => { c.updCtxs (fun x => { x with status := .parked }) with
  task := some { placedTask with phase := .retiring, x1AtExit := 77, record := { placedRecord with j := j, f := f, joinAddr := 0x2000, futRef := 0x3000, sigEv := 4 } } }

/-- The same, with the FUTREF cell full. -/
def fullCell : State := (retiring true true).fillCell 0x3000 5

theorem witness_TaskRetires : (∀ e : Fin 6, ((retiring true true).core ⟨0, 0⟩).eng[e] = []) ∧ ((retiring true true).core ⟨0, 0⟩).task.bind Task.unpopped = none ∧
    (retiring true true).coreReleased ⟨0, 0⟩ = true ∧
    ((retiring true true).dlaOk 0x2000 = true ∧ (retiring true true).retireRouted ⟨0, 0⟩ 0x2000 = true ∧ (retiring true true).writeClear (lineOf 0x2000) = true ∧
      (retiring true true).homes.noKey (pageOf 0x2000) = false) ∧ (retiring true true).dlaOk 0x3000 = true ∧ (retiring true true).retireRouted ⟨0, 0⟩ 0x3000 = true ∧
    (retiring true true).writeClear (lineOf 0x3000) = true ∧ (retiring true true).homes.tagFull 0x3000 = false ∧
    nx (exec (.taskRetire ⟨0, 0⟩) (retiring false false)) (fun t => (t.core ⟨0, 0⟩).task == none && ((t.pipe? 0).map fun p => (p.retired, p.events)) == some (1, 4)) = true ∧
    nx (exec (.taskRetire ⟨0, 0⟩) (retiring true true)) (fun t => t.cohN 0x2000 8 == 2 ^ 64 - 1 && t.cohN 0x3000 8 == 77 && t.homes.tagFull 0x3000) = true ∧
    (fullCell.homes.tagFull 0x3000 = true ∧ placedTask.gangSize = 1) ∧
    nx (exec (.taskRetire ⟨0, 0⟩) fullCell) (fun t => t.cohN 0x2000 8 == 2 ^ 64 - 1 && ((t.pipe? 0).map fun p => (p.faults.map FaultRec.code, p.retired, p.faulted)) == some ([0x0D], 0, 1)) = true ∧
    nx (exec (.taskRetire ⟨0, 0⟩) (retiring true false)) (fun t => t.cohN 0x2000 8 == 2 ^ 64 - 1) = true ∧
    nx (exec (.taskRetire ⟨0, 0⟩) (retiring false true)) (fun t => t.cohN 0x3000 8 == 77 && t.homes.tagFull 0x3000) = true := by decide +kernel

theorem witness_TaskRetires_quiet : ∀ n, (retiring true true).commitCovered ⟨⟨0, 0⟩, n⟩ allCls = retiring true true := by
  intro n; cases n <;> decide +kernel

/-- A squash that finishes, with a claim that goes back and a parked record that waits for it. -/
def squashing : State :=
  let s := base.updCore ⟨0, 0⟩ fun c => { c with vf := { c.vf with lfsr := 5 }, rings := c.rings.set 3 ⟨ring4 4096, 0, 1, 1, 1, 1⟩
                                                 task := some { placedTask with phase := .squashing, claims := [(3, 1)], lfsr0 := 9 } }
  s.updHomes fun h => { h with parked := [⟨0x1008, 0, placedRecord, [], 1, some ⟨0, 0⟩, 0, false⟩] }

theorem witness_TaskSquashes : ((squashing.core ⟨0, 0⟩).task.map Task.phase) = some .squashing ∧ ((squashing.pipe? 0).map Pipe.mark) = some none ∧
    nx (exec (.taskSquash ⟨0, 0⟩) squashing) (fun t => ((t.core ⟨0, 0⟩).ring 3).claim == 0 && (t.core ⟨0, 0⟩).vf.lfsr == 9 &&
      (t.homes.parked.map Parked.squash) == [none] && (t.core ⟨0, 0⟩).task == none) = true := by decide +kernel

/-- A record of a fault waits, with a fault ring of four slots at 0x5000, full or not, or with none. -/
def faultRec : FaultRec := ⟨0x12, 0, 0, none, 0, 0, 0, false, 0, 0x400, 9, 0, 0⟩
def faulting (lg : Option Nat) (n : Nat) : State := idle0.updPipe 0 fun p => { p with faults := [faultRec], written := n, record := { placedOp with fring := 0x5000, fringLog := lg } }

theorem witness_FaultRecordsAreWritten : (faulting (some 2) 1).feXlat 0 0x5000 true = .ok 0x5000 ∧ (faulting (some 2) 1).feXlat 0 (0x5000 + 0x40 + 64 * 1) true = .ok 0x5080 ∧
    (faulting (some 2) 1).writeClear (lineOf 0x5000) = true ∧ (faulting (some 2) 1).writeClear (lineOf 0x5080) = true ∧ (faulting (some 2) 4).writeClear (lineOf 0x5000) = true ∧ idle0.homes.noKey (pageOf 0x5000) = false ∧
    (0x5080 + 64 ≤ 0x5000 + 8 ∨ 0x5000 + 16 ≤ 0x5080) ∧ 1 < 2 ^ 2 ∧ 2 ^ 2 ≤ 4 ∧
    nx (exec (.faultRecord 0) (faulting (some 2) 1)) (fun t => t.cohN 0x5008 8 == 2 && t.cohN 0x5080 8 == 0x12 * 2 ^ 56 && t.cohN 0x5090 8 == 9) = true ∧
    nx (exec (.faultRecord 0) (faulting (some 2) 4)) (fun t => t.cohN 0x5010 8 == 1 && ((t.pipe? 0).map Pipe.dropped) == some 1) = true ∧
    nx (exec (.faultRecord 0) (faulting none 0)) (fun t => ((t.pipe? 0).map Pipe.faults) == some []) = true := by decide +kernel

/-- The running task waits in JOIN for its child, whose stage has no free member. -/
def joining : State :=
  let s := base.updCore ⟨0, 0⟩ fun c => { c.updCtxs (fun x => { x with status := .parked }) with
    l := { c.l with status := .waiting (.join 0x2000 0x2000) }, kids := [⟨0, placedRecord, 0, 0, ⟨⟨0, 0⟩, .load⟩, ⟨1, 4, 0⟩, false⟩] }
  s.homeWrite 0x2000 8 1

/-- The running task waits in EVWAIT in a shutdown. -/
def evwaiting : State := (base.updCore ⟨0, 0⟩ fun c => { c.updCtxs (fun x => { x with status := .parked }) with l := { c.l with status := .waiting (.evwait 3) } }).updPipe 0
  fun p => { p with shut := some 4, modes := [.stopped] }

theorem witness_BlockedPipelinesEnd : joining.runningCores 0 = [⟨0, 0⟩] ∧ joining.blockedTask false ⟨0, 0⟩ = true ∧
    ((joining.pipe? 0).bind fun q => joining.tryStart q 0 (some 0) placedRecord .child 0 1 [] none) = none ∧
    evwaiting.runningCores 0 = [⟨0, 0⟩] ∧ evwaiting.blockedTask true ⟨0, 0⟩ = true ∧ ((evwaiting.pipe? 0).map evwaiting.canStart) = some false ∧
    nx (exec (.joinDeadlock 0) joining) (fun t => ((t.pipe? 0).map fun p => (p.faults.map FaultRec.code, p.shut)) == some ([0x10], some 3)) = true ∧
    nx (exec (.shutdownFault 0) evwaiting) (fun t => ((t.pipe? 0).map fun p => (p.faults.map FaultRec.code, p.shut)) == some ([0x11], some 4)) = true := by decide +kernel

/-- A shutdown with no task left but a parked one. -/
def shutting : State := (idle0.updPipe 0 fun p => { p with shut := some 1, modes := [.stopped] }).updHomes fun h => { h with parked := [⟨0x1008, 0, placedRecord, [], 1, none, 0, false⟩] }

theorem witness_ShutdownCompletes : shutting.runningCores 0 = [] ∧ ((shutting.pipe? 0).map shutting.canStart) = some false ∧
    nx (exec (.shutdownComplete 0) shutting) (fun t => ((t.pipe? 0).map fun p => (p.ended, p.discarded)) == some (true, 1) && t.homes.parked == [] &&
      ((t.die 0).leases.map Lease.returning) == [true]) = true := by decide +kernel

/-- Stages 0 and 1 of two members and one; stage 1 has a seed record, stage 0 nothing to do; both free, or the members of stage 0 running. -/
def reeling (pin busy : Bool) : State :=
  let st : StageDecl := placedStage
  let s := idle0.updDie 0 fun d => { d with leases := [⟨0, 0, .frag 0 1, none, none, false, false⟩, ⟨0, 0, .frag 1 1, none, none, false, false⟩, ⟨0, 1, .frag 2 1, none, none, false, false⟩] }
  let k : Core → Core := fun c => { c with task := some placedTask }
  let s := if busy then (s.updCore ⟨0, 0⟩ k).updCore ⟨0, 1⟩ k else s
  s.updPipe 0 fun p => { p with
    record := { placedOp with stages := [st, st], reel0 := BitVec.ofNat 64 (2 ^ 63 + (if pin then 2 ^ 32 else 0) + 128 * 2 ^ 24 + 64 * 2 ^ 16 + 4) }
    pool := [⟨0, ⟨0, 0⟩, 0, 0⟩, ⟨0, ⟨0, 1⟩, 1, 1⟩, ⟨1, ⟨0, 2⟩, 0, 2⟩], modes := [.open_, .open_], seedRecs := [(1, 0, { placedRecord with stage := 1 })] }

/-- What a sample sees. -/
def sampled (s : State) : Option (Option (Nat × Nat) × Option Member) := (s.pipe? 0).map fun q =>
  let q1 := { q with sampleAt := q.sampleAt + reelTicks q, mark := none, pool := q.pool.map fun x => { x with moved := x.moved - 1 } }
  let s1 := (s.at_ q1.sampleAt).updPipe 0 fun _ => q1
  (s1.reelPair q1, s1.sampleGift q1 0)

theorem witness_ReelSamples : sampled (reeling false false) = some (some (0, 1), some ⟨0, ⟨0, 1⟩, 0, 1⟩) ∧ sampled (reeling false true) = some (some (0, 1), none) ∧
    (sampled (reeling true false)).map Prod.fst = some none ∧ (((reeling false false).pipe? 0).map fun q => (reelEn q, q.ended, q.shut)) = some (true, false, none) ∧
    nx (exec (.reelSample 0) (reeling false false)) (fun t => ((t.pipe? 0).map fun p => p.pool.map fun m => (m.stage, m.moved)) == some [(0, 0), (1, 2), (1, 0)] &&
      ((t.die 0).leases.map Lease.stage) == [0, 1, 1]) = true ∧
    nx (exec (.reelSample 0) (reeling false true)) (fun t => ((t.pipe? 0).map Pipe.mark) == some (some (0, 1))) = true := by decide +kernel

/-- A chain of two operators, at its first. -/
def chain1 : Chain := ⟨5, 0, 0, 0, 7, 3, 0xABCD, 2, true, 0, 0x8000, [placedOp], 0, none, none, 0, 0, 0, false, none, none⟩

/-- No MSI-X vector is masked. -/
def unmasked (s : State) : State := { s with mgmt := { s.mgmt with msix := (List.range 8).map fun v => (16 * v + 12, 0) } }
def chaining : State := (unmasked State.reset).updFe fun e => { e with chains := [chain1], nextId := 6, queues := [{ (State.reset.queue 0) with en := true, pkts := [] }] }
def withChain (c : Chain) (s : State) : State := s.updFe fun e => { e with chains := [c] }

theorem witness_OperatorsExpand : chaining.chain? 5 = some chain1 ∧ chaining.expand chain1 0 = .ok placedOp ∧ chain1.ending = none ∧ chaining.readRing chain1.pasid placedOp = .ok none ∧ (∀ d ∈ placedOp.stages, d.tmpl = 0) ∧
    chaining.liveSites placedOp.sites = [0] ∧ (withChain { chain1 with active := some 2 } chaining).expand { chain1 with active := some 2 } 1 =
      .ok placedOp ∧
    nx (exec (.expansionStep 5) chaining) (fun t => ((t.pipe? 6).map Pipe.vdtab) == some 0x80 && (t.fe.reqs.map fun q => (q.stage, q.cls, q.count)) == [(0, 1, 1)]) = true ∧
    nx (exec (.expansionStep 5) (withChain { chain1 with active := some 2 } chaining)) (fun t => ((t.chain? 5).map Chain.shadow) == some (some (.ok placedOp))) = true := by
  decide +kernel

/-- The record at the chain's address is zeros: no die is named, and it is rejected. -/
def rejecting : State := withChain { chain1 with ops := [], cmp := 0 } (chaining.updHomes fun h => { h with feXlat := [placedXlat] })

theorem witness_OperatorsExpand_rejected : (rejecting.expand { chain1 with ops := [], cmp := 0 } 0 matches .rejected _) = true ∧
    nx (exec (.expansionStep 5) rejecting) (fun t => t.chain? 5 == none && (t.fe.queues.map fun q => (q.stop, q.err)) == [(true, 7)]) = true := by decide +kernel

/-- An ended pipeline whose member has returned, of a chain at its last operator, with a completion address or none. -/
def ending (cmp : Word) : State :=
  let s := ((unmasked idle0).updPipe 0 fun p => { p with ended := true, chain := 5, retired := 4, faulted := 3, coreRep := [⟨0, 0⟩], dieRep := [0] }).updDie 0 fun d => { d with leases := [] }
  withChain { chain1 with opIdx := 1, cmp := cmp, active := some 0, ops := [] } s

theorem witness_CompletionReports : ((ending 0).pipe? 0).any (fun q => q.held ⟨0, 0⟩ && (ending 0).coreDone q ⟨0, 0⟩ && (ending 0).dieDone q 0 && q.faults.isEmpty) = true ∧
    (ending 0x8000).chainWrites ((((ending 0x8000).fe.chains).head?).getD chain1) = false ∧ (ending 0x8000).mgmt.masked 3 = false ∧
    (ending 0x8000).feXlat 0 0x8000 true = .ok 0x8000 ∧ (ending 0x8000).writeClear (lineOf 0x8000) = true ∧ (ending 0x8000).homes.noKey (pageOf 0x8000) = false ∧
    nx (exec (.completionReport 0 (.core ⟨0, 0⟩)) (ending 0)) (fun t => ((t.pipe? 0).map Pipe.coreRep) == some [⟨0, 0⟩]) = true ∧
    nx (exec (.completionReport 0 .package) (ending 0)) (fun t => t.fe.irqs == [3] && t.fe.chains == []) = true ∧
    nx (exec (.completionReport 0 .package) (ending 0x8000)) (fun t => t.cohN 0x8000 8 == 0xABCD * 2 ^ 32 + 2 ^ 16 && t.cohN 0x8008 8 == 4 && t.cohN 0x8010 8 == 3 * 2 ^ 32) = true := by
  decide +kernel

/-! ## Leases -/

/-- A request for a fragment of class 1 (one strip) or 2, on a die that no one holds; strip 0 and core 0 were another's. -/
def req (cls count : Nat) : SettReq := ⟨0, 0, cls, count, 7, 0, 0, [], 0⟩
def asksFor (cls count : Nat) : State :=
  let s := (State.reset.updFe fun e => { e with pipes := [{ placedPipe with pool := [], key := 2 }], reqs := [req cls count] }).updDie 0 fun d => { d with
    stripOwner := d.stripOwner.set 0 (some 3), coreOwner := d.coreOwner.set 1 (some 2) }
  (s.setRow ⟨0, 0⟩ 3000 7).setRow ⟨0, 0⟩ 5 9

theorem witness_GrantsAreWhole : (asksFor 1 3).reqOrder = [req 1 3] ∧ (asksFor 1 3).fragPicks (req 1 3) = [(0, 0), (0, 1), (0, 2)] ∧ (req 1 3).cls ≠ 0 ∧
    nx (exec .settGrant (asksFor 1 3)) (fun t => t.fe.reqs == [] && ((t.pipe? 0).map fun p => p.pool.map Member.at_) == some [⟨0, 0⟩, ⟨0, 1⟩, ⟨0, 2⟩] &&
      ((t.die 0).leases.map Lease.kind) == [.frag 0 1, .frag 1 1, .frag 2 1]) = true := by decide +kernel

/-- Two cores of class none: a stage without inputs takes cores of Free strips in descending order. -/
theorem witness_GrantsAreWhole_bare : (asksFor 0 2).reqOrder = [req 0 2] ∧ 2 ≤ ((asksFor 0 2).barePool (req 0 2) ((asksFor 0 2).reqSites (req 0 2))).length ∧
    nx (exec .settGrant (asksFor 0 2)) (fun t => t.fe.reqs == [] && ((t.die 0).leases.map Lease.kind) == [.bare 7 true, .bare 6 true]) = true := by decide +kernel

theorem witness_GrantsZeroStrangers : (asksFor 2 1).reqOrder = [req 2 1] ∧ (asksFor 2 1).fragPicks (req 2 1) = [(0, 0)] ∧
    nx (exec .settGrant (asksFor 2 1)) (fun t => (t.core ⟨0, 0⟩).row 3000 == 0 && (t.core ⟨0, 0⟩).row 5 == 0 && (t.die 0).strips[0] == .zeroing (2048 * 160) &&
      (t.die 0).stripOwner[1] == some 2 && (t.die 0).strips[2] == .free) = true := by decide +kernel

/-- Two leases are zeroed, at different ticks. -/
def zeroing : State := base.updDie 0 fun d => { d with
  leases := [⟨0, 0, .frag 0 1, some 500, none, false, false⟩, ⟨0, 0, .frag 1 1, some 900, none, false, false⟩]
  strips := (d.strips.set 0 (.zeroing 500)).set 1 (.zeroing 900) }

theorem witness_ZeroingEnds : (zeroing.die 0).zeroEnd = some 500 ∧ nx (exec (.zeroingDone 0) zeroing) (fun t => t.now == 500 && (t.die 0).strips[0] == .leased &&
    (t.die 0).strips[1] == .zeroing 900 && ((t.die 0).leases.map Lease.zeroUntil) == [none, some 900]) = true := by decide +kernel

/-- A request for all eight strips of the die, of which one is leased. -/
def waiting : State := ((asksFor 1 8).updDie 0 fun d => { d with strips := d.strips.set 3 .leased })

theorem witness_RequestsReserveDies : waiting.considered (req 1 8) = true ∧
    nx (exec (.settReserve 0) waiting) (fun t => (t.fe.reqs.map SettReq.reserved) == [[0]] && t.now == 64 * 336000) = true := by decide +kernel

/-- A lease of strip 0 returns; its half A is dirty or not, or a scrub of it runs. -/
def returning (dirty : Bool) (scrub : Option Nat) : State :=
  let s := idle0.updDie 0 fun d => { d with leases := [⟨0, 0, .frag 0 1, none, scrub, true, false⟩], strips := d.strips.set 0 .returning }
  s.updSt ⟨0, 0⟩ fun t => { t.setBank false 0 5 with dirtyA := dirty }

/-- The lease whose zeroing ends first returns already. -/
theorem witness_ZeroingEnds_returns : let s := zeroing.updDie 0 fun d => { d with leases := mapIf (fun l => l.zeroUntil == some 500) (fun l => { l with returning := true }) d.leases }
    (s.die 0).zeroEnd = some 500 ∧ nx (exec (.zeroingDone 0) s) (fun t => (t.die 0).strips[0] == .returning && (t.die 0).strips[1] == .zeroing 900) = true := by
  decide +kernel

theorem witness_LeasesReturn : (returning true none).returningAt ⟨0, 0⟩ = some ⟨0, 0, .frag 0 1, none, none, true, false⟩ ∧ ((returning true none).core ⟨0, 0⟩).quiet = true ∧
    (returning false none).drainedFrag 0 ⟨0, 0, .frag 0 1, none, none, true, false⟩ = true ∧
    (returning true none).drainedFrag 0 ⟨0, 0, .frag 0 1, none, none, true, false⟩ = false ∧
    ((returning true (some 700)).die 0).leases.find? (fun x => x.kind.lead == 0 && x.scrubUntil.isSome) = some ⟨0, 0, .frag 0 1, none, some 700, true, false⟩ ∧
    nx (exec (.leaseReturn ⟨0, 0⟩) (returning false none)) (fun t => (t.die 0).leases == [] && (t.die 0).strips[0] == .free) = true ∧
    nx (exec (.leaseReturn ⟨0, 0⟩) (returning true none)) (fun t => ((t.die 0).leases.map Lease.scrubUntil) == [some (128 * 160)] && ((t.pipe? 0).map Pipe.ud) == some true) = true ∧
    nx (exec (.scrubDone ⟨0, 0⟩) (returning true (some 700))) (fun t => t.now == 700 && (t.die 0).strips[0] == .free && (t.core ⟨0, 0⟩).st.bankA == []) = true := by decide +kernel

/-! ## Pre-emption and time slices -/

/-- The pipeline stops, and its one task has. -/
def stopping : State := (regs [(5, 6)] base).updMyCore (fun c => { c.updCtxs (fun x => { x with status := .stopped }) with
  task := some { placedTask with phase := .stopped }, vf := { c.vf with lfsr := 77 } }) |>.updPipe 0 fun p => { p with pre := .stopping }

theorem witness_PreemptionSaves : (stopping.core ⟨0, 0⟩).task.map Task.phase = some .stopped ∧ stopping.savable ⟨0, 0⟩ = true ∧ stopping.fab.sliceNo = none ∧
    (∀ i : Fin 6, ∀ c : Fin 8, ((stopping.core ⟨i, c⟩).task.map Task.phase) ≠ some .running) ∧
    stopping.zeroedAll 0 = true ∧ stopping.xlatSave 0 placedPipe.record.savePages = .ok [] ∧ stopping.fab.rwbuf = [] ∧
    nx (exec (.preemptionComplete 0) stopping) (fun t => ((t.pipe? 0).map fun p => (p.pre, p.pool, p.saved.map fun v => (v.stage, v.lead.vf.lfsr))) == some (.stopped, [], [(0, 77)]) &&
      (t.core ⟨0, 0⟩).task == none) = true := by decide +kernel

/-- The pipeline's save area is one page, which translates. -/
def stoppingSave : State := (stopping.updPipe 0 fun p => { p with record := { p.record with save := 0x7000, saveSz := 4096 } }).updHomes fun h =>
  { h.put 0x7008 8 5 with feXlat := [⟨placedPipe.pasid, 0, 30, 0, true⟩] }

/-- The bytes of the save area are no longer what they were, and those beyond it are. -/
theorem test_save_area : nx (exec (.preemptionComplete 0) (stoppingSave.updHomes fun h => h.put 0x8000 8 9)) (fun t =>
    ((t.pipe? 0).map fun p => p.pre) == some .stopped && t.homes.mem.reassigned == [(7, 0)] && !(t.homes.mem.cells.any fun c => c.1 == 0x7008) &&
    t.homes.byte 0x8000 == 9) = true := by decide +kernel

/-- The pipeline resumes on core 3, granted and zeroed. -/
def resuming : State :=
  match exec (.preemptionComplete 0) stopping with
  | .next t => (t.updPipe 0 fun p => { p with pre := .resuming, pool := [⟨0, ⟨0, 3⟩, 0, 3⟩] }).updDie 0 fun d => { d with
      leases := [⟨0, 0, .frag 3 1, none, none, false, false⟩] }
  | _ => stopping

theorem witness_ResumptionRestores : ((resuming.pipe? 0).map fun q => (q.pre, resuming.slicedOut q, (matchMembers q.pool q.saved).map Prod.snd)) = some (.resuming, false, [⟨0, 3⟩]) ∧
    resuming.fe.reqs = [] ∧ resuming.fab.rwbuf = [] ∧
    nx (exec (.resumption 0) resuming) (fun t => let c := t.core ⟨0, 3⟩
      (c.task.map Task.phase) == some .running && c.vf.lfsr == 77 && c.l.rd 5 == 6 && c.l.status == .running && ((t.pipe? 0).map Pipe.pre) == some .none) = true := by decide +kernel

/-- Slices of key 0 and key 9 (N = 2); the pipeline's key is 0, and slice 0 runs. -/
def slicing : State := { base with fab := { base.fab with sliceEn := true, sliceN := 1, slKeys := 0x0900, sliceNo := some 0 } }

theorem witness_SliceBoundaries : slicing.sliced placedPipe = true ∧ byteOf slicing.fab.slKeys (1 % (1 + 1)) ≠ placedPipe.key ∧ slicing.fe.pipes = [placedPipe] ∧
    nx (exec .sliceBoundary slicing) (fun t => t.fab.sliceNo == some 1 && ((t.pipe? 0).map Pipe.pre) == some .stopping) = true := by decide +kernel

/-- The pipeline's handle is 0x77; it runs, with its region open or closed, or it has stopped with one saved member. -/
def handled (closed : Bool) : State := ({ base with mgmt := { base.mgmt with mode := 1 } }.updPipe 0 fun p => { p with handle := 0x77 }).updMyCore fun c => { c with
  closed := closed, l := { c.l with pc := 64, entry := 16 } }
def stoppedPipe : State := match exec (.preemptionComplete 0) stopping with
  | .next t => { t with mgmt := { t.mgmt with mode := 1 } }.updPipe 0 fun p => { p with handle := 0x77 }
  | _ => stopping

theorem witness_PreemptAndResume : (handled true).regsOpen = true ∧ ((handled true).ofHandle 0x77).map Pipe.id = some 0 ∧ (stoppedPipe.ofHandle 0x77).map Pipe.pre = some .stopped ∧
    nx (exec (.preempt 0x77) (handled false)) (fun t => ((t.core ⟨0, 0⟩).task.map Task.phase) == some .stopped && (t.core ⟨0, 0⟩).l.pc == 16) = true ∧
    nx (exec (.preempt 0x77) ((handled false).updCore ⟨0, 0⟩ fun c => { c.updCtxs (fun x => { x with inputs := 4, x := (x.x.set 3 8).set 4 9, k := x.k.set 2 7 }) with
        vf := { c.vf with v := c.vf.v.set 5 6 }, h := c.h.set 1 6 })) (fun t => let c := t.core ⟨0, 0⟩
      c.l.x[3] == 8 && c.l.x[4] == 0 && c.l.k[2] == 0 && c.vf.v[5] == 0 && c.h[1] == 0) = true ∧
    nx (exec (.preempt 0x77) (handled true)) (fun t => ((t.core ⟨0, 0⟩).task.map Task.phase) == some .stopping && (t.core ⟨0, 0⟩).l.pc == 64) = true ∧
    nx (exec (.resume 0x77) stoppedPipe) (fun t => ((t.pipe? 0).map Pipe.pre) == some .resuming && (t.fe.reqs.map fun q => (q.stage, q.count)) == [(0, 1)]) = true := by decide +kernel

/-! ## Migrations, stubs and power gating -/

/-- Page 1 migrates from slice 1 to slice 5, in a phase, pinned or not. -/
def migrating (ph : MigPhase) (pin : Nat) : State := (base.updHomes fun h => { h with
  migs := [⟨1, ⟨0, 5⟩, ⟨0, 1⟩, 0, [], ph, none, none, true⟩], recs := [⟨1, 0, ⟨0, 1⟩, 1⟩], pins := if pin = 0 then [] else [(1, pin)] }).updDie 2 fun d => { d with
  cache := if ph = .switching then [] else [(512, .s)] }

theorem witness_MigrationsProceed : ((migrating .copying 0).homes.migOf 1).map Migration.phase = some .copying ∧ getKey 0 1 (migrating (.pinWait 9) 0).homes.pins = 0 ∧
    getKey 0 1 (migrating (.pinWait 9) 2).homes.pins ≠ 0 ∧ base.homes.migOf 1 = none ∧ (⟨0, 5⟩ : Home) ≠ base.homes.curHome 1 ∧ base.reachable 0 = true ∧
    (migrating (.pinWait 9) 0).homes.pageNoted 1 = false ∧ base.homes.noKey 1 = false ∧ base.homes.stackFull ⟨0, 5⟩ = false ∧ base.homes.stubsDue (base.homes.curHome 1) < 8 ∧
    nx (exec (.migrationCopyDone 1) (migrating .copying 0)) (fun t => (t.homes.migs.map Migration.phase) == [.pinWait 0]) = true ∧
    nx (exec (.migrationPinsCleared 1) (migrating (.pinWait 9) 0)) (fun t => (t.homes.migs.map Migration.phase) == [.switching] && (t.homes.snoops.map fun x => (x.site, x.line)) == [(2, 512)]) = true ∧
    nx (exec (.migrationPinTimeout 1) (migrating (.pinWait 9) 2)) (fun t => t.homes.migs == [] && (t.homes.placeRec 1).st == 0 && t.now == 9 + 336000000) = true ∧
    nx (exec (.driverStartedMigration 1 0 5) base) (fun t => (t.homes.migs.map Migration.phase) == [.copying] && (t.homes.placeRec 1).st == 1) = true := by decide +kernel

theorem witness_MigrationsSwitch : ((migrating .switching 0).homes.migs.filter fun x => x.page == 1).map Migration.phase = [.switching] ∧ (migrating .switching 0).heldLines 1 = [] ∧
    (migrating .switching 0).homes.snoops = [] ∧
    nx (exec (.migrationAccept 1) (migrating .switching 0)) (fun t => t.homes.curHome 1 == ⟨0, 5⟩ && (t.homes.placeRec 1).st == 2 && (t.homes.placeRec 1).gen == 1 &&
      (t.homes.stubs.map fun x => (x.page, x.at_, x.to_)) == [(1, ⟨0, 1⟩, ⟨0, 5⟩)]) = true := by decide +kernel

/-- A stub that has served sites 2 and 3, with their owner caches, at a stage of its reclamation. -/
def stubbed (mask : List Agent) (re : Option (List (Agent × Nat))) : State := (base.updHomes fun h => { h with stubs := [⟨1, ⟨0, 1⟩, ⟨0, 5⟩, mask, 7, re⟩] }).updDie 2 fun d => { d with
  owners := [(1, ⟨0, 5⟩), (6, ⟨0, 7⟩)] }

theorem witness_StubsAreReclaimed : (stubbed [.die 2] none).homes.stubs[0]? = some ⟨1, ⟨0, 1⟩, ⟨0, 5⟩, [.die 2], 7, none⟩ ∧ ((stubbed [] none).die 2).relayed = [] ∧ (stubbed [] (some [(.die 2, 5)])).relayOut 1 = false ∧ (stubbed [.die 2] (some [(.die 2, 5)])).relaying 2 1 = false ∧
    nx (exec (.stubAgeExpiry 0) (stubbed [.die 2] none)) (fun t => (t.homes.stubs.map Stub.reclaiming) == [some [(.die 2, 336000007)]] && t.now == 7 + 336000000) = true ∧
    nx (exec (.ownerCacheInvalidation 0 (.die 2)) (stubbed [.die 2] (some [(.die 2, 5)]))) (fun t => (t.die 2).owners == [(6, ⟨0, 7⟩)] && (t.homes.stubs.map Stub.mask) == [[]]) = true ∧
    nx (exec (.stubAck 0 (.die 2)) (stubbed [] (some [(.die 2, 5)]))) (fun t => t.homes.stubs == []) = true := by decide +kernel

/-- The registers are open; site 0 holds line 40 in M; a row of bank 3 of core 5's strip holds 9. -/
def gating : State := ({ base with mgmt := { base.mgmt with mode := 1 } }.setRow ⟨0, 5⟩ (2048 + 16 * 7 + 3) 9).updDie 0 fun d => { d with cache := [(40, .m 0xEE [])] }
def gcmd (op unit slice core mask : Nat) : Word := BitVec.ofNat 64 (op * 2 ^ 62 + unit * 2 ^ 56 + slice * 2 ^ 48 + core * 2 ^ 32 + mask)

theorem witness_PowerGating : gating.regsOpen = true ∧ [gcmd 1 0 0 5 8, gcmd 2 0 0 5 0xFFFF, gcmd 1 1 0 0 1, gcmd 2 1 0 0 1, gcmd 1 2 11 0 0xFFFFFF, gcmd 2 2 0 0 1].all gcFieldsOk = true ∧
    [gcmd 1 2 12 0 1, gcmd 1 3 0 0 0, gcmd 1 1 0 1 1, gcmd 1 0 0 5 0x10000, gcmd 1 2 0 0 0x1000000].all (fun v => !gcFieldsOk v) = true ∧
    gating.bankGateOk (gcRef (gcmd 1 0 0 5 8)) = true ∧ gating.homes.noKey (linePage 40) = false ∧
    nx (exec (.gatecmdGate (gcmd 1 0 0 5 8)) gating) (fun t => (t.core ⟨0, 5⟩).row (2048 + 16 * 7 + 3) == 0 && (t.core ⟨0, 5⟩).st.gated == 8) = true ∧
    nx (exec (.gatecmdGate (gcmd 1 0 0 5 4)) gating) (fun t => (t.core ⟨0, 5⟩).row (2048 + 16 * 7 + 3) == 9) = true ∧
    nx (exec (.gatecmdGate (gcmd 1 1 0 0 1)) gating) (fun t => (t.die 0).cache == [] && t.homes.byte (40 * 128) == 0xEE) = true ∧
    nx (exec (.gatecmdGate (gcmd 1 2 11 0 3)) gating) (fun t => getKey 0 11 t.homes.gatedLlc == 3) = true ∧
    nx (exec (.gatecmdWake (gcmd 2 1 0 0 1)) gating) (fun t => t.mgmt.gateBusy == some (gcmd 2 1 0 0 1)) = true ∧
    nx (exec .gateDone (gating.updSt ⟨0, 5⟩ fun t => { t with waking := 8 })) (fun t => (t.core ⟨0, 5⟩).st.waking == 0) = true := by decide +kernel

/-! ## Work queues and packets -/

/-- The registers are open, features negotiated, and the front end's pages are mapped. -/
def open0 : State := unmasked { base.updHomes fun h => { h with feXlat := [placedXlat] } with mgmt := { base.mgmt with mode := 1, featDone := true } }

/-- Queue 3: 16 slots at 0x10000, kicked once. -/
def queue3 : WorkQueue := { WorkQueue.reset 3 with en := true, base := 0x10000, logn := 4, kick := 1, vec := 7 }
def queued (q : WorkQueue) : State := open0.setQueue q

/-- Slot 0 holds a packet of a type, in the expected phase 1. -/
def slotted (q : WorkQueue) (ty : Nat) : State := (queued q).homeWrite 0x10000 8 (ty * 2 ^ 56 + 2 ^ 55 + 9)

theorem witness_PacketsAreRead : (queue3.reads = true) ∧ (queued queue3).queue 3 = queue3 ∧ queue3.batch = none ∧ queue3.repoll = none ∧
    ((slotted queue3 7).readSlot queue3 matches .current _) = true ∧ ((queued queue3).readSlot queue3 matches .old) = true ∧
    malformed [BitVec.ofNat 64 (7 * 2 ^ 56 + 2 ^ 55 + 9)] false = false ∧ malformed [BitVec.ofNat 64 (8 * 2 ^ 56 + 2 ^ 55)] false = true ∧
    nx (exec (.kickEvent 3) (slotted queue3 7)) (fun t => (t.queue 3).cons == 1 && ((t.queue 3).pkts.map Packet.type) == [7]) = true ∧
    nx (exec (.kickEvent 3) (slotted queue3 8)) (fun t => (t.queue 3).stop && (t.queue 3).err == 3 && t.fe.irqs == [7]) = true ∧
    nx (exec (.kickEvent 3) (queued queue3)) (fun t => (t.queue 3).repoll == some (0, 0)) = true ∧
    nx (exec (.packetRepoll 3) (queued { queue3 with repoll := some (0, 14) })) (fun t => (t.queue 3).repoll == some (0, 15) && t.now == 15 * 42000) = true ∧
    nx (exec (.packetRepoll 3) (queued { queue3 with repoll := some (0, 15) })) (fun t => (t.queue 3).stop && (t.queue 3).err == 1) = true ∧
    nx (exec (.packetRepoll 3) (slotted { queue3 with repoll := some (0, 14) } 7)) (fun t => (t.queue 3).cons == 1) = true := by decide +kernel

/-- A packet of a type with words 1 to 3 stands to start in queue 3, before it others. -/
def pkt (ty : Nat) (w1 w2 w3 : Word) : Packet := ⟨BitVec.ofNat 64 (ty * 2 ^ 56 + 9), w1, w2, w3, 0, false, none, false, none, [], false⟩
def toRun (l : List Packet) : State := queued { queue3 with pkts := l, key := 1, pasid := 0 }
def started : Packet := { pkt 1 0 0 0 with started := true, chain := some 77 }

theorem witness_PacketsStart : (toRun [pkt 1 0x8000 0x101 0]).toStart 3 1 = some (pkt 1 0x8000 0x101 0) ∧ (toRun [pkt 4 0 0 0]).toStart 3 4 = some (pkt 4 0 0 0) ∧
    (toRun [pkt 4 0 0 0]).allDoneBefore 3 = true ∧ (toRun [started, pkt 4 0 0 0]).toStart 3 4 = some (pkt 4 0 0 0) ∧ (toRun [started, pkt 4 0 0 0]).allDoneBefore 3 = false ∧
    (toRun [started, pkt 7 0 0 0]).toStart 3 7 = some (pkt 7 0 0 0) ∧
    nx (exec (.opchain 3) (toRun [pkt 1 0x8000 0x101 0])) (fun t => (t.fe.chains.map fun c => (c.tag, c.nops, c.irq, c.next)) == [(9, 2, true, 0x8000)]) = true ∧
    nx (exec (.fencePacket 3) (toRun [pkt 4 0 0 0])) (fun t => (t.queue 3).pkts == []) = true ∧
    nx (exec (.nopPacket 3) (toRun [started, pkt 7 0 0 0])) (fun t => (t.queue 3).pkts == [started]) = true := by decide +kernel

/-- A WAIT for 0x2000 to hold 5, its word watched, due at a tick. -/
def watched (due : Option Nat) : State := toRun [{ pkt 6 0x2000 5 0 with watch := true, due := due }]

/-- The word's home watches it, and has seen the condition met or not. -/
def noticed (hit : Bool) : State := (watched none).updHomes fun h => { h with watches := [⟨3, 0x2000, 0, 5, hit, none⟩] }

theorem witness_SignalAndWait : (toRun [pkt 5 0x2000 5 1]).toStart 3 5 = some (pkt 5 0x2000 5 1) ∧ open0.feXlat 0 0x2000 true = .ok 0x2000 ∧
    open0.writeClear (lineOf 0x2000) = true ∧ open0.readClear none (lineOf 0x2000) = true ∧ (watched none).watchOf 3 = none ∧
    open0.homes.noted (lineOf 0x2000) = false ∧ open0.homes.noKey (pageOf 0x2000) = false ∧ open0.feXlat 0 0x2000 false = .ok 0x2000 ∧ open0.cohN 0x2000 8 = 0 ∧
    (toRun [pkt 6 0x2000 5 0]).toStart 3 6 = some (pkt 6 0x2000 5 0) ∧ ((watched none).watching 3).map Packet.w2 = some 5 ∧
    nx (exec (.signal 3) (toRun [pkt 5 0x2000 5 1])) (fun t => t.cohN 0x2000 8 == 5 && t.fe.irqs == [7]) = true ∧
    nx (exec (.waitPacket 3) (toRun [pkt 6 0x2000 5 1])) (fun t => (t.queue 3).pkts == []) = true ∧
    nx (exec (.waitPacket 3) (toRun [pkt 6 0x2000 5 2])) (fun t => ((t.queue 3).pkts.map Packet.watch) == [true]) = true ∧
    nx (exec (.waitPacket 3) (toRun [pkt 6 0x2000 5 (4 * 2 ^ 32)])) (fun t => ((t.queue 3).pkts.map fun p => (p.watch, p.due)) == [(true, some (4 * 336000))]) = true ∧
    nx (exec (.waitPacketSatisfied 3) ((watched none).homeWrite 0x2000 8 5)) (fun t => (t.queue 3).pkts == []) = true ∧
    ((noticed true).watchOf 3).map Watch.hit = some true ∧ ((noticed false).watchOf 3).map Watch.hit = some false ∧
    (noticed true).homes.noted (lineOf 0x2000) = false ∧ (noticed true).readClear none (lineOf 0x2000) = true ∧ (watched (some 900)).watchOf 3 = none ∧
    nx (exec (.waitPacketTimeout 3) (noticed true)) (fun t => t == noticed true) = true ∧
    nx (exec (.waitPacketSatisfied 3) (noticed true)) (fun t => (t.queue 3).pkts == []) = true ∧
    nx (exec (.waitPacketSatisfied 3) (noticed false)) (fun t => (t.queue 3).pkts.length == 1) = true ∧
    nx (exec (.waitPacketTimeout 3) (watched (some 900))) (fun t => (t.queue 3).stop && (t.queue 3).err == 5 && t.now == 900) = true := by decide +kernel

/-- A batch of one member, read whole: a NOP and its COMMIT, or a COMMIT where the member stands. -/
def batched (good : Bool) : State := queued { queue3 with batch := some ⟨1, [{ pkt (if good then 7 else 3) 0 0 0 with idx := 1 }, { pkt 3 0 0 0 with idx := 2 }], true⟩ }

theorem witness_BatchesCommitWhole : (toRun [pkt 2 5 0 0]).toStart 3 2 = some (pkt 2 5 0 0) ∧ ((batched true).queue 3).live = true ∧
    (((batched true).queue 3).batch.map fun b => (batched true).validAll 0 b.nmem b.seen) = some (.ok [{ pkt 7 0 0 0 with idx := 1 }, { pkt 3 0 0 0 with idx := 2 }]) ∧
    (((batched false).queue 3).batch.map fun b => (batched false).validAll 0 b.nmem b.seen) = some (.fail (batched false) 1) ∧
    nx (exec (.batchBegin 3) (toRun [pkt 2 5 0 0])) (fun t => (t.queue 3).batch == some ⟨5, [], false⟩) = true ∧
    nx (exec (.batchCommit 3) (batched true)) (fun t => ((t.queue 3).pkts.map Packet.type) == [7]) = true ∧
    nx (exec (.batchCommit 3) (batched false)) (fun t => (t.queue 3).stop && (t.queue 3).err == 4 && (t.queue 3).idx == 1) = true := by decide +kernel

/-- A WQCFG that enables a queue of 2^n slots under key 0. -/
def cfg (n : Nat) : Word := BitVec.ofNat 64 (2 ^ 32 + n * 16)

theorem witness_QueueRegisters : open0.regsOpen = true ∧ (open0.queue 3).en = false ∧ (cfg 4).getLsbD 32 = true ∧ open0.mgmt.featDone = true ∧ (lookup 0 open0.homes.keys).isSome = true ∧
    nx (exec (.wqcfgWrite 3 (cfg 4)) open0) (fun t => (t.queue 3).en) = true ∧ nx (exec (.wqcfgWrite 3 (cfg 16)) open0) (fun t => (t.queue 3).en) = true ∧
    nx (exec (.wqcfgWrite 3 (cfg 3)) open0) (fun t => !(t.queue 3).en && (t.queue 3).logn == 3) = true ∧ nx (exec (.wqcfgWrite 3 (cfg 17)) open0) (fun t => !(t.queue 3).en) = true ∧
    nx (exec (.wqcfgWrite 3 0) (queued queue3)) (fun t => !(t.queue 3).en && (t.queue 3).logn == 4) = true ∧
    nx (exec (.wqkick 3 16) (queued queue3)) (fun t => (t.queue 3).kick == 16 && !(t.queue 3).stop) = true ∧
    nx (exec (.wqkick 3 17) (queued queue3)) (fun t => (t.queue 3).kick == 1 && (t.queue 3).stop && (t.queue 3).err == 2) = true ∧
    nx (exec (.wqstatStopClear 3 (BitVec.ofNat 64 (2 ^ 55))) (queued { queue3 with stop := true, err := 5, idx := 6 })) (fun t => !(t.queue 3).stop && (t.queue 3).idx == 6) = true ∧
    nx (exec (.wqstatStopClear 3 0) (queued { queue3 with stop := true, err := 5 })) (fun t => (t.queue 3).stop) = true := by decide +kernel

/-! ## Fencing and lost messages -/

/-- Site 0 owes an answer, or its link fails to train. -/
def hurt : State := open0.updHomes fun h => { h with snoops := [⟨0, 40, 100, false, none, false⟩] }

theorem witness_DiesAreFenced : (hurt.die 0).present = true ∧ (hurt.die 0).fenced = false ∧ hurt.regsOpen = true ∧ (∀ j : Fin 6, (1 : Word).getLsbD j.val = decide (j = 0)) ∧
    hurt.unanswered 0 = some 100 ∧ (hurt.die 0).training = false := by decide +kernel

/-- Slice 0 has the fence of site 0 still to apply, alone or with slice 1. -/
def applying (l : List (Nat × Fin 6)) : State := (open0.updDie 0 fun d => { d with fenced := true, cache := [(0, .e), (512, .s)] }).updHomes fun h => { h with fenceDue := l }

theorem witness_SlicesApplyFences : (0, (0 : Fin 6)) ∈ (applying [(0, 0), (1, 0)]).homes.fenceDue ∧
    nx (exec (.fenceApply 0 0) (applying [(0, 0), (1, 0)])) (fun t => ((t.die 0).cache.map Prod.fst) == [512] && t.homes.fenceDue == [(1, 0)]) = true ∧
    nx (exec (.fenceApply 0 0) (applying [(0, 0)])) (fun t => (t.die 0).cache == []) = true := by decide +kernel

/-- Site 0 is fenced, and every slice has applied it. -/
def readmitting (training : Bool) : State := (open0.updDie 0 fun d => { d with fenced := true, training := training, strips := Vector.replicate 8 .fenced }).updCore ⟨0, 2⟩ fun c => { c with
  sideLog := [⟨.load, 4, 0, 0, .freset, 0, 0, none, false, none, none, none⟩] }

theorem witness_DiesAreReadmitted : (readmitting false).regsOpen = true ∧ (readmitting false).homes.fenceDue = [] ∧
    nx (exec (.diereadmit 1) (readmitting false)) (fun t => (t.die 0).training && (t.die 0).fenced && ((t.core ⟨0, 2⟩).sideLog).length == 1) = true ∧
    nx (exec (.dieReadmitDone 0 true) (readmitting true)) (fun t => !(t.die 0).fenced && (t.die 0).strips[3] == .free) = true ∧
    nx (exec (.dieReadmitDone 0 false) (readmitting true)) (fun t => (t.die 0).fenced && (t.mgmt.log.map LogRec.code) == [0x47]) = true := by decide +kernel

theorem witness_LostMessages : open0.homes.migOf (linePage 40) = none ∧ (hurt.homes.snoopAt 0 40).isSome = true ∧
    nx (exec (.flitCrcError (.lineData 40)) open0) (fun t => t.homes.poisoned 40 && (t.mgmt.log.map LogRec.code) == [0x42]) = true ∧
    ((gating.die 0).line 40).isSome = true ∧
    nx (exec (.flitCrcError (.readData 0 40)) gating) (fun t => !t.homes.poisoned 40 && (t.die 0).badLines == [40] && (t.mgmt.log.map LogRec.code) == [0x42]) = true ∧
    nx (exec (.flitCrcError (.rowData ⟨1, 2⟩ 9)) open0) (fun t => (t.core ⟨1, 2⟩).st.poison == [9]) = true ∧
    nx (exec (.flitCrcError (.directory 40)) open0) (fun t => t.homes.poisoned 40 && (t.mgmt.log.map LogRec.code) == [0x43]) = true ∧
    nx (exec (.flitCrcError (.invAck 0 40)) hurt) (fun t => t.homes.isLost (.inv 0 40)) = true ∧
    nx (exec (.resendTimeout 0) (hurt.updHomes fun h => { h with lost := [(50, .inv 0 40)] })) (fun t => t.homes.lost == [] && t.now == 50 + 672000) = true ∧
    nx (exec (.dieAsleepTimeout 0 40) hurt) (fun t => (t.homes.snoops.map Snoop.logged) == [true] && t.now == 100 + 2688000) = true := by decide +kernel

/-- An ECC error strikes next. -/
def struck (corrected : Bool) (u : EccUnit) (s : State) : State := { s with agenda := [.ecc corrected u] }

theorem witness_EccErrors :
    nx (step (struck false (.line 40) open0)) (fun t => t.homes.poisoned 40 && (t.mgmt.log.map LogRec.code) == [0x41]) = true ∧
    nx (step (struck false (.row ⟨1, 2⟩ 9) open0)) (fun t => (t.core ⟨1, 2⟩).st.poison == [9]) = true ∧
    nx (step (struck false (.bank ⟨1, 2⟩ true 9) open0)) (fun t => (t.core ⟨1, 2⟩).st.poisonB == [9] && (t.core ⟨1, 2⟩).st.poisonA == []) = true ∧
    nx (step (struck false (.copy 0 40) gating)) (fun t => t.homes.poisoned 40 && ((t.die 0).line 40).isNone) = true ∧
    nx (step (struck false (.copy 1 40) gating)) (fun t => t.mgmt.log == [] && !t.homes.poisoned 40) = true ∧
    nx (step (struck true (.line 40) open0)) (fun t => (t.mgmt.log.map fun e => (e.code, e.count)) == [(0x40, 1)] &&
      nx (step (struck true (.line 41) t)) (fun t => t.mgmt.log.length == 1 &&
        nx (step (struck true (.line 42) (t.at_ 336000000))) (fun t => (t.mgmt.log.map LogRec.count) == [1, 2]))) = true := by decide +kernel

/-! ## Management registers -/

/-- Features chosen. -/
def choosing (f : BitVec 128) : State := { open0 with mgmt := { open0.mgmt with featAcc := f, featDone := false } }

/-- The same, once negotiated. -/
def accepted (f : BitVec 128) : State := { open0 with mgmt := { open0.mgmt with featAcc := f } }

theorem witness_FeatureNegotiation : (choosing 0x21).regsOpen = true ∧ (1 : Word).getLsbD 0 = true ∧ (∀ j : Fin 128, (choosing 0x21).featOff.getLsbD j.val = true ∨ (0x21 : BitVec 128).getLsbD j.val = false) ∧
    nx (exec (.featctlGo 1) (choosing 0x21)) (fun t => t.mgmt.featDone) = true ∧ nx (exec (.featctlGo 1) (choosing 0x20)) (fun t => t.mgmt.featErr && !t.mgmt.featDone) = true ∧
    nx (exec (.featctlGo 1) (choosing 0x2021)) (fun t => t.mgmt.featErr) = true := by decide +kernel

theorem witness_PageRegisters : let v : Word := BitVec.ofNat 64 (5 * 65536 + 9)
    v.toNat / 2 ^ 16 % 2 ^ 41 = 5 ∧ 5 / 2 ^ 29 = open0.fab.pkg ∧ open0.reachable (open0.homes.curHome 5).pkg = true ∧ getKey 0 5 open0.homes.pins = 0 ∧ open0.homes.migOf 5 = none ∧
    open0.homes.parked = [] ∧ open0.reachable (dlaPkg v.toNat) = true ∧
    nx (exec (.plq v) open0) (fun t => t.readReg 0x70 == v) = true ∧ nx (exec (.pgassign v) open0) (fun t => t.homes.owner 5 == 9 && t.mgmt.pgstat == 0) = true ∧
    nx (exec (.pgassign v) (open0.updHomes fun h => { h with pins := [(5, 1)] })) (fun t => t.mgmt.pgstat == 1 && t.homes.owner 5 == 0) = true := by decide +kernel

/-- KEYDATA holds 6. -/
def keyed : State := { open0 with mgmt := { open0.mgmt with keydata := 6 } }

/-- S-box values and the product of FIPS 197, sections 4.2 and 5.1.1, and its example of a column. -/
theorem test_aes : sbox 0x53 = 0xED ∧ sbox 0 = 0x63 ∧ invSbox 0xED = 0x53 ∧ gfMul 0x57 0x83 = 0xC1 ∧
    (mixColumns [2, 3, 1, 1] [0xDB, 0x13, 0x53, 0x45]).take 4 = [0x8E, 0x4D, 0xA1, 0xBC] := by decide +kernel

/-- Page 5 is owner 9's, whose slot is empty, and page 0x18000 holds a byte. -/
def unkeyed : State := keyed.updHomes fun h => { h.put 0x58000 1 7 with pageOwner := [(5, 9)] }

/-- A page under an empty slot reads 0, and its bytes come back under the key that it was sealed with. -/
theorem witness_KeySlots_pages : (unkeyed.homes.pageOwner.map Prod.fst).Nodup ∧ unkeyed.homes.owner (pageOf 0x58000) = 9 ∧ unkeyed.homes.byte 0x58000 = 0 ∧
    nx (exec (.keycmdLoad 0x109) { unkeyed with mgmt := { unkeyed.mgmt with keydata := unkeyed.homes.sealOf 5 } }) (fun t => t.homes.byte 0x58000 == 7) = true := by decide +kernel

theorem witness_KeySlots : keyed.regsOpen = true ∧ keyed.homes.pageOwner = [] ∧ keyed.fe.queues = [] ∧
    nx (exec (.keycmdLoad 0x1FF) keyed) (fun t => lookup 255 t.homes.keys == some 6 && t.mgmt.keydata == 0) = true ∧
    nx (exec (.keycmdErase 0x201) keyed) (fun t => lookup 1 t.homes.keys == none && t.mgmt.keydata == 0) = true ∧
    nx (exec (.keycmdLoad 0x100) keyed) (fun t => t.mgmt.keydata == 6) = true := by decide +kernel

theorem witness_RegistersHoldWrites : open0.regsOpen = true ∧ (choosing 0).mgmt.featDone = false ∧ (accepted 0x29).feature 3 = true ∧ (open0.queue 0).en = false ∧ (open0.queue 0x3FFF).en = false ∧
    [0x118, 0x120, 0x128, 0x140, 0x1D8, 0x10000, 0x17FF8, 0x200000, 0x27FFE0].all (fun o => nx (exec (.registerWrite o 0xFEDCBA9876543210) open0) fun t => t.readReg o == 0xFEDCBA9876543210) = true ∧ [0x20, 0x28].all (fun o => nx (exec (.registerWrite o 0x123) (choosing 0)) fun t => t.readReg o == 0x123) = true ∧
    [0x100000, 0x107FF8].all (fun o => nx (exec (.registerWrite o 0x33) (accepted 0x29)) fun t => t.readReg o == 0x33) = true ∧ [0x40, 0x98].all (fun o => [(1 : Word), 0xFFFF].all fun v => nx (exec (.registerWrite o v) open0) fun t => t.readReg o == v) = true ∧
    [3000, 7500].all (fun v => nx (exec (.registerWrite 0x200 v) open0) fun t => t.readReg 0x200 == v) = true := by decide +kernel

/-! ## Fabric, clock, power and reset -/

/-- Link 9 is up; the links came up degraded or not; L is held by a load, and site 0 has a write, of a page that lives on package 4. -/
def fabric (d : BitVec 8) : State := { open0.updHomes fun h => { h with recs := [⟨0, 0, ⟨4, 0⟩, 2⟩] } with fab := { open0.fab with up := 0x200 }, mgmt := { open0.mgmt with degr := d } }
def farLoad (asked : Option Nat) : State := (fabric 0).updMe fun c => { c with status := .held { byteLoad none with asked := asked } }
def farWrite : DieWrite := ⟨⟨⟨0, 0⟩, .load⟩, 0, 4, 0x1000, 8, 5, none, [], [], none, 0, 8, none, 0x1000, 0, some (0, 0), 0, some 7⟩
def farStore (asked : Option Nat) : State := (fabric 0).updDie 0 fun d => { d with buf := [{ farWrite with asked := asked }] }

theorem witness_FabricLinks : (fabric 0).fab.up.getLsbD 9 = true ∧ (fabric 0).homes.migs = [] ∧ (0x10 : BitVec 8).getLsbD 4 = true ∧ (0 : BitVec 8).getLsbD 4 = false ∧
    (farLoad none).remotePage (pageOf 0x1004) = true ∧ ((farStore (some 7)).die 0).buf[0]? = some farWrite ∧ (farStore none).remotePage (pageOf 0x1000) = true ∧
    nx (exec (.fabricLinkDown 9) (fabric 0)) (fun t => t.fab.up == 0 && (t.mgmt.log.map LogRec.code).contains 0x4A) = true ∧
    nx (exec (.fabricLinkUp 63) (fabric 0)) (fun t => t.fab.up == 0x8000000000000200) = true ∧ nx (exec (.fabricLinkUp 63) (fabric 0x10)) (fun t => t.fab.up == 0x200) = true ∧
    nx (exec (.remoteRequestTimeout (.load base.cur)) (farLoad none)) (fun t => t == farLoad none) = true ∧
    nx (exec (.remoteRequestTimeout (.write 0 0)) (farStore none)) (fun t => t == farStore none) = true ∧
    nx (exec (.remoteRequestTimeout (.load base.cur)) (farLoad (some 7))) (fun t => t.now == 7 + 67200000 && ((t.pipe? 0).map fun p => p.faults.map FaultRec.code) == some [0x0A]) = true ∧
    nx (exec (.remoteRequestTimeout (.write 0 0)) (farStore (some 7))) (fun t => t.now == 7 + 67200000 && (t.die 0).buf == [] && (t.myCore.task.map Task.phase) != some .running) = true := by decide +kernel

theorem witness_TimeAndPower : open0.mgmt.degr.getLsbD 5 = false ∧ nx (exec .ptpMessage open0) (fun t => t.fab.lock) = true ∧
    nx (exec .ptpLockLost { open0 with fab := { open0.fab with lock := true } }) (fun t => !t.fab.lock && (t.mgmt.log.map LogRec.code) == [0x4E]) = true ∧
    nx (exec .netslotFrameBoundary { open0 with fab := { open0.fab with netslot := 5 }, now := 64 * 210 }) (fun t => t.fab.netslotNow == 5 && t.now == 128 * 210) = true ∧
    nx (exec (.powerCapExceeded true) open0) (fun t => t.mgmt.mhz == 2000) = true ∧ nx (exec (.powerCapExceeded false) open0) (fun t => t.mgmt.mhz == 2100) = true ∧
    nx (exec (.powerCapExceeded true) { open0 with mgmt := { open0.mgmt with mhz := 1000 } }) (fun t => t.mgmt.mhz == 1000) = true := by decide +kernel

/-- The package runs slot B. -/
def slotB : State := { open0 with mgmt := { open0.mgmt with slot := true } }

theorem witness_FlashAndMailbox : slotB.flash.powered = true ∧ slotB.mgmt.mode ≠ 2 ∧ slotB.mgmt.mailFree = none ∧ open0.mgmt.slot = false ∧
    (let r : State := { slotB with mgmt := { slotB.mgmt with mode := 2, slotRuns := true } }; nx (exec (.flashUpdateWrite .slotB 16 1) r) (fun t => t == r)) = true ∧
    nx (exec (.flashUpdateWrite .slotA 16 0x0807060504030201) slotB) (fun t => getKey 0 16 t.flash.slotA == 1 && getKey 0 23 t.flash.slotA == 8) = true ∧
    nx (exec (.recoveryMailboxCommand 0xFF8 0x0807060504030201) slotB) (fun t => t.mgmt.mail 0xFFF == 8) = true ∧
    nx (exec (.attestationNonceWrite 3) slotB) (fun t => t.mgmt.nonce == 3) = true ∧ nx (exec .powerLost slotB) (fun t => !t.regsOpen) = true := by decide +kernel

theorem witness_PackageStarts : open0.regsOpen = true ∧
    nx (exec (.bootclr 4) { open0 with flash := { open0.flash with journal := [(2, false), (3, true)], conservative := [2] } })
      (fun t => t.flash.journal == [(3, true)] && t.flash.conservative == []) = true := by decide +kernel

/-! ## Steps, encodings and the invariant -/

/-- L's turn has come, and its cache holds ADD x3, x1, x2, or a word that is no instruction. -/
def turn (w : CtlWord) : State := { (regs [(1, 5), (2, 6)] base).updCore ⟨0, 0⟩ (fun c => { c with icache := [(0, w)] }) with agenda := [.issue ⟨⟨0, 0⟩, .load⟩] }

/-- The same, while C waits for the answer to an FGET, and a zeroing that ends before the next clk. -/
def getting (w : CtlWord) : State := (turn w).updCore ⟨0, 0⟩ fun c => { c with c := { c.c with status := .waiting (.home (some 0x1008) none), begun := some .fget } }
def dueFirst : State := { zeroing with now := 400, agenda := [] }

/-- What a context fetches: the next repeat of its REP, the word that it issued and waits on, or the cached word. -/
theorem witness_StepRunsDecoded_fetch : let l : CtxRef := ⟨⟨0, 0⟩, .load⟩; let s := turn 0x00611001
    s.fetch l = some 0x00611001 ∧ (s.ctx l).rep = none ∧ (s.ctx l).status = .running ∧
    (s.updCtx l fun c => { c with status := .waiting (.park 0), word := some 0x00642801 }).fetch l = some 0x00642801 ∧
    (s.updCtx l fun c => { c with rep := some ⟨0x00642801, 4, 0, 0, 0⟩ }).fetch l = some 0x00642801 ∧
    stepWord 0x00642801 0 0 = some 0x00642801 := by decide +kernel

/-- The next slot of a context that has issued does not pass it by (R42): L issues the word at its program counter. -/
theorem test_slots_are_due : let s : State := { turn 0x00611001 with agenda := [] }
    nx (step s) (fun t => t.rx 3 == 0 && t.now == 160) = true ∧
    nx (step (s.updMe fun c => { c with fresh := false })) (fun t => t.rx 3 == 11 && t.me.pc == 4 && t.now == 0) = true := by decide +kernel

theorem witness_StepRunsDecoded : ((turn 0x00611001).die 0).present = true ∧ (turn 0x00611001).mayGo ⟨⟨0, 0⟩, .load⟩ = true ∧ (turn 0x00611001).deadlines = [] ∧
    (turn 0x00611001).heldBack ⟨⟨0, 0⟩, .load⟩ (.add 3 1 2) = false ∧ (getting 0xE5063A40).heldBack ⟨⟨0, 0⟩, .load⟩ (.rel 8 6 7 1) = true ∧
    nx (step (getting 0xE5063A40)) (fun t => t.me.out == [] && t.me.pc == 0 && t.agenda == []) = true ∧ (dueFirst.deadlines.map Prod.fst) = [500] ∧
    nx (step dueFirst) (fun t => t.now == 500 && (t.die 0).zeroEnd == some 900 && nx (step t) (fun u => u.now == 660)) = true ∧
    (turn 0x00611001).cached ⟨0, 0⟩ 0 = some 0x00611001 ∧ decode 0x00611001 = .ok (.add 3 1 2) ∧ (decode 0xFFFFFFFF matches .error _) = true ∧
    nx (step (turn 0x00611001)) (fun t => t.rx 3 == 11 && t.me.pc == 4 && t.agenda == []) = true ∧
    nx (step (turn 0xFFFFFFFF)) (fun t => ((t.pipe? 0).map fun p => p.faults.map FaultRec.code) == some [1]) = true ∧
    nx (step { withCmd (mul1 1) mulState with agenda := [.start ⟨0, 0⟩ 0] }) (begunWith 0 0) = true ∧
    nx (step { base with agenda := [.event .gateDone, .issue ⟨⟨0, 0⟩, .load⟩] }) (fun t => t.agenda == [.issue ⟨⟨0, 0⟩, .load⟩]) = true ∧
    groupOf .gateDone = .none ∧ isCommand .gateDone = false ∧ nx (step base) (fun t => t.now == 160) = true := by decide +kernel

theorem witness_ControlWordsRoundTrip : (Instr.add 3 4 5).wf = true ∧ encode (.add 3 4 5) = some 0x00642801 := by decide +kernel

theorem witness_CommandWordsRoundTrip : (mul1 1).wf = true ∧ (encodeCmd (mul1 1)).isSome = true ∧ isCommand (mul1 1) = true := by decide +kernel

theorem witness_MemoryStaysCanonical : State.reset.homes.mem.wf = true ∧ (tiled.homes.mem.wf = true) ∧
    nx (step { tiled with agenda := [.hostWrite 0x10002 2 0] }) (fun t => t.homes.mem.wf && t.homes.byte 0x10003 == 0) = true := by decide +kernel

/-- A turn of a core on an absent die is the one stop of the model. -/
theorem test_absent_die : (step { base.updDie 0 (fun d => { d with present := false }) with agenda := [.issue ⟨⟨0, 0⟩, .load⟩] } matches .fault .agentAbsent) = true := by decide +kernel

/-- A placed instruction runs as the first after reset: ADDI x3, x0, 5, and a GATOM.ADD. -/
theorem test_placed : nx (step (State.reset.withFetchWord 32 0x04600005)) (fun t => t.me.pc == 4) = true := by decide +kernel

end Sys2Proof.Tests
end

section
/-! SUPPORT. A step and the turn that it names (O56): what can go before a turn, and what each turn of the agenda means. -/

namespace Sys2Proof.Machine

/-! ## What goes before a turn -/

theorem mem_insertDue {x y : Nat × Due} {l : List (Nat × Due)} : y ∈ insertDue x l ↔ y = x ∨ y ∈ l := by
  induction l with
  | nil => simp [insertDue]
  | cons z t ih =>
    unfold insertDue
    split
    · simp
    · simp only [List.mem_cons, ih]; tauto

theorem State.mem_passed {s : State} {t : Nat} {x : Nat × Due} : x ∈ s.passed t ↔ x ∈ s.deadlines ∧ x.1 < t := by
  have sorted (l : List (Nat × Due)) : x ∈ l.foldr insertDue [] ↔ x ∈ l := by
    induction l with
    | nil => rfl
    | cons y l ih => rw [List.foldr_cons, mem_insertDue, ih, List.mem_cons]
  rw [State.passed, sorted, List.mem_filter, decide_eq_true_iff]

/-- An event that happens before a turn is one of the deadlines that the turn's time would pass. -/
theorem State.runDue_some {s u : State} {t : Nat} (h : s.runDue t = some u) :
    ∃ x ∈ s.deadlines, x.1 < t ∧ x.2.run s = .next u := by
  unfold State.runDue at h
  split at h
  · obtain ⟨x, hx, hm⟩ := List.exists_of_findSome?_eq_some h
    obtain ⟨hd, ht⟩ := State.mem_passed.1 hx
    refine ⟨x, hd, ht, ?_⟩
    unfold State.meet at hm
    split at hm
    · next s' hr =>
      split at hm
      · cases hm
      · rw [hr, Option.some.inj hm]
    · cases hm
  · cases h

theorem State.runDue_none {s : State} {t : Nat} (h : ∀ x ∈ s.deadlines, t ≤ x.1) : s.runDue t = none := by
  cases e : s.runDue t with
  | none => rfl
  | some u =>
    obtain ⟨x, hx, hlt, -⟩ := State.runDue_some e
    exact absurd (h x hx) (Nat.not_le.2 hlt)

theorem State.before_some {s t u : State} (h : s.before t = some u) :
    (∃ x ∈ s.deadlines, x.1 < t.now ∧ x.2.run s = .next u) ∨ s.ctxFirst t = some u := by
  unfold State.before at h
  split at h
  · next x hx => exact .inl (State.runDue_some (hx.trans h))
  · split at h
    · exact .inr h
    · cases h

theorem State.before_none {s t : State} (due : ∀ x ∈ s.deadlines, t.now ≤ x.1)
    (first : s.agenda.head?.any Turn.ofEngine = true → s.ctxFirst t = none) : s.before t = none := by
  unfold State.before
  rw [State.runDue_none due]
  cases h : s.agenda.head? with
  | none => rfl
  | some x => cases hx : x.ofEngine <;> simp_all

/-- A step of s is o, unless an event due before it or a context's fault of the same clk goes before it. -/
def StepRuns (s : State) (o : Host.Outcome State Fault Refusal) : Prop :=
  (∀ t, o = .next t → (∀ x ∈ s.deadlines, t.now ≤ x.1) → (s.agenda.head?.any Turn.ofEngine = true → s.ctxFirst t = none) → step s = o) ∧
  (∀ t, o = .next t → step s ≠ o → ∃ u, step s = .next u ∧ ((∃ x ∈ s.deadlines, x.1 < t.now ∧ x.2.run s = .next u) ∨ s.ctxFirst t = some u)) ∧
  ((∀ t, o ≠ .next t) → step s = o)

/-- A step is the first turn of the agenda, or what goes before it. -/
theorem stepRuns_agendaTurn {s : State} {o : Host.Outcome State Fault Refusal} (h : s.agendaTurn = o) : StepRuns s o := by
  have next (t : State) (ht : o = .next t) : step s = .next ((s.before t).getD t) := by rw [step, h, ht]
  refine ⟨fun t ht due first => ?_, fun t ht ne => ⟨_, next t ht, ?_⟩, fun stop => ?_⟩
  · rw [next t ht, State.before_none due first, ht]; rfl
  · cases hb : s.before t with
    | none => exact absurd ((next t ht).trans (by rw [hb, ht]; rfl)) ne
    | some u => exact State.before_some hb
  · cases o with
    | next t => exact absurd rfl (stop t)
    | fault r => rw [step, h]
    | refused r => rw [step, h]

/-! ## The turn of a context -/

theorem State.fetch_rep {s : State} {c : CtxRef} {q : RepUnit} (h : (s.ctx c).rep = some q) :
    s.fetch c = stepWord q.word q.mask q.j := by
  simp only [State.fetch, h]

theorem State.fetch_running {s : State} {c : CtxRef} (h : (s.ctx c).rep = none) (hr : (s.ctx c).status = .running) :
    s.fetch c = s.cached c.at_ (s.ctx c).pc.toNat := by
  simp only [State.fetch, h, hr]

/-- An instruction that waits is issued again, whatever has become of its cached word (R43). -/
theorem State.fetch_waiting {s : State} {c : CtxRef} {x : Wait} {v : CtlWord} (h : (s.ctx c).rep = none)
    (hr : (s.ctx c).status = .waiting x) (hx : ∀ a b, x ≠ .fetch a b) (hv : (s.ctx c).word = some v) : s.fetch c = some v := by
  simp only [State.fetch, h, hr, hv]
  rfl

/-- The turn of a context whose word decodes: the instruction's meaning, unless the instruction is held back (R65). -/
theorem stepIssue_decoded {s : State} {c : CtxRef} {w : CtlWord} {i : Instr} (present : (s.die c.at_.site).present = true)
    (may : s.mayGo c = true) (hf : s.fetch c = some w) (hd : decode w = .ok i) :
    stepIssue c s = if s.heldBack c i then .next (s.slot c) else exec i (s.issued c) := by
  simp only [stepIssue, present, may, hf, hd, Bool.not_true, Bool.false_eq_true, if_false]

/-- The turn of a context whose word decodes to nothing (R175). -/
theorem stepIssue_undecoded {s : State} {c : CtxRef} {w : CtlWord} {e : DecodeError} (present : (s.die c.at_.site).present = true)
    (may : s.mayGo c = true) (hf : s.fetch c = some w) (hd : decode w = .error e) :
    stepIssue c s = .next ((s.issued c).illegal w) := by
  simp only [stepIssue, present, may, hf, hd, Bool.not_true, Bool.false_eq_true, if_false]

theorem State.core_issued (s : State) (c : CtxRef) : (s.issued c).core c.at_ =
    { (s.core c.at_).updCtx c.ctx (fun x => { x with fresh := false, word := s.fetch c }) with lastIssue := some (s.slotTick c) } :=
  State.core_updCore _ _ _

theorem Core.ctx_lastIssue (k : Core) (n : CtxName) (t : Option Nat) : ({ k with lastIssue := t } : Core).ctx n = k.ctx n := by
  cases n <;> rfl

/-- A context that issues has fetched its word, and nothing else of it has changed. -/
theorem State.me_issued {s : State} {c : CtxRef} {w : CtlWord} (hf : s.fetch c = some w) :
    (s.issued c).me = { s.ctx c with fresh := false, word := some w } := by
  change ((s.issued c).core c.at_).ctx c.ctx = _
  rw [State.core_issued, Core.ctx_lastIssue, Core.ctx_updCtx, hf]
  rfl

theorem Core.updCtx_const (k : Core) (n : CtxName) (f : Context → Context) : (k.updCtx n fun _ => f (k.ctx n)) = k.updCtx n f := by
  cases n <;> rfl

/-- The core of a context that issues keeps all but that context and the tick of its last issue. -/
theorem State.myCore_issued (s : State) (c : CtxRef) : (s.issued c).myCore =
    { (s.core c.at_).updCtx c.ctx (fun _ => (s.issued c).me) with lastIssue := (s.issued c).myCore.lastIssue } := by
  have hcore : (s.issued c).myCore = _ := State.core_issued s c
  have hme : (s.issued c).me = { s.ctx c with fresh := false, word := s.fetch c } := by
    change (s.issued c).myCore.ctx c.ctx = _
    rw [hcore, Core.ctx_lastIssue, Core.ctx_updCtx]; rfl
  rw [hme, hcore]
  exact congrArg (fun k : Core => { k with lastIssue := some (s.slotTick c) })
    (Core.updCtx_const _ _ fun x => { x with fresh := false, word := s.fetch c }).symm

theorem State.agendaTurn_cons {s : State} {t : Turn} {rest : List Turn} (h : s.agenda = t :: rest) :
    s.agendaTurn = ({ s with agenda := rest } : State).turn t := by
  rw [State.agendaTurn, h]

/-- The turn that starts a queue's head is the meaning of that command. -/
theorem State.turn_start {s : State} {r : CoreRef} {e : Fin 6} {q : QEntry} {more : List QEntry} (hq : (s.core r).eng[e] = q :: more) :
    s.turn (.start r (BitVec.ofNat 3 e.val)) = exec q.cmd { s with cur := ⟨r, q.ctx⟩ } := by
  have he : Fin.ofNat 6 (BitVec.ofNat 3 e.val).toNat = e := by
    clear hq; revert e; decide
  have hh : s.headCmd r e = some ({ s with cur := ⟨r, q.ctx⟩ }, q.cmd) := by
    rw [State.headCmd, hq]; rfl
  rw [State.turn, he, hh]

/-- With no turn left a clk passes. -/
theorem State.agendaTurn_nil {s : State} (h : s.agenda = []) : s.agendaTurn = .next { s with now := s.now + 160 } := by
  have clk : s.idle = { s with now := s.now + 160 } :=
    congrArg (fun n => ({ s with now := n } : State)) (Nat.max_eq_right (Nat.le_add_right _ _))
  unfold State.agendaTurn
  split
  · exact congrArg Host.Outcome.next clk
  · next ha => cases h.symm.trans ha

end Sys2Proof.Machine

open Sys2Proof Sys2Proof.Machine Sys2Proof.Spec

/-- Settles O56: a step is the first turn of the agenda or what goes before it (`stepRuns_agendaTurn`), and each turn is what
its definition says. -/
theorem stepRunsDecoded : Obligations.StepRunsDecoded := by
  intro s rest s0 Runs
  have runs {o} (h : s.agendaTurn = o) : Runs o := stepRuns_agendaTurn h
  refine ⟨fun c w ha present may hf => ?_, fun r e q more ha hq => ?_, fun i ha hg hc => ?_, fun ha => ?_⟩
  · have turn : s.agendaTurn = stepIssue c s0 := State.agendaTurn_cons ha
    refine ⟨fun q hq => (State.fetch_rep hq).symm.trans hf, fun h hr => (State.fetch_running h hr).symm.trans hf,
      fun v x h hr hx hv => Option.some.inj ((State.fetch_waiting h hr hx hv).symm.trans hf), s0.issued c, rfl,
      State.me_issued (s := s0) hf, rfl, Nat.le_max_left _ _, rfl, rfl, rfl, fun r hr => ?_, State.myCore_issued s0 c,
      fun i hi hb => runs ?_, fun i hi hb => runs ?_, fun e he => runs ?_⟩
    · exact State.core_updCore_ne (s0.slot c) _ hr
    · exact turn.trans ((stepIssue_decoded (s := s0) present may hf hi).trans (if_neg (ne_true_of_eq_false hb)))
    · exact turn.trans ((stepIssue_decoded (s := s0) present may hf hi).trans (if_pos hb))
    · exact turn.trans (stepIssue_undecoded (s := s0) present may hf he)
  · exact runs ((State.agendaTurn_cons ha).trans (State.turn_start (s := s0) hq))
  · have event : isEvent i = true := by simp [isEvent, hg, hc]
    exact runs ((State.agendaTurn_cons ha).trans (if_pos event))
  · exact runs (State.agendaTurn_nil ha)

end

section
/-! SUPPORT. The start of a task (O37), and what is said of pipelines and of global memory wherever tasks start, end, stop and
resume: a pipeline after an update, and which updates no reader of memory sees. -/

namespace Sys2Proof.Machine

open Sys2Proof.Spec

/-! ## A pipeline after an update -/

theorem State.pipe?_id {s : State} {n : Nat} {p : Pipe} (h : s.pipe? n = some p) : p.id = n := by
  simpa using List.find?_some h

theorem State.pipe?_updPipe (s : State) (n m : Nat) {f : Pipe → Pipe} (hf : ∀ p, (f p).id = p.id) :
    (s.updPipe n f).pipe? m = (s.pipe? m).map fun p => if p.id == n then f p else p := by
  have same : ((fun p : Pipe => p.id == m) ∘ fun p => if p.id == n then f p else p) = fun p => p.id == m := by
    funext p
    simp only [Function.comp]
    split
    · rw [hf]
    · rfl
  show (s.fe.pipes.map _).find? _ = _
  rw [List.find?_map, same]
  rfl

theorem State.pipe?_updPipe_same {s : State} {n : Nat} {p : Pipe} {f : Pipe → Pipe} (hf : ∀ p, (f p).id = p.id)
    (h : s.pipe? n = some p) : (s.updPipe n f).pipe? n = some (f p) := by
  rw [State.pipe?_updPipe s n n hf, h, Option.map_some, if_pos (by simpa using State.pipe?_id h)]

@[simp] theorem State.pipe?_updCore (s : State) (r : CoreRef) (f : Core → Core) (n : Nat) : (s.updCore r f).pipe? n = s.pipe? n := rfl
@[simp] theorem State.pipe?_updHomes (s : State) (f : Homes → Homes) (n : Nat) : (s.updHomes f).pipe? n = s.pipe? n := rfl

end Sys2Proof.Machine

namespace Sys2Proof.Spec

open Sys2Proof.Machine

/-! ## What no reader of memory sees -/

theorem KeepsMemory.refl (s : State) : KeepsMemory s s := ⟨fun _ => rfl, fun _ _ => rfl⟩

theorem KeepsMemory.trans {s t u : State} (h : KeepsMemory s t) (k : KeepsMemory t u) : KeepsMemory s u :=
  ⟨fun a => (k.memory a).trans (h.memory a), fun i a => (k.seen i a).trans (h.seen i a)⟩

theorem KeepsMemory.updCore (s : State) (r : CoreRef) (f : Core → Core) : KeepsMemory s (s.updCore r f) :=
  ⟨fun _ => rfl, State.dieByte_updCore s r f⟩

theorem KeepsMemory.updPipe (s : State) (n : Nat) (f : Pipe → Pipe) : KeepsMemory s (s.updPipe n f) :=
  ⟨fun _ => rfl, fun _ _ => rfl⟩

theorem KeepsMemory.dropRefusals (s : State) (u : XlatUser → Bool) : KeepsMemory s (s.dropRefusals u) :=
  ⟨fun _ => rfl, fun _ _ => rfl⟩

end Sys2Proof.Spec

namespace Sys2Proof.Machine

open Sys2Proof.Spec

/-! ## The start of one task (R48, R49) -/

/-- A context at a task's start holds the arguments and nothing else (R48). -/
theorem Context.fresh_start (c : Context) (entry vdtab : Word) (args : Vector Word 8) : Fresh (c.start entry vdtab args) entry args vdtab := by
  have reg (r : BitVec 5) : (c.start entry vdtab args).x[r.toFin] =
      if h : 1 ≤ r.toNat ∧ r.toNat ≤ 8 then args[r.toNat - 1] else 0 := Vector.getElem_ofFn _
  refine ⟨rfl, rfl, fun j => ?_, fun r hr => ?_, fun r => ?_, rfl, rfl, rfl, rfl⟩
  · have hv : (BitVec.ofNat 5 (j.val + 1)).toNat = j.val + 1 := Nat.mod_eq_of_lt (by omega)
    have hz : BitVec.ofNat 5 (j.val + 1) ≠ 0 := fun e => by simpa [hv] using congrArg BitVec.toNat e
    rw [Context.rd, if_neg hz, reg]
    simp only [hv, Nat.add_sub_cancel, Nat.le_add_left, true_and]
    exact dif_pos (by omega)
  · unfold Context.rd
    split
    · rfl
    · rw [reg, dif_neg (by omega)]
  · exact Vector.getElem_replicate _

theorem claimIns_keepsMemory (d : StageDecl) (r : CoreRef) (s : State) : KeepsMemory s (claimIns d r s).1 :=
  foldl_keeps (P := fun t => KeepsMemory s t) (fun t _ h => h.trans (KeepsMemory.updCore t r _)) d.ins s (KeepsMemory.refl s)

theorem reserveOuts_keepsMemory {p : Pipe} {held : List Resv} {s t : State} {l : List (Nat × Nat)} {v : List Resv}
    (h : reserveOuts p held s l = some (t, v)) : KeepsMemory s t := by
  induction l generalizing s v with
  | nil => cases h; exact KeepsMemory.refl _
  | cons x l ih =>
    unfold reserveOuts at h
    split at h
    · exact ih h
    · split at h
      · cases h
      · dsimp only at h
        split at h
        · cases h
        · split at h
          · cases h
          · next h' =>
            cases h
            exact (KeepsMemory.updCore s _ _).trans (ih h')

/-- The accesses of a core's engines and contexts, as translation knows them (R76). -/
def XlatUser.ofCore (r : CoreRef) : XlatUser → Bool
  | .engine k _ => k == r
  | .frontEnd => false

/-- The task that a start puts on its core. -/
def startedTask (s : State) (p : Pipe) (d : StageDecl) (t : TaskRec) (kind : TaskKind) (member size : Nat) (resv : List Resv) : Task where
  pipe := p.id
  record := t
  kind := kind
  member := member
  gangSize := size
  gangId := ((s.pipe? p.id).map Pipe.gangs).getD 0
  sideEffect := false
  claims := d.ins
  resv := resv
  phase := .running
  x1AtExit := 0
  exitPc := 0
  exitCtx := .load
  lfsr0 := 0
  usedQldr := false
  spawned := 0
  asked := none

/-- An admissible start takes place: claims and reservations are made, and the core starts (R48, R49). -/
theorem State.tryStart_eq {s s1 : State} {p : Pipe} {stage : Nat} {d : StageDecl} {site : Option (Fin 6)} {t : TaskRec} {r : CoreRef}
    {held resv : List Resv} (hd : p.record.stages[stage]? = some d) (he : t.waitEv &&& ~~~p.events = 0)
    (hm : s.startMember p d stage site = some r) (hr : reserveOuts p held s d.outs = some (s1, resv)) (kind : TaskKind) (member size : Nat) :
    let s2 := (claimIns d r s1).1
    s.tryStart p stage site t kind member size held none = some
      ((s2.updCore r (Core.start d.entry p.vdtab (startedTask s2 p d t kind member size resv))).dropRefusals (XlatUser.ofCore r)) := by
  simp only [State.tryStart, hd, he, hm, hr, ne_eq, not_true_eq_false, if_false]
  exact congrArg (fun f => some (State.dropRefusals _ f)) (funext fun u => by cases u <;> rfl)

/-! ## Which task starts (R324) -/

theorem State.readRecords_nothing {s : State} {q : Pipe} (hq : s.pipe? q.id = some q) (hs : q.seeds = []) (ht : q.tmplDue = []) :
    s.readRecords q = (s, false) := by
  have seeds : s.readSeeds q = (s, false) := by simp [State.readSeeds, hs, State.readEach]
  have tmpls : s.readTmpls q = (s, false) := by simp [State.readTmpls, ht, State.readTmplEach]
  simp [State.readRecords, seeds, hq, tmpls]

/-- With nothing left to read, TASK_START makes the first admissible start of its stage. -/
theorem execTaskStart_read {s : State} {id : Nat} {stage : Fin 16} {q : Pipe} {d : StageDecl} (hq : s.pipe? id = some q)
    (hd : q.record.stages[stage.val]? = some d) (hopen : q.isStopped stage.val = false) (hend : q.ended = false) (hpre : q.pre = .none)
    (hs : q.seeds = []) (ht : q.tmplDue = []) (hlow : s.lowerStarts q stage.val = false) :
    execTaskStart id stage s = .next ((s.nextStart q stage.val).getD s) := by
  have hread : s.readRecords q = (s, false) := State.readRecords_nothing (by rwa [State.pipe?_id hq]) hs ht
  have hnext : s.startNext q stage.val = s.nextStart q stage.val := by
    simp [State.startNext, hd, hopen, hend, hpre, hread, hs, ht]
  simp [execTaskStart, go, hq, hlow, hnext]

/-- The first seed record of a stage of gang size 1 starts, where no child and no task pending again comes before it. -/
theorem State.nextStart_seed {s t : State} {q : Pipe} {stage n : Nat} {d : StageDecl} {e : TaskRec} {more : List (Nat × Nat × TaskRec)}
    (hd : q.record.stages[stage]? = some d) (hopen : q.isStopped stage = false) (hend : q.ended = false) (hpre : q.pre = .none)
    (hgang : d.gang = 1) (hkids : s.kidsOf q stage = []) (hrep : (q.replays.filter fun x => x.record.stage == stage) = [])
    (hrec : (q.seedRecs.filter fun x => x.1 == stage) = (stage, n, e) :: more)
    (hstart : s.tryStart q stage none e .seed 0 1 [] none = some t) :
    s.nextStart q stage = some ((t.nextGang q.id).updPipe q.id fun p => { p with seedRecs := p.seedRecs.filter fun x => !([(stage, n, e)].contains x) }) := by
  have child : s.startChild q stage = none := by simp [State.startChild, hkids]
  have replay : s.startReplay q stage = none := by simp [State.startReplay, hrep]
  have gang : s.tryGang q stage .seed 1 0 [e] = some (t.nextGang q.id) := by simp [State.tryGang, hstart]
  have seed : s.startSeed q stage 1 = some ((t.nextGang q.id).updPipe q.id fun p =>
      { p with seedRecs := p.seedRecs.filter fun x => !([(stage, n, e)].contains x) }) := by
    simp [State.startSeed, hrec, groupsOf, gang]
  simp [State.nextStart, hd, hopen, hend, hpre, child, replay, hgang, seed]

end Sys2Proof.Machine

open Sys2Proof Sys2Proof.Machine Sys2Proof.Spec

/-- Settles O37: TASK_START makes the start of the stage's first seed record (`execTaskStart_read`, `State.nextStart_seed`), whose core
is the one of `State.tryStart_eq`. -/
theorem taskStarts : Obligations.TaskStarts := by
  intro s s1 id stage q d n e more r resv hq hid hd hopen hend hpre hs ht hlow hgang hkids hrep hrec he hm hr
  let s2 := (claimIns d r s1).1
  let k := startedTask s2 q d e .seed 0 1 resv
  let s3 := s2.updCore r (Core.start d.entry q.vdtab k)
  let s4 := s3.dropRefusals (XlatUser.ofCore r)
  let s5 := s4.nextGang q.id
  let left (p : Pipe) : Pipe := { p with seedRecs := p.seedRecs.filter fun x => !([(stage.val, n, e)].contains x) }
  have hex : exec (.taskStart id stage) s = .next (s5.updPipe q.id left) := by
    refine (execTaskStart_read hq hd hopen hend hpre hs ht hlow).trans ?_
    rw [State.nextStart_seed hd hopen hend hpre hgang hkids hrep hrec (State.tryStart_eq hd he hm hr .seed 0 1)]
    rfl
  have hcore : (s5.updPipe q.id left).core r = (s2.core r).start d.entry q.vdtab k := State.core_updCore s2 r _
  have hnext (m : Nat) : d.entry + BitVec.ofNat 64 m = wrap (u d.entry + m) := by
    simp [wrap, u, BitVec.ofInt_add, BitVec.ofInt_natCast]
  refine ⟨_, { k with lfsr0 := 1 }, hex, by rw [hcore]; rfl, rfl, hid, rfl, rfl, rfl, rfl, rfl, rfl, ?_⟩
  rw [hcore]
  refine ⟨Context.fresh_start _ _ _ _, hnext 4 ▸ Context.fresh_start _ _ _ _, hnext 8 ▸ Context.fresh_start _ _ _ _, fun j => ⟨?_, ?_⟩,
    fun j => ?_, fun j => ?_, rfl, rfl, fun j => ?_, fun ring c hin => ?_, fun p hp => ?_, ?_⟩
  · exact Vector.getElem_replicate _
  · exact Vector.getElem_replicate _
  · exact Vector.getElem_replicate _
  · exact Vector.getElem_replicate _
  · exact Vector.getElem_replicate _
  · change ((s2.core r).ring ring).claim = _
    simp only [s2, claimIns, hin, List.foldl, State.core_updCore, Core.ring, Core.updRing, Fin.getElem_fin, Vector.getElem_set_self]
  · rw [State.pipe?_updPipe s5 q.id id (f := left) (fun _ => rfl)] at hp
    obtain ⟨p0, hp0, rfl⟩ := Option.map_eq_some_iff.1 hp
    have : p0.id = q.id := (State.pipe?_id hp0).trans hid.symm
    simp [this, left]
  · exact (reserveOuts_keepsMemory hr).trans ((claimIns_keepsMemory d r s1).trans ((KeepsMemory.updCore s2 r _).trans
      ((KeepsMemory.dropRefusals s3 _).trans ((KeepsMemory.updPipe s4 q.id _).trans (KeepsMemory.updPipe s5 q.id left)))))

end

section
/-! SUPPORT. What the life of a task leaves alone: an update seen core by core and pipeline by pipeline, what readers of global
memory see, and the updates that tidy up after a task. -/

namespace Sys2Proof.Machine

open Sys2Proof.Spec

/-! ## An update seen core by core -/

/-- Every core of t stands to the same core of s in a relation. -/
def CoresVia (R : Core → Core → Prop) (s t : State) : Prop := ∀ r, R (s.core r) (t.core r)

section cores

variable {R : Core → Core → Prop}

theorem CoresVia.of_dies {s t : State} (refl : ∀ c, R c c) (h : t.dies = s.dies) : CoresVia R s t := fun r => by
  rw [State.core, State.core, State.die, State.die, h]
  exact refl _

theorem CoresVia.trans {s t u : State} (trans : ∀ a b c, R a b → R b c → R a c) (h : CoresVia R s t) (k : CoresVia R t u) :
    CoresVia R s u := fun r => trans _ _ _ (h r) (k r)

theorem CoresVia.updDie (s : State) (i : Fin 6) {f : Die → Die} (refl : ∀ c, R c c) (h : ∀ d (j : Fin 8), R d.cores[j] (f d).cores[j]) :
    CoresVia R s (s.updDie i f) := fun r => by
  unfold State.core
  rw [State.die_updDie_eq]
  split
  · exact h _ _
  · exact refl _

theorem CoresVia.mapDies (s : State) {f : Die → Die} (h : ∀ d (j : Fin 8), R d.cores[j] (f d).cores[j]) :
    CoresVia R s { s with dies := s.dies.map f } := fun r => by
  have : (s.dies.map f)[r.site] = f s.dies[r.site] := Vector.getElem_map _ _
  simp only [State.core, State.die, this]
  exact h _ _

theorem CoresVia.updCore (s : State) (r : CoreRef) {f : Core → Core} (refl : ∀ c, R c c) (h : ∀ c, R c (f c)) :
    CoresVia R s (s.updCore r f) := fun k => by
  by_cases hk : k = r
  · rw [hk, State.core_updCore]; exact h _
  · rw [State.core_updCore_ne s f hk]; exact refl _

/-- Every core of a die has its contexts changed. -/
theorem Die.cores_mapCtxs (d : Die) (g : Context → Context) (h : ∀ c, R c (c.updCtxs g)) (j : Fin 8) :
    R d.cores[j] (d.cores.map fun c => c.updCtxs g)[j] := by
  have : (d.cores.map fun c => c.updCtxs g)[j] = d.cores[j].updCtxs g := Vector.getElem_map _ _
  rw [this]
  exact h _

end cores

/-- The task of a core and the state of its contexts are the same. -/
structure Core.SameTask (c d : Core) : Prop where
  task : d.task = c.task
  status : ∀ n, (d.ctx n).status = (c.ctx n).status

theorem Core.SameTask.refl (c : Core) : c.SameTask c := ⟨rfl, fun _ => rfl⟩

theorem Core.SameTask.trans (a b c : Core) (h : a.SameTask b) (k : b.SameTask c) : a.SameTask c :=
  ⟨k.task.trans h.task, fun n => (k.status n).trans (h.status n)⟩

theorem Core.sameTask_updCtxs {g : Context → Context} (h : ∀ x, (g x).status = x.status) (c : Core) : c.SameTask (c.updCtxs g) :=
  ⟨rfl, fun n => by rw [Core.ctx_updCtxs, h]⟩

/-! ## An update seen pipeline by pipeline -/

/-- The counts, events and waiting fault records of a pipeline are the same. -/
structure Pipe.SameCounts (p q : Pipe) : Prop where
  retired : q.retired = p.retired
  faulted : q.faulted = p.faulted
  events : q.events = p.events
  faults : q.faults = p.faults

theorem Pipe.SameCounts.refl (p : Pipe) : p.SameCounts p := ⟨rfl, rfl, rfl, rfl⟩

theorem Pipe.SameCounts.trans {a b c : Pipe} (h : a.SameCounts b) (k : b.SameCounts c) : a.SameCounts c :=
  ⟨k.retired.trans h.retired, k.faulted.trans h.faulted, k.events.trans h.events, k.faults.trans h.faults⟩

/-- Every pipeline is still there, with the same counts. -/
def KeepsCounts (s t : State) : Prop := ∀ n p, s.pipe? n = some p → ∃ q, t.pipe? n = some q ∧ p.SameCounts q

theorem KeepsCounts.of_pipes {s t : State} (h : t.fe.pipes = s.fe.pipes) : KeepsCounts s t := fun n p hp =>
  ⟨p, by rw [State.pipe?, h]; exact hp, Pipe.SameCounts.refl p⟩

theorem KeepsCounts.trans {s t u : State} (h : KeepsCounts s t) (k : KeepsCounts t u) : KeepsCounts s u := fun n p hp => by
  obtain ⟨q, hq, hpq⟩ := h n p hp
  obtain ⟨q', hq', hqq⟩ := k n q hq
  exact ⟨q', hq', hpq.trans hqq⟩

theorem KeepsCounts.updPipe (s : State) (n : Nat) {f : Pipe → Pipe} (hid : ∀ p, (f p).id = p.id) (hf : ∀ p : Pipe, p.SameCounts (f p)) :
    KeepsCounts s (s.updPipe n f) := fun m p hp => by
  refine ⟨_, by rw [State.pipe?_updPipe s n m hid, hp, Option.map_some], ?_⟩
  split
  · exact hf p
  · exact Pipe.SameCounts.refl p

/-! ## What a reader of global memory sees -/

/-- What decides what the homes, the dies and the tags answer to a reader is the same. -/
structure ReadsAlike (s t : State) : Prop where
  mem : t.homes.mem = s.homes.mem
  pageOwner : t.homes.pageOwner = s.homes.pageOwner
  keys : t.homes.keys = s.homes.keys
  full : t.homes.full = s.homes.full
  cache : ∀ i, (t.die i).cache = (s.die i).cache
  buf : ∀ i, (t.die i).buf = (s.die i).buf

namespace ReadsAlike

variable {s t u : State}

theorem of_eq (hd : t.dies = s.dies) (hh : t.homes = s.homes) : ReadsAlike s t := by
  have die (i : Fin 6) : t.die i = s.die i := by rw [State.die, State.die, hd]
  exact ⟨by rw [hh], by rw [hh], by rw [hh], by rw [hh], fun i => by rw [die], fun i => by rw [die]⟩

theorem trans (h : ReadsAlike s t) (k : ReadsAlike t u) : ReadsAlike s u :=
  ⟨k.mem.trans h.mem, k.pageOwner.trans h.pageOwner, k.keys.trans h.keys, k.full.trans h.full, fun i => (k.cache i).trans (h.cache i),
    fun i => (k.buf i).trans (h.buf i)⟩

theorem updDie (s : State) (i : Fin 6) {f : Die → Die} (hc : ∀ d, (f d).cache = d.cache) (hb : ∀ d, (f d).buf = d.buf) :
    ReadsAlike s (s.updDie i f) := by
  refine ⟨rfl, rfl, rfl, rfl, fun j => ?_, fun j => ?_⟩ <;> rw [State.die_updDie_eq] <;> split
  · exact hc _
  · rfl
  · exact hb _
  · rfl

theorem mapDies (s : State) {f : Die → Die} (hc : ∀ d, (f d).cache = d.cache) (hb : ∀ d, (f d).buf = d.buf) :
    ReadsAlike s { s with dies := s.dies.map f } := by
  have die (i : Fin 6) : (s.dies.map f)[i] = f s.dies[i] := Vector.getElem_map _ _
  exact ⟨rfl, rfl, rfl, rfl, fun i => (congrArg Die.cache (die i)).trans (hc _), fun i => (congrArg Die.buf (die i)).trans (hb _)⟩

theorem updCore (s : State) (r : CoreRef) (f : Core → Core) : ReadsAlike s (s.updCore r f) :=
  updDie s r.site (fun _ => rfl) fun _ => rfl

theorem updPipe (s : State) (n : Nat) (f : Pipe → Pipe) : ReadsAlike s (s.updPipe n f) := of_eq rfl rfl

theorem updHomes (s : State) {f : Homes → Homes} (hm : (f s.homes).mem = s.homes.mem) (ho : (f s.homes).pageOwner = s.homes.pageOwner)
    (hk : (f s.homes).keys = s.homes.keys) (hf : (f s.homes).full = s.homes.full) : ReadsAlike s (s.updHomes f) :=
  ⟨hm, ho, hk, hf, fun _ => rfl, fun _ => rfl⟩

theorem noKey (h : ReadsAlike s t) (page : Nat) : t.homes.noKey page = s.homes.noKey page := by
  rw [Homes.noKey, Homes.noKey, Homes.owner, Homes.owner, h.pageOwner, h.keys]

theorem byte (h : ReadsAlike s t) (a : Nat) : t.homes.byte a = s.homes.byte a := by
  rw [Homes.byte, Homes.byte, h.noKey, h.mem]

theorem line (h : ReadsAlike s t) (i : Fin 6) (l : Nat) : (t.die i).line l = (s.die i).line l := by
  rw [Die.line, Die.line, h.cache]

theorem mByte (h : ReadsAlike s t) (i : Fin 6) (a : Nat) : (t.die i).mByte a = (s.die i).mByte a := by
  rw [Die.mByte, Die.mByte, h.line]

theorem keepsMemory (h : ReadsAlike s t) : KeepsMemory s t :=
  ⟨h.byte, fun i a => by rw [State.dieByte, State.dieByte, h.buf, h.mByte, h.byte]⟩

theorem cohByte (h : ReadsAlike s t) (a : Nat) : t.cohByte a = s.cohByte a := by
  simp only [State.cohByte, h.mByte, h.byte]

theorem cohN (h : ReadsAlike s t) (a n : Nat) : t.cohN a n = s.cohN a n := by
  rw [State.cohN, State.cohN, funext h.cohByte]

theorem tagFull (h : ReadsAlike s t) (a : Nat) : t.homes.tagFull a = s.homes.tagFull a := by
  rw [Homes.tagFull, Homes.tagFull, h.full]

end ReadsAlike

/-! ## Tidying up -/

/-- t differs from s in what is tidied up around tasks: rings, links, queued children, leases, requests, parked records, pools.
Readers of memory see the same, which addresses name a reachable package is the same, every core keeps its task, and every
pipeline its counts. -/
structure Tidies (s t : State) : Prop extends ReadsAlike s t where
  dlaOk : t.dlaOk = s.dlaOk
  tasks : CoresVia Core.SameTask s t
  counts : KeepsCounts s t

namespace Tidies

variable {s t u : State}

theorem of_eq (hd : t.dies = s.dies) (hh : t.homes = s.homes) (hp : t.fe.pipes = s.fe.pipes) (ho : t.dlaOk = s.dlaOk) : Tidies s t :=
  ⟨ReadsAlike.of_eq hd hh, ho, CoresVia.of_dies Core.SameTask.refl hd, KeepsCounts.of_pipes hp⟩

theorem refl (s : State) : Tidies s s := of_eq rfl rfl rfl rfl

theorem trans (h : Tidies s t) (k : Tidies t u) : Tidies s u :=
  ⟨h.toReadsAlike.trans k.toReadsAlike, k.dlaOk.trans h.dlaOk, CoresVia.trans Core.SameTask.trans h.tasks k.tasks, h.counts.trans k.counts⟩

theorem foldl {α : Type} {f : State → α → State} (h : ∀ s a, Tidies s (f s a)) (l : List α) (s : State) : Tidies s (l.foldl f s) :=
  foldl_keeps (P := fun t => Tidies s t) (fun t a ht => ht.trans (h t a)) l s (refl s)

theorem updDie (s : State) (i : Fin 6) {f : Die → Die} (hc : ∀ d, (f d).cache = d.cache) (hb : ∀ d, (f d).buf = d.buf)
    (ht : ∀ (d : Die) (j : Fin 8), d.cores[j].SameTask (f d).cores[j]) : Tidies s (s.updDie i f) :=
  ⟨ReadsAlike.updDie s i hc hb, rfl, CoresVia.updDie s i Core.SameTask.refl ht, KeepsCounts.of_pipes rfl⟩

theorem mapDies (s : State) {f : Die → Die} (hc : ∀ d, (f d).cache = d.cache) (hb : ∀ d, (f d).buf = d.buf)
    (ht : ∀ (d : Die) (j : Fin 8), d.cores[j].SameTask (f d).cores[j]) : Tidies s { s with dies := s.dies.map f } :=
  ⟨ReadsAlike.mapDies s hc hb, rfl, CoresVia.mapDies s ht, KeepsCounts.of_pipes rfl⟩

theorem updCore (s : State) (r : CoreRef) {f : Core → Core} (h : ∀ c : Core, c.SameTask (f c)) : Tidies s (s.updCore r f) :=
  ⟨ReadsAlike.updCore s r f, rfl, CoresVia.updCore s r Core.SameTask.refl h, KeepsCounts.of_pipes rfl⟩

theorem updHomes (s : State) {f : Homes → Homes} (hm : (f s.homes).mem = s.homes.mem) (ho : (f s.homes).pageOwner = s.homes.pageOwner)
    (hk : (f s.homes).keys = s.homes.keys) (hf : (f s.homes).full = s.homes.full) : Tidies s (s.updHomes f) :=
  ⟨ReadsAlike.updHomes s hm ho hk hf, rfl, CoresVia.of_dies Core.SameTask.refl rfl, KeepsCounts.of_pipes rfl⟩

theorem updPipe (s : State) (n : Nat) {f : Pipe → Pipe} (hid : ∀ p, (f p).id = p.id) (hf : ∀ p : Pipe, p.SameCounts (f p)) :
    Tidies s (s.updPipe n f) :=
  ⟨ReadsAlike.of_eq rfl rfl, rfl, CoresVia.of_dies Core.SameTask.refl rfl, KeepsCounts.updPipe s n hid hf⟩

/-- A change of a core's rings. -/
theorem updRing (s : State) (r : CoreRef) (n : Nat) (f : RingInst → RingInst) : Tidies s (s.updCore r fun c => c.updRing n f) :=
  updCore s r fun _ => ⟨rfl, fun n => by cases n <;> rfl⟩

theorem updLease (s : State) (n : Nat) (r : CoreRef) (f : Lease → Lease) : Tidies s (s.updLease n r f) :=
  updDie s r.site (fun _ => rfl) (fun _ => rfl) fun _ _ => Core.SameTask.refl _

theorem unlinkOut (s : State) (r : CoreRef) : Tidies s (s.unlinkOut r) := by
  unfold State.unlinkOut
  split
  · exact refl s
  · refine trans ?_ (updCore _ _ fun c => ⟨rfl, fun n => by cases n <;> rfl⟩)
    exact updCore s r fun c => ⟨rfl, fun n => by cases n <;> rfl⟩

theorem unlinkIn (s : State) (r : CoreRef) : Tidies s (s.unlinkIn r) := by
  unfold State.unlinkIn
  split
  · exact refl s
  · refine trans ?_ (updCore _ _ fun c => ⟨rfl, fun n => by cases n <;> rfl⟩)
    exact updCore s r fun c => ⟨rfl, fun n => by cases n <;> rfl⟩

theorem defineRings (s : State) (p : Pipe) (stage : Nat) (r : CoreRef) : Tidies s (s.defineRings p stage r) := by
  unfold State.defineRings
  split
  · exact refl s
  · refine foldl (fun s x => ?_) _ s
    split
    · exact updRing s r _ _
    · exact refl s

theorem undefineStage (s : State) (p : Pipe) (stage : Nat) (r : CoreRef) : Tidies s (s.undefineStage p stage r) := by
  unfold State.undefineStage
  split
  · exact refl s
  · exact foldl (fun s x => updRing s r _ _) _ s

theorem move (s : State) (p : Pipe) (m : Member) (stage : Nat) : Tidies s (s.move p m stage) :=
  (((undefineStage s p m.stage m.at_).trans (defineRings _ p stage m.at_)).trans (updLease _ p.id m.at_ _)).trans
    (updPipe _ p.id (fun _ => rfl) fun _ => ⟨rfl, rfl, rfl, rfl⟩)

/-- A member that becomes free may go to another stage (R329). -/
theorem afterFree (s : State) (n : Nat) (r : CoreRef) : Tidies s (s.afterFree n r) := by
  unfold State.afterFree
  split
  · exact refl s
  · split
    · exact refl s
    · split
      · exact refl s
      · split
        · exact refl s
        · exact (move s _ _ _).trans (updPipe _ n (fun _ => rfl) fun _ => ⟨rfl, rfl, rfl, rfl⟩)

theorem returnLeases (s : State) (n : Nat) : Tidies s (s.returnLeases n) := by
  unfold State.returnLeases
  refine foldl (fun s i => ?_) sites s
  exact updDie s i (fun _ => rfl) (fun _ => rfl) fun d j => Core.SameTask.refl d.cores[j]

theorem purgeWrites (s : State) : Tidies s s.purgeWrites := by
  unfold State.purgeWrites
  refine trans ?_ (foldl (fun s _ => ?_) _ _)
  · exact of_eq rfl rfl rfl rfl
  · exact of_eq rfl rfl rfl rfl

/-- The end of a pipeline (R61). -/
theorem endPipe (s : State) (n : Nat) : Tidies s (s.endPipe n) := by
  unfold State.endPipe
  refine trans ?_ (purgeWrites _)
  refine trans ?_ (returnLeases _ n)
  refine trans ?_ (foldl (fun s r => ?_) allCores _)
  · refine trans ?_ (updPipe _ n (fun _ => rfl) fun _ => ⟨rfl, rfl, rfl, rfl⟩)
    refine trans (t := s.updHomes _) (updHomes s ?_ ?_ ?_ ?_) (of_eq rfl rfl rfl rfl) <;> rfl
  · exact updCore s r fun c => ⟨rfl, fun n => by cases n <;> rfl⟩

theorem endIfDone (s : State) (n : Nat) : Tidies s (s.endIfDone n) := by
  unfold State.endIfDone
  split
  · exact refl s
  · split
    · exact endPipe s n
    · exact refl s

/-- Parked tasks that wait for nothing any more become pending (R284). -/
theorem wakeParked (s : State) : Tidies s s.wakeParked := by
  have unpark (s : State) (p : Parked) : Tidies s (s.unpark p) := by
    unfold State.unpark
    split
    · exact refl s
    · refine updPipe s p.pipe (fun q => ?_) fun q => ?_
      · split <;> rfl
      · split
        · exact Pipe.SameCounts.refl q
        · exact ⟨rfl, rfl, rfl, rfl⟩
  unfold State.wakeParked
  exact trans (foldl unpark _ s) (updHomes _ rfl rfl rfl rfl)

theorem dropKids (s : State) (n : Nat) : Tidies s (s.dropKids n) := by
  unfold State.dropKids
  split
  · exact refl s
  · refine trans ?_ (updPipe _ n (fun _ => rfl) fun _ => ⟨rfl, rfl, rfl, rfl⟩)
    refine foldl (fun s r => ?_) allCores s
    exact updCore s r fun c => ⟨rfl, fun n => by cases n <;> rfl⟩

/-- A shutdown begins or goes on (R334). -/
theorem beginShutdown (s : State) (n status : Nat) (l : List Nat) : Tidies s (s.beginShutdown n status l) := by
  unfold State.beginShutdown
  split
  · refine (updPipe s n (fun p => ?_) fun p => ?_).trans (dropKids _ n)
    · unfold Pipe.shutdown; split <;> rfl
    · unfold Pipe.shutdown; split <;> exact ⟨rfl, rfl, rfl, rfl⟩
  · exact refl s

end Tidies

end Sys2Proof.Machine

end

section
/-! SUPPORT. The end of a task (O38): writes of words at their homes, what a retirement does step after step (R52), the fault of
a task that stands alone, and the end of a squash (R66). -/

namespace Sys2Proof.Machine

open Sys2Proof.Spec

/-! ## A write at a home where no die holds a copy -/

theorem mem_sites (i : Fin 6) : i ∈ sites := by revert i; decide

theorem State.noCopy_of_writeClear {s : State} {l : Nat} (h : s.writeClear l = true) (i : Fin 6) : (s.die i).line l = none := by
  have h := (Bool.and_eq_true_iff.1 h).2
  exact Option.isNone_iff_eq_none.1 (List.all_eq_true.1 h i (mem_sites i))

theorem State.recallLine_noCopy {s : State} {l : Nat} (h : ∀ i, (s.die i).line l = none) : s.recallLine l = s := by
  have same (k : Fin 6) : s.recallFrom k l = s := by simp only [State.recallFrom, h]
  exact foldl_keeps (P := fun t => t = s) (fun t k ht => by rw [ht]; exact same k) sites s rfl

theorem Context.status_trigger (l : Nat) (c : Context) : (c.trigger l).status = c.status := by
  unfold Context.trigger; split <;> rfl

theorem Context.status_watch (l : Nat) (b : Option (Fin 6)) (z : Nat → Bool) (c : Context) : (c.watch l b z).status = c.status := by
  unfold Context.watch
  split
  · split <;> rfl
  · rfl

namespace Tidies

theorem touchLlc (s : State) (l : Nat) : Tidies s (s.touchLlc l) := by
  unfold State.touchLlc
  split
  · exact updHomes s rfl rfl rfl rfl
  · exact refl s

theorem overwrite (s : State) (p : Nat → Bool) : Tidies s (s.overwrite p) := by
  unfold State.overwrite
  exact mapDies s (fun _ => rfl) (fun _ => rfl) fun d j => Core.SameTask.refl d.cores[j]

theorem triggerDie (s : State) (i : Fin 6) (l : Nat) : Tidies s (s.triggerDie i l) := by
  unfold State.triggerDie
  exact updDie s i (fun _ => rfl) (fun _ => rfl) fun d j => Die.cores_mapCtxs d _ (Core.sameTask_updCtxs (Context.status_trigger l)) j

theorem watchLine (s : State) (l : Nat) : Tidies s (s.watchLine l) := by
  let g := Context.watch l (s.mHolder l) fun a => s.cohN a 8 == 0
  refine trans (t := { s with dies := s.dies.map fun d => { d with cores := d.cores.map fun c => c.updCtxs g } }) ?_ ?_
  · exact mapDies s (fun _ => rfl) (fun _ => rfl) fun d j => Die.cores_mapCtxs d g (Core.sameTask_updCtxs (Context.status_watch l _ _)) j
  · exact updHomes (f := fun h => { h with watches := h.watches.map (s.watchHit l) }) _ rfl rfl rfl rfl

theorem triggerAll (s : State) (l : Nat) : Tidies s (s.triggerAll l) := by
  unfold State.triggerAll
  exact trans (foldl (fun s i => triggerDie s i l) sites s) (watchLine _ l)

/-- Of a write at a home the bytes apart, there is only tidying up. -/
theorem homeWrite {s : State} {a : Nat} (h : ∀ i, (s.die i).line (lineOf a) = none) (size w : Nat) :
    Tidies (s.updHomes fun h => h.put a size w) (s.homeWrite a size w) := by
  unfold State.homeWrite
  rw [State.recallLine_noCopy h]
  refine trans ?_ (triggerAll _ _)
  refine trans ?_ (overwrite _ _)
  exact touchLlc _ _

end Tidies

/-! ## Words -/

theorem bytesNat_congr {f g : Nat → Byte} {a n : Nat} (h : ∀ i, i < n → f (a + i) = g (a + i)) : bytesNat f a n = bytesNat g a n := by
  induction n generalizing a with
  | zero => rfl
  | succ n ih =>
    have h0 : f a = g a := h 0 (Nat.succ_pos n)
    have ht : bytesNat f (a + 1) n = bytesNat g (a + 1) n := ih fun i hi => by
      have := h (i + 1) (Nat.succ_lt_succ hi)
      rwa [← Nat.add_assoc, Nat.add_right_comm] at this
    rw [bytesNat, bytesNat, h0, ht]

/-- The bytes of a word make the word. -/
theorem bytesNat_word {f : Nat → Byte} {a n w : Nat} (h : ∀ i, i < n → f (a + i) = BitVec.ofNat 8 (w / 256 ^ i)) :
    bytesNat f a n = w % 256 ^ n := by
  induction n generalizing a w with
  | zero => simp [bytesNat, Nat.mod_one]
  | succ n ih =>
    have h0 : f a = BitVec.ofNat 8 w := by simpa using h 0 (Nat.succ_pos n)
    have ht : bytesNat f (a + 1) n = w / 256 % 256 ^ n := ih fun i hi => by
      have := h (i + 1) (Nat.succ_lt_succ hi)
      rwa [← Nat.add_assoc, Nat.add_right_comm, Nat.pow_succ', ← Nat.div_div_eq_div_mul] at this
    rw [bytesNat, h0, ht, Nat.pow_succ', Nat.mod_mul, BitVec.toNat_ofNat]

/-- A word that a home can write in one step: aligned, in a page with a key, in a line of which no die holds a copy. -/
structure Writable (s : State) (a : Nat) : Prop where
  aligned : a % 8 = 0
  noCopy : ∀ i, (s.die i).line (lineOf a) = none
  key : s.homes.noKey (pageOf a) = false

theorem Writable.readsAlike {s t : State} {a : Nat} (h : Writable s a) (k : ReadsAlike s t) : Writable t a :=
  ⟨h.aligned, fun i => (k.line i _).trans (h.noCopy i), (k.noKey _).trans h.key⟩

/-- t is s after the word at a became v: other words read as before, and what a later write needs is as it was. -/
structure WritesWord (s t : State) (a v : Nat) : Prop where
  value : t.cohN a 8 = v % 2 ^ 64
  others : ∀ b, b % 8 = 0 → b ≠ a → t.cohN b 8 = s.cohN b 8
  writable : ∀ b, Writable s b → Writable t b
  dlaOk : t.dlaOk = s.dlaOk
  tasks : CoresVia Core.SameTask s t
  counts : KeepsCounts s t

/-- What is tidied up after a write changes nothing of it. -/
theorem WritesWord.tidies {s t u : State} {a v : Nat} (h : WritesWord s t a v) (k : Tidies t u) : WritesWord s u a v where
  value := (k.cohN a 8).trans h.value
  others b hb ne := (k.cohN b 8).trans (h.others b hb ne)
  writable b hb := (h.writable b hb).readsAlike k.toReadsAlike
  dlaOk := k.dlaOk.trans h.dlaOk
  tasks := CoresVia.trans Core.SameTask.trans h.tasks k.tasks
  counts := h.counts.trans k.counts

/-- A byte that no die holds in M is read at its home. -/
theorem State.cohByte_noCopy {s : State} {a : Nat} (h : ∀ i, (s.die i).line (lineOf a) = none) : s.cohByte a = s.homes.byte a := by
  have : (sites.findSome? fun i => (s.die i).mByte a) = none :=
    List.findSome?_eq_none_iff.2 fun i _ => by rw [Die.mByte, h]
  rw [State.cohByte, this]
  rfl

/-- What dies hold and what homes answer is all that a coherent read sees. -/
theorem State.cohN_updHomes {s : State} {f : Homes → Homes} {a n : Nat} (h : ∀ i, i < n → (f s.homes).byte (a + i) = s.homes.byte (a + i)) :
    (s.updHomes f).cohN a n = s.cohN a n := by
  refine bytesNat_congr fun i hi => ?_
  simp only [State.cohByte, State.homes_updHomes, State.die_updHomes, h i hi]

theorem WritesWord.put {s : State} {a : Nat} (h : Writable s a) (v : Nat) : WritesWord s (s.updHomes fun h => h.put a 8 v) a v where
  value := by
    obtain ⟨aligned, noCopy, key⟩ := h
    refine bytesNat_word fun i hi => ?_
    have hl : lineOf (a + i) = lineOf a := by unfold lineOf; omega
    have hp : pageOf (a + i) = pageOf a := by unfold pageOf; omega
    have hn : ∀ k, (((s.updHomes fun h => h.put a 8 v).die k).line (lineOf (a + i))) = none := fun k => by rw [hl]; exact noCopy k
    rw [State.cohByte_noCopy hn, State.homes_updHomes, Homes.byte_put, if_pos ⟨key, by rw [hp]; exact key, by omega, by omega⟩,
      Nat.add_sub_cancel_left]
  others b hb ne := by
    have ha := h.aligned
    refine State.cohN_updHomes fun i hi => ?_
    rw [Homes.byte_put, if_neg fun hc => by omega]
  writable b hb := ⟨hb.aligned, hb.noCopy, (Homes.noKey_put s.homes a 8 v (pageOf b)).trans hb.key⟩
  dlaOk := rfl
  tasks := CoresVia.of_dies Core.SameTask.refl rfl
  counts := KeepsCounts.of_pipes rfl

theorem WritesWord.homeWrite {s : State} {a : Nat} (h : Writable s a) (v : Nat) : WritesWord s (s.homeWrite a 8 v) a v :=
  (WritesWord.put h v).tidies (Tidies.homeWrite h.noCopy 8 v)

theorem Homes.full_put (h : Homes) (a size w : Nat) : (h.put a size w).full = h.full := by
  unfold Homes.put; split <;> rfl

theorem State.tagFull_homeWrite {s : State} {a : Nat} (h : Writable s a) (v b : Nat) :
    (s.homeWrite a 8 v).homes.tagFull b = s.homes.tagFull b := by
  rw [(Tidies.homeWrite h.noCopy 8 v).tagFull, Homes.tagFull, Homes.tagFull, State.homes_updHomes, Homes.full_put]

/-- Full tags and parked records are no part of a word. -/
theorem WritesWord.updHomes {s t : State} {a v : Nat} (h : WritesWord s t a v) {f : Homes → Homes}
    (hb : ∀ h a, (f h).byte a = h.byte a) (hk : ∀ h p, (f h).noKey p = h.noKey p) : WritesWord s (t.updHomes f) a v := by
  have same (b n : Nat) : (t.updHomes f).cohN b n = t.cohN b n := State.cohN_updHomes fun _ _ => hb _ _
  exact {
    value := (same a 8).trans h.value
    others := fun b hb ne => (same b 8).trans (h.others b hb ne)
    writable := fun b hb => ⟨hb.aligned, (h.writable b hb).noCopy, (hk _ _).trans (h.writable b hb).key⟩
    dlaOk := h.dlaOk
    tasks := h.tasks
    counts := h.counts }

/-- A filled cell is written, whatever wakes with it (R67). -/
theorem WritesWord.fillCell {s : State} {a : Nat} (h : Writable s a) (v : Word) : WritesWord s (s.fillCell a v) a v.toNat := by
  unfold State.fillCell
  refine WritesWord.tidies ?_ (Tidies.wakeParked _)
  exact (WritesWord.homeWrite h v.toNat).updHomes (fun _ _ => rfl) fun _ _ => rfl

theorem State.tagFull_fillCell (s : State) (a : Nat) (v : Word) : (s.fillCell a v).homes.tagFull a = true := by
  unfold State.fillCell
  rw [(Tidies.wakeParked _).tagFull]
  refine decide_eq_true ?_
  simp only [State.homes_updHomes, addNew]
  split
  · assumption
  · exact List.mem_append_right _ List.mem_cons_self

/-! ## The steps of a retirement (R52) -/

/-- A task leaves its core: memory reads the same, and pipelines keep their counts. -/
theorem State.leaveCore_spec (s : State) (r : CoreRef) (n : Nat) : let t := s.leaveCore r n
    (t.core r).task = none ∧ (∀ m, ((t.core r).ctx m).status = .stopped) ∧ ReadsAlike s t ∧ KeepsCounts s t := by
  let u := (s.unlinkOut r).unlinkIn r
  let g (c : Core) : Core := { c.updCtxs (fun x => { x with status := .stopped }) with task := none }
  have free : Tidies (u.updCore r g) (s.leaveCore r n) := Tidies.afterFree _ n r
  have unlink : Tidies s u := (Tidies.unlinkOut s r).trans (Tidies.unlinkIn _ r)
  have hg : (u.updCore r g).core r = g (u.core r) := State.core_updCore u r g
  refine ⟨(free.tasks r).task.trans (by rw [hg]), fun m => ((free.tasks r).status m).trans ?_, ?_, ?_⟩
  · rw [hg]; cases m <;> rfl
  · exact unlink.toReadsAlike.trans ((ReadsAlike.updCore u r g).trans free.toReadsAlike)
  · exact unlink.counts.trans ((KeepsCounts.of_pipes rfl).trans free.counts)

/-- What a retirement has done to its pipeline before the task is counted: its events are raised (R52 step 2). -/
structure Signalled (s t : State) (n : Nat) (p : Pipe) (ev : BitVec 64) : Prop where
  pipe : ∃ q, t.pipe? n = some q ∧ q.retired = p.retired ∧ q.faulted = p.faulted ∧ q.events = p.events ||| ev ∧ q.faults = p.faults
  tasks : CoresVia Core.SameTask s t

theorem Signalled.setEvents {s t : State} {n : Nat} {p : Pipe} (h : Tidies s t) (hp : s.pipe? n = some p) (ev : BitVec 64) :
    Signalled s (t.setEvents n ev) n p ev := by
  obtain ⟨q, hq, same⟩ := h.counts n p hp
  refine ⟨⟨_, State.pipe?_updPipe_same (fun _ => rfl) hq, same.retired, same.faulted, ?_, same.faults⟩, h.tasks⟩
  exact congrArg (· ||| ev) same.events

theorem Signalled.writesWord {s t u : State} {n a v : Nat} {p : Pipe} {ev : BitVec 64} (h : Signalled s t n p ev)
    (k : WritesWord t u a v) : Signalled s u n p ev := by
  obtain ⟨q, hq, hr, hf, he, hs⟩ := h.pipe
  obtain ⟨q', hq', same⟩ := k.counts n q hq
  exact ⟨⟨q', hq', same.retired.trans hr, same.faulted.trans hf, same.events.trans he, same.faults.trans hs⟩,
    CoresVia.trans Core.SameTask.trans h.tasks k.tasks⟩

/-- The task is counted and gone (R52 step 5). -/
theorem Signalled.retired {s t : State} {n : Nat} {p : Pipe} {ev : BitVec 64} (h : Signalled s t n p ev) (r : CoreRef) :
    let w := t.retired r n
    (w.core r).task = none ∧ (∀ m, ((w.core r).ctx m).status = .stopped) ∧
    (∃ q, w.pipe? n = some q ∧ q.retired = p.retired + 1 ∧ q.faulted = p.faulted ∧ q.events = p.events ||| ev) ∧ ReadsAlike t w := by
  obtain ⟨q, hq, hr, hf, he, -⟩ := h.pipe
  let counted := t.updPipe n fun q => { q with retired := q.retired + 1 }
  have hc : counted.pipe? n = some { q with retired := q.retired + 1 } := State.pipe?_updPipe_same (fun _ => rfl) hq
  obtain ⟨task, status, reads, counts⟩ := counted.leaveCore_spec r n
  have done : Tidies (counted.leaveCore r n) (t.retired r n) := Tidies.endIfDone _ n
  obtain ⟨q', hq', same⟩ := (counts.trans done.counts) n _ hc
  refine ⟨(done.tasks r).task.trans task, fun m => ((done.tasks r).status m).trans (status m),
    ⟨q', hq', same.retired.trans (congrArg (· + 1) hr), same.faulted.trans hf, same.events.trans he⟩, ?_⟩
  exact (ReadsAlike.updPipe t n _).trans (reads.trans done.toReadsAlike)

/-! ## The fault of a task that stands alone (R338, R339) -/

theorem Homes.foldl_unpin (l : List Nat) (h : Homes) : ∃ pins, l.foldl Homes.unpin h = { h with pins := pins } := by
  induction l generalizing h with
  | nil => exact ⟨h.pins, rfl⟩
  | cons p l ih =>
    obtain ⟨a, ha⟩ : ∃ a, h.unpin p = { h with pins := a } := by unfold Homes.unpin; dsimp only; split <;> exact ⟨_, rfl⟩
    obtain ⟨b, hb⟩ := ih (h.unpin p)
    exact ⟨b, by rw [List.foldl_cons, hb, ha]⟩

theorem Tidies.unpin (s : State) (l : List Nat) : Tidies s (s.unpin l) := by
  obtain ⟨pins, h⟩ := Homes.foldl_unpin l s.homes
  unfold State.unpin
  exact Tidies.updHomes s (by rw [h]) (by rw [h]) (by rw [h]) (by rw [h])

theorem Tidies.dropHeld (s : State) (r : CoreRef) : Tidies s (s.dropHeld r) := by
  unfold State.dropHeld
  refine Tidies.trans ?_ (Tidies.updDie _ r.site (fun _ => rfl) (fun _ => rfl) fun d j => Core.SameTask.refl d.cores[j])
  exact Tidies.unpin s _

/-- What a faulted task leaves on its core: nothing, or itself as faulted. -/
theorem State.settle_spec {s : State} {r : CoreRef} {k : Task} (hk : (s.core r).task = some k) (hf : k.phase = .faulted) :
    (∀ x, ((s.settle r).core r).task = some x → x.phase = .faulted) ∧ ReadsAlike s (s.settle r) ∧ KeepsCounts s (s.settle r) := by
  unfold State.settle
  rw [hk]
  dsimp only
  split
  · refine ⟨fun x hx => ?_, ReadsAlike.updCore s r _, KeepsCounts.of_pipes rfl⟩
    rw [State.core_updCore] at hx
    cases hx
  · refine ⟨fun x hx => ?_, ReadsAlike.of_eq rfl rfl, KeepsCounts.of_pipes rfl⟩
    cases hk.symm.trans hx
    exact hf

/-- The record of a fault that no peer of its gang raised (R339). -/
structure FaultRec.Names (x : FaultRec) (f : FaultInfo) : Prop where
  code : x.code = BitVec.ofNat 8 f.code
  ctx : x.ctx = BitVec.ofNat 3 f.ctx
  pc : x.pc = f.pc
  addr : x.addr = BitVec.ofNat 64 f.addr

/-- A task whose gang is itself alone ends as faulted: its record waits in its pipeline, and it is counted. -/
theorem State.takeFault_alone {s : State} {r : CoreRef} {k : Task} {p : Pipe} (f : FaultInfo) (hk : (s.core r).task = some k)
    (live : k.live = true) (alone : k.gangSize = 1) (hp : s.pipe? k.pipe = some p) : let t := s.takeFault r f
    (∃ q x, t.pipe? k.pipe = some q ∧ q.retired = p.retired ∧ q.faulted = p.faulted + 1 ∧ q.events = p.events ∧
      q.faults = p.faults ++ [x] ∧ x.Names f) ∧
    (∀ x, (t.core r).task = some x → x.phase = .faulted) ∧ ReadsAlike s t := by
  have peers : s.gangPeers r k = [] := by
    unfold State.gangPeers
    rw [alone]
    refine List.filter_eq_nil_iff.2 fun c _ => ?_
    cases (s.core c).task <;> simp
  have gang : s.endGang r f = s.endTask r f none := by
    simp only [State.endGang, hk, live, if_true, peers, List.foldl_nil]
  have fault : s.takeFault r f = (s.endTask r f none).beginShutdown k.pipe 0x01 [k.record.stage] := by
    simp only [State.takeFault, hk, live, if_true, gang]
  obtain ⟨x, names, u, end_, counts, reads, hu⟩ : ∃ x : FaultRec, x.Names f ∧ ∃ u : State, s.endTask r f none = u.settle r ∧
      (∃ q, u.pipe? k.pipe = some q ∧ q.retired = p.retired ∧ q.faulted = p.faulted + 1 ∧ q.events = p.events ∧ q.faults = p.faults ++ [x]) ∧
      ReadsAlike s u ∧ ∃ k', (u.core r).task = some k' ∧ k'.phase = .faulted := by
    have held : Tidies s ((s.unpin (s.core r).unstartedPages).dropHeld r) := (Tidies.unpin s _).trans (Tidies.dropHeld _ r)
    obtain ⟨q, hq, same⟩ := held.counts _ p hp
    simp only [State.endTask, hk]
    refine ⟨_, ?_, _, rfl, ⟨_, State.pipe?_updPipe_same (fun _ => rfl) hq, same.retired, congrArg (· + 1) same.faulted, same.events,
      congrArg (· ++ [_]) same.faults⟩, held.toReadsAlike.trans ((ReadsAlike.updCore _ r _).trans (ReadsAlike.updPipe _ _ _)), ?_⟩
    · exact ⟨rfl, rfl, rfl, rfl⟩
    · exact ⟨{ k with phase := .faulted }, by rw [State.core_updPipe, State.core_updCore], rfl⟩
  obtain ⟨q, hq, hr, hfa, he, hs⟩ := counts
  obtain ⟨k', hk', hph⟩ := hu
  obtain ⟨ended, settled, kept⟩ := State.settle_spec hk' hph
  have shut := Tidies.beginShutdown (u.settle r) k.pipe 0x01 [k.record.stage]
  obtain ⟨q', hq', same⟩ := (kept.trans shut.counts) _ q hq
  rw [fault, end_]
  refine ⟨⟨q', x, hq', same.retired.trans hr, same.faulted.trans hfa, same.events.trans he, same.faults.trans hs, names⟩,
    fun y hy => ended y ((shut.tasks r).task.symm.trans hy), reads.trans (settled.trans shut.toReadsAlike)⟩

/-- The same after the events of a retirement were raised. -/
theorem Signalled.fault {s t : State} {r : CoreRef} {k : Task} {p : Pipe} {ev : BitVec 64} (h : Signalled s t k.pipe p ev)
    (hk : (s.core r).task = some k) (live : k.live = true) (alone : k.gangSize = 1) (f : FaultInfo) : let w := t.takeFault r f
    (∃ q x, w.pipe? k.pipe = some q ∧ q.retired = p.retired ∧ q.faulted = p.faulted + 1 ∧ q.events = p.events ||| ev ∧
      q.faults = p.faults ++ [x] ∧ x.Names f) ∧
    (∀ x, (w.core r).task = some x → x.phase = .faulted) ∧ ReadsAlike t w := by
  obtain ⟨q, hq, hr, hfa, hev, hfs⟩ := h.pipe
  obtain ⟨⟨q', x, hq', hr', hfa', hev', hfs', names⟩, ended, reads⟩ :=
    State.takeFault_alone f ((h.tasks r).task.trans hk) live alone hq
  exact ⟨⟨q', x, hq', hr'.trans hr, hfa'.trans (congrArg (· + 1) hfa), hev'.trans hev, hfs'.trans (congrArg (· ++ [x]) hfs), names⟩,
    ended, reads⟩

end Sys2Proof.Machine

end

section
/-! SUPPORT. TASK_RETIRE and TASK_SQUASH (O38): what a retirement commits, the steps that it takes, and what a squash gives back. -/

namespace Sys2Proof.Machine

open Sys2Proof.Spec

/-! ## What a retirement commits first (R52 step 1) -/

/-- A die forgets what it knows of the relays of its requests, as it does once they are accepted (R98). -/
def Die.forgetRelays (f : List Nat → List Nat) (g : List (Nat × Home × Nat) → List (Nat × Home × Nat)) (d : Die) : Die :=
  { d with relayed := f d.relayed, engReqs := g d.engReqs }

theorem State.accept_eq (s : State) (i : Fin 6) (ls : List Nat) : ∃ f g, s.accept i ls = s.updDie i (Die.forgetRelays f g) := by
  have fold (d : Die) : ls.foldl (fun d l => d.accepted (linePage l)) d =
      d.forgetRelays (fun x => ls.foldl (fun x l => x.filter (· != linePage l)) x) (fun x => ls.foldl (fun x l => eraseKey (linePage l) x) x) := by
    induction ls generalizing d with
    | nil => rfl
    | cons l ls ih => exact ih (d.accepted (linePage l))
  exact ⟨_, _, congrArg (State.updDie s i) (funext fold)⟩

theorem Tidies.accept (s : State) (i : Fin 6) (ls : List Nat) : Tidies s (s.accept i ls) := by
  obtain ⟨f, g, h⟩ := State.accept_eq s i ls
  rw [h]
  exact Tidies.updDie s i (fun _ => rfl) (fun _ => rfl) fun d j => Core.SameTask.refl d.cores[j]

section relays

variable (f : List Nat → List Nat) (g : List (Nat × Home × Nat) → List (Nat × Home × Nat)) (i : Fin 6)

theorem State.carryPoison_forgetRelays (s : State) (l : Nat) :
    (s.updDie i (Die.forgetRelays f g)).carryPoison i l = (s.carryPoison i l).updDie i (Die.forgetRelays f g) := by
  unfold State.carryPoison
  rw [State.die_updDie]
  change (if (s.die i).badLines.contains l = true then _ else _) = _
  split <;> rfl

theorem State.updDie_updDie (s : State) (a b : Die → Die) : (s.updDie i a).updDie i b = s.updDie i fun d => b (a d) := by
  simp [State.updDie]

theorem State.commitLine_forgetRelays (s : State) (l : Nat) (data : LineData) :
    (s.updDie i (Die.forgetRelays f g)).commitLine l data = (s.commitLine l data).updDie i (Die.forgetRelays f g) := by
  have map (h : Die → Die) (comm : ∀ d, h (Die.forgetRelays f g d) = Die.forgetRelays f g (h d)) :
      (s.dies.set i (Die.forgetRelays f g s.dies[i])).map h = (s.dies.map h).set i (Die.forgetRelays f g (s.dies.map h)[i]) := by
    rw [Vector.map_set, comm]
    simp
  let base (d : Die) : Die := { d with cores := d.cores.map fun c => c.updCtxs (Context.onBase l) }
  exact congrArg (fun v => ({ s.commitLine l data with dies := v } : State)) (map base fun _ => rfl)

/-- A commit of what a context's releases cover does not look at relays. -/
theorem State.commitCovered_forgetRelays (s : State) (c : CtxRef) (m : BitVec 16) (hi : c.at_.site = i) :
    (s.updDie i (Die.forgetRelays f g)).commitCovered c m = (s.commitCovered c m).updDie i (Die.forgetRelays f g) := by
  subst hi
  unfold State.commitCovered
  rw [State.die_updDie]
  change (s.die c.at_.site).cache.foldl _ _ = _
  generalize (s.die c.at_.site).cache = l
  induction l generalizing s with
  | nil => rfl
  | cons x l ih =>
    rw [List.foldl_cons, List.foldl_cons, ← ih]
    congr 1
    split
    · split
      · rw [State.carryPoison_forgetRelays, State.updDie_updDie, ← State.commitLine_forgetRelays, State.updDie_updDie]
        rfl
      · rfl
    · rfl

end relays

/-- With nothing left to commit, accepting a retirement's writes leaves nothing to commit. -/
theorem State.commitTask_accept {s : State} {r : CoreRef} (h : ∀ n, s.commitCovered ⟨r, n⟩ allCls = s) (ls : List Nat) :
    (s.accept r.site ls).commitTask r = s.accept r.site ls := by
  obtain ⟨f, g, e⟩ := State.accept_eq s r.site ls
  have keep (n : CtxName) : (s.accept r.site ls).commitCovered ⟨r, n⟩ allCls = s.accept r.site ls := by
    rw [e, State.commitCovered_forgetRelays f g r.site s ⟨r, n⟩ allCls rfl, h]
  exact foldl_keeps (P := fun t => t = s.accept r.site ls) (fun t n ht => by rw [ht]; exact keep n) ctxNames _ rfl

/-! ## TASK_RETIRE -/

theorem State.mem_retireAddrs {s : State} {k : Task} {a : Nat} (h : a ∈ s.retireAddrs k) :
    (k.record.j = true ∧ a = k.record.joinAddr.toNat) ∨ (k.record.f = true ∧ a = k.record.futRef.toNat) := by
  have h := (List.mem_filter.1 h).1
  rcases List.mem_append.1 h with h | h <;> split at h
  · next hj => exact .inl ⟨hj, List.mem_singleton.1 h⟩
  · cases h
  · next hf => exact .inr ⟨hf, List.mem_singleton.1 h⟩
  · cases h

/-- A Retiring task with nothing left, whose counter and cell can be written, takes the steps of R52 from 2 on. -/
theorem execTaskRetire_ready {s : State} {r : CoreRef} {k : Task} (hk : (s.core r).task = some k) (hph : k.phase = .retiring)
    (heng : ∀ e : Fin 6, (s.core r).eng[e] = []) (hun : k.unpopped = none) (hrel : s.coreReleased r = true)
    (hcom : ∀ n, s.commitCovered ⟨r, n⟩ allCls = s)
    (hready : ∀ a ∈ s.retireAddrs k, s.retireRouted r a = true ∧ s.writeClear (lineOf a) = true) :
    execTaskRetire r s = .next ((s.accept r.site ((s.retireAddrs k).map lineOf)).retireSteps r k) := by
  have queues : (s.core r).eng.toList.all List.isEmpty = true := by
    refine List.all_eq_true.2 fun q hq => ?_
    obtain ⟨j, hj, rfl⟩ := List.getElem_of_mem hq
    exact List.isEmpty_iff.2 (heng ⟨j, by simpa using hj⟩)
  have drained : (s.core r).drainedTask k = true := by rw [Core.drainedTask, hph, queues]; rfl
  have routed : ((s.retireAddrs k).all fun a => s.retireRouted r a) = true := List.all_eq_true.2 fun a ha => (hready a ha).1
  have clear : ((s.retireAddrs k).map lineOf).all s.writeClear = true := by
    rw [List.all_map]; exact List.all_eq_true.2 fun a ha => (hready a ha).2
  simp only [execTaskRetire, go, hk, drained, hun, hrel, routed, withWrites, clear, State.commitTask_accept hcom, Bool.not_true,
    Bool.or_self, Bool.false_eq_true, if_false, if_true]

section steps

variable {s : State} {r : CoreRef} {k : Task}

theorem State.retireSteps_plain (hj : k.record.j = false) :
    s.retireSteps r k = (s.setEvents k.pipe k.record.sigEv).retireFill r k := by
  simp only [State.retireSteps, hj, Bool.not_false, if_true]

theorem State.retireSteps_count (hj : k.record.j = true) (hok : s.dlaOk k.record.joinAddr.toNat = true) :
    s.retireSteps r k = ((s.setEvents k.pipe k.record.sigEv).countDown k.record.joinAddr.toNat).retireFill r k := by
  have hok' : (s.setEvents k.pipe k.record.sigEv).dlaOk k.record.joinAddr.toNat = true := hok
  simp only [State.retireSteps, hj, hok', Bool.not_true, Bool.false_eq_true, if_false]

theorem State.retireFill_none (hf : k.record.f = false) : s.retireFill r k = s.retired r k.pipe := by
  simp only [State.retireFill, hf, Bool.not_false, if_true]

theorem State.retireFill_empty (hf : k.record.f = true) (hok : s.dlaOk k.record.futRef.toNat = true)
    (he : s.homes.tagFull k.record.futRef.toNat = false) :
    s.retireFill r k = (s.fillCell k.record.futRef.toNat k.x1AtExit).retired r k.pipe := by
  simp only [State.retireFill, hf, hok, he, Bool.not_true, Bool.false_eq_true, if_false]

theorem State.retireFill_full (hf : k.record.f = true) (hok : s.dlaOk k.record.futRef.toNat = true)
    (he : s.homes.tagFull k.record.futRef.toNat = true) :
    s.retireFill r k = s.feFault r fFull k.record.futRef.toNat := by
  simp only [State.retireFill, hf, hok, he, Bool.not_true, Bool.false_eq_true, if_false, if_true]

end steps

/-! ## The end of a squash (R66) -/

theorem Core.ring_updRing (c : Core) (n m : Nat) (f : RingInst → RingInst) :
    (c.updRing n f).ring m = if Fin.ofNat 32 n = Fin.ofNat 32 m then f (c.ring n) else c.ring m := by
  simp only [Core.ring, Core.updRing, Fin.getElem_fin, Vector.getElem_set, Fin.ext_iff]

/-- The claims on a ring are given back. -/
def Core.unclaim (c : Core) (n : Nat) : Core := c.updRing n fun g => { g with claim := g.head }

/-- No slot of a ring is claimed and not popped. -/
def Core.Unclaimed (c : Core) (n : Nat) : Prop := (c.ring n).claim = (c.ring n).head

theorem Core.head_unclaim (c : Core) (n m : Nat) : ((c.unclaim n).ring m).head = (c.ring m).head := by
  rw [Core.unclaim, Core.ring_updRing]
  split
  · next h => exact congrArg (fun i : Fin 32 => c.rings[i].head) h
  · rfl

theorem Core.unclaimed_unclaim (c : Core) (n : Nat) : (c.unclaim n).Unclaimed n := by
  rw [Core.Unclaimed, Core.unclaim, Core.ring_updRing, if_pos rfl]

theorem Core.Unclaimed.unclaim {c : Core} {m : Nat} (h : c.Unclaimed m) (n : Nat) : (c.unclaim n).Unclaimed m := by
  rw [Core.Unclaimed, Core.unclaim, Core.ring_updRing]
  split
  · rfl
  · exact h

/-- The claims of a task are given back, ring after ring. -/
def State.unclaimAll (s : State) (r : CoreRef) (l : List (Nat × Nat)) : State := l.foldl (fun s x => s.updCore r fun c => c.unclaim x.1) s

theorem State.unclaimAll_spec (s : State) (r : CoreRef) (l : List (Nat × Nat)) : let t := s.unclaimAll r l
    (∀ n, ((t.core r).ring n).head = ((s.core r).ring n).head) ∧ (∀ n, (s.core r).Unclaimed n → (t.core r).Unclaimed n) ∧
    (∀ x ∈ l, (t.core r).Unclaimed x.1) := by
  induction l generalizing s with
  | nil => exact ⟨fun _ => rfl, fun _ h => h, fun _ h => absurd h List.not_mem_nil⟩
  | cons y l ih =>
    have core : (s.updCore r fun c => c.unclaim y.1).core r = (s.core r).unclaim y.1 := State.core_updCore s r _
    obtain ⟨heads, keep, given⟩ := ih (s.updCore r fun c => c.unclaim y.1)
    rw [core] at heads keep
    refine ⟨fun n => (heads n).trans (Core.head_unclaim _ _ _), fun n h => keep n (h.unclaim y.1), fun x hx => ?_⟩
    rcases List.mem_cons.1 hx with rfl | hx
    · exact keep _ (Core.unclaimed_unclaim _ _)
    · exact given x hx

theorem State.unclaimAll_frame (s : State) (r : CoreRef) (l : List (Nat × Nat)) :
    ReadsAlike s (s.unclaimAll r l) ∧ (s.unclaimAll r l).fe = s.fe ∧ (s.unclaimAll r l).homes = s.homes :=
  foldl_keeps (P := fun t => ReadsAlike s t ∧ t.fe = s.fe ∧ t.homes = s.homes)
    (fun t _ h => ⟨h.1.trans (ReadsAlike.updCore t r _), h.2⟩) l s ⟨ReadsAlike.of_eq rfl rfl, rfl, rfl⟩

/-- Two cores differ in their links at most. -/
def Core.Relinked (c d : Core) : Prop := ∃ o i, d = { c with linkOut := o, linkIn := i }

theorem Core.Relinked.refl (c : Core) : c.Relinked c := ⟨_, _, rfl⟩

theorem Core.Relinked.trans (a b c : Core) : a.Relinked b → b.Relinked c → a.Relinked c := by
  rintro ⟨o, i, rfl⟩ ⟨o', i', rfl⟩
  exact ⟨o', i', rfl⟩

theorem CoresVia.relink (s : State) (r k : CoreRef) {f g : Core → Core} (hf : ∀ c : Core, c.Relinked (f c)) (hg : ∀ c : Core, c.Relinked (g c)) :
    CoresVia Core.Relinked s ((s.updCore r f).updCore k g) :=
  CoresVia.trans Core.Relinked.trans (CoresVia.updCore s r Core.Relinked.refl hf) (CoresVia.updCore _ k Core.Relinked.refl hg)

theorem State.relinked_unlinkOut (s : State) (r : CoreRef) : CoresVia Core.Relinked s (s.unlinkOut r) := by
  unfold State.unlinkOut
  split
  · exact fun _ => Core.Relinked.refl _
  · exact CoresVia.relink s r _ (fun c => ⟨_, _, rfl⟩) fun c => ⟨_, _, rfl⟩

theorem State.relinked_unlinkIn (s : State) (r : CoreRef) : CoresVia Core.Relinked s (s.unlinkIn r) := by
  unfold State.unlinkIn
  split
  · exact fun _ => Core.Relinked.refl _
  · exact CoresVia.relink s r _ (fun c => ⟨_, _, rfl⟩) fun c => ⟨_, _, rfl⟩

theorem State.frame_unlinkOut (s : State) (r : CoreRef) : (s.unlinkOut r).fe = s.fe ∧ (s.unlinkOut r).homes = s.homes := by
  unfold State.unlinkOut
  split <;> exact ⟨rfl, rfl⟩

theorem State.frame_unlinkIn (s : State) (r : CoreRef) : (s.unlinkIn r).fe = s.fe ∧ (s.unlinkIn r).homes = s.homes := by
  unfold State.unlinkIn
  split <;> exact ⟨rfl, rfl⟩

/-- With no donor marked, a task that leaves its core stops its contexts and takes its links down, and no more. -/
theorem State.leaveCore_unmarked {s : State} {r : CoreRef} {n : Nat} {p : Pipe} (hp : s.pipe? n = some p) (hm : p.mark = none) :
    (∃ o i, (s.leaveCore r n).core r =
      { { s.core r with linkOut := o, linkIn := i }.updCtxs fun x => { x with status := .stopped } with task := none }) ∧
    (s.leaveCore r n).homes = s.homes := by
  let u := (s.unlinkOut r).unlinkIn r
  let v := u.updCore r fun c => { c.updCtxs (fun x => { x with status := .stopped }) with task := none }
  have frame : u.fe = s.fe ∧ u.homes = s.homes :=
    ⟨(State.frame_unlinkIn _ r).1.trans (State.frame_unlinkOut s r).1, (State.frame_unlinkIn _ r).2.trans (State.frame_unlinkOut s r).2⟩
  have hpv : v.pipe? n = some p := by
    rw [State.pipe?, State.fe_updCore, frame.1]; exact hp
  have stay : s.leaveCore r n = v := by
    show v.afterFree n r = v
    simp only [State.afterFree, hpv, hm]
  obtain ⟨o, i, hu⟩ := CoresVia.trans Core.Relinked.trans (s.relinked_unlinkOut r) (State.relinked_unlinkIn _ r) r
  rw [stay]
  exact ⟨⟨o, i, by rw [State.core_updCore, hu]⟩, frame.2⟩

theorem State.unpark_frame (s : State) (p : Parked) : (s.unpark p).dies = s.dies ∧ (s.unpark p).homes = s.homes := by
  unfold State.unpark
  split <;> exact ⟨rfl, rfl⟩

/-- What wakes leaves its place among the parked; the dies are as they were. -/
theorem State.wakeParked_frame (s : State) : s.wakeParked.dies = s.dies ∧ s.wakeParked.homes.parked ⊆ s.homes.parked := by
  obtain ⟨dies, homes⟩ := foldl_keeps (P := fun t => t.dies = s.dies ∧ t.homes = s.homes)
    (fun t p h => ⟨(t.unpark_frame p).1.trans h.1, (t.unpark_frame p).2.trans h.2⟩)
    (s.homes.parked.filter fun p => p.count == 0 && p.squash.isNone) s ⟨rfl, rfl⟩
  refine ⟨dies, fun x hx => ?_⟩
  have := (List.mem_filter.1 hx).1
  rwa [homes] at this

/-- The state of a squash that finishes, before the task leaves its core: claims and LFSR given back, the parked record told. -/
def State.unsquash (s : State) (r : CoreRef) (k : Task) : State :=
  ((s.unclaimAll r k.claims).updCore r fun c => { c with vf := { c.vf with lfsr := k.lfsr0 } }).updHomes fun h =>
    { h with parked := mapIf (fun p => p.squash == some r) (fun p => { p with squash := none }) h.parked }

theorem execTaskSquash_squashing {s : State} {r : CoreRef} {k : Task} (hk : (s.core r).task = some k) (hph : k.phase = .squashing) :
    execTaskSquash r s = .next ((s.unsquash r k).leaveCore r k.pipe).wakeParked := by
  simp only [execTaskSquash, hk, hph, bne_self_eq_false, Bool.false_eq_true, if_false]
  rfl

end Sys2Proof.Machine

open Sys2Proof Sys2Proof.Machine Sys2Proof.Spec

/-- R52: what a retirement has done after each of its steps, by the fields J and F of its record. -/
theorem taskRetires : Sys2Proof.Spec.TaskRetires := by
  intro s r k p hk hph hp heng hun hrel hcom Ready Done j f
  have run (hj : k.record.j = true → Ready j) (hf : k.record.f = true → Ready f) : exec (.taskRetire r) s =
      .next ((s.accept r.site ((s.retireAddrs k).map lineOf)).retireSteps r k) := by
    refine execTaskRetire_ready hk hph heng hun hrel hcom fun a ha => ?_
    have ready : Ready a := by
      rcases State.mem_retireAddrs ha with ⟨h, rfl⟩ | ⟨h, rfl⟩
      · exact hj h
      · exact hf h
    exact ⟨ready.2.2.1, ready.2.2.2.1⟩
  -- step 1, and step 2 with the events raised
  let u := s.accept r.site ((s.retireAddrs k).map lineOf)
  let v := u.setEvents k.pipe k.record.sigEv
  have tidy : Tidies s u := Tidies.accept s r.site _
  have sig : Signalled s v k.pipe p k.record.sigEv := Signalled.setEvents tidy hp _
  have reads : ReadsAlike s v := tidy.toReadsAlike.trans (ReadsAlike.updPipe u _ _)
  have reach {a : Nat} (h : Ready a) : v.dlaOk a = true := (congrFun tidy.dlaOk a).trans h.2.1
  have plain (hj : k.record.j = false) (rf : k.record.f = true → Ready f) : exec (.taskRetire r) s = .next (v.retireFill r k) :=
    (run (fun h => absurd (hj.symm.trans h) Bool.false_ne_true) rf).trans (congrArg _ (State.retireSteps_plain hj))
  have counting (hj : k.record.j = true) (rj : Ready j) (rf : k.record.f = true → Ready f) :
      exec (.taskRetire r) s = .next ((v.countDown j).retireFill r k) :=
    (run (fun _ => rj) rf).trans (congrArg _ (State.retireSteps_count (s := u) hj (reach rj)))
  have noCell (hf : k.record.f = false) : k.record.f = true → Ready f := fun h => absurd (hf.symm.trans h) Bool.false_ne_true
  have writable {a : Nat} (h : Ready a) : Writable v a :=
    Writable.readsAlike ⟨h.1, State.noCopy_of_writeClear h.2.2.2.1, h.2.2.2.2⟩ reads
  -- step 3, the counter
  have count (h : Ready j) : WritesWord v (v.countDown j) j ((s.cohN j 8 + 2 ^ 64 - 1) % 2 ^ 64) := by
    rw [← reads.cohN]
    exact WritesWord.homeWrite (writable h) _
  have counted (h : Ready j) : (v.countDown j).cohN j 8 = (s.cohN j 8 + 2 ^ 64 - 1) % 2 ^ 64 := by rw [(count h).value, Nat.mod_mod]
  have tag (h : Ready j) (a : Nat) : (v.countDown j).homes.tagFull a = s.homes.tagFull a :=
    (State.tagFull_homeWrite (writable h) _ a).trans (reads.tagFull a)
  -- step 4, the cell, and step 5
  have fill {x : State} (h : Writable x f) : (x.fillCell f k.x1AtExit).cohN f 8 = k.x1AtExit.toNat := by
    rw [(WritesWord.fillCell h k.x1AtExit).value, Nat.mod_eq_of_lt k.x1AtExit.isLt]
  have done {x : State} (hx : Signalled s x k.pipe p k.record.sigEv) (e : exec (.taskRetire r) s = .next (x.retired r k.pipe)) :
      Done (x.retired r k.pipe) ∧ ReadsAlike x (x.retired r k.pipe) := by
    obtain ⟨task, status, pipe, same⟩ := hx.retired r
    exact ⟨⟨e, task, status, pipe⟩, same⟩
  have addr : BitVec.ofNat 64 f = k.record.futRef := by simp [f]
  refine ⟨fun hj hf => ?_, fun hj hf rj => ?_, fun hj hf rf he => ?_, fun hj hf rj rf ne he => ?_, fun hf rj rf he alone => ?_⟩
  · obtain ⟨d, same⟩ := done sig ((plain hj (noCell hf)).trans (congrArg _ (State.retireFill_none hf)))
    exact ⟨_, d, (reads.trans same).keepsMemory⟩
  · obtain ⟨d, same⟩ := done (sig.writesWord (count rj)) ((counting hj rj (noCell hf)).trans (congrArg _ (State.retireFill_none hf)))
    exact ⟨_, d, (same.cohN j 8).trans (counted rj)⟩
  · have cell := WritesWord.fillCell (writable rf) k.x1AtExit
    obtain ⟨d, same⟩ := done (sig.writesWord cell) ((plain hj fun _ => rf).trans
      (congrArg _ (State.retireFill_empty hf (reach rf) ((reads.tagFull f).trans he))))
    exact ⟨_, d, (same.tagFull f).trans (State.tagFull_fillCell v f _), (same.cohN f 8).trans (fill (writable rf))⟩
  · have writable' := (count rj).writable f (writable rf)
    have cell := WritesWord.fillCell writable' k.x1AtExit
    obtain ⟨d, same⟩ := done ((sig.writesWord (count rj)).writesWord cell) ((counting hj rj fun _ => rf).trans
      (congrArg _ (State.retireFill_empty hf ((congrFun (count rj).dlaOk f).trans (reach rf)) ((tag rj f).trans he))))
    exact ⟨_, d, (same.cohN j 8).trans ((cell.others j rj.1 ne).trans (counted rj)),
      (same.tagFull f).trans (State.tagFull_fillCell _ f _), (same.cohN f 8).trans (fill writable')⟩
  · have live : k.live = true := by rw [Task.live, hph]
    have fault {x : State} (hx : Signalled s x k.pipe p k.record.sigEv) := hx.fault hk live alone ⟨fFull, 4, 0, none, 0, f, 0, 0⟩
    cases hj : k.record.j with
    | false =>
      obtain ⟨⟨q, e, hq, hr, hfa, hev, hfs, names⟩, ended, same⟩ := fault sig
      have full : v.homes.tagFull f = true := (reads.tagFull f).trans he
      exact ⟨_, q, e, (plain hj fun _ => rf).trans (congrArg _ (State.retireFill_full hf (reach rf) full)), hq, hr, hfa, hev, hfs,
        names.code, names.ctx, names.pc, names.addr.trans addr, ended, (same.tagFull f).trans full,
        (same.cohN f 8).trans (reads.cohN f 8), fun h => absurd h Bool.false_ne_true⟩
    | true =>
      obtain ⟨rj, ne⟩ := rj hj
      obtain ⟨⟨q, e, hq, hr, hfa, hev, hfs, names⟩, ended, same⟩ := fault (sig.writesWord (count rj))
      have full : (v.countDown j).homes.tagFull f = true := (tag rj f).trans he
      exact ⟨_, q, e, (counting hj rj fun _ => rf).trans
          (congrArg _ (State.retireFill_full hf ((congrFun (count rj).dlaOk f).trans (reach rf)) full)), hq, hr, hfa, hev, hfs,
        names.code, names.ctx, names.pc, names.addr.trans addr, ended, (same.tagFull f).trans full,
        (same.cohN f 8).trans (((count rj).others f rf.1 (Ne.symm ne)).trans (reads.cohN f 8)),
        fun _ => (same.cohN j 8).trans (counted rj)⟩


/-- R66, R67: claims, LFSR and core are given back, and the parked record waits for its cell alone. -/
theorem taskSquashes : Sys2Proof.Spec.TaskSquashes := by
  intro s r k p hk hph hp hm
  let u := s.unsquash r k
  obtain ⟨heads, -, given⟩ := s.unclaimAll_spec r k.claims
  obtain ⟨reads, hfe, -⟩ := s.unclaimAll_frame r k.claims
  have core : u.core r = { (s.unclaimAll r k.claims).core r with vf := { ((s.unclaimAll r k.claims).core r).vf with lfsr := k.lfsr0 } } :=
    State.core_updCore _ r _
  have hpu : u.pipe? k.pipe = some p := by
    show (s.unclaimAll r k.claims).pipe? k.pipe = some p
    rw [State.pipe?, hfe]; exact hp
  obtain ⟨⟨o, i, left⟩, homes⟩ := State.leaveCore_unmarked (r := r) hpu hm
  obtain ⟨dies, parked⟩ := (u.leaveCore r k.pipe).wakeParked_frame
  have final : (u.leaveCore r k.pipe).wakeParked.core r = (u.leaveCore r k.pipe).core r := by
    rw [State.core, State.core, State.die, State.die, dies]
  refine ⟨_, execTaskSquash_squashing hk hph, ?_, ?_, fun x hx => ?_, fun x hx => ?_, ?_⟩
  · rw [final, left]
  · rw [final, left, core]; rfl
  · rw [final, left, core]
    exact (given x hx).trans (heads x.1)
  · have hx := parked hx
    rw [homes] at hx
    obtain ⟨y, -, rfl⟩ := List.mem_map.1 hx
    split
    · exact nofun
    · next h => exact fun e => h (by simp [e])
  · have told : ReadsAlike s u := reads.trans ((ReadsAlike.updCore _ r _).trans (ReadsAlike.updHomes _ rfl rfl rfl rfl))
    exact (told.trans ((u.leaveCore_spec r k.pipe).2.2.1.trans (Tidies.wakeParked _).toReadsAlike)).keepsMemory

/-- Settles O38: a retirement takes its steps one after another (`taskRetires`), and so does the end of a squash (`taskSquashes`). -/
theorem taskEnds : Obligations.TaskEnds := ⟨taskRetires, taskSquashes⟩

end

section
/-! SUPPORT. Pre-emption (O44): what committing and cleaning leave of the cores, and what is saved of a member (R72, R344). -/

namespace Sys2Proof.Machine

open Sys2Proof.Spec

/-- What the step of one element of a list brings about and every step keeps, the whole list brings about. -/
theorem foldl_gains {α : Type} {P : State → Prop} {f : State → α → State} (keep : ∀ s a, P s → P (f s a)) {a : α}
    (gain : ∀ s, P (f s a)) {l : List α} (h : a ∈ l) (s : State) : P (l.foldl f s) := by
  obtain ⟨l1, l2, rfl⟩ := List.append_of_mem h
  rw [List.foldl_append, List.foldl_cons]
  exact foldl_keeps keep l2 _ (gain _)

/-! ## The front end and the fabric among the rest -/

/-- The front end and the fabric are the same. -/
def SameFront (s t : State) : Prop := t.fe = s.fe ∧ t.fab = s.fab

/-- What the clean-up of a member does for its lease: a fragment is scrubbed, a core alone loses its rings. -/
def State.cleanLease (s : State) (id : Nat) (r : CoreRef) : State :=
  match (s.die r.site).leaseOf id r.core with
  | some l => match l.kind with
    | .frag .. => s.cleanFrag r.site l
    | .bare .. => s.updCore r Core.undefineRings
  | none => s

/-- The core of a member that has been saved: nothing of its task is left. -/
def Core.vacate (c : Core) : Core :=
  { c.updCtxs (fun x => { x with status := .stopped }) with
    task := none, kids := [], eng := Vector.replicate 6 [], sideLog := [], linkOut := none, linkIn := none }

theorem State.cleanMember_eq (s : State) (id : Nat) (r : CoreRef) :
    s.cleanMember id r = ((s.cleanLease id r).updCore r Core.vacate).updLease id r fun l => { l with noScrub := true } := rfl

namespace SameFront

variable {s t u : State}

theorem refl (s : State) : SameFront s s := ⟨rfl, rfl⟩

theorem trans (h : SameFront s t) (k : SameFront t u) : SameFront s u := ⟨k.1.trans h.1, k.2.trans h.2⟩

theorem foldl {α : Type} {f : State → α → State} (h : ∀ s a, SameFront s (f s a)) (l : List α) (s : State) : SameFront s (l.foldl f s) :=
  foldl_keeps (P := fun t => SameFront s t) (fun t a ht => ht.trans (h t a)) l s (refl s)

theorem pipe? (h : SameFront s t) (n : Nat) : t.pipe? n = s.pipe? n := by rw [State.pipe?, State.pipe?, h.1]

theorem carryPoison (s : State) (i : Fin 6) (l : Nat) : SameFront s (s.carryPoison i l) := by
  unfold State.carryPoison
  split <;> exact ⟨rfl, rfl⟩

theorem commitCovered (s : State) (c : CtxRef) (m : BitVec 16) : SameFront s (s.commitCovered c m) := by
  unfold State.commitCovered
  refine foldl (fun s x => ?_) _ s
  split
  · split
    · exact carryPoison s _ _
    · exact refl s
  · exact refl s

theorem touchLlc (s : State) (l : Nat) : SameFront s (s.touchLlc l) := by
  unfold State.touchLlc
  split <;> exact ⟨rfl, rfl⟩

theorem triggerAll (s : State) (l : Nat) : SameFront s (s.triggerAll l) := by
  have dies : SameFront s (sites.foldl (fun s i => s.triggerDie i l) s) := foldl (fun _ _ => ⟨rfl, rfl⟩) sites s
  exact dies

theorem writePage (s : State) (n d : Nat) : SameFront s (s.writePage n d) := by
  unfold State.writePage
  refine trans ?_ (foldl (fun s l => (touchLlc s l).trans (triggerAll _ l)) _ _)
  exact ⟨rfl, rfl⟩

theorem writeSave (s : State) (dlas : List Nat) : SameFront s (s.writeSave dlas) := by
  unfold State.writeSave
  split
  · exact refl s
  · refine trans ?_ (foldl (fun s d => writePage s _ d) dlas _)
    exact ⟨rfl, rfl⟩

theorem unlinkOut (s : State) (r : CoreRef) : SameFront s (s.unlinkOut r) := by
  unfold State.unlinkOut
  split <;> exact ⟨rfl, rfl⟩

theorem unlinkIn (s : State) (r : CoreRef) : SameFront s (s.unlinkIn r) := by
  unfold State.unlinkIn
  split <;> exact ⟨rfl, rfl⟩

theorem cleanFrag (s : State) (i : Fin 6) (l : Lease) : SameFront s (s.cleanFrag i l) := by
  unfold State.cleanFrag
  have scrub : SameFront s (l.cores.foldl (fun s c => s.updSt ⟨i, c⟩ Stores.scrub) s) :=
    foldl (f := fun s (c : Fin 8) => s.updSt ⟨i, c⟩ Stores.scrub) (fun _ _ => ⟨rfl, rfl⟩) l.cores s
  exact scrub.trans ((unlinkOut _ _).trans (unlinkIn _ _))

theorem cleanMember (s : State) (n : Nat) (r : CoreRef) : SameFront s (s.cleanMember n r) := by
  have lease : SameFront s (s.cleanLease n r) := by
    unfold State.cleanLease
    split
    · split
      · exact cleanFrag s _ _
      · exact ⟨rfl, rfl⟩
    · exact refl s
  rw [State.cleanMember_eq]
  exact lease

theorem returnLeases (s : State) (n : Nat) : SameFront s (s.returnLeases n) := by
  unfold State.returnLeases
  exact foldl (fun _ _ => ⟨rfl, rfl⟩) sites s

end SameFront

/-! ## What a core keeps while its accesses and releases are committed -/

/-- Engine queues, monitors and waits apart, a core is the same. -/
structure Core.AsBefore (c d : Core) : Prop where
  rest : ∃ l m n e, d = { c with l := l, c := m, s := n, eng := e }
  x : ∀ n, (d.ctx n).x = (c.ctx n).x
  k : ∀ n, (d.ctx n).k = (c.ctx n).k
  pc : ∀ n, (d.ctx n).pc = (c.ctx n).pc

theorem Core.AsBefore.refl (c : Core) : c.AsBefore c := ⟨⟨_, _, _, _, rfl⟩, fun _ => rfl, fun _ => rfl, fun _ => rfl⟩

theorem Core.AsBefore.trans (a b c : Core) (h : a.AsBefore b) (k : b.AsBefore c) : a.AsBefore c := by
  refine ⟨?_, fun n => (k.x n).trans (h.x n), fun n => (k.k n).trans (h.k n), fun n => (k.pc n).trans (h.pc n)⟩
  obtain ⟨_, _, _, _, e⟩ := h.rest
  obtain ⟨l, m, n, f, e'⟩ := k.rest
  exact ⟨l, m, n, f, by rw [e', e]⟩

theorem Context.onBase_keeps (l : Nat) (c : Context) : (c.onBase l).x = c.x ∧ (c.onBase l).k = c.k ∧ (c.onBase l).pc = c.pc := by
  unfold Context.onBase
  split
  · split <;> exact ⟨rfl, rfl, rfl⟩
  · exact ⟨rfl, rfl, rfl⟩

theorem Core.asBefore_onBase (l : Nat) (c : Core) : c.AsBefore (c.updCtxs (Context.onBase l)) := by
  refine ⟨⟨_, _, _, _, rfl⟩, fun n => ?_, fun n => ?_, fun n => ?_⟩ <;> rw [Core.ctx_updCtxs]
  · exact (Context.onBase_keeps l _).1
  · exact (Context.onBase_keeps l _).2.1
  · exact (Context.onBase_keeps l _).2.2

/-- t is s after accesses were committed or migrations detached: cores are as before, and leases the same. -/
structure Commits (s t : State) : Prop where
  front : SameFront s t
  cores : CoresVia Core.AsBefore s t
  leases : ∀ i, (t.die i).leases = (s.die i).leases

namespace Commits

variable {s t u : State}

theorem of_dies (hf : SameFront s t) (hd : t.dies = s.dies) : Commits s t :=
  ⟨hf, CoresVia.of_dies Core.AsBefore.refl hd, fun i => by rw [State.die, State.die, hd]⟩

theorem trans (h : Commits s t) (k : Commits t u) : Commits s u :=
  ⟨h.front.trans k.front, CoresVia.trans Core.AsBefore.trans h.cores k.cores, fun i => (k.leases i).trans (h.leases i)⟩

theorem foldl {α : Type} {f : State → α → State} (h : ∀ s a, Commits s (f s a)) (l : List α) (s : State) : Commits s (l.foldl f s) :=
  foldl_keeps (P := fun t => Commits s t) (fun t a ht => ht.trans (h t a)) l s (of_dies (SameFront.refl s) rfl)

theorem updDie (s : State) (i : Fin 6) {f : Die → Die} (hl : ∀ d, (f d).leases = d.leases)
    (hc : ∀ (d : Die) (j : Fin 8), d.cores[j].AsBefore (f d).cores[j]) : Commits s (s.updDie i f) := by
  refine ⟨⟨rfl, rfl⟩, CoresVia.updDie s i Core.AsBefore.refl hc, fun j => ?_⟩
  rw [State.die_updDie_eq]
  split
  · exact hl _
  · rfl

theorem updHomes (s : State) (f : Homes → Homes) : Commits s (s.updHomes f) := of_dies ⟨rfl, rfl⟩ rfl

theorem carryPoison (s : State) (i : Fin 6) (l : Nat) : Commits s (s.carryPoison i l) := by
  refine of_dies (SameFront.carryPoison s i l) ?_
  unfold State.carryPoison
  split <;> rfl

theorem commitLine (s : State) (l : Nat) (data : LineData) : Commits s (s.commitLine l data) := by
  have die (i : Fin 6) : (s.commitLine l data).die i =
      { s.die i with cores := (s.die i).cores.map fun c => c.updCtxs (Context.onBase l) } := Vector.getElem_map _ _
  refine ⟨⟨rfl, rfl⟩, fun r => ?_, fun i => by rw [die]⟩
  show (s.die r.site).cores[r.core].AsBefore ((s.commitLine l data).die r.site).cores[r.core]
  rw [die]
  exact Die.cores_mapCtxs (s.die r.site) _ (Core.asBefore_onBase l) r.core

theorem commitCovered (s : State) (c : CtxRef) (m : BitVec 16) : Commits s (s.commitCovered c m) := by
  unfold State.commitCovered
  refine foldl (fun s x => ?_) _ s
  split
  · split
    · refine trans ?_ (commitLine _ _ _)
      refine trans ?_ (updDie _ _ (fun _ => rfl) fun d j => Core.AsBefore.refl d.cores[j])
      exact carryPoison s _ _
    · exact of_dies (SameFront.refl s) rfl
  · exact of_dies (SameFront.refl s) rfl

theorem commitCore (s : State) (r : CoreRef) : Commits s (s.commitCore r) := by
  unfold State.commitCore
  refine trans ?_ (foldl (fun s k => commitCovered s _ _) _ _)
  exact foldl (fun s n => commitCovered s _ _) ctxNames s

theorem detach (s : State) (r : CoreRef) : Commits s (s.detach r) := by
  unfold State.detach
  refine trans ?_ (updHomes _ _)
  refine trans (updHomes _ _) ⟨⟨rfl, rfl⟩, CoresVia.updCore _ r Core.AsBefore.refl fun c => ?_, fun i => ?_⟩
  · exact ⟨⟨_, _, _, _, rfl⟩, fun n => by cases n <;> rfl, fun n => by cases n <;> rfl, fun n => by cases n <;> rfl⟩
  · rw [State.updCore, State.die_updDie_eq]
    split <;> rfl

theorem ownsStrip (h : Commits s t) (n : Nat) (r : CoreRef) : t.ownsStrip n r = s.ownsStrip n r := by
  rw [State.ownsStrip, State.ownsStrip, Die.leaseOf, Die.leaseOf, h.leases]

end Commits

/-- What is saved of a member after the commits is what its core held before them; of a core whose strip is another's, not the
strip (R35, R72). -/
theorem Commits.saveOf {s t : State} (h : Commits s t) (q : Pipe) (m : Member) : let v := t.saveOf q m; let c := s.core m.at_
    v.task = c.task ∧ v.lead.vf = c.vf ∧ v.lead.h = c.h ∧ v.lead.sem = c.sem ∧
    v.lead.st = (if s.ownsStrip q.id m.at_ then c.st else c.st.zeroStrip) ∧ v.lead.cnt = c.cnt ∧ v.lead.rings = c.rings ∧
    ∀ n, (v.lead.ctx n).x = (c.ctx n).x ∧ (v.lead.ctx n).k = (c.ctx n).k ∧ (v.lead.ctx n).pc = (c.ctx n).pc := by
  have hc := h.cores m.at_
  obtain ⟨l, c, n, e, core⟩ := hc.rest
  have lead : (t.saveOf q m).lead = { s.core m.at_ with
      l := l, c := c, s := n, eng := e.map fun q => q.map QEntry.unreach
      st := if s.ownsStrip q.id m.at_ then (s.core m.at_).st else (s.core m.at_).st.zeroStrip } := by
    unfold State.saveOf
    rw [h.ownsStrip, core]
    split <;> rfl
  have task : (t.saveOf q m).task = (s.core m.at_).task := by
    unfold State.saveOf
    rw [core]
    split <;> rfl
  have ctx (n : CtxName) : (t.saveOf q m).lead.ctx n = (t.core m.at_).ctx n := by
    rw [lead, core]
    cases n <;> rfl
  refine ⟨task, by rw [lead], by rw [lead], by rw [lead], by rw [lead], by rw [lead], by rw [lead], fun n => ?_⟩
  rw [ctx]
  exact ⟨hc.x n, hc.k n, hc.pc n⟩

/-! ## The clean-up of members, and the return of leases (R344 steps 4 and 5) -/

/-- A core that runs no task runs none after a clean-up. -/
def Core.StaysEmpty (c d : Core) : Prop := c.task = none → d.task = none

theorem Core.StaysEmpty.refl (c : Core) : c.StaysEmpty c := id

theorem Core.StaysEmpty.trans (a b c : Core) (h : a.StaysEmpty b) (k : b.StaysEmpty c) : a.StaysEmpty c := fun e => k (h e)

theorem Core.Relinked.staysEmpty {c d : Core} (h : c.Relinked d) : c.StaysEmpty d := by
  obtain ⟨o, i, rfl⟩ := h
  exact id

theorem State.staysEmpty_cleanFrag (s : State) (i : Fin 6) (l : Lease) : CoresVia Core.StaysEmpty s (s.cleanFrag i l) := by
  have scrub (t : State) (c : Fin 8) : CoresVia Core.StaysEmpty t (t.updSt ⟨i, c⟩ Stores.scrub) :=
    CoresVia.updCore t _ Core.StaysEmpty.refl fun _ h => h
  have unlinkOut (t : State) : CoresVia Core.StaysEmpty t (t.unlinkOut ⟨i, l.kind.lead⟩) := fun r => (t.relinked_unlinkOut _ r).staysEmpty
  have unlinkIn (t : State) : CoresVia Core.StaysEmpty t (t.unlinkIn ⟨i, l.kind.lead⟩) := fun r => (t.relinked_unlinkIn _ r).staysEmpty
  unfold State.cleanFrag
  refine CoresVia.trans Core.StaysEmpty.trans ?_ (CoresVia.updCore _ _ Core.StaysEmpty.refl fun c h => h)
  refine CoresVia.trans Core.StaysEmpty.trans ?_ (unlinkIn _)
  refine CoresVia.trans Core.StaysEmpty.trans ?_ (unlinkOut _)
  exact foldl_keeps (P := fun t => CoresVia Core.StaysEmpty s t) (fun t c h => CoresVia.trans Core.StaysEmpty.trans h (scrub t c)) l.cores s
    (CoresVia.of_dies Core.StaysEmpty.refl rfl)

/-- A change of a die that leaves its cores. -/
theorem State.core_updDie_cores (s : State) (i : Fin 6) {f : Die → Die} (h : ∀ d, (f d).cores = d.cores) (r : CoreRef) :
    (s.updDie i f).core r = s.core r := by
  rw [State.core, State.core, State.die_updDie_eq]
  split
  · simp only [h]
  · rfl

theorem State.core_updLease (s : State) (id : Nat) (r k : CoreRef) (f : Lease → Lease) : (s.updLease id r f).core k = s.core k := by
  unfold State.updLease
  refine State.core_updDie_cores s r.site ?_ k
  exact fun _ => rfl

theorem State.staysEmpty_cleanMember (s : State) (id : Nat) (r : CoreRef) : CoresVia Core.StaysEmpty s (s.cleanMember id r) := by
  have lease : CoresVia Core.StaysEmpty s (s.cleanLease id r) := by
    unfold State.cleanLease
    split
    · split
      · exact State.staysEmpty_cleanFrag s _ _
      · exact CoresVia.updCore s r Core.StaysEmpty.refl fun _ h => h
    · exact CoresVia.of_dies Core.StaysEmpty.refl rfl
  intro k
  rw [State.cleanMember_eq, State.core_updLease]
  exact CoresVia.trans Core.StaysEmpty.trans lease (CoresVia.updCore _ r Core.StaysEmpty.refl fun _ _ => rfl) k

theorem State.task_cleanMember (s : State) (id : Nat) (r : CoreRef) : ((s.cleanMember id r).core r).task = none := by
  rw [State.cleanMember_eq, State.core_updLease, State.core_updCore]
  rfl

/-- A member that is cleaned runs no task, however many more are cleaned. -/
theorem State.task_cleanMembers (s : State) (id : Nat) {cores : List CoreRef} {r : CoreRef} (h : r ∈ cores) :
    ((cores.foldl (fun s r => s.cleanMember id r) s).core r).task = none :=
  foldl_gains (P := fun t => (t.core r).task = none) (fun t k ht => t.staysEmpty_cleanMember id k r ht)
    (fun t => t.task_cleanMember id r) h s

theorem State.core_returnLeases (s : State) (id : Nat) (r : CoreRef) : (s.returnLeases id).core r = s.core r := by
  unfold State.returnLeases
  refine foldl_keeps (P := fun t => t.core r = s.core r) (fun t i h => ?_) sites s rfl
  refine (State.core_updDie_cores t i ?_ r).trans h
  exact fun _ => rfl

/-- Every lease of the pipeline that a die holds returns. -/
def Die.Returns (d : Die) (id : Nat) : Prop := ∀ l ∈ d.leases, l.pipe = id → l.returning = true

theorem Die.returns_mapIf {d e : Die} {id : Nat}
    (h : e.leases = mapIf (fun l => l.pipe == id) (fun l => { l with returning := true }) d.leases) : e.Returns id := by
  intro l hl hid
  rw [h] at hl
  obtain ⟨x, -, rfl⟩ := List.mem_map.1 hl
  split at hid
  · next hx => rw [if_pos hx]
  · next hx => exact absurd (by simpa using hid) hx

theorem State.returns_returnLeases (s : State) (id : Nat) (i : Fin 6) : ((s.returnLeases id).die i).Returns id := by
  refine foldl_gains (P := fun t => (t.die i).Returns id) (fun t j h => ?_) (a := i) (fun t => ?_) (mem_sites i) s
  · dsimp only
    rw [State.die_updDie_eq]
    split
    · exact Die.returns_mapIf rfl
    · exact h
  · dsimp only
    rw [State.die_updDie]
    exact Die.returns_mapIf rfl

/-! ## PREEMPTION_COMPLETE -/

/-- With every task stopped, every member savable, and the save area there to be written, everything is saved. -/
theorem execPreemptionComplete_ready {s : State} {id : Nat} {q : Pipe} {dlas : List Nat} (hq : s.pipe? id = some q) (hpre : q.pre = .stopping)
    (hstop : ∀ r k, (s.core r).task = some k → k.pipe = id → k.phase = .stopped) (hsav : ∀ m ∈ q.pool, s.savable m.at_ = true)
    (hz : s.zeroedAll id = true) (hx : s.xlatSave q.pasid q.record.savePages = .ok dlas)
    (hclear : ∀ l ∈ dlas.flatMap saveLines, s.writeClear l = true) :
    execPreemptionComplete id s = .next (s.saveAll q id dlas) := by
  have savable : ((q.pool.map Member.at_).all s.savable) = true := by
    rw [List.all_map]; exact List.all_eq_true.2 hsav
  have clear : (dlas.flatMap saveLines).all s.writeClear = true := List.all_eq_true.2 hclear
  unfold execPreemptionComplete go
  rw [hq]
  dsimp only
  rw [hpre, hz, savable, hx, if_neg]
  · exact congrArg _ (if_pos clear)
  · intro h
    simp only [bne_self_eq_false, Bool.false_or, Bool.not_true, Bool.or_false] at h
    obtain ⟨r, -, hr⟩ := List.any_eq_true.1 h
    cases hk : (s.core r).task with
    | none => rw [hk] at hr; cases hr
    | some k =>
      rw [hk] at hr
      obtain ⟨hp, hs⟩ := Bool.and_eq_true_iff.1 hr
      exact absurd (hstop r k hk (eq_of_beq hp)) (bne_iff_ne.1 hs)

/-- No write waits for an operator: none goes into what was saved of it. -/
theorem State.applyBuffered_none {s : State} {h : Word} (hb : ∀ w ∈ s.fab.rwbuf, w.handle ≠ h) : s.applyBuffered h = s := by
  have : (s.fab.rwbuf.filter fun w => w.handle == h) = [] := List.filter_eq_nil_iff.2 fun w hw => by simpa using hb w hw
  rw [State.applyBuffered, this]
  rfl

theorem State.resumeSlice_none {s : State} (h : s.fab.switching = none ∨ s.fab.sliceNo = none) : s.resumeSlice = s := by
  unfold State.resumeSlice
  split
  · rfl
  · next hs =>
    have : s.fab.sliceNo = none := h.resolve_left (by simp [hs])
    simp [this]

end Sys2Proof.Machine

open Sys2Proof Sys2Proof.Machine Sys2Proof.Spec

/-- R72, R344: the members are saved as they stand after the commits, then cleaned, and their leases return. -/
theorem preemptionSaves : Sys2Proof.Spec.PreemptionSaves := by
  intro s id q dlas hq hid hpre hslice hstop hsav hz hx hclear hbuf
  let cores := q.pool.map Member.at_
  let s1 := cores.foldl (fun s r => (s.detach r).commitCore r) s
  let s2 := (s1.writeSave dlas).moveUses (useSaved id cores)
  let s3 := cores.foldl (fun s r => s.cleanMember id r) s2
  let s4 := s3.returnLeases id
  let done (p : Pipe) : Pipe := { p with pool := [], saved := q.pool.map (s1.saveOf q), pre := .stopped }
  let s5 := s4.updPipe id done
  have commits : Commits s s1 := Commits.foldl (fun s r => (Commits.detach s r).trans (Commits.commitCore _ r)) cores s
  have front : SameFront s s4 := commits.front.trans ((SameFront.writeSave s1 dlas).trans
    ((SameFront.foldl (fun s r => SameFront.cleanMember s id r) cores s2).trans (SameFront.returnLeases s3 id)))
  have fab : s5.fab = s.fab := front.2
  have final : s.saveAll q id dlas = s5 := by
    show (s5.applyBuffered q.handle).resumeSlice = s5
    rw [State.applyBuffered_none (by rw [fab]; exact hbuf), State.resumeSlice_none (by rw [fab]; exact hslice)]
  have pipe : s5.pipe? id = some (done q) := State.pipe?_updPipe_same (fun _ => rfl) ((front.pipe? id).trans hq)
  refine ⟨s5, done q, (execPreemptionComplete_ready hq hpre hstop hsav hz hx hclear).trans (congrArg _ final), pipe, rfl, rfl,
    List.length_map _, fun j m v hm hv => ?_, fun m hm => ?_, fun i => State.returns_returnLeases s3 id i⟩
  · have hv : v = s1.saveOf q m := by
      have : (q.pool.map (s1.saveOf q))[j]? = some v := hv
      rw [List.getElem?_map, hm] at this
      exact (Option.some.inj this).symm
    subst hv
    exact ⟨rfl, rfl, hid ▸ commits.saveOf q m⟩
  · have : (s5.core m.at_).task = (s3.core m.at_).task := congrArg Core.task (State.core_returnLeases s3 id m.at_)
    exact this.trans (State.task_cleanMembers s2 id (List.mem_map_of_mem hm))

end

section
/-! SUPPORT. Resumption (O44): the rows that a restore brings back, what it gives a lead core, and the restore of every member
(R73, R345). -/

namespace Sys2Proof.Machine

open Sys2Proof.Spec

/-! ## Rows after a restore -/

theorem lookup_append {α β : Type} [DecidableEq α] (k : α) (l m : List (α × β)) : lookup k (l ++ m) = (lookup k l).or (lookup k m) := by
  induction l with
  | nil => rfl
  | cons x l ih =>
    obtain ⟨a, b⟩ := x
    rw [List.cons_append, lookup, lookup, ih]
    split <;> rfl

theorem lookup_filter {α β : Type} [DecidableEq α] (k : α) (p : α → Bool) (l : List (α × β)) :
    lookup k (l.filter fun x => p x.1) = if p k then lookup k l else none := by
  induction l with
  | nil => simp [lookup]
  | cons x l ih =>
    obtain ⟨a, b⟩ := x
    by_cases ha : a = k
    · subst ha
      cases hp : p a <;> simp [hp, lookup, ih]
    · cases hp : p a <;> simp [hp, lookup, ih, ha]

/-- The rows below the strip and the first n of the strip come back; the others stay (R72, R345). -/
theorem getKey_restoreRows (n j : Nat) (old new : List (Nat × Row)) :
    getKey 0 j (restoreRows true 0 n Prod.fst old new) = if j < 2048 ∨ j - 2048 < n then getKey 0 j old else getKey 0 j new := by
  have covered : coveredRow 0 n j = true ↔ 2048 ≤ j ∧ j - 2048 < n := by simp [coveredRow]
  unfold getKey restoreRows
  rw [lookup_append, lookup_append, if_pos rfl, lookup_filter j (fun k => decide (k < 2048)), lookup_filter j (coveredRow 0 n),
    lookup_filter j (fun k => decide (2048 ≤ k) && !coveredRow 0 n k)]
  by_cases h1 : j < 2048
  · have h2 : ¬ coveredRow 0 n j = true := fun h => by have := covered.1 h; omega
    have h3 : ¬ 2048 ≤ j := by omega
    simp [h1, h2, h3]
  · by_cases h2 : j - 2048 < n
    · have h3 : coveredRow 0 n j = true := covered.2 ⟨by omega, h2⟩
      simp [h1, h2, h3]
    · have h3 : ¬ coveredRow 0 n j = true := fun h => h2 (covered.1 h).2
      have h4 : 2048 ≤ j := by omega
      simp [h1, h2, h3, h4]

/-! ## The lead core after a restore -/

/-- The rows of the strip that come back with a member on a core: none, where its lease is of the core without the strip. -/
def State.extentAt (s : State) (p : Pipe) (v : Saved) (r : CoreRef) : Nat :=
  if ((s.die r.site).leaseOf p.id r.core).map Lease.kind = some (.bare r.core false) then 0
  else ((p.record.stages[v.stage]?).map fun d => p.record.extent v.stage d).getD 0

/-- A restored lead core, its stores apart, is that of `restoreLead`; its rows are the saved ones of the extent. -/
structure Restored (l : List (Saved × CoreRef)) (v : Saved) (n : Nat) (old new : Core) : Prop where
  core : ∃ m st, new = { restoreLead l m v old with st := st }
  rows : ∀ j, new.row j = if j < 2048 ∨ j - 2048 < n then v.lead.row j else old.row j

/-- What the restore of a member does first. -/
def State.restoreCore (s : State) (l : List (Saved × CoreRef)) (p : Pipe) (x : Saved × CoreRef) : State :=
  let n := ((p.record.stages[x.1.stage]?).map fun d => p.record.extent x.1.stage d).getD 0
  s.updCore x.2 fun c =>
    let c' := restoreLead l n x.1 c
    match ((s.die x.2.site).leaseOf p.id x.2.core).map Lease.kind with
    | some (.bare _ strip) => { c' with st := restoreBare strip n x.1.lead.st c.st }
    | _ => c'

/-- The further members of a fragment get their saved stores. -/
def State.restoreMembers (s : State) (n : Nat) (x : Saved × CoreRef) : State :=
  (x.1.members.zipIdx).foldl (fun s y => s.updSt (coreSouth x.2 (y.2 + 1)) (restoreStores false (y.2 + 1) n y.1)) s

theorem State.restore_eq (s : State) (l : List (Saved × CoreRef)) (p : Pipe) (x : Saved × CoreRef) : ∃ n,
    s.restore l p x = ((s.restoreCore l p x).restoreMembers n x).settle x.2 := ⟨_, rfl⟩

/-- The lease of a pipeline on a core of its own is of that core. -/
theorem Die.leaseOf_bare {d : Die} {id : Nat} {r c : Fin 8} {strip : Bool} (h : (d.leaseOf id r).map Lease.kind = some (.bare c strip)) : c = r := by
  obtain ⟨x, hx, hk⟩ := Option.map_eq_some_iff.1 h
  have found : (x.pipe == id && x.kind.lead == r) = true := List.find?_some (p := fun l : Lease => l.pipe == id && l.kind.lead == r) hx
  have lead := (Bool.and_eq_true_iff.1 found).2
  rw [hk] at lead
  exact eq_of_beq lead

theorem State.restored_restoreCore (s : State) (l : List (Saved × CoreRef)) (p : Pipe) (x : Saved × CoreRef) :
    Restored l x.1 (s.extentAt p x.1 x.2) (s.core x.2) ((s.restoreCore l p x).core x.2) := by
  unfold State.restoreCore State.extentAt
  rw [State.core_updCore]
  generalize ((p.record.stages[x.1.stage]?).map fun d => p.record.extent x.1.stage d).getD 0 = n
  have whole (k : Option LeaseKind) (hk : k ≠ some (.bare x.2.core false)) (j : Nat) :
      getKey 0 j (restoreRows true 0 n Prod.fst x.1.lead.st.rows (s.core x.2).st.rows) =
      if j < 2048 ∨ j - 2048 < (if k = some (.bare x.2.core false) then 0 else n) then x.1.lead.row j else (s.core x.2).row j := by
    rw [if_neg hk]
    exact getKey_restoreRows n j _ _
  cases hk : ((s.die x.2.site).leaseOf p.id x.2.core).map Lease.kind with
  | none => exact ⟨⟨n, _, rfl⟩, whole _ nofun⟩
  | some kind =>
    cases kind with
    | frag lead m => exact ⟨⟨n, _, rfl⟩, whole _ nofun⟩
    | bare c strip =>
      rw [Die.leaseOf_bare hk]
      cases strip with
      | true => exact ⟨⟨n, _, rfl⟩, whole _ nofun⟩
      | false => exact ⟨⟨n, _, rfl⟩, fun j => by rw [if_pos rfl]; exact getKey_restoreRows 0 j _ _⟩

/-! ## The other cores -/

/-- Two cores differ in their stores at most. -/
def Core.Restocked (c d : Core) : Prop := ∃ st, d = { c with st := st }

theorem Core.Restocked.refl (c : Core) : c.Restocked c := ⟨_, rfl⟩

theorem Core.Restocked.trans (a b c : Core) : a.Restocked b → b.Restocked c → a.Restocked c := by
  rintro ⟨st, rfl⟩ ⟨st', rfl⟩
  exact ⟨st', rfl⟩

theorem State.restocked_restoreMembers (s : State) (n : Nat) (x : Saved × CoreRef) : CoresVia Core.Restocked s (s.restoreMembers n x) := by
  unfold State.restoreMembers
  refine foldl_keeps (P := fun t => CoresVia Core.Restocked s t) (fun t y h => ?_) _ s (CoresVia.of_dies Core.Restocked.refl rfl)
  exact CoresVia.trans Core.Restocked.trans h (CoresVia.updCore t _ Core.Restocked.refl fun c => ⟨_, rfl⟩)

theorem State.settle_live {s : State} {r : CoreRef} {k : Task} (hk : (s.core r).task = some k) (hp : k.phase ≠ .faulted) : s.settle r = s := by
  simp only [State.settle, hk, hp, false_and, if_false]

theorem State.core_settle_ne (s : State) {r k : CoreRef} (h : k ≠ r) : (s.settle r).core k = s.core k := by
  unfold State.settle
  split
  · split
    · exact State.core_updCore_ne s _ h
    · rfl
  · rfl

/-- A member's restore changes no core but its lead, the stores of others apart. -/
theorem State.restocked_restore (s : State) (l : List (Saved × CoreRef)) (p : Pipe) {x : Saved × CoreRef} {r : CoreRef} (h : r ≠ x.2) :
    (s.core r).Restocked ((s.restore l p x).core r) := by
  obtain ⟨n, e⟩ := s.restore_eq l p x
  rw [e, State.core_settle_ne _ h]
  have := State.restocked_restoreMembers (s.restoreCore l p x) n x r
  rwa [show (s.restoreCore l p x).core r = s.core r from State.core_updCore_ne s _ h] at this

theorem State.frame_restore (s : State) (l : List (Saved × CoreRef)) (p : Pipe) (x : Saved × CoreRef) :
    SameFront s (s.restore l p x) ∧ ReadsAlike s (s.restore l p x) := by
  obtain ⟨n, e⟩ := s.restore_eq l p x
  rw [e]
  have members : SameFront s ((s.restoreCore l p x).restoreMembers n x) ∧ ReadsAlike s ((s.restoreCore l p x).restoreMembers n x) := by
    unfold State.restoreMembers
    refine foldl_keeps (P := fun t => SameFront s t ∧ ReadsAlike s t) (fun t y h => ?_) _ _ ?_
    · exact ⟨h.1, h.2.trans (ReadsAlike.updCore t _ _)⟩
    · exact ⟨⟨rfl, rfl⟩, ReadsAlike.updCore s _ _⟩
  unfold State.settle
  split
  · split
    · exact ⟨members.1, members.2.trans (ReadsAlike.updCore _ _ _)⟩
    · exact members
  · exact members

/-! ## The restore of every member -/

/-- A saved task that goes on, and what a core that takes it up holds of its member. -/
structure Core.TakesUp (l : List (Saved × CoreRef)) (v : Saved) (c : Core) : Prop where
  core : ∃ m old st, c = { restoreLead l m v old with st := st }

theorem Core.TakesUp.restocked {l : List (Saved × CoreRef)} {v : Saved} {c d : Core} (h : c.TakesUp l v) (k : c.Restocked d) : d.TakesUp l v := by
  obtain ⟨m, old, st, rfl⟩ := h.core
  obtain ⟨st', rfl⟩ := k
  exact ⟨m, old, st', rfl⟩

/-- What the statement asks of the core of a saved member whose task had stopped (R345). -/
theorem Core.TakesUp.spec {l : List (Saved × CoreRef)} {v : Saved} {c : Core} {k : Task} (h : c.TakesUp l v) (hk : v.task = some k)
    (hs : k.phase = .stopped) :
    (∃ k', c.task = some k' ∧ k'.phase = .running ∧ k'.record = k.record ∧ k'.claims = k.claims ∧ k'.gangId = k.gangId) ∧
    c.vf = v.lead.vf ∧ c.h = v.lead.h ∧ c.sem = v.lead.sem ∧ c.cnt = v.lead.cnt ∧ c.rings = v.lead.rings ∧
    ∀ n, (c.ctx n).x = (v.lead.ctx n).x ∧ (c.ctx n).pc = (v.lead.ctx n).pc := by
  obtain ⟨m, old, st, rfl⟩ := h.core
  refine ⟨⟨{ k with phase := .running, resv := moveResv l k.resv }, ?_, rfl, rfl, rfl, rfl⟩, rfl, rfl, rfl, ?_, rfl, fun n => ?_⟩
  · simp [restoreLead, hk, hs]
  · simp [restoreLead, hk]
  · cases n <;> simp [restoreLead, hk, Context.restored, Core.ctx]

theorem State.takesUp_restore (s : State) (l : List (Saved × CoreRef)) (p : Pipe) {x : Saved × CoreRef} {k : Task} (hk : x.1.task = some k)
    (hs : k.phase = .stopped) : ((s.restore l p x).core x.2).TakesUp l x.1 := by
  obtain ⟨n, e⟩ := s.restore_eq l p x
  obtain ⟨m, st, lead⟩ := (s.restored_restoreCore l p x).core
  have up : (((s.restoreCore l p x).restoreMembers n x).core x.2).TakesUp l x.1 :=
    Core.TakesUp.restocked ⟨m, _, st, lead⟩ (State.restocked_restoreMembers (s.restoreCore l p x) n x x.2)
  obtain ⟨⟨k', hk', running, -⟩, -⟩ := up.spec hk hs
  rwa [e, State.settle_live hk' (by simp [running])]

/-- Every member's core takes its saved member up, as no two members take one core. -/
theorem State.takesUp_restoreAll (s : State) (l : List (Saved × CoreRef)) (p : Pipe) {m : List (Saved × CoreRef)} (hn : (m.map Prod.snd).Nodup)
    {x : Saved × CoreRef} (hx : x ∈ m) {k : Task} (hk : x.1.task = some k) (hs : k.phase = .stopped) :
    ((m.foldl (fun s x => s.restore l p x) s).core x.2).TakesUp l x.1 := by
  obtain ⟨m1, m2, rfl⟩ := List.append_of_mem hx
  have later : ∀ y ∈ m2, x.2 ≠ y.2 := by
    rw [List.map_append, List.map_cons] at hn
    exact fun y hy e => (List.nodup_cons.1 hn.of_append_right).1 (e ▸ List.mem_map_of_mem hy)
  rw [List.foldl_append, List.foldl_cons]
  have up := State.takesUp_restore (m1.foldl (fun s x => s.restore l p x) s) l p hk hs
  generalize (m1.foldl (fun s x => s.restore l p x) s).restore l p x = t at up
  clear hx hn
  induction m2 generalizing t with
  | nil => exact up
  | cons y m2 ih =>
    exact ih (fun z hz => later z (List.mem_cons_of_mem _ hz)) _ (up.restocked (t.restocked_restore l p (later y List.mem_cons_self)))

theorem State.frame_restoreAll (s : State) (l : List (Saved × CoreRef)) (p : Pipe) (m : List (Saved × CoreRef)) :
    SameFront s (m.foldl (fun s x => s.restore l p x) s) ∧ ReadsAlike s (m.foldl (fun s x => s.restore l p x) s) :=
  foldl_keeps (P := fun t => SameFront s t ∧ ReadsAlike s t)
    (fun t x h => ⟨h.1.trans (t.frame_restore l p x).1, h.2.trans (t.frame_restore l p x).2⟩) m s ⟨SameFront.refl s, ReadsAlike.of_eq rfl rfl⟩

/-- A settling core keeps its rows. -/
theorem State.row_settle (s : State) (r k : CoreRef) (j : Nat) : ((s.settle r).core k).row j = (s.core k).row j := by
  have via : CoresVia (fun c d => d.st = c.st) s (s.settle r) := by
    unfold State.settle
    split
    · split
      · exact CoresVia.updCore s r (fun _ => rfl) fun _ => rfl
      · exact fun _ => rfl
    · exact fun _ => rfl
  rw [Core.row, Core.row, via k]

/-- The rows of the core on which a member without further cores is restored. -/
theorem State.row_restore (s : State) (l : List (Saved × CoreRef)) (p : Pipe) {x : Saved × CoreRef} (hm : x.1.members = []) (j : Nat) :
    ((s.restore l p x).core x.2).row j =
      if j < 2048 ∨ j - 2048 < s.extentAt p x.1 x.2 then x.1.lead.row j else (s.core x.2).row j := by
  obtain ⟨n, e⟩ := s.restore_eq l p x
  have none : (s.restoreCore l p x).restoreMembers n x = s.restoreCore l p x := by rw [State.restoreMembers, hm]; rfl
  rw [e, none, State.row_settle]
  exact (s.restored_restoreCore l p x).rows j

/-! ## RESUMPTION -/

/-- With no write waiting anywhere, the members' instances take none. -/
theorem State.applyHeld_none {s : State} (h : s.fab.rwbuf = []) (r : CoreRef) : s.applyHeld r = s := by
  refine foldl_keeps (P := fun t => t = s) (fun t k ht => ?_) _ _ rfl
  rw [ht, h]
  rfl

/-- A pipeline that has resumed: its members stand on their new cores, and nothing is saved. -/
def Pipe.resumed (s : State) (l : List (Saved × CoreRef)) (q : Pipe) : Pipe :=
  { q with
    pre := .none
    saved := []
    sampleAt := s.bclk * tBclk
    pool := q.poolResumed l
    replays := q.replays.map fun t => { t with resv := moveResv l t.resv } }

/-- The state of a resumption before its members are restored. -/
def State.resuming (s : State) (id : Nat) (l : List (Saved × CoreRef)) : State :=
  ((s.updPipe id (Pipe.resumed s l)).updHomes fun h =>
    { h with parked := mapIf (fun k => k.pipe == id) (fun k => { k with resv := moveResv l k.resv }) h.parked }).moveUses (useResumed id l)

theorem State.readsAlike_resuming (s : State) (id : Nat) (l : List (Saved × CoreRef)) : ReadsAlike s (s.resuming id l) := by
  unfold State.resuming State.moveUses
  refine ReadsAlike.trans ?_ (ReadsAlike.updHomes _ rfl rfl rfl rfl)
  refine ReadsAlike.trans ?_ (ReadsAlike.updHomes _ rfl rfl rfl rfl)
  exact ReadsAlike.updPipe s id _

/-- With its requests granted, its leases zeroed and a member for each saved one, a pipeline resumes (R345). -/
theorem execResumption_ready {s : State} {id : Nat} {q : Pipe} (hq : s.pipe? id = some q) (hpre : q.pre = .resuming)
    (hout : s.slicedOut q = false) (hreq : ∀ x ∈ s.fe.reqs, x.pipe ≠ id) (hz : ∀ i, ∀ l ∈ (s.die i).leases, l.pipe = id → l.zeroUntil = none)
    (hlen : (matchMembers q.pool q.saved).length = q.saved.length) (hbuf : s.fab.rwbuf = []) :
    let l := matchMembers q.pool q.saved
    execResumption id s = .next (l.foldl (fun s x => s.restore l q x) (s.resuming id l)) := by
  intro l
  have reqs : (s.fe.reqs.any fun x => x.pipe == id && q.resumesStage x.stage) = false :=
    List.any_eq_false.2 fun x hx => by simp [hreq x hx]
  have zeroed : s.zeroedAll id = true := by
    have none : (sites.any fun i => (s.die i).leases.any fun l => l.pipe == id && l.zeroUntil.isSome) = false :=
      List.any_eq_false.2 fun i _ => by
        rw [List.any_eq_true]
        rintro ⟨x, hx, h⟩
        obtain ⟨hp, hs⟩ := Bool.and_eq_true_iff.1 h
        rw [hz i x hx (eq_of_beq hp)] at hs
        cases hs
    rw [State.zeroedAll, none]
    rfl
  let t := l.foldl (fun s x => s.restore l q x) (s.resuming id l)
  have held : l.foldl (fun s x => s.applyHeld x.2) t = t := by
    have fab : t.fab.rwbuf = [] := (congrArg Fabric.rwbuf (State.frame_restoreAll (s.resuming id l) l q l).1.2).trans hbuf
    exact foldl_keeps (P := fun u => u = t) (fun u x hu => by rw [hu]; exact State.applyHeld_none fab x.2) l t rfl
  unfold execResumption go
  rw [hq]
  dsimp only
  rw [hpre, hout, reqs, zeroed, if_neg (by simp [hlen])]
  exact congrArg _ held

end Sys2Proof.Machine

open Sys2Proof Sys2Proof.Machine Sys2Proof.Spec

/-- R345: each saved member is restored on the core that took its place. -/
theorem resumptionRestores : Sys2Proof.Spec.ResumptionRestores := by
  intro s id q hq hid hpre hout hreq hz l hlen hn hbuf
  let u := s.resuming id l
  obtain ⟨front, reads⟩ := State.frame_restoreAll u l q l
  have pipe : u.pipe? id = some (q.resumed s l) := State.pipe?_updPipe_same (f := Pipe.resumed s l) (fun _ => rfl) hq
  refine ⟨_, q.resumed s l, execResumption_ready hq hpre hout hreq hz hlen hbuf, (front.pipe? id).trans pipe, rfl, rfl, ?_,
    fun x hx k hk hs => (State.takesUp_restoreAll u l q hn hx hk hs).spec hk hs, fun v r d hl hm hd => ?_, ((s.readsAlike_resuming id l).trans reads).keepsMemory⟩
  · show (q.poolResumed l).length = _
    rw [Pipe.poolResumed, List.length_append, List.length_map, hlen]
  · intro n j
    have extent : u.extentAt q v r = n := by
      show (if ((s.die r.site).leaseOf q.id r.core).map Lease.kind = _ then 0 else _) = n
      rw [hid, hd]
      rfl
    have one : l.foldl (fun s x => s.restore l q x) u = u.restore l q (v, r) := by
      conv_lhs => rw [hl]
      rw [hl]
      rfl
    rw [one, ← extent]
    exact State.row_restore u l q (x := (v, r)) hm j

/-- Settles O44: a pre-emption that is complete has saved its members (`preemptionSaves`), and a resumption restores them
(`resumptionRestores`). -/
theorem savesAndResumptions : Obligations.SavesAndResumptions := ⟨preemptionSaves, resumptionRestores⟩

end

section
/-! SUPPORT. Every function of the model that makes a state keeps the canonical form of global memory (log 2): a lemma for each, in the order
of the model, then the instructions, a turn and a step; and the obligation that they settle (O59). -/

set_option Elab.async false

namespace Sys2Proof.Machine

open Sys2Proof.Spec

/-- Global memory stands in its canonical form. -/
def State.Canon (s : State) : Prop := s.homes.mem.wf = true

namespace State.Canon

variable {s t : State}

/-- What leaves the bytes of memory keeps their form. -/
theorem same (h : s.Canon) (e : t.homes.mem = s.homes.mem) : t.Canon := (congrArg (Memory.wf · = true) e).mpr h

/-- A state with the same home slices. -/
theorem others {d : Vector Die 6} {fe : FrontEnd} {m : Mgmt} {fab : Fabric} {fl : Flash} {now : Nat} {cur : CtxRef} {l : List Turn} {n : Nat}
    (h : s.Canon) : State.Canon ⟨now, cur, l, n, d, s.homes, fe, m, fab, fl⟩ := h

/-- A state whose home slices hold the same bytes. -/
theorem homesAs {d : Vector Die 6} {g : Homes} {fe : FrontEnd} {m : Mgmt} {fab : Fabric} {fl : Flash} {now : Nat} {cur : CtxRef}
    {l : List Turn} {n : Nat} (h : s.Canon) (e : g.mem = s.homes.mem := by dsimp only) : State.Canon ⟨now, cur, l, n, d, g, fe, m, fab,
      fl⟩ := h.same e

theorem pair {α : Type} {p : State × α} {a : α} (h : p.1.Canon) (e : p = (t, a)) : t.Canon := (congrArg (fun p : State × α => p.1.Canon) e).mp h

theorem updHomes {f : Homes → Homes} (h : s.Canon) (e : ∀ g, (f g).mem = g.mem := by exact fun _ => rfl) :
    (s.updHomes f).Canon := h.same (e _)

/-- What each step of a list keeps, the whole list keeps. -/
theorem foldl {α : Type} {f : State → α → State} {l : List α} (h : s.Canon) (hf : ∀ t a, t.Canon → (f t a).Canon) : (l.foldl f s).Canon :=
  foldl_keeps hf l s h

/-! ## Writes at the homes -/

theorem carryPoison {i : Fin 6} {l : Nat} (h : s.Canon) : (s.carryPoison i l).Canon := h.same (State.mem_carryPoison s i l)

theorem commitLine {l : Nat} {data : LineData} (h : s.Canon) : (s.commitLine l data).Canon := State.wf_commitLine h l data

theorem forwardLine {i : Fin 6} {l : Nat} (h : s.Canon) : (s.forwardLine i l).Canon := State.wf_forwardLine h i l

theorem forwardOthers {i : Fin 6} {l : Nat} (h : s.Canon) : (s.forwardOthers i l).Canon := State.wf_forwardOthers h i l

theorem recallFrom {i : Fin 6} {l : Nat} (h : s.Canon) : (s.recallFrom i l).Canon := State.wf_recallFrom h i l

theorem recallLine {l : Nat} (h : s.Canon) : (s.recallLine l).Canon := State.wf_recallLine h l

theorem touchLlc {l : Nat} (h : s.Canon) : (s.touchLlc l).Canon := h.same (State.mem_touchLlc s l)

theorem triggerAll {l : Nat} (h : s.Canon) : (s.triggerAll l).Canon := h.same (State.mem_triggerAll s l)

theorem homeWrite {a size w : Nat} (h : s.Canon) : (s.homeWrite a size w).Canon := State.wf_homeWrite h a size w

theorem commitCovered {c : CtxRef} {m : BitVec 16} (h : s.Canon) : (s.commitCovered c m).Canon := State.wf_commitCovered h c m

/-! ## Requests to the dies -/

theorem addSnoop {i : Fin 6} {l : Nat} {f : Option (Fin 6)} {r : Bool} (h : s.Canon) : (s.addSnoop i l f r).Canon :=
  h.same (State.mem_addSnoop s i l f r)

theorem askRead {l : Nat} (h : s.Canon) : (s.askRead l).Canon := by
  unfold State.askRead
  split
  · split
    · exact h.addSnoop
    · exact h
  · exact h

theorem askWrite {l : Nat} (h : s.Canon) : (s.askWrite l).Canon := by
  unfold State.askWrite
  split
  · exact h.foldl fun _ _ ht => ht.addSnoop
  · exact h

theorem withReads {i : Option (Fin 6)} {ls : List Nat} {k : State → State} (h : s.Canon) (hk : (k s).Canon) :
    (withReads s i ls k).Canon := by
  unfold Machine.withReads
  split
  · exact hk
  · exact h.foldl fun _ _ ht => ht.askRead

theorem withWrites {ls : List Nat} {k : State → State} (h : s.Canon) (hk : (k s).Canon) : (withWrites s ls k).Canon := by
  unfold Machine.withWrites
  split
  · exact hk
  · exact h.foldl fun _ _ ht => ht.askWrite

/-! ## Rings and rows -/

theorem publish {pipe ring : Nat} {r : CoreRef} {p : BitVec 9} (h : s.Canon) : (s.publish pipe ring r p).Canon :=
  h.same (congrArg Homes.mem (State.homes_publish s pipe ring r p))

theorem wakeSlot {r : CoreRef} {g : RingInst} {i n : Nat} (h : s.Canon) : (s.wakeSlot r g i n).Canon :=
  h.same (congrArg Homes.mem (State.homes_wakeSlot s r g i n))

theorem applyWrite {pipe : Nat} {r : CoreRef} {w : RemoteWrite} (h : s.Canon) : (s.applyWrite pipe r w).Canon :=
  h.same (congrArg Homes.mem (State.homes_applyWrite s pipe r w))

theorem applyWaiting {r : CoreRef} {ring n : Nat} (h : s.Canon) : (s.applyWaiting r ring n).Canon :=
  h.same (congrArg Homes.mem (State.homes_applyWaiting s r ring n))

theorem popSlot {r : CoreRef} {ring : Nat} (h : s.Canon) : (s.popSlot r ring).Canon :=
  h.same (congrArg Homes.mem (State.homes_popSlot s r ring))

theorem popSlots {r : CoreRef} {ring n : Nat} (h : s.Canon) : (s.popSlots r ring n).Canon :=
  h.same (congrArg Homes.mem (State.homes_popSlots s r ring n))

/-! ## Faults -/

theorem unpin {l : List Nat} (h : s.Canon) : (s.unpin l).Canon := h.same (State.mem_unpin s l)

theorem pinAll {l : List Nat} (h : s.Canon) (e : s.pinAll l = some t) : t.Canon := h.same (State.mem_pinAll e)

theorem dropHeld {r : CoreRef} (h : s.Canon) : (s.dropHeld r).Canon := h.same (State.mem_dropHeld s r)

theorem settle {r : CoreRef} (h : s.Canon) : (s.settle r).Canon := h.same (State.mem_settle s r)

theorem dropKids {n : Nat} (h : s.Canon) : (s.dropKids n).Canon := h.same (State.mem_dropKids s n)

theorem endTask {r : CoreRef} {f : FaultInfo} {first : Option Nat} (h : s.Canon) : (s.endTask r f first).Canon :=
  h.same (State.mem_endTask s r f first)

theorem endGang {r : CoreRef} {f : FaultInfo} (h : s.Canon) : (s.endGang r f).Canon := h.same (State.mem_endGang s r f)

theorem beginShutdown {n status : Nat} {l : List Nat} (h : s.Canon) : (s.beginShutdown n status l).Canon :=
  h.same (State.mem_beginShutdown s n status l)

theorem takeFault {r : CoreRef} {f : FaultInfo} (h : s.Canon) : (s.takeFault r f).Canon := h.same (State.mem_takeFault s r f)

theorem takeFaults {l : List (CoreRef × FaultInfo)} (h : s.Canon) : (s.takeFaults l).Canon := h.same (State.mem_takeFaults s l)

theorem ctxFault {c : CtxRef} {code addr : Nat} {info : Word} {data : BitVec 256} (h : s.Canon) : (s.ctxFault c code addr info data).Canon :=
  h.takeFault

theorem fault {code addr : Nat} (h : s.Canon) : (s.fault code addr).Canon := h.takeFault

theorem illegal {w : CtlWord} (h : s.Canon) : (s.illegal w).Canon := h.takeFault

theorem cmdFault {r : CoreRef} {e : Nat} {q : QEntry} {code addr : Nat} (h : s.Canon) : (s.cmdFault r e q code addr).Canon := h.takeFault

theorem feFault {r : CoreRef} {code addr : Nat} (h : s.Canon) : (s.feFault r code addr).Canon := h.takeFault

/-! ## What control words share -/

theorem issue {i : Instr} {k : State → State} (h : s.Canon) (hk : (k s).Canon) : (issue i s k).Canon :=
  wf_issue h fun _ => hk

theorem orphanOr {gone : Bool} {queue : Nat} {w : Wait} (h : s.Canon) : (orphanOr s gone queue w).Canon := by
  unfold Machine.orphanOr
  split
  · exact h.fault
  · exact h

theorem withPorts {srcs dsts : List Nat} {k : State → State} (h : s.Canon) (hk : (k s).Canon) :
    (withPorts s srcs dsts k).Canon := by
  unfold Machine.withPorts
  dsimp only
  split
  · exact h.fault
  · split
    · exact h
    · split
      · exact h
      · exact hk

theorem withRelease {op : AccOp} {wide : Bool} {k : State → State} (h : s.Canon) (hk : ∀ t, t.Canon → (k t).Canon) :
    (withRelease s op wide k).Canon := wf_withRelease h hk

theorem withPins {l : List Nat} {k : State → State} (h : s.Canon) (hk : ∀ t, t.Canon → (k t).Canon) : (withPins s l k).Canon := by
  unfold Machine.withPins
  split
  · exact h
  · next e =>
    split
    · exact h.fault
    · exact hk _ (h.pinAll e)

theorem withXlat {hvas : List Nat} {wr : Bool} {asked paged : State → Nat → State} {k : State → List Nat → State} (h : s.Canon)
    (ha : ∀ t a, t.Canon → (asked t a).Canon) (hp : ∀ a, (paged s a).Canon) (hk : ∀ t l, t.Canon → (k t l).Canon) :
    (withXlat s hvas wr asked paged k).Canon := by
  unfold Machine.withXlat
  dsimp only
  split
  · exact h.withPins fun t ht => hk t _ ht
  · exact State.Canon.fault h
  · exact hp _
  · exact ha _ _ (h.same (State.mem_askXlat s _ _ _ _))

theorem withAligned {e n : Nat} {k : State → State} (h : s.Canon) (hk : (k s).Canon) : (withAligned s e n k).Canon := wf_withAligned h hk

end State.Canon

variable {s : State}

/-! ## Functions of Sys2Proof/Machine/Ops.lean -/

theorem State.Canon.updDie {i : Fin 6} {f : Die → Die} (h : s.Canon) : (s.updDie i f).Canon := h

theorem State.Canon.updCore {r : CoreRef} {f : Core → Core} (h : s.Canon) : (s.updCore r f).Canon := h

theorem State.Canon.updCtx {c : CtxRef} {f : Context → Context} (h : s.Canon) : (s.updCtx c f).Canon := h

theorem State.Canon.updMe {f : Context → Context} (h : s.Canon) : (s.updMe f).Canon := h

theorem State.Canon.updMyCore {f : Core → Core} (h : s.Canon) : (s.updMyCore f).Canon := h

theorem State.Canon.updFe {f : FrontEnd → FrontEnd} (h : s.Canon) : (s.updFe f).Canon := h

theorem State.Canon.wx {r : BitVec 5} {v : Word} (h : s.Canon) : (s.wx r v).Canon := h

theorem State.Canon.updPipe {id : Nat} {f : Pipe → Pipe} (h : s.Canon) : (s.updPipe id f).Canon := h

theorem State.Canon.draw (h : s.Canon) : s.draw.1.Canon := h

theorem State.Canon.at_ {n : Nat} (h : s.Canon) : (s.at_ n).Canon := h

theorem State.Canon.onBase {l : Nat} (h : s.Canon) : (s.onBase l).Canon := h

theorem State.Canon.triggerDie {i : Fin 6} {l : Nat} (h : s.Canon) : (s.triggerDie i l).Canon := h

theorem State.Canon.watchLine {l : Nat} (h : s.Canon) : (s.watchLine l).Canon := h

theorem State.Canon.disarmDie {i : Fin 6} {l : Nat} (h : s.Canon) : (s.disarmDie i l).Canon := h

theorem State.Canon.accept {i : Fin 6} {ls : List Nat} (h : s.Canon) : (s.accept i ls).Canon := h

theorem State.Canon.overwrite {p : Nat → Bool} (h : s.Canon) : (s.overwrite p).Canon := h

theorem State.Canon.logErr {code slice site dla count : Nat} (h : s.Canon) : (s.logErr code slice site dla count).Canon := h

theorem State.Canon.raiseIrq {v : Nat} (h : s.Canon) : (s.raiseIrq v).Canon := by
  unfold State.raiseIrq
  split
  · exact h
  · exact h.updFe

theorem State.Canon.setRow {r : CoreRef} {row : Nat} {v : Row} (h : s.Canon) : (s.setRow r row v).Canon := h

theorem State.Canon.waking (h : s.Canon) : s.waking.Canon := h

theorem State.Canon.wakeOwn {r : CoreRef} {i : Nat} (h : s.Canon) : (s.wakeOwn r i).Canon := h

theorem State.Canon.wakeRow {r : CoreRef} {row : Nat} (h : s.Canon) : (s.wakeRow r row).Canon := h

theorem State.Canon.updTask {r : CoreRef} {f : Task → Task} (h : s.Canon) : (s.updTask r f).Canon := h

theorem State.Canon.askXlat {u : XlatUser} {pasid hva : Nat} {wr skip : Bool} (h : s.Canon) : (s.askXlat u pasid hva wr skip).Canon := by
  unfold State.askXlat
  dsimp only
  split
  · exact h
  · exact h.updHomes

theorem State.Canon.dropRefused {u : XlatUser} {pasid hva : Nat} (h : s.Canon) : (s.dropRefused u pasid hva).Canon := h

theorem State.Canon.dropRefusals {u : XlatUser → Bool} (h : s.Canon) : (s.dropRefusals u).Canon := h

theorem State.Canon.recordFaults {pipe : Nat} {l : List BadRec} (h : s.Canon) : (s.recordFaults pipe l).Canon := by
  unfold State.recordFaults
  split
  · exact h
  · exact h.updPipe.beginShutdown

theorem State.Canon.sideEffect (h : s.Canon) : s.sideEffect.Canon := h

theorem State.Canon.goOn (h : s.Canon) : s.goOn.Canon := h

theorem State.Canon.block {w : Wait} (h : s.Canon) : (s.block w).Canon := h

theorem State.Canon.takeSeq (h : s.Canon) : s.takeSeq.1.Canon := h

theorem State.Canon.issueAccess {cls : BitVec 16} {op : AccOp} {hva : Word} {pages : List Nat} (h : s.Canon) :
    (s.issueAccess cls op hva pages).Canon :=
  h

/-! ## Functions of Sys2Proof/Machine/Access.lean -/

theorem State.Canon.awaitRead {a : Nat} (h : s.Canon) : (s.awaitRead a).Canon := h

theorem State.Canon.issueLoad {hvas : List Nat} {size : Nat} {cls : BitVec 16} {dest : LoadDest} (h : s.Canon) :
    (issueLoad s hvas size cls dest).Canon := by
  unfold Machine.issueLoad
  split
  · exact h.block
  · refine h.withXlat (fun _ _ ht => ht.awaitRead) (fun _ => h.awaitRead) fun t l ht => ?_
    exact State.Canon.updMe ht.takeSeq

theorem State.Canon.logStore {cls : BitVec 16} {stores : List (Nat × LogOp)} (h : s.Canon) : (logStore s cls stores).Canon := by
  unfold Machine.logStore
  split
  · dsimp only
    split
    · exact h.dropRefused.fault
    · refine h.withPins fun t ht => (State.Canon.goOn (ht.sideEffect.foldl fun u a hu => (State.Canon.updMyCore (State.Canon.takeSeq ?_))))
      split
      · exact hu.askXlat
      · exact hu
  · exact h.block

theorem State.Canon.issueStore {cls : BitVec 16} {ops : List (Nat × LogOp)} (h : s.Canon) : (issueStore s cls ops).Canon := by
  unfold Machine.issueStore
  split
  · exact h.logStore
  · dsimp only
    exact h.withXlat (fun _ _ ht => (ht.sideEffect.foldl fun _ _ hu => hu.issueAccess).goOn) (fun _ => h.logStore) fun _ _ ht =>
      (ht.sideEffect.foldl fun _ _ hu => hu.issueAccess).goOn

theorem State.Canon.jump {w : Word} (h : s.Canon) : (s.jump w).Canon := h

theorem State.Canon.result {d : BitVec 5} {v : Word} (h : s.Canon) : (s.result d v).Canon := h

/-! ## Functions of Sys2Proof/Machine/System.lean -/

theorem State.Canon.stopGang {r : CoreRef} (h : s.Canon) : (s.stopGang r).Canon := by
  unfold State.stopGang
  split
  · exact h
  · dsimp only
    split
    · exact h.foldl fun _ _ ht => ht.dropHeld.updCore
    · exact h

theorem State.Canon.tryBarrier {r : CoreRef} (h : s.Canon) : (s.tryBarrier r).Canon := by
  unfold State.tryBarrier
  dsimp only
  split
  · exact h.updCore.stopGang
  · exact h

theorem State.Canon.arriveBarrier {w : CtlWord} (h : s.Canon) : (s.arriveBarrier w).Canon := by
  unfold State.arriveBarrier
  split
  · split
    · exact h.illegal
    · exact h.tryBarrier
  · exact h

theorem State.Canon.mwaitDone (h : s.Canon) : s.mwaitDone.Canon := h

/-! ## Functions of Sys2Proof/Machine/Tasks.lean -/

theorem State.Canon.unpark {p : Parked} (h : s.Canon) : (s.unpark p).Canon := by
  unfold State.unpark
  split
  · exact h
  · exact h.updPipe

theorem State.Canon.wakeParked (h : s.Canon) : s.wakeParked.Canon := by
  unfold State.wakeParked
  exact (h.foldl fun _ _ ht => ht.unpark).updHomes

theorem State.Canon.fillCell {dla : Nat} {v : Word} (h : s.Canon) : (s.fillCell dla v).Canon := by
  unfold State.fillCell
  exact h.homeWrite.updHomes.wakeParked

theorem State.Canon.resetCell {dla : Nat} (h : s.Canon) : (s.resetCell dla).Canon := by
  unfold State.resetCell
  exact h.homeWrite.updHomes

theorem State.Canon.squash {r : CoreRef} {dla count : Nat} (h : s.Canon) : (s.squash r dla count).Canon := by
  unfold State.squash
  split
  · exact h
  · exact h.dropHeld.updHomes.updCore

theorem State.Canon.freeze {a : Nat} (h : s.Canon) : (s.freeze a).Canon := h

theorem State.Canon.begin {b : Begun} (h : s.Canon) : (s.begin b).Canon := h

theorem State.Canon.fgetHome {d : BitVec 5} {ea dla : Nat} {asked : Option Nat} (h : s.Canon) : (s.fgetHome d ea dla asked).Canon := by
  unfold State.fgetHome
  dsimp only
  split
  · exact h.block
  · refine h.block.withReads ?_
    split
    · exact h.block.accept.fault
    · split
      · exact h.block.accept.unpin.result
      · split
        · exact h.block.accept.squash
        · exact h.block.accept.unpin.freeze

theorem State.Canon.countSpawn (h : s.Canon) : s.countSpawn.Canon := h

theorem State.Canon.spawnImage {ea : Nat} {m : BitVec 16} {no : Nat} (h : s.Canon) : (s.spawnImage ea m no).Canon := by
  unfold State.spawnImage
  exact h.issueLoad

theorem State.Canon.joinAt {hva : Word} {dla : Nat} {j : JoinWait} (h : s.Canon) : (s.joinAt hva dla j).Canon := by
  unfold State.joinAt
  dsimp only
  split
  · exact h.block.updMe
  · split
    · refine h.block.updMe.withReads ?_
      split
      · exact h.block.updMe.fault
      · exact h.block.updMe.unpin.updMe.goOn
    · exact h.block.updMe
    · split
      · exact h.block.updMe
      · refine h.block.updMe.withReads ?_
        split
        · exact h.block.updMe.accept.fault
        · split
          · exact h.block.updMe.accept.unpin.updMe.goOn
          · exact h.block.updMe.accept.block.updMe

theorem State.Canon.recordGbar {r : CoreRef} {n : CtxName} {k : Nat} (h : s.Canon) : (s.recordGbar r n k).Canon := by
  unfold State.recordGbar
  split
  · exact h
  · exact h.updPipe

theorem State.Canon.tryGbar {r : CoreRef} {n : CtxName} {k : Nat} (h : s.Canon) : (s.tryGbar r n k).Canon := by
  unfold State.tryGbar
  dsimp only
  split
  · exact (h.foldl fun _ _ ht => ht.commitCovered.updCtx).recordGbar
  · exact h

theorem State.Canon.gbarGone {r : CoreRef} {f : FaultInfo} (h : s.Canon) : (s.gbarGone r f).Canon := by
  unfold State.gbarGone
  split
  · exact h
  · dsimp only
    exact (h.foldl fun _ _ ht => ht.endTask).beginShutdown

theorem State.Canon.thirdExit (h : s.Canon) : s.thirdExit.Canon := by
  unfold State.thirdExit
  split
  · exact h.fault
  · split
    · exact h.fault
    · exact h.updTask

theorem State.Canon.setEvents {pipe : Nat} {m : BitVec 64} (h : s.Canon) : (s.setEvents pipe m).Canon := h

/-! ## Functions of Sys2Proof/Machine/Rings.lean -/

theorem State.Canon.issueQld {q : BitVec 2} {c : BitVec 4} {src : CoreRef} {row : Nat} {slot : Option (Nat × Nat)} (h : s.Canon) :
    (issueQld s q c src row slot).Canon := by
  unfold Machine.issueQld
  dsimp only
  split
  · exact h.orphanOr
  · refine State.Canon.goOn (State.Canon.issueAccess ?_)
    split
    · exact h.updMyCore.updTask
    · exact h.updMyCore

theorem State.Canon.issueQst {q : BitVec 2} {c : BitVec 4} {dst : CoreRef} {row : Nat} (h : s.Canon) : (issueQst s q c dst row).Canon := by
  unfold Machine.issueQst
  dsimp only
  split
  · exact h.orphanOr
  · exact h.updMyCore.sideEffect.issueAccess.goOn

theorem State.Canon.withInst {v : Resv} {k : State → State} (h : s.Canon) (hk : (k s).Canon) : (withInst s v k).Canon := by
  unfold Machine.withInst
  split
  · exact h.fault
  · exact hk

theorem State.Canon.rresOpen {d n : BitVec 5} {inst : CoreRef} (h : s.Canon) : (rresOpen s d n inst).Canon := by
  unfold Machine.rresOpen
  dsimp only
  split
  · exact h.block
  · exact h.sideEffect.updCore.updTask.result

/-! ## Functions of Sys2Proof/Machine/Commands.lean -/

theorem State.Canon.pushFault {code addr : Nat} {w : CmdWord} {info : Word} (h : s.Canon) : (s.pushFault code addr w info).Canon := by
  unfold State.pushFault
  exact h.ctxFault

theorem State.Canon.pushQueue {w v : CmdWord} {i : Instr} {xs : List Xlat} {pages : List Nat} (h : s.Canon) :
    (pushQueue s w v i xs pages).Canon := by
  unfold Machine.pushQueue
  dsimp only
  refine State.Canon.goOn (State.Canon.updMe (State.Canon.updMyCore (State.Canon.takeSeq ?_)))
  split
  · exact h.updMyCore
  · exact h

theorem State.Canon.pushTranslate {w v : CmdWord} {i : Instr} (h : s.Canon) : (pushTranslate s w v i).Canon := by
  unfold Machine.pushTranslate
  dsimp only
  split
  · split
    · exact h.pushFault
    · split
      · next e =>
          have ht := h.pinAll e
          exact ht.pushQueue
      · exact h.block
  · exact h.dropRefused.pushFault
  · exact h.block
  · exact h.askXlat.block

/-! ## Functions of Sys2Proof/Machine/Engine.lean -/

theorem State.Canon.takeSem {r : CoreRef} {i : Instr} (h : s.Canon) : (takeSem s r i).Canon := by
  unfold Machine.takeSem
  dsimp only
  split
  · exact h.at_.updCore
  · exact h.at_

theorem State.Canon.withStart {i : Instr} {k : QEntry → State → State} (h : s.Canon) (hk : ∀ q t, t.Canon → (k q t).Canon) :
    (withStart i s k).Canon := by
  unfold Machine.withStart
  split
  · exact hk _ _ h.takeSem
  · exact h

theorem State.Canon.startFault {q : QEntry} {code addr : Nat} (h : s.Canon) : (startFault s q code addr).Canon := by
  unfold Machine.startFault
  exact h.cmdFault

theorem State.Canon.begun {q : QEntry} {todo : List EngWrite} {stamp : Option EngWrite} {amax : Option (BitVec 33)}
    {pops : List (Nat × Nat)} (h : s.Canon) : (begun s q todo stamp amax pops).Canon :=
  h

theorem State.Canon.withRows {e : State} {rows : List (CoreRef × Nat)} {k : State → State} (h : s.Canon) (he : e.Canon) (hk : (k s).Canon) :
    (withRows s rows k e).Canon := by
  unfold Machine.withRows
  split
  · exact he.foldl fun _ _ ht => ht.wakeRow
  · exact hk

theorem State.Canon.spoilRows {rows : List (CoreRef × Nat)} (h : s.Canon) : (spoilRows s rows).Canon := by
  unfold Machine.spoilRows
  refine h.foldl fun t a ht => ?_
  exact State.Canon.setRow ht.draw

theorem State.Canon.drawN {k : Nat} (h : s.Canon) : (s.drawN k).1.Canon := by
  unfold State.drawN
  exact h.others

theorem State.Canon.put {a size w : Nat} (h : s.Canon) : (s.updHomes fun g => g.put a size w).Canon :=
  Homes.wf_put (h := s.homes) h a size w

theorem State.Canon.lineWrite {l : Nat} {m : BitVec 128} {data : LineData} (h : s.Canon) : (s.lineWrite l m data).Canon := by
  have hr : (s.recallLine l).Canon := h.recallLine
  unfold State.lineWrite
  generalize s.recallLine l = t at hr ⊢
  extract_lets _ old b u
  have hu : u.Canon := by
    refine State.Canon.triggerAll (State.Canon.overwrite (State.Canon.touchLlc ?_))
    exact hr.put
  clear_value u
  split
  · exact hu.updHomes
  · exact hu

theorem State.Canon.engWrite {i : Fin 6} {w : EngWrite} (h : s.Canon) : (s.engWrite i w).Canon := by
  unfold State.engWrite
  split
  · exact h.updCore
  · exact h.accept.lineWrite
  · exact h
  · exact h

theorem State.Canon.engAsk {i : Fin 6} {w : EngWrite} (h : s.Canon) : (s.engAsk i w).Canon := by
  unfold State.engAsk
  split
  · exact h.wakeOwn
  · split
    · exact h.askWrite
    · exact h
  · exact h
  · exact h

theorem State.Canon.land {r : CoreRef} {e : Fin 6} {n : Nat} (h : s.Canon) : (s.land r e n).Canon := by
  unfold State.land
  split
  · exact h
  · split
    · split
      · split
        · exact h.engWrite.updCore
        · exact h.engAsk
      · split
        · split
          · exact h.engWrite.updCore
          · exact h.engAsk
        · exact h
    · exact h

theorem State.Canon.signal {r : CoreRef} {q : QEntry} (h : s.Canon) : (s.signal r q).Canon := by
  unfold State.signal
  dsimp only
  split
  · split
    · exact h.cmdFault
    · exact h.updCore
  · exact h

theorem State.Canon.popClaimed {r : CoreRef} {ring n : Nat} (h : s.Canon) : (s.popClaimed r ring n).1.Canon := by
  induction n generalizing s with
  | zero => exact h
  | succ n ih =>
    unfold State.popClaimed
    split
    · exact h
    · exact ih h.popSlot

theorem State.Canon.popRings {r : CoreRef} {l : List (Nat × Nat)} (h : s.Canon) : (s.popRings r l).1.Canon := by
  induction l generalizing s with
  | nil => exact h
  | cons x l ih =>
    unfold State.popRings
    split
    · next e => exact ih (h.popClaimed.pair e)
    · next e => exact h.popClaimed.pair e

theorem State.Canon.finish {r : CoreRef} {e : Fin 6} {q : QEntry} {am : Option (BitVec 33)} {pops : List (Nat × Nat)} (h : s.Canon) :
    (s.finish r e q am pops).Canon := by
  unfold State.finish
  split
  · next e' =>
      have ht := (h.updCore.popRings).pair e'
      exact ht.updCore.unpin.signal.settle
  · next e' =>
      have ht := (h.updCore.popRings).pair e'
      exact ht.cmdFault.unpin.settle

theorem State.Canon.finishNow {q : QEntry} (h : s.Canon) : (finishNow s q).Canon := by
  unfold Machine.finishNow
  exact h.updCore.finish

/-! ## Functions of Sys2Proof/Machine/Matrix.lean -/

theorem State.Canon.updSt {r : CoreRef} {f : Stores → Stores} (h : s.Canon) : (s.updSt r f).Canon := h

theorem State.Canon.eachRow {vcnt : Nat} {f : Nat → Nat → Stores → Stores} (h : s.Canon) : (eachRow s vcnt f).Canon := by
  unfold Machine.eachRow
  exact h.foldl fun _ _ ht => ht.updSt

theorem State.Canon.dirtyAll {vcnt : Nat} {b : Bool} (h : s.Canon) : (dirtyAll s vcnt b).Canon := by
  unfold Machine.dirtyAll
  refine h.foldl fun t a ht => ?_
  split
  · exact ht.updSt
  · exact ht

theorem State.Canon.spoilBank {b : Bool} (h : s.Canon) : (spoilBank s b).Canon := by
  unfold Machine.spoilBank
  refine h.foldl fun t a ht => ?_
  dsimp only
  exact (ht.foldl fun _ _ hu => hu.drawN.updSt).updSt

theorem State.Canon.spoilHalf {b : Bool} {vcnt : Nat} (h : s.Canon) : (spoilHalf s b vcnt).Canon := by
  unfold Machine.spoilHalf
  refine h.foldl fun t a ht => ?_
  dsimp only
  exact (ht.foldl fun _ _ hu => hu.drawN.updSt).updSt

theorem State.Canon.arrayRun {vcnt g ks p : Nat} {ta tb bank zf : Bool} {a : Nat → Operand} {b : Operand} (h : s.Canon) :
    (arrayRun s vcnt g ks p ta tb bank zf a b).Canon := by
  unfold Machine.arrayRun
  exact h.eachRow.dirtyAll

theorem State.Canon.drainDone {b : DrainBody} (h : s.Canon) : (drainDone s b).Canon := by
  unfold Machine.drainDone
  exact h.foldl fun _ _ ht => ht.updSt

theorem State.Canon.drainRun {s0 : State} {q : QEntry} {b : DrainBody} {v : Nat} (h : s.Canon) (h0 : s0.Canon) :
    (drainRun s0 s q b v).Canon := by
  unfold Machine.drainRun
  dsimp only
  split
  · exact h.startFault
  · refine h.withRows h0 ?_
    split
    · exact h.spoilBank.startFault
    · exact h.drainDone.begun

theorem State.Canon.chainStart {u d : CoreRef} {uq dq : QEntry} {uh dh : CmdHdr} {ub : DrainBody} {db : MmaBody} (h : s.Canon) :
    (chainStart s u d uq uh ub dq dh db).Canon := by
  have alone {r : CtxRef} : State.Canon { Machine.takeSem s d (.mmac dh db) with cur := r } := h.takeSem.others
  have poisoned {r : CtxRef} : (Machine.startFault (Machine.spoilBank { Machine.takeSem s u
    (.drain uh ub) with cur := r } ub.bank) uq fPoison 0).Canon :=
    h.takeSem.others.spoilBank.startFault
  unfold Machine.chainStart
  dsimp only
  split
  · exact alone.startFault
  · refine State.Canon.withRows h.takeSem.takeSem.others h.others ?_
    split
    · exact poisoned.others
    · split
      · exact alone.spoilHalf.startFault
      · split
        · exact alone.spoilHalf.startFault
        · exact h.takeSem.takeSem.others.drawN.arrayRun.begun.others.drainDone.begun.others

theorem State.Canon.keepCur {f : State → State} (h : (f s).Canon) : (keepCur s f).Canon := h

theorem State.Canon.unlinkOut {r : CoreRef} (h : s.Canon) : (s.unlinkOut r).Canon := by
  unfold State.unlinkOut
  split
  · exact h
  · exact h.updCore.updCore

theorem State.Canon.unlinkIn {r : CoreRef} (h : s.Canon) : (s.unlinkIn r).Canon := by
  unfold State.unlinkIn
  split
  · exact h
  · exact h.updCore.updCore

/-! ## Functions of Sys2Proof/Machine/Copy.lean -/

theorem State.Canon.withLines {e : State} {ps : List (Nat × Nat × Nat)} {k : State → State} (h : s.Canon) (he : e.Canon)
    (hk : ∀ t, t.Canon → (k t).Canon) : (withLines s ps e k).Canon := by
  unfold Machine.withLines
  dsimp only
  split
  · split
    · exact hk _ (h.accept.foldl fun _ _ ht => ht.touchLlc)
    · exact he.withReads he
  · exact he

theorem State.Canon.toScratch {q : QEntry} {b : CopyBody} {src : Nat} {dest : List (CoreRef × Nat)} {rows : List (List (Option SrcElem))}
    {pops : List (Nat × Nat)} (h : s.Canon) : (toScratch s q b src dest rows pops).Canon :=
  h

theorem State.Canon.loadRun {s0 : State} {q : QEntry} {b : CopyBody} {v : Nat} {dest : List (CoreRef × Nat)} {rowOf : Nat → Option Nat}
    (h : s.Canon) (h0 : s0.Canon) : (loadRun s0 s q b v dest rowOf).Canon := by
  unfold Machine.loadRun
  dsimp only
  refine h.withRows h0 (h.withLines h0 fun t ht => ?_)
  split
  · exact ht.startFault
  · split
    · exact ht.spoilRows.startFault
    · exact ht.toScratch

theorem State.Canon.prefetchLine {i : Fin 6} {l : Nat} (h : s.Canon) : (prefetchLine s i l).Canon := by
  unfold Machine.prefetchLine
  split
  · exact h
  · exact h.forwardOthers.updDie

theorem State.Canon.prefetchLines {i : Fin 6} {lvl : Bool} {ls : List Nat} (h : s.Canon) : (prefetchLines s i lvl ls).Canon := by
  unfold Machine.prefetchLines
  refine h.foldl fun t a ht => ?_
  split
  · exact ht.prefetchLine
  · split
    · exact ht
    · exact ht.touchLlc

/-! ## Functions of Sys2Proof/Machine/Atomics.lean -/

theorem State.Canon.gatomRun {i : Instr} {b : GatomBody} {f : Word → Word} (h : s.Canon) : (gatomRun i b f s).Canon := by
  unfold Machine.gatomRun
  refine h.withStart fun q t ht => ?_
  split
  · exact ht.begun
  · split
    · exact h
    · split
      · exact ht.startFault
      · split
        · exact ht.startFault
        · split
          · exact h
          · split
            · exact h.askWrite
            · exact ht.accept.homeWrite.begun

theorem State.Canon.dropMig {m : Migration} {status : Nat} (h : s.Canon) : (s.dropMig m status).Canon := by
  unfold State.dropMig
  dsimp only
  split
  · split
    · exact h.updHomes.logErr
    · exact h.updHomes
  · split
    · split
      · refine State.Canon.finish (State.Canon.at_ ?_)
        split
        · exact h.updHomes.logErr
        · exact h.updHomes
      · split
        · exact h.updHomes.logErr
        · exact h.updHomes
    · split
      · exact h.updHomes.logErr
      · exact h.updHomes

theorem State.Canon.endMig {m : Migration} {status : Nat} (h : s.Canon) : (s.endMig m status).Canon := by
  unfold State.endMig
  split
  · exact h.dropMig
  · dsimp only
    split
    · exact h.updHomes
    · exact h.updHomes.withWrites h.updHomes.homeWrite.dropMig

theorem State.Canon.tryMig {page n : Nat} (h : s.Canon) : (s.tryMig page n).Canon := by
  induction n generalizing s with
  | zero => exact h
  | succ n ih =>
    unfold State.tryMig
    split
    · exact h
    · split
      · split
        · exact ih h.endMig
        · dsimp only
          split
          · exact h.updHomes
          · exact h
      · exact h

theorem State.Canon.askMig {m : Migration} (h : s.Canon) : (s.askMig m).Canon := by
  unfold State.askMig
  exact h.updHomes.tryMig

theorem State.Canon.abortMig {m : Migration} {status : Nat} (h : s.Canon) : (s.abortMig m status).Canon := by
  unfold State.abortMig
  exact h.updHomes.endMig.tryMig

theorem State.Canon.scatWindow {t : State} {b : ScatBody} {op : Nat} {vrows : List (CoreRef × Nat)} {idx : Nat → Nat} {es : List Nat}
    (h : s.Canon) (e : scatWindow s b op vrows idx es = .ok t) : t.Canon := by
  unfold Machine.scatWindow at e
  dsimp only at e
  split at e
  · cases e
  · split at e
    · cases e
    · cases e
      refine h.foldl fun u q hu => ?_
      split
      · exact hu.setRow.updCore
      · exact hu.setRow

theorem State.Canon.scatWindows {b : ScatBody} {op : Nat} {vrows : List (CoreRef × Nat)} {idx : Nat → Nat} {v : Nat} {l : List Nat}
    (h : s.Canon) : (scatWindows s b op vrows idx v l).1.Canon := by
  induction l generalizing s with
  | nil => exact h
  | cons k l ih =>
    unfold Machine.scatWindows
    split
    · exact h
    · next e => exact ih (h.scatWindow e)

theorem State.Canon.scatRun {i : Instr} {b : ScatBody} {op : Nat} (h : s.Canon) : (scatRun i b op s).Canon := by
  unfold Machine.scatRun
  refine h.withStart fun q t ht => ?_
  dsimp only
  split
  · exact ht.startFault
  · exact ht.startFault
  · refine ht.withRows h ?_
    split
    · exact ht.startFault
    · refine ht.withRows h ?_
      split
      · next e =>
          have hu := (ht.scatWindows).pair e
          exact hu.startFault
      · next e =>
          have hu := (ht.scatWindows).pair e
          exact hu.begun

theorem State.Canon.purgeWrites (h : s.Canon) : s.purgeWrites.Canon := by
  unfold State.purgeWrites
  exact h.others.foldl fun _ _ ht => ht.logErr

theorem State.Canon.rwriteRefused {r : CoreRef} {e : Fin 6} {q : QEntry} (h : s.Canon) : (s.rwriteRefused r e q).Canon := by
  unfold State.rwriteRefused
  exact h.cmdFault.unpin.updCore.settle

theorem State.Canon.setTodo {r : CoreRef} {e : Fin 6} {q : QEntry} {todo : List EngWrite} (h : s.Canon) : (s.setTodo r e q todo).Canon := by
  unfold State.setTodo
  split
  · exact h.updCore
  · exact h

theorem State.Canon.arrive {t : State} {w : RemoteWrite} (h : s.Canon) (e : s.arrive w = .applied t ∨ s.arrive w = .waits t) : t.Canon := by
  unfold State.arrive at e
  dsimp only at e
  repeat' split at e
  all_goals simp only [ArriveRes.applied.injEq, ArriveRes.waits.injEq, reduceCtorEq, false_or, or_false] at e
  all_goals subst e
  · exact h
  · exact h.updPipe
  · exact h
  · exact h.wakeSlot
  · exact h.applyWrite

theorem State.Canon.bufferWrite {t : State} {w : RemoteWrite} (h : s.Canon) (e : s.bufferWrite w = some t) : t.Canon := by
  unfold State.bufferWrite at e
  split at e
  · cases e; exact h
  · cases e

theorem State.Canon.rwriteDone {r : CoreRef} {e : Fin 6} {q : QEntry} {n : Nat} {todo : List EngWrite} {pops : List (Nat × Nat)}
    (h : s.Canon) : (s.rwriteDone r e q n todo pops).Canon := by
  unfold State.rwriteDone
  dsimp only
  split
  · exact h
  · split
    · split
      · next e => exact (h.at_.arrive (.inl e)).finish
      · next t e =>
        have ht : t.Canon := h.at_.arrive (.inr e)
        cases e : t.bufferWrite _ with
        | none => exact ht
        | some u => exact (ht.bufferWrite e).setTodo
      · exact h.at_.logErr.rwriteRefused
    · split
      · split
        · next e => exact (h.at_.arrive (.inl e)).others.finish
        · next e => exact h.at_.arrive (.inr e)
        · exact h.at_.others.logErr.rwriteRefused
      · exact h.at_.finish
    · exact h.at_.finish

/-! ## Functions of Sys2Proof/Machine/Turns.lean -/

theorem State.Canon.slot {c : CtxRef} (h : s.Canon) : (s.slot c).Canon := h

theorem State.Canon.issued {c : CtxRef} (h : s.Canon) : (s.issued c).Canon := h

theorem State.Canon.missed {c : CtxRef} (h : s.Canon) : (s.missed c).Canon := h

theorem State.Canon.sweep {c : CtxRef} (h : s.Canon) : (s.sweep c).Canon := h

theorem State.Canon.dropAccess {c : CtxRef} {seq : Nat} (h : s.Canon) : (s.dropAccess c seq).Canon := by
  unfold State.dropAccess
  exact h.updCtx.sweep.settle

theorem State.Canon.setAccess {c : CtxRef} {a : Access} (h : s.Canon) : (s.setAccess c a).Canon := h

theorem State.Canon.accessFault {c : CtxRef} {a : Access} {code addr : Nat} (h : s.Canon) : (s.accessFault c a code addr).Canon := by
  unfold State.accessFault
  exact h.takeFault.dropAccess

theorem State.Canon.dieWrite {c : CtxRef} {a : Access} {dla size : Nat} {data : Word} {rel : Option RelInfo} (h : s.Canon) :
    (s.dieWrite c a dla size data rel).Canon :=
  h

theorem State.Canon.qldArrives {c : CtxRef} {a : Access} {q : Fin 4} {src : CoreRef} {row : Nat} {slot : Option (Nat × Nat)} (h : s.Canon) :
    (s.qldArrives c a q src row slot).Canon := by
  unfold State.qldArrives
  split
  · exact h.wakeOwn
  · exact h.setAccess.updCore.sweep.settle

theorem State.Canon.fputHome {c : CtxRef} {a : Access} {dla : Nat} {v : Word} (h : s.Canon) : (s.fputHome c a dla v).Canon := by
  unfold State.fputHome
  dsimp only
  split
  · exact h
  · refine h.withWrites ?_
    split
    · exact h.accept.commitCovered.unpin.accessFault
    · exact h.accept.commitCovered.unpin.fillCell.dropAccess

theorem State.Canon.fresetHome {c : CtxRef} {a : Access} {dla : Nat} (h : s.Canon) : (s.fresetHome c a dla).Canon := by
  unfold State.fresetHome
  dsimp only
  split
  · exact h
  · exact h.withWrites h.accept.resetCell.unpin.dropAccess

theorem State.Canon.logAccess {c : CtxRef} {a : Access} {pasid : Nat} (h : s.Canon) : (s.logAccess c a pasid).Canon := by
  unfold State.logAccess
  dsimp only
  split
  · exact h.updCore.foldl fun _ _ ht => ht.dropAccess
  · exact h

theorem State.Canon.translateAccess {c : CtxRef} {a : Access} {pasid : Nat} {op : LogOp} (h : s.Canon) : (s.translateAccess c a pasid op).Canon := by
  unfold State.translateAccess
  dsimp only
  split
  · split
    · exact h
    · next e =>
        have ht := h.pinAll e
        split
        · exact ht.setAccess
        · exact h.accessFault
  · exact h.dropRefused.accessFault
  · exact h.logAccess
  · exact h.askXlat

theorem State.Canon.lateRelease {c : CtxRef} {a : Access} {wide : Bool} {k : State → State} (h : s.Canon)
    (hk : ∀ t, t.Canon → (k t).Canon) : (s.lateRelease c a wide k).Canon := by
  unfold State.lateRelease
  split
  · refine hk _ ?_
    split
    · exact h.commitCovered
    · exact h
  · exact h

theorem State.Canon.semsLate {c : CtxRef} {a : Access} {n : BitVec 6} (h : s.Canon) : (s.semsLate c a n).Canon := by
  unfold State.semsLate
  dsimp only
  split
  · exact h.accessFault
  · exact h.updCore.dropAccess

theorem State.Canon.performAccess {c : CtxRef} {a : Access} (h : s.Canon) : (s.performAccess c a).Canon := by
  unfold State.performAccess
  split
  · exact h.translateAccess
  · exact h.lateRelease fun _ ht => ht.setEvents.dropAccess
  · exact h.lateRelease fun _ ht => ht.semsLate
  · dsimp only
    split
    · exact h
    · exact h.publish.dropAccess
  · split
    · exact h
    · split
      · exact h.dieWrite.dropAccess
      · exact h.dieWrite.dropAccess
      · exact h.dropAccess
      · exact h.qldArrives
      · split
        · exact h.wakeOwn
        · exact h.updCore.dropAccess
      · exact h.fputHome
      · exact h.fresetHome
      · exact h

theorem State.Canon.perform {c : CtxRef} {n : Nat} (h : s.Canon) : (s.perform c n).Canon := by
  unfold State.perform
  split
  · exact h.performAccess
  · exact h

theorem State.Canon.hostWrite {dla size : Nat} {data : Word} (h : s.Canon) : (s.hostWrite dla size data).Canon := by
  unfold State.hostWrite
  split
  · exact h
  · exact h.withWrites h.homeWrite

theorem State.Canon.hostRead {dla : Nat} (h : s.Canon) : (s.hostRead dla).Canon := by
  unfold State.hostRead
  split
  · exact h
  · exact h.withReads h.touchLlc

theorem State.Canon.idle (h : s.Canon) : s.idle.Canon := h

/-! ## Functions of Sys2Proof/Machine/Coherence.lean -/

theorem State.Canon.acquireAt {c : CtxRef} {dla : Nat} {m : BitVec 16} {n : Nat} (h : s.Canon) : (s.acquireAt c dla m n).Canon := by
  unfold State.acquireAt
  split
  · split
    · exact h
    · exact h.updDie
  · exact h

theorem State.Canon.readEffect {c : CtxRef} {l : HeldLoad} {w : LoadWord} (h : s.Canon) : (s.readEffect c l w).Canon := by
  unfold State.readEffect
  cases l.dest with
  | acq => exact h.acquireAt
  | mon => exact h.updCtx
  | _ => exact h

theorem State.Canon.spawnAddr {t : State} {used : Bool} {a : Word} (h : s.Canon) (e : spawnAddr s used a = .stop t) : t.Canon := by
  unfold Machine.spawnAddr at e
  dsimp only at e
  split at e
  · cases e
  · split at e
    · split at e
      · cases e
      · cases e; exact h.fault
    · cases e; exact h.dropRefused.fault
    · cases e; exact h
    · cases e; exact h.askXlat

theorem State.Canon.spawnReturn {l : HeldLoad} {vals : List Word} {m : BitVec 16} {no : Nat} (h : s.Canon) : (spawnReturn s l vals m no).Canon := by
  unfold Machine.spawnReturn
  dsimp only
  split
  · exact h.fault
  · split
    · exact h.fault
    · split
      · exact h.fault
      · split
        · next e =>
            have ht := h.spawnAddr e
            exact ht
        · split
          · next e =>
              have ht := h.spawnAddr e
              exact ht
          · split
            · exact h
            · next e =>
                have ht := h.pinAll e
                exact ht.unpin.issueAccess.goOn

theorem State.Canon.loadDone {l : HeldLoad} {vals : List Word} (h : s.Canon) : (loadDone s l vals).Canon := by
  unfold Machine.loadDone
  dsimp only
  split
  · exact h.unpin.wx.goOn
  · exact h.unpin.wx.goOn
  · exact h.unpin.goOn
  · exact h.unpin.updMe.goOn
  · split
    · exact h.unpin.updMyCore.goOn
    · exact h.fault
  · exact h.unpin.updMyCore.goOn
  · exact h.spawnReturn

theorem Homes.mem_serveStub (h : Homes) (page : Nat) (at_ : Home) (a : Agent) (now : Nat) : (h.serveStub page at_ a now).mem = h.mem := rfl

theorem State.Canon.relayDie {i : Fin 6} {page fwd : Nat} {at_ : Home} (h : s.Canon) : (s.relayDie i page at_ fwd).1.Canon := by
  unfold State.relayDie
  dsimp only
  refine (h.updHomes fun g => ?_).updDie
  split <;> rfl

theorem State.Canon.force {l : Nat} (h : s.Canon) : (s.force l).Canon := h

theorem State.Canon.publishWrite {w : DieWrite} (h : s.Canon) : (s.publishWrite w).Canon := by
  unfold State.publishWrite
  dsimp only
  split
  · exact h.homeWrite.unpin.accept
  · exact h.homeWrite.unpin

theorem State.Canon.relayWrite {i : Fin 6} {n : Nat} {w : DieWrite} (h : s.Canon) : (s.relayWrite i n w).Canon :=
  h.relayDie.updDie

theorem State.Canon.askPublish {run : List DieWrite} {w : DieWrite} (h : s.Canon) : (s.askPublish run w).Canon := by
  unfold State.askPublish
  dsimp only
  split
  · split
    · exact h.foldl fun _ _ ht => ht.addSnoop
    · exact h
  · split
    · split
      · exact h.relayWrite
      · exact h
    · exact h

theorem State.Canon.commitRun {n : Note} {run : List DieWrite} (h : s.Canon) : (s.commitRun n run).Canon := by
  unfold State.commitRun
  refine h.commitCovered.foldl fun t a ht => ?_
  split
  · exact ht.commitCovered
  · exact ht

theorem Homes.mem_noteRel (h : Homes) (w : DieWrite) : (h.noteRel w).mem = h.mem := by
  unfold Homes.noteRel
  split
  · rfl
  · dsimp only
    split <;> rfl

theorem Homes.mem_noteRels (h : Homes) (l : List DieWrite) : (l.foldl Homes.noteRel h).mem = h.mem := by
  induction l generalizing h with
  | nil => rfl
  | cons w l ih => exact (ih _).trans (h.mem_noteRel w)

theorem State.Canon.publishNote {n : Note} (h : s.Canon) : (s.publishNote n).Canon := by
  unfold State.publishNote
  exact (h.foldl fun _ _ ht => ht.publishWrite).updDie.commitRun.updHomes fun g => Homes.mem_noteRels _ _

theorem State.Canon.loadAccepted {c : CtxRef} {l : HeldLoad} {k : Nat} {w : LoadWord} {v : Option Word} (h : s.Canon) :
    (s.loadAccepted c l k w v).Canon :=
  h

theorem State.Canon.loadAtHome {c : CtxRef} {l : HeldLoad} {k : Nat} {w : LoadWord} (h : s.Canon) : (s.loadAtHome c l k w).Canon := by
  unfold State.loadAtHome
  dsimp only
  split
  · exact h.force
  · split
    · split
      · exact h.addSnoop.loadAccepted
      · exact h.addSnoop
    · split
      · exact h
      · split
        · split
          · exact h.ctxFault
          · exact h.touchLlc.loadAccepted.readEffect
        · split
          · exact h.touchLlc.forwardOthers.updDie.loadAccepted
          · exact h

theorem State.Canon.loadRequest {c : CtxRef} {l : HeldLoad} (h : s.Canon) : (s.loadRequest c l).Canon := by
  unfold State.loadRequest
  split
  · exact h
  next w k _ =>
  dsimp only
  split
  · exact h
  split
  · exact h
  generalize (if s.pageLocal (pageOf w.dla) then l else { l with asked := some (l.asked.getD s.now) }) = held
  have asked : (if s.pageLocal (pageOf w.dla) then s else s.updCtx c fun x => { x with status := .held held }).Canon := by
    split
    · exact h
    · exact h.updCtx
  generalize (if s.pageLocal (pageOf w.dla) then s else s.updCtx c fun x => { x with status := .held held }) = t at asked ⊢
  split
  · exact asked
  split
  · split
    · exact asked
    · exact asked.loadAtHome
  · exact asked.relayDie.updCtx

theorem State.Canon.relPerforms {line : Nat} {w : DieWrite} (h : s.Canon) : (s.relPerforms line w).Canon := by
  unfold State.relPerforms
  split
  · split
    · exact h.commitCovered
    · exact h.updHomes
  · exact h

theorem State.Canon.writePerforms {i : Fin 6} {n : Nat} {w : DieWrite} (h : s.Canon) : (s.writePerforms i n w).Canon := by
  unfold State.writePerforms
  dsimp only
  refine State.Canon.settle (State.Canon.unpin (State.Canon.updDie ?_))
  split
  · exact h.relPerforms.updDie.overwrite.triggerAll
  · exact h.relPerforms.homeWrite

theorem State.Canon.writeRequest {i : Fin 6} {n : Nat} {w : DieWrite} (h : s.Canon) : (s.writeRequest i n w).Canon := by
  unfold State.writeRequest
  extract_lets page line at_ wide relHeld w' t others
  split
  · exact h
  split
  · exact h
  split
  · exact h
  have asked : t.Canon := by
    unfold t
    split
    · exact h
    · exact h.updDie
  clear_value others t w'
  split
  · exact asked
  split
  · split
    · exact asked
    split
    · exact asked.force
    split
    · exact asked
    split
    · exact asked.writePerforms
    · exact asked.foldl fun _ _ ht => ht.addSnoop
  · exact asked.relayWrite

theorem State.Canon.evictRequest {line : Nat} (h : s.Canon) : (s.evictRequest line).Canon := by
  unfold State.evictRequest
  split
  · exact h.force
  · exact h.foldl fun _ _ ht => ht.addSnoop

theorem State.Canon.askHeads {page : Nat} {r : CoreRef} (h : s.Canon) : (s.askHeads page r).Canon := by
  unfold State.askHeads
  refine h.foldl fun t a ht => ?_
  split
  · exact ht.updCore
  · exact ht

theorem State.Canon.markAsked {i : Fin 6} {page : Nat} (h : s.Canon) : (s.markAsked i page).Canon := by
  unfold State.markAsked
  split
  · exact h
  · dsimp only
    exact (h.foldl fun _ _ ht => ht.askHeads.updCore).updFe

theorem State.Canon.engineHop {i : Fin 6} {page : Nat} (h : s.Canon) : (s.engineHop i page).Canon := by
  unfold State.engineHop
  dsimp only
  split
  · exact h
  · split
    · exact h.markAsked
    · split
      · split
        · exact h.markAsked
        · exact h.markAsked.updDie
      · exact h.markAsked.relayDie.updDie

theorem State.Canon.castout {i : Fin 6} {line : Nat} (h : s.Canon) : (s.castout i line).Canon := by
  unfold State.castout
  split
  · exact h.recallFrom.disarmDie
  · exact h

theorem State.Canon.answer {x : Snoop} (h : s.Canon) : (s.answer x).Canon := by
  unfold State.answer
  dsimp only
  split
  · split
    · exact h.updHomes.forwardLine.updDie
    · exact h.updHomes.forwardLine
  · split
    · exact h.updHomes.recallFrom.disarmDie
    · exact h.updHomes.recallFrom

theorem Homes.mem_servedPort (g : Homes) (page : Nat) (at_ x : Home) (p : Fin 64) (now : Nat) (red : Bool) :
    (if red then { g.serveStub page at_ (.port p) now with redirects := (g.serveStub page at_ (.port p) now).redirects ++ [(.port p, page, x)] }
      else g.serveStub page at_ (.port p) now).mem = g.mem := by
  cases red <;> rfl

theorem State.Canon.inwardHops {p : Fin 64} {page n : Nat} {at_ : Home} {fwd : Nat} (h : s.Canon) :
    (s.inwardHops p page n at_ fwd).1.Canon := by
  induction n generalizing s at_ fwd with
  | zero => exact h
  | succ n ih =>
    unfold State.inwardHops
    split
    · exact h
    · exact ih (h.updHomes fun g => g.mem_servedPort _ _ _ _ _ _)

theorem State.Canon.inwardAt {p : Fin 64} {dla : Nat} {op : InwardOp} (h : s.Canon) : (s.inwardAt p dla op).Canon := by
  have read : (Machine.withReads s none [lineOf dla] fun s => s.touchLlc (lineOf dla)).Canon := h.withReads h.touchLlc
  unfold State.inwardAt
  dsimp only
  cases op <;> dsimp only
  case read => exact read
  case write m data => exact h.withWrites h.lineWrite
  case acq =>
    split
    · exact h.force
    · exact read
  case rel v narrow =>
    split
    · exact h.force
    · refine h.withWrites (h.homeWrite.updHomes fun g => ?_)
      split <;> rfl
  case fput v =>
    refine h.withWrites ?_
    split
    · exact h
    · exact h.fillCell
  case freset => exact h.withWrites h.resetCell
  case fget t =>
    refine h.withReads ?_
    split
    · exact h.touchLlc
    · exact h.touchLlc.updHomes
  case count up => exact h.withWrites h.homeWrite
  case gatom i =>
    split
    · exact h
    · exact h.withWrites h.homeWrite

theorem State.Canon.inwardOn {p : Fin 64} {dla : Nat} {op : InwardOp} {at_ : Home} {fwd : Nat} {relayed : Bool} (h : s.Canon) :
    (s.inwardOn p dla op at_ fwd relayed).Canon := by
  unfold State.inwardOn
  dsimp only
  have hu : (s.inwardHops p (pageOf dla) 5 at_ fwd).1.Canon := h.inwardHops
  generalize s.inwardHops p (pageOf dla) 5 at_ fwd = x at hu
  have done : (if x.2.1 = x.1.homes.curHome (pageOf dla) then x.1.inwardAt p dla op else x.1).Canon := by
    split
    · exact hu.inwardAt
    · exact hu
  split
  · exact hu.updHomes
  · split
    · exact done
    · split
      · exact done.updHomes
      · exact done

theorem State.Canon.inward {p : Fin 64} {via : Option (Fin 12 × Nat)} {dla : Nat} {op : InwardOp} (h : s.Canon) : (s.inward p via dla op).Canon := by
  unfold State.inward
  dsimp only
  split
  · exact h
  · split
    · exact h.inwardOn
    · split
      · exact h
      · exact h.inwardOn

theorem State.Canon.inwardPublished {p : Fin 64} {line : Nat} (h : s.Canon) : (s.inwardPublished p line).Canon := h

theorem State.Canon.fetchFill {c : CtxRef} {hva dla : Nat} (h : s.Canon) : (s.fetchFill c hva dla).Canon := by
  unfold State.fetchFill
  split
  · exact h.ctxFault
  · split
    · exact h
    · refine h.withReads ?_
      dsimp only
      split
      · exact h.accept.touchLlc.ctxFault
      · exact h.accept.touchLlc.updCore.updCtx

/-! ## Functions of Sys2Proof/Machine/Translate.lean -/

theorem State.Canon.replayRel {c : CtxRef} {e : LogEntry} {d : Nat} {data : Word} {scope : BitVec 2} {mask : BitVec 16} (h : s.Canon) :
    (s.replayRel c e d data scope mask).Canon := by
  unfold State.replayRel
  dsimp only
  split
  · exact h.commitCovered.homeWrite.updDie
  · exact h.homeWrite.updDie.updHomes

/-- Memory stands in its canonical form in the state that a replayed entry leaves. -/
def Replayed.Canon : Replayed → Prop
  | .done t | .waits t => t.Canon
  | .fault _ _ => True

theorem State.Canon.replayAt {c : CtxRef} {e : LogEntry} {d : Nat} (h : s.Canon) : (s.replayAt c e d).Canon := by
  have ha : (s.accept c.at_.site [lineOf d]).Canon := h.accept
  unfold State.replayAt
  extract_lets i t isRel
  clear_value isRel
  replace ha : t.Canon := ha
  clear_value t
  split
  · trivial
  generalize (!if (s.die i).fenced then s.reachable (s.homes.slice d).pkg else s.routed i (pageOf d)) = away
  cases away
  · simp only [Bool.false_eq_true, if_false]
    split
    · exact ha.force
    split
    · exact ha.askWrite
    split
    · exact ha.homeWrite
    · exact ha.replayRel
    · split
      · trivial
      · exact ha.commitCovered.fillCell
    · exact ha.resetCell
  · exact h

theorem State.Canon.replayLog {r : CoreRef} {live : Bool} {kept l : List LogEntry} (h : s.Canon) :
    (replayLog r live s kept l).1.Canon := by
  induction l generalizing s kept with
  | nil => exact h
  | cons e l ih =>
    unfold Machine.replayLog
    split
    · exact ih h
    split
    · exact ih h
    split
    next u e' =>
      have hu : (Replayed.waits u).Canon := e' ▸ h.replayAt
      exact ih hu
    next u e' =>
      have hu : (Replayed.done u).Canon := e' ▸ h.replayAt
      refine ih ?_
      split
      · exact hu.unpin
      · exact hu
    · refine h.foldl fun t x ht => ?_
      split
      · exact ht.unpin
      · exact ht

theorem State.Canon.faultSaved {id n : Nat} {f : FaultInfo} (h : s.Canon) : (s.faultSaved id n f).Canon := by
  unfold State.faultSaved
  exact h.unpin.updPipe

theorem State.Canon.logFaults {l : List TaskFault} (h : s.Canon) : (s.logFaults l).Canon := by
  unfold State.logFaults
  dsimp only
  refine State.Canon.foldl ?_ (fun _ _ ht => ht.beginShutdown)
  refine h.foldl fun t a ht => ?_
  split
  · exact ht.endGang.settle
  · exact ht.faultSaved

theorem State.Canon.setLog {k : LogRef} {l : List LogEntry} (h : s.Canon) : (s.setLog k l).Canon := by
  cases k
  · exact h.updCore
  · exact h.updPipe

theorem State.Canon.replayOf {k : LogRef} (h : s.Canon) : (s.replayOf k).Canon := by
  unfold State.replayOf
  have hl : (Machine.replayLog (s.logCore k) k.live s [] (s.log k)).1.Canon := h.replayLog
  generalize Machine.replayLog (s.logCore k) k.live s [] (s.log k) = x at hl
  have hb : (match x.2.2 with
      | some (e, code, addr) => (x.1.setLog k x.2.1).logFaults [logFault k e code addr]
      | none => x.1.setLog k x.2.1).Canon := by
    split
    · exact hl.setLog.logFaults
    · exact hl.setLog
  cases k
  · exact hb.updCore.settle
  · exact hb

theorem mem_mapEntry (pkg : Nat) (x : Xlat) (h : Homes) (e : LogEntry) : (mapEntry pkg x h e).1.mem = h.mem := by
  unfold mapEntry
  dsimp only
  split <;> rfl

theorem mem_mapLog (pkg : Nat) (x : Xlat) (h : Homes) (l : List LogEntry) : (mapLog pkg x h l).1.mem = h.mem := by
  induction l generalizing h with
  | nil => rfl
  | cons e l ih => exact (ih _).trans (mem_mapEntry pkg x h e)

theorem State.Canon.mapLogs {x : Xlat} (h : s.Canon) : (s.mapLogs x).Canon := by
  unfold State.mapLogs
  refine h.foldl fun t k ht => ?_
  exact (ht.homesAs (mem_mapLog t.fab.pkg x t.homes (t.log k))).setLog

theorem State.Canon.replayAll (h : s.Canon) : s.replayAll.Canon := by
  unfold State.replayAll
  exact h.foldl fun _ _ ht => ht.replayOf

theorem State.Canon.retryEntry {r : CoreRef} {e : LogEntry} (h : s.Canon) : (s.retryEntry r e).Canon := by
  unfold State.retryEntry
  split
  · exact h
  · split
    · exact h.mapLogs
    · split
      · exact h.askXlat
      · exact h

theorem State.Canon.replay {k : LogRef} (h : s.Canon) : (s.replay k).Canon := by
  unfold State.replay
  exact (h.foldl fun _ _ ht => ht.retryEntry).replayOf

theorem State.Canon.fillXlat {u : XlatUser} {x : Xlat} (h : s.Canon) : (s.fillXlat u x).Canon := by
  unfold State.fillXlat
  split
  · exact h.updHomes
  · exact h.updCore.updDie

theorem State.Canon.refuse {q : XlatReq} (h : s.Canon) : (s.refuse q).Canon := by
  unfold State.refuse
  split
  · exact h.updHomes
  · exact h

theorem State.Canon.refusePage {q : XlatReq} (h : s.Canon) : (s.refusePage q).Canon := by
  unfold State.refusePage
  dsimp only
  exact (h.foldl fun _ _ ht => ht.unpin.setLog).logFaults

theorem State.Canon.dropXlats {pasid hva lg : Nat} (h : s.Canon) : (s.dropXlats pasid hva lg).Canon := by
  unfold State.dropXlats
  exact (h.foldl fun _ _ ht => ht.updDie).updHomes

theorem State.Canon.moveUses {f : Option Nat × CtxRef × Nat → Option Nat × CtxRef × Nat} (h : s.Canon) : (s.moveUses f).Canon := h

theorem State.Canon.enqueue {c : CtxRef} {a : Access} {r : TaskRec} {m : BitVec 16} (h : s.Canon) : (s.enqueue c a r m).Canon := by
  unfold State.enqueue
  dsimp only
  refine State.Canon.dropAccess (State.Canon.unpin ?_)
  split
  · split
    · exact h.accept.homeWrite
    · exact h
  · split
    · split
      · exact h.accept.homeWrite
      · exact h.accept.homeWrite.updCore.updFe
    · split
      · exact h
      · exact h.updCore.updFe

/-! ## Functions of Sys2Proof/Machine/Pools.lean -/

theorem State.Canon.updLease {pipe : Nat} {r : CoreRef} {f : Lease → Lease} (h : s.Canon) : (s.updLease pipe r f).Canon := h

theorem State.Canon.defineRings {p : Pipe} {stage : Nat} {r : CoreRef} (h : s.Canon) : (s.defineRings p stage r).Canon := by
  unfold State.defineRings
  split
  · exact h
  · refine h.foldl fun t a ht => ?_
    split
    · exact ht.updCore
    · exact ht

theorem State.Canon.undefineStage {p : Pipe} {stage : Nat} {r : CoreRef} (h : s.Canon) : (s.undefineStage p stage r).Canon := by
  unfold State.undefineStage
  split
  · exact h
  · exact h.foldl fun _ _ ht => ht.updCore

theorem State.Canon.move {p : Pipe} {m : Member} {to_ : Nat} (h : s.Canon) : (s.move p m to_).Canon := by
  unfold State.move
  exact h.undefineStage.defineRings.updLease.updPipe

theorem State.Canon.afterFree {id : Nat} {r : CoreRef} (h : s.Canon) : (s.afterFree id r).Canon := by
  unfold State.afterFree
  split
  · exact h
  · split
    · exact h
    · split
      · exact h
      · split
        · exact h
        · exact h.move.updPipe

theorem State.Canon.returnLeases {id : Nat} (h : s.Canon) : (s.returnLeases id).Canon := by
  unfold State.returnLeases
  exact h.foldl fun _ _ ht => ht.updDie

theorem State.Canon.endPipe {id : Nat} (h : s.Canon) : (s.endPipe id).Canon := by
  unfold State.endPipe
  dsimp only
  exact ((h.updHomes.updFe.updPipe.foldl fun _ _ ht => ht.updCore).returnLeases).purgeWrites

theorem State.Canon.endIfDone {id : Nat} (h : s.Canon) : (s.endIfDone id).Canon := by
  unfold State.endIfDone
  split
  · exact h
  · split
    · exact h.endPipe
    · exact h

/-! ## Functions of Sys2Proof/Machine/Lifecycle.lean -/

theorem State.Canon.claimIns {d : StageDecl} {r : CoreRef} (h : s.Canon) : (claimIns d r s).1.Canon := by
  unfold Machine.claimIns
  exact h.foldl fun _ _ ht => ht.updCore

theorem State.Canon.nextGang {id : Nat} (h : s.Canon) : (s.nextGang id).Canon := h

/-- Memory stands in its canonical form in the state that a read of the front end leaves. -/
def FeRead.Canon : FeRead → Prop
  | .wait t => t.Canon
  | .ok _ | .refused => True

theorem State.Canon.feXlat {pasid hva : Nat} {wr : Bool} (h : s.Canon) : (s.feXlat pasid hva wr).Canon := by
  unfold State.feXlat
  split
  · trivial
  · trivial
  · exact h
  · exact h.askXlat

theorem State.Canon.feXlat_wait {t : State} {pasid hva : Nat} {wr : Bool} (h : s.Canon) (e : s.feXlat pasid hva wr = .wait t) : t.Canon := by
  have hf : (FeRead.wait t).Canon := e ▸ h.feXlat
  exact hf

theorem State.Canon.readEach {p : Pipe} {l : List (Nat × Nat)} (h : s.Canon) : (s.readEach p l).1.Canon := by
  induction l generalizing s with
  | nil => exact h
  | cons x l ih =>
    unfold State.readEach
    dsimp only
    split
    next e => exact ih (h.feXlat_wait e)
    · exact ih h.dropRefused
    · split
      · exact ih (h.foldl fun _ _ ht => ht.askRead)
      · exact ih h

theorem State.Canon.readSeeds {p : Pipe} (h : s.Canon) : (s.readSeeds p).1.Canon := by
  unfold State.readSeeds
  dsimp only
  split
  · exact h.readEach
  · exact h.readEach.updPipe.recordFaults

theorem State.Canon.readTmplEach {p : Pipe} {l : List Nat} (h : s.Canon) : (s.readTmplEach p l).1.Canon := by
  induction l generalizing s with
  | nil => exact h
  | cons x l ih =>
    unfold State.readTmplEach
    dsimp only
    split
    next e => exact ih (h.feXlat_wait e)
    · exact ih h.dropRefused
    · split
      · exact ih (h.foldl fun _ _ ht => ht.askRead)
      · exact ih h

theorem State.Canon.readTmpls {p : Pipe} (h : s.Canon) : (s.readTmpls p).1.Canon := by
  unfold State.readTmpls
  dsimp only
  split
  · exact h.readTmplEach
  · exact h.readTmplEach.updPipe.recordFaults

theorem State.Canon.readRecords {p : Pipe} (h : s.Canon) : (s.readRecords p).1.Canon := by
  unfold State.readRecords
  dsimp only
  split
  · exact h.readSeeds
  · exact h.readSeeds.readTmpls

theorem State.Canon.exitFault {r : CoreRef} {u : Task} {code addr : Nat} (h : s.Canon) : (s.exitFault r u code addr).Canon := by
  unfold State.exitFault
  exact h.takeFault

theorem State.Canon.leaveCore {r : CoreRef} {id : Nat} (h : s.Canon) : (s.leaveCore r id).Canon := by
  unfold State.leaveCore
  exact h.unlinkOut.unlinkIn.updCore.afterFree

theorem State.Canon.retired {r : CoreRef} {id : Nat} (h : s.Canon) : (s.retired r id).Canon := by
  unfold State.retired
  exact h.updPipe.leaveCore.endIfDone

theorem State.Canon.countDown {j : Nat} (h : s.Canon) : (s.countDown j).Canon := by
  unfold State.countDown
  exact h.homeWrite

theorem State.Canon.retireFill {r : CoreRef} {u : Task} (h : s.Canon) : (s.retireFill r u).Canon := by
  unfold State.retireFill
  dsimp only
  split
  · exact h.retired
  · split
    · exact h.feFault
    · split
      · exact h.feFault
      · exact h.fillCell.retired

theorem State.Canon.retireSteps {r : CoreRef} {u : Task} (h : s.Canon) : (s.retireSteps r u).Canon := by
  unfold State.retireSteps
  dsimp only
  split
  · exact h.setEvents.retireFill
  · split
    · exact h.setEvents.feFault
    · exact h.setEvents.countDown.retireFill

theorem State.Canon.commitTask {r : CoreRef} (h : s.Canon) : (s.commitTask r).Canon := by
  unfold State.commitTask
  exact h.foldl fun _ _ ht => ht.commitCovered

theorem State.Canon.writeWords {dla : Nat} {l : List Nat} (h : s.Canon) : (s.writeWords dla l).Canon := by
  unfold State.writeWords
  exact h.foldl fun _ _ ht => ht.homeWrite

theorem State.Canon.updQueue {q : Nat} {f : WorkQueue → WorkQueue} (h : s.Canon) : (s.updQueue q f).Canon := h

theorem State.Canon.stopQueue {q err idx : Nat} (h : s.Canon) : (s.stopQueue q err idx).Canon := by
  unfold State.stopQueue
  split
  · exact h
  · split
    · exact h
    · exact h.updQueue.raiseIrq

theorem State.Canon.loseRing {p : Pipe} (h : s.Canon) : (s.loseRing p).Canon := by
  unfold State.loseRing
  exact h.updPipe.stopQueue

theorem State.Canon.writeFault {p : Pipe} {f : FaultRec} {logn : Nat} (h : s.Canon) : (s.writeFault p f logn).Canon := by
  unfold State.writeFault
  extract_lets base rest at_ full
  clear_value full at_
  split
  next e => exact h.feXlat_wait e
  next e _ =>
    split at e
    · exact h.feXlat_wait e
    · exact h.feXlat_wait e
  · exact h.dropRefused.loseRing
  · exact h.dropRefused.loseRing
  · refine h.withWrites ?_
    split
    · exact h.homeWrite.updPipe.updPipe
    · exact h.writeWords.homeWrite.updPipe.updPipe

theorem State.Canon.endBlocked {code : Nat} {ev : Bool} {r : CoreRef} (h : s.Canon) : (s.endBlocked code ev r).Canon := by
  unfold State.endBlocked
  split
  · exact h
  · exact h.endTask

/-- Memory stands in its canonical form in the state that is there, if one is. -/
def CanonOpt (o : Option State) : Prop := ∀ t, o = some t → t.Canon

theorem CanonOpt.none : CanonOpt none := fun _ e => nomatch e

theorem CanonOpt.some {s : State} (h : s.Canon) : CanonOpt (some s) := fun _ e => Option.some.inj e ▸ h

theorem CanonOpt.orElse {a b : Option State} (ha : CanonOpt a) (hb : CanonOpt b) : CanonOpt (a <|> b) := by
  cases a
  · exact hb
  · exact ha

theorem CanonOpt.map {o : Option State} {f : State → State} (h : CanonOpt o) (hf : ∀ t, t.Canon → (f t).Canon) : CanonOpt (o.map f) := by
  cases o with
  | none => exact CanonOpt.none
  | some s => exact CanonOpt.some (hf s (h s rfl))

theorem CanonOpt.bind {o : Option State} {f : State → Option State} (h : CanonOpt o) (hf : ∀ t, t.Canon → CanonOpt (f t)) :
    CanonOpt (o.bind f) := by
  cases o with
  | none => exact CanonOpt.none
  | some s => exact hf s (h s rfl)

theorem CanonOpt.findSome {α : Type} {l : List α} {f : α → Option State} (hf : ∀ a, CanonOpt (f a)) : CanonOpt (l.findSome? f) := fun _ e =>
  have ⟨a, _, ha⟩ := List.exists_of_findSome?_eq_some e
  hf a _ ha

theorem State.Canon.reserveOuts {t : State} {p : Pipe} {held k : List Resv} {l : List (Nat × Nat)} (h : s.Canon)
    (e : reserveOuts p held s l = some (t, k)) : t.Canon := by
  induction l generalizing s t k with
  | nil =>
    cases e
    exact h
  | cons x l ih =>
    unfold Machine.reserveOuts at e
    split at e
    · exact ih h e
    split at e
    · cases e
    dsimp only at e
    split at e
    · cases e
    split at e
    · cases e
    next e' =>
      cases e
      exact ih h.updCore e'

theorem State.Canon.tryStart {p : Pipe} {stage : Nat} {site : Option (Fin 6)} {rec : TaskRec} {kind : TaskKind} {member size : Nat}
    {held : List Resv} {relBy : Option (CtxRef × RelInfo)} (h : s.Canon) :
    CanonOpt (s.tryStart p stage site rec kind member size held relBy) := by
  unfold State.tryStart
  split
  · exact CanonOpt.none
  split
  · exact CanonOpt.none
  split
  · exact CanonOpt.none
  split
  · exact CanonOpt.none
  next e =>
  refine CanonOpt.some ?_
  split
  · exact (h.reserveOuts e).claimIns.updCore.dropRefusals.updDie
  · exact (h.reserveOuts e).claimIns.updCore.dropRefusals

theorem State.Canon.tryGang {p : Pipe} {stage : Nat} {kind : TaskKind} {size n : Nat} {l : List TaskRec} (h : s.Canon) :
    CanonOpt (s.tryGang p stage kind size n l) := by
  induction l generalizing s n with
  | nil => exact CanonOpt.some h.nextGang
  | cons x l ih => exact h.tryStart.bind fun _ ht => ih ht

theorem State.Canon.startChild {p : Pipe} {stage : Nat} (h : s.Canon) : CanonOpt (s.startChild p stage) :=
  CanonOpt.findSome fun _ => h.tryStart.map fun _ ht => ht.updCore.nextGang

theorem State.Canon.startReplay {p : Pipe} {stage : Nat} (h : s.Canon) : CanonOpt (s.startReplay p stage) :=
  CanonOpt.findSome fun _ => h.tryStart.map fun _ ht => ht.updPipe.nextGang

theorem State.Canon.startSeed {p : Pipe} {stage gang : Nat} (h : s.Canon) : CanonOpt (s.startSeed p stage gang) :=
  CanonOpt.findSome fun _ => h.tryGang.map fun _ ht => ht.updPipe

theorem State.Canon.startGenerated {p : Pipe} {stage gang : Nat} (h : s.Canon) : CanonOpt (s.startGenerated p stage gang) := by
  unfold State.startGenerated
  split
  · exact h.tryGang
  · exact CanonOpt.none

theorem State.Canon.nextStart {p : Pipe} {stage : Nat} (h : s.Canon) : CanonOpt (s.nextStart p stage) := by
  unfold State.nextStart
  split
  · exact CanonOpt.none
  split
  · exact CanonOpt.none
  · exact ((h.startChild.orElse h.startReplay).orElse h.startSeed).orElse h.startGenerated

theorem State.Canon.startNext {p : Pipe} {stage : Nat} (h : s.Canon) : CanonOpt (s.startNext p stage) := by
  unfold State.startNext
  split
  · exact CanonOpt.none
  split
  · exact CanonOpt.none
  have hr : (s.readRecords p).1.Canon := h.readRecords
  dsimp only
  split
  · exact CanonOpt.some hr
  split
  · exact hr.nextStart
  · exact hr.nextStart.orElse (CanonOpt.some hr)

/-! ## Functions of Sys2Proof/Machine/Reel.lean -/

theorem State.Canon.startsNow {id j n : Nat} (h : s.Canon) : (s.startsNow id j n).Canon := by
  induction n generalizing s with
  | zero => exact h
  | succ n ih =>
    unfold State.startsNow
    split
    next e =>
      obtain ⟨p, _, hp⟩ := Option.bind_eq_some_iff.mp e
      exact ih (h.nextStart _ hp)
    · exact h

/-! ## Functions of Sys2Proof/Machine/Operators.lean -/

theorem State.Canon.clearIcaches (h : s.Canon) : s.clearIcaches.Canon := by
  unfold State.clearIcaches
  exact h.foldl fun _ _ ht => ht.updCore

theorem State.Canon.sendRequests {id lcls : Nat} {l : List (Nat × Nat × Nat)} (h : s.Canon) : (s.sendRequests id lcls l).Canon := h

theorem State.Canon.updChain {id : Nat} {f : Chain → Chain} (h : s.Canon) : (s.updChain id f).Canon := h

theorem State.Canon.beginOp {c : Chain} {idx : Nat} {r : OpRecord} (h : s.Canon) : (s.beginOp c idx r).Canon := by
  unfold State.beginOp
  exact h.clearIcaches.updFe.updChain.sendRequests.readTmpls

theorem State.Canon.closeChain {c : Chain} (h : s.Canon) : (s.closeChain c).Canon := by
  unfold State.closeChain
  dsimp only
  refine State.Canon.updFe (State.Canon.updQueue ?_)
  split
  · exact h.raiseIrq
  · exact h

theorem State.Canon.keepChain {c : Chain} (h : s.Canon) : (s.keepChain c).Canon := h

theorem State.Canon.endChain {c : Chain} {status : Nat} (h : s.Canon) : (s.endChain c status).Canon := by
  unfold State.endChain
  dsimp only
  split
  · exact h.keepChain
  split
  · exact h.closeChain
  split
  next e => exact (h.feXlat_wait e).keepChain
  · exact h.dropRefused.stopQueue.closeChain
  · split
    · exact h.writeWords.closeChain
    · exact h.askWrite.keepChain

theorem State.Canon.rejectChain {c : Chain} {idx : Nat} (h : s.Canon) : (s.rejectChain c idx).Canon := by
  unfold State.rejectChain
  exact h.stopQueue.endChain

/-- Memory stands in its canonical form in the state that a read of words leaves. -/
def WordsFound.Canon : WordsFound → Prop
  | .wait t | .refused t => t.Canon
  | .ok _ => True

theorem State.Canon.readWord {pasid hva : Nat} (h : s.Canon) : (s.readWord pasid hva).Canon := by
  unfold State.readWord
  split
  next e => exact h.feXlat_wait e
  · exact h.dropRefused
  next e _ _ => exact h.feXlat_wait e
  · exact h.dropRefused
  · dsimp only
    split
    · exact h.foldl fun _ _ ht => ht.askRead
    · trivial

/-- Memory stands in its canonical form in the state that a read of a fault ring's CFG leaves. -/
def RingRead.Canon : RingRead → Prop
  | .wait t | .lost t => t.Canon
  | .ok _ | .rejected => True

theorem State.Canon.readRing {pasid : Nat} {o : OpRecord} (h : s.Canon) : (s.readRing pasid o).Canon := by
  have hw : (s.readWord pasid o.fring.toNat).Canon := h.readWord
  unfold State.readRing
  split
  · trivial
  split
  next t e =>
    replace hw : (WordsFound.wait t).Canon := e ▸ hw
    exact hw
  next t e =>
    replace hw : (WordsFound.refused t).Canon := e ▸ hw
    exact hw
  · dsimp only
    split <;> trivial

theorem State.Canon.startOp {c : Chain} {idx : Nat} {o : OpRecord} (h : s.Canon) : (s.startOp c idx o).Canon := by
  have hr : (s.readRing c.pasid o).Canon := h.readRing
  unfold State.startOp
  split
  next t e =>
    replace hr : (RingRead.wait t).Canon := e ▸ hr
    replace hr : t.Canon := hr
    split
    · exact hr
    · exact hr.updChain
  · exact h.rejectChain
  next t e =>
    replace hr : (RingRead.lost t).Canon := e ▸ hr
    replace hr : t.Canon := hr
    exact hr.stopQueue.beginOp
  · exact h.beginOp

/-! ## Functions of Sys2Proof/Machine/Completion.lean -/

theorem State.Canon.operatorDone {p : Pipe} {c : Chain} (h : s.Canon) : (s.operatorDone p c).Canon := by
  unfold State.operatorDone
  dsimp only
  split
  · exact h.endChain
  split
  · exact h.endChain
  split
  · exact h.updFe.startOp
  · exact h.updFe.endChain
  · exact h.updFe

/-! ## Functions of Sys2Proof/Machine/Sett.lean -/

theorem State.Canon.grantWakes {t : State} {i : Fin 6} {l : List (Fin 8)} (h : s.Canon) : (s.grantWakes t i l).Canon := by
  unfold State.grantWakes
  split
  · exact h.waking
  · exact h

theorem State.Canon.leaseFrag {p : Pipe} {stage n : Nat} {i : Fin 6} {lead : Nat} (h : s.Canon) : (s.leaseFrag p stage n i lead).Canon := by
  unfold State.leaseFrag
  exact h.updDie.grantWakes

theorem State.Canon.leaseBare {p : Pipe} {stage : Nat} {r : CoreRef} {strip : Bool} (h : s.Canon) : (s.leaseBare p stage r strip).Canon := by
  unfold State.leaseBare
  exact h.updDie.grantWakes

theorem State.Canon.joinPool {p : Pipe} {stage : Nat} {r : CoreRef} (h : s.Canon) : (s.joinPool p stage r).Canon := by
  unfold State.joinPool
  dsimp only
  split
  · exact h.updPipe.defineRings
  · exact h.updPipe

theorem State.Canon.dropReq {q : SettReq} (h : s.Canon) : (s.dropReq q).Canon := h

theorem State.Canon.grantFrags {p : Pipe} {q : SettReq} {l : List (Fin 6 × Nat)} (h : s.Canon) : (s.grantFrags p q l).Canon := by
  unfold State.grantFrags
  exact (h.foldl fun _ _ ht => ht.leaseFrag.joinPool).dropReq

theorem State.Canon.grantCores {p : Pipe} {q : SettReq} {l : List (CoreRef × Bool)} (h : s.Canon) : (s.grantCores p q l).Canon := by
  unfold State.grantCores
  exact (h.foldl fun _ _ ht => ht.leaseBare.joinPool).dropReq

theorem State.Canon.freeLease {i : Fin 6} {l : Lease} (h : s.Canon) : (s.freeLease i l).Canon := h

theorem State.Canon.cleanFrag {i : Fin 6} {l : Lease} (h : s.Canon) : (s.cleanFrag i l).Canon := by
  unfold State.cleanFrag
  dsimp only
  exact (((h.foldl fun _ _ ht => ht.updSt).unlinkOut).unlinkIn).updCore

/-! ## Functions of Sys2Proof/Machine/Preempt.lean -/

theorem State.Canon.preempt {id : Nat} (h : s.Canon) : (s.preempt id).Canon := by
  unfold State.preempt
  split
  · exact h
  · split
    · exact h
    · dsimp only
      exact State.Canon.foldl (h.updPipe.foldl fun _ _ ht => ht.updTask) fun _ _ ht => ht.stopGang

theorem State.Canon.resume {id : Nat} (h : s.Canon) : (s.resume id).Canon := by
  unfold State.resume
  split
  · exact h
  · split
    · exact h
    · exact h.updPipe.sendRequests

theorem State.Canon.detach {r : CoreRef} (h : s.Canon) : (s.detach r).Canon := by
  unfold State.detach
  exact h.unpin.updCore.updHomes

theorem State.Canon.commitCore {r : CoreRef} (h : s.Canon) : (s.commitCore r).Canon := by
  unfold State.commitCore
  dsimp only
  exact h.commitTask.foldl fun _ _ ht => ht.commitCovered

theorem State.Canon.cleanMember {id : Nat} {r : CoreRef} (h : s.Canon) : (s.cleanMember id r).Canon := by
  unfold State.cleanMember
  dsimp only
  refine State.Canon.updLease (State.Canon.updCore ?_)
  split
  · split
    · exact h.cleanFrag
    · exact h.updCore
  · exact h

theorem State.Canon.resumeSlice (h : s.Canon) : s.resumeSlice.Canon := by
  unfold State.resumeSlice
  split
  · exact h
  split
  · exact h
  · exact h.others.foldl fun _ _ ht => ht.resume

theorem Homes.mem_markLines (h : Homes) (l : List Nat) : (l.foldl Homes.markLine h).mem = h.mem := by
  induction l generalizing h with
  | nil => rfl
  | cons x l ih => exact ih _

theorem Homes.wf_freePage {h : Homes} (w : h.mem.wf = true) (d n : Nat) :
    (if h.noKey (pageOf d) then h
      else (saveLines d).foldl Homes.markLine { h with mem := h.mem.freePage (d / 4096) n }).mem.wf = true := by
  split
  · exact w
  · rw [Homes.mem_markLines]
    exact Memory.wf_freePage w _ _

theorem State.Canon.writePage {n d : Nat} (h : s.Canon) : (s.writePage n d).Canon := by
  have hf : (s.updHomes fun g => if g.noKey (pageOf d) then g
      else (saveLines d).foldl Homes.markLine { g with mem := g.mem.freePage (d / 4096) n }).Canon :=
    Homes.wf_freePage (h := s.homes) h d n
  unfold State.writePage
  exact hf.overwrite.foldl fun _ _ ht => ht.touchLlc.triggerAll

theorem State.Canon.writeSave {dlas : List Nat} (h : s.Canon) : (s.writeSave dlas).Canon := by
  unfold State.writeSave
  split
  · exact h
  · exact State.Canon.foldl h.draw fun _ _ ht => ht.writePage

theorem State.Canon.applyBuffered {w : Word} (h : s.Canon) : (s.applyBuffered w).Canon := by
  unfold State.applyBuffered
  refine h.foldl fun t x ht => ?_
  split
  next e => exact (ht.arrive (.inl e)).others
  · exact ht

theorem State.Canon.saveAll {q : Pipe} {p : Nat} {dlas : List Nat} (h : s.Canon) : (s.saveAll q p dlas).Canon := by
  unfold State.saveAll
  dsimp only
  exact ((((State.Canon.foldl
    (((h.foldl fun _ _ ht => ht.detach.commitCore).writeSave).moveUses) fun _ _ ht => ht.cleanMember).returnLeases).updPipe).applyBuffered).resumeSlice

theorem State.Canon.restore {l : List (Saved × CoreRef)} {p : Pipe} {x : Saved × CoreRef} (h : s.Canon) : (s.restore l p x).Canon := by
  unfold State.restore
  dsimp only
  exact (h.updCore.foldl fun _ _ ht => ht.updSt).settle

theorem State.Canon.applyHeld {r : CoreRef} (h : s.Canon) : (s.applyHeld r).Canon := by
  unfold State.applyHeld
  exact h.foldl fun _ _ ht => ht.applyWaiting

theorem State.Canon.ageStops {len : Nat} (h : s.Canon) : (s.ageStops len).Canon := h

/-! ## Functions of Sys2Proof/Machine/Placement.lean -/

theorem State.Canon.setPhase {page : Nat} {ph : MigPhase} (h : s.Canon) : (s.setPhase page ph).Canon := h

theorem State.Canon.recallPage {page : Nat} (h : s.Canon) : (s.recallPage page).Canon := by
  unfold State.recallPage
  exact h.foldl fun _ _ ht => ht.addSnoop

theorem State.Canon.migNoSpace {page : Nat} (h : s.Canon) : (s.migNoSpace page).Canon := by
  unfold State.migNoSpace
  split
  · split
    · exact h.abortMig
    · exact h
  · exact h

theorem State.Canon.migCopyFault {page : Nat} (h : s.Canon) : (s.migCopyFault page).Canon := by
  unfold State.migCopyFault
  split
  · split
    · exact h.abortMig
    · exact h
  · exact h

theorem State.Canon.abortLost (h : s.Canon) : s.abortLost.Canon := by
  unfold State.abortLost
  exact h.foldl fun _ _ ht => ht.abortMig

theorem State.Canon.remotePin {page : Nat} (h : s.Canon) : (s.remotePin page).Canon := by
  unfold State.remotePin
  split
  · exact h.updHomes
  · exact h

theorem State.Canon.remoteUnpin {page : Nat} (h : s.Canon) : (s.remoteUnpin page).Canon := by
  unfold State.remoteUnpin
  split
  · exact h.updHomes fun g => Homes.mem_unpin g page
  · exact h

theorem State.Canon.freeStubs (h : s.Canon) : s.freeStubs.Canon := by
  unfold State.freeStubs
  dsimp only
  split
  · exact h.updHomes.foldl fun _ _ ht => ht.tryMig
  · exact h.updHomes

theorem State.Canon.inwardDone {p : Fin 64} {page : Nat} (h : s.Canon) : (s.inwardDone p page).Canon := by
  unfold State.inwardDone
  split
  · exact h
  · dsimp only
    refine State.Canon.freeStubs ?_
    split
    · exact h.updHomes
    · exact h.updHomes.inwardOn

theorem State.Canon.forgetOwner {a : Agent} {page : Nat} (h : s.Canon) : (s.forgetOwner a page).Canon := by
  unfold State.forgetOwner
  split
  · exact h.updDie
  · exact h.updHomes

theorem State.Canon.gateRefused (h : s.Canon) : s.gateRefused.Canon := h

theorem State.Canon.gateTaken {v : Word} (h : s.Canon) : (s.gateTaken v).Canon := h

theorem State.Canon.gateWays {i : Fin 6} {m : BitVec 16} (h : s.Canon) : (s.gateWays i m).Canon := by
  unfold State.gateWays
  dsimp only
  refine State.Canon.updDie ?_
  split
  · exact h
  · exact h.foldl fun _ _ ht => ht.recallFrom.disarmDie

theorem State.Canon.gate {v : Word} (h : s.Canon) : (s.gate v).Canon := by
  unfold State.gate
  split
  · exact h.updSt
  · exact h.gateWays
  · exact h.updHomes

theorem State.Canon.wake {v : Word} (h : s.Canon) : (s.wake v).Canon := by
  unfold State.wake
  dsimp only
  refine State.Canon.waking ?_
  split
  · exact h.updSt
  · exact h.updDie
  · exact h.updHomes

/-! ## Functions of Sys2Proof/Machine/FrontEnd.lean -/

theorem State.Canon.setQueue {x : WorkQueue} (h : s.Canon) : (s.setQueue x).Canon := h

theorem State.Canon.consume {q : WorkQueue} {l : List Word} (h : s.Canon) : (s.consume q l).Canon := by
  unfold State.consume
  dsimp only
  split
  · exact h.setQueue
  · split
    · exact h.setQueue.stopQueue
    · exact h.setQueue

/-- Memory stands in its canonical form in the state that a read of a slot leaves. -/
def SlotRead.Canon : SlotRead → Prop
  | .wait t | .refused t => t.Canon
  | .current _ | .old => True

theorem State.Canon.readSlot {q : WorkQueue} (h : s.Canon) : (s.readSlot q).Canon := by
  unfold State.readSlot
  split
  next e => exact h.feXlat_wait e
  · exact h.dropRefused
  · split
    · exact h.askRead
    · dsimp only
      split <;> trivial

theorem State.Canon.readOn {no : BitVec 14} {n : Nat} (h : s.Canon) : (s.readOn no n).Canon := by
  induction n generalizing s with
  | zero => exact h
  | succ n ih =>
    have hr : (s.readSlot (s.queue no)).Canon := h.readSlot
    unfold State.readOn
    dsimp only
    split
    · exact h
    split
    next t e =>
      replace hr : (SlotRead.wait t).Canon := e ▸ hr
      exact hr
    next t e =>
      replace hr : (SlotRead.refused t).Canon := e ▸ hr
      replace hr : t.Canon := hr
      exact hr.stopQueue
    · exact h.setQueue
    · exact ih h.consume

theorem State.Canon.unwatch {no : Nat} (h : s.Canon) : (s.unwatch no).Canon := h

theorem State.Canon.completeNext {no : BitVec 14} (h : s.Canon) : (s.completeNext no).Canon := h

/-- Memory stands in its canonical form in the state that the read of a WAIT leaves. -/
def WaitRead.Canon : WaitRead → Prop
  | .later t | .refused t => t.Canon
  | .met _ _ => True

theorem State.Canon.waitRead {q : WorkQueue} {p : Packet} (h : s.Canon) : (s.waitRead q p).Canon := by
  unfold State.waitRead
  dsimp only
  split
  next e => exact h.feXlat_wait e
  · exact h.dropRefused
  · split
    · exact h.askRead
    split
    · exact h.force
    · trivial

theorem State.Canon.tryWait {no : BitVec 14} {p : Packet} (h : s.Canon) : (s.tryWait no p).Canon := by
  have hr : (s.waitRead (s.queue no) p).Canon := h.waitRead
  unfold State.tryWait
  split
  next t e =>
    replace hr : (WaitRead.later t).Canon := e ▸ hr
    exact hr
  next t e =>
    replace hr : (WaitRead.refused t).Canon := e ▸ hr
    replace hr : t.Canon := hr
    exact hr.completeNext.stopQueue
  · exact h.completeNext
  · exact h.updHomes

theorem State.Canon.waitMet {no : BitVec 14} {w : Watch} (h : s.Canon) : (s.waitMet no w).Canon := by
  unfold State.waitMet
  split
  · exact h.force
  · exact h.withReads h.completeNext

/-! ## Functions of Sys2Proof/Machine/Fence.lean -/

theorem State.Canon.dropFlights {l : List (Fin 6)} {r : CoreRef} (h : s.Canon) : (s.dropFlights l r).Canon := by
  unfold State.dropFlights
  dsimp only
  refine State.Canon.foldl (h.foldl fun _ _ ht => ht.foldl fun _ _ hu => hu.dropAccess) fun t a ht => ?_
  split
  · exact ht.unpin.updCore.settle
  · exact ht

theorem State.Canon.fenceTasks {l : List (Fin 6)} (h : s.Canon) : (s.fenceTasks l).Canon := by
  unfold State.fenceTasks
  dsimp only
  refine State.Canon.foldl (State.Canon.foldl (State.Canon.foldl (State.Canon.foldl (State.Canon.foldl
    (h.foldl fun _ _ ht => ht.endTask) fun _ _ ht => ht.endTask) fun _ _ ht => ht.endGang) fun _ _ ht => ht.dropFlights) fun _ _ ht => ht.updCore) ?_
  intro t a ht
  split
  · exact ht
  · exact ht.updPipe.beginShutdown

theorem State.Canon.fenceSquashes {i : Fin 6} (h : s.Canon) : (s.fenceSquashes i).Canon := by
  unfold State.fenceSquashes
  dsimp only
  exact (h.updHomes.foldl fun _ _ ht => ht.updCore).wakeParked

theorem State.Canon.clearEntries {i : Fin 6} (h : s.Canon) : (s.clearEntries i).Canon := by
  unfold State.clearEntries
  dsimp only
  exact (h.foldl fun _ _ ht => ht.updCore).updFe

theorem State.Canon.fencePools {i : Fin 6} (h : s.Canon) : (s.fencePools i).Canon := by
  unfold State.fencePools
  refine h.foldl fun t a ht => ?_
  dsimp only
  split
  · exact ht.updPipe.sendRequests
  · exact ht.updPipe

theorem State.Canon.fenceDie {i : Fin 6} (h : s.Canon) : (s.fenceDie i).Canon := by
  unfold State.fenceDie
  dsimp only
  refine State.Canon.updHomes (State.Canon.updFe (State.Canon.updDie ?_))
  refine State.Canon.foldl (State.Canon.unpin ?_) fun _ _ ht => ht.updCore.settle
  exact h.foldl fun _ _ ht => ht.detach

theorem State.Canon.afterGrant {i : Fin 6} (h : s.Canon) : (s.afterGrant i).Canon := by
  unfold State.afterGrant
  split
  · split
    · exact h.at_
    · exact h
  · exact h

theorem State.Canon.fences {l : List (Fin 6)} {code : Nat} (h : s.Canon) : (s.fences l code).Canon := by
  unfold State.fences
  dsimp only
  refine State.Canon.foldl (State.Canon.fenceTasks ?_) fun _ _ ht => ht.fenceSquashes.fencePools.fenceDie.clearEntries
  refine State.Canon.foldl ?_ fun _ _ ht => ht.logErr
  exact h.foldl fun _ _ ht => ht.afterGrant

theorem State.Canon.fence {i : Fin 6} {code : Nat} (h : s.Canon) : (s.fence i code).Canon := by
  unfold State.fence
  exact h.fences

theorem State.Canon.dropDie {i : Fin 6} {gone : Nat → Bool} (h : s.Canon) : (s.dropDie i gone).Canon := by
  unfold State.dropDie
  exact h.unpin.updDie

theorem State.Canon.unseeDie {i : Fin 6} {gone : Nat → Bool} (h : s.Canon) : (s.unseeDie i gone).Canon := h

theorem State.Canon.fenceApply {sl : Nat} {i : Fin 6} (h : s.Canon) : (s.fenceApply sl i).Canon := by
  unfold State.fenceApply
  exact h.dropDie.unseeDie.updHomes.freeStubs

theorem State.Canon.readmit {i : Fin 6} (h : s.Canon) : (s.readmit i).Canon := by
  unfold State.readmit
  split
  · exact h
  · dsimp only
    exact (h.foldl fun _ _ ht => ht.fenceApply).updDie

theorem State.Canon.logLine {code line site : Nat} (h : s.Canon) : (s.logLine code line site).Canon := h

theorem State.Canon.suspectLine {l : Nat} (h : s.Canon) : (s.suspectLine l).Canon := by
  unfold State.suspectLine
  dsimp only
  refine State.Canon.updHomes (h.foldl fun t i ht => ?_)
  split
  · exact ht.updDie.disarmDie
  · exact ht

theorem State.Canon.poisonRead {i : Fin 6} {l : Nat} (h : s.Canon) : (s.poisonRead i l).Canon := by
  unfold State.poisonRead
  dsimp only
  refine State.Canon.takeFaults ?_
  split
  · exact h.updDie
  · exact h

theorem State.Canon.eccCorrected {u : EccUnit} (h : s.Canon) : (s.eccCorrected u).Canon := by
  unfold State.eccCorrected
  split
  split
  split
  · exact h
  · exact h.logErr.others

theorem State.Canon.logEcc {u : EccUnit} (h : s.Canon) : (s.logEcc u).Canon := h

theorem State.Canon.spoilMig {page : Nat} (h : s.Canon) : (s.spoilMig page).Canon := by
  unfold State.spoilMig
  split
  · split
    · exact h.abortMig
    · exact h
  · exact h

theorem State.Canon.eccPoison {u : EccUnit} (h : s.Canon) : (s.eccPoison u).Canon := by
  unfold State.eccPoison
  split
  · exact h.updHomes.logEcc.spoilMig
  · split
    · exact h.updDie.recallFrom.disarmDie.logEcc
    · exact h
  · exact h.updSt.logEcc
  · exact h.updSt.logEcc

theorem State.Canon.eccError {corrected : Bool} {u : EccUnit} (h : s.Canon) : (s.eccError corrected u).Canon := by
  unfold State.eccError
  split
  · exact h.eccCorrected
  · exact h.eccPoison

/-! ## Functions of Sys2Proof/Machine/Manage.lean -/

theorem State.Canon.writeMsix {off : Nat} {v : Word} (h : s.Canon) : (s.writeMsix off v).Canon := h

theorem State.Canon.noteHandle {v : Word} (h : s.Canon) : (s.noteHandle v).Canon := h

theorem State.Canon.discardPage {page : Nat} (h : s.Canon) : (s.discardPage page).Canon := by
  unfold State.discardPage
  exact h.foldl fun _ _ ht => ht.updDie

theorem State.Canon.resealAs {f : Homes → Homes} {page : Nat} {key : BitVec 8} (h : s.Canon)
    (e : ∀ g, (f g).mem = g.mem := by exact fun _ => rfl) : (s.updHomes fun g => (f g).resealAs page key).Canon :=
  Homes.wf_resealAs (h := f s.homes) (h.updHomes (f := f) e) page key

theorem State.Canon.assignPage {page : Nat} {key : BitVec 8} (h : s.Canon) : (s.assignPage page key).Canon := by
  unfold State.assignPage
  exact h.discardPage.resealAs

theorem State.Canon.pgstat {n : Nat} (h : s.Canon) : (s.pgstat n).Canon := h

theorem State.Canon.setSlices {f : Fabric → Fabric} (h : s.Canon) : (s.setSlices f).Canon := h

theorem State.Canon.lostPkgs {t : State} (h : t.Canon) : (s.lostPkgs t).Canon := by
  have hl : ((s.fab.routes.map Prod.fst).filter fun p => s.reachable p && !t.reachable p).foldl (fun u _ => u.logErr 0x4B 0 0 0 1) t |>.Canon :=
    h.foldl fun _ _ hu => hu.logErr
  unfold State.lostPkgs
  dsimp only
  split
  · exact hl
  · exact hl.abortLost

theorem State.Canon.setRoute {p : Nat} {v : Word} (h : s.Canon) : (s.setRoute p v).Canon := by
  unfold State.setRoute
  split
  · exact h.others.lostPkgs
  · exact h

theorem State.Canon.setWqbase {no : BitVec 14} {v : Word} (h : s.Canon) : (s.setWqbase no v).Canon := by
  unfold State.setWqbase
  dsimp only
  split
  · exact h
  · exact h.setQueue

theorem State.Canon.ite {t : State} {c : Prop} [Decidable c] (hs : s.Canon) (ht : t.Canon) : (if c then s else t).Canon := by
  split
  · exact hs
  · exact ht

theorem State.Canon.writeReg {off : Nat} {v : Word} (h : s.Canon) : (s.writeReg off v).Canon := by
  unfold State.writeReg
  dsimp only
  refine h.ite (.ite (h.ite h.others) (.ite (h.ite h.others) (.ite (h.ite h.others) (.ite h.others (.ite h.others (.ite ?_ ?_))))))
  · exact h.ite h.setSlices
  refine .ite h.setSlices (.ite h.others (.ite h.others (.ite h.others (.ite (.ite h.others h) ?_))))
  exact .ite h.writeMsix (.ite h.setRoute (.ite h.setWqbase h))

/-! ## Functions of Sys2Proof/Machine/Platform.lean -/

theorem State.Canon.loseWrite {i : Fin 6} {n : Nat} {w : DieWrite} (h : s.Canon) : (s.loseWrite i n w).Canon := by
  unfold State.loseWrite
  dsimp only
  refine State.Canon.settle ?_
  split
  · split
    · refine State.Canon.takeFault ?_
      split
      · exact h.updDie.unpin.accept
      · exact h.updDie.unpin
    · split
      · exact h.updDie.unpin.accept
      · exact h.updDie.unpin
  · split
    · refine State.Canon.takeFault ?_
      split
      · exact h.updDie.unpin.accept
      · exact h.updDie.unpin
    · split
      · exact h.updDie.unpin.accept
      · exact h.updDie.unpin

theorem State.Canon.loadTimeout {c : CtxRef} (h : s.Canon) : (s.loadTimeout c).Canon := by
  unfold State.loadTimeout
  split
  · exact h.at_.ctxFault
  · exact h

theorem State.Canon.accessTimeout {c : CtxRef} {n : Nat} (h : s.Canon) : (s.accessTimeout c n).Canon := by
  unfold State.accessTimeout
  split
  · exact h
  · split
    · split
      · exact h.at_.takeFault.unpin.dropAccess
      · exact h
    · exact h

theorem State.Canon.rwriteTimeout {r : CoreRef} {e : Fin 6} (h : s.Canon) : (s.rwriteTimeout r e).Canon := by
  unfold State.rwriteTimeout
  split
  · exact h
  · split
    · split
      · exact h
      · exact h.at_.cmdFault.unpin.updCore.settle
    · exact h

theorem State.Canon.dropLate {r : CoreRef} {e : Fin 6} {q : QEntry} (h : s.Canon) : (s.dropLate r e q).Canon := by
  unfold State.dropLate
  split
  · exact h.unpin.updCore.settle
  · exact h

theorem State.Canon.cutLog {k : LogRef} {e : LogEntry} (h : s.Canon) : (s.cutLog k e).Canon := by
  unfold State.cutLog
  dsimp only
  exact h.unpin.setLog

theorem State.Canon.retireUpTo {page : Nat} {r : CoreRef} {t : Task} (h : s.Canon) : (s.retireUpTo page r t).1.Canon := by
  have base : ((s.commitTask r).setEvents t.pipe t.record.sigEv).Canon := h.commitTask.setEvents
  unfold State.retireUpTo
  dsimp only
  split
  · exact base
  split
  · exact h
  split
  · exact base
  split
  · exact h
  split
  · exact h.askWrite
  · exact base.accept.countDown

theorem State.Canon.retireFaults {page : Nat} {l : List (CoreRef × Task)} (h : s.Canon) : (s.retireFaults page l).1.Canon := by
  induction l generalizing s with
  | nil => exact h
  | cons x l ih => exact ih h.retireUpTo

theorem State.Canon.engineTimeout {i : Fin 6} {page : Nat} (h : s.Canon) : (s.engineTimeout i page).Canon := by
  unfold State.engineTimeout
  dsimp only
  split
  · exact h
  split
  · exact h
  · refine State.Canon.foldl (State.Canon.logFaults ?_) fun _ _ ht => ht.dropLate
    refine State.Canon.retireFaults ?_
    exact h.others.foldl fun _ _ ht => ht.cutLog

theorem State.Canon.degrade {k : Nat} (h : s.Canon) : (s.degrade k).Canon := by
  unfold State.degrade
  dsimp only
  split
  · exact h.others.updDie
  · exact h.others

theorem State.Canon.bootStep {k n : Nat} (h : s.Canon) : (s.bootStep k n).Canon := by
  unfold State.bootStep
  split
  · exact h.updHomes
  · exact h
  · exact h

theorem State.Canon.runStep {k n : Nat} (h : s.Canon) : (s.runStep k n).1.Canon := by
  unfold State.runStep
  dsimp only
  split
  · exact h.others
  · exact h.others.bootStep.others

theorem Homes.mem_gateFailing (h : Homes) (n : Nat) : (h.gateFailing n).mem = h.mem := rfl

theorem State.Canon.boot {n : Nat} {l : List Nat} (h : s.Canon) : (s.boot n l).Canon := by
  induction l generalizing s with
  | nil => exact h
  | cons k l ih =>
    have again {t : State} {b : Bool} {u : State} (ht : t.Canon) (e : t.runStep k n = (u, b)) : u.Canon := ht.runStep.pair e
    unfold State.boot
    split
    · exact ih h
    split
    · exact h.others
    · exact ih h.degrade.others
    · split
      next e => exact ih (again h e)
      next e => exact again h e
    · have hd : (if k = 1 then (s.degrade k).updHomes fun g => g.gateFailing n else s.degrade k).Canon := by
        split
        · exact h.degrade.updHomes fun g => g.mem_gateFailing n
        · exact h.degrade
      split
      next e => exact ih (again hd e)
      next e => exact again hd e

theorem State.Canon.afterReset (s : State) (n : Nat) : (s.afterReset n).Canon := Memory.wf_empty [] (some n)

/-- An outcome that is a next state keeps the canonical form of memory. -/
def Stays (o : Host.Outcome State Fault Refusal) : Prop := ∀ t, o = .next t → t.Canon

/-! ## Outcomes of Sys2Proof/Machine/Ops.lean -/

theorem State.Canon.go (h : s.Canon) : Stays (go s) := fun _ e => Host.Outcome.next.inj e ▸ h

/-! ## Outcomes of Sys2Proof/Machine/Scalar.lean -/

theorem State.Canon.binop {i : Instr} {d a b : BitVec 5} {f : Word → Word → Word} (h : s.Canon) : Stays (binop i d a b f s) := by
  unfold Machine.binop
  exact (h.issue h.result).go

theorem State.Canon.unop {i : Instr} {d a : BitVec 5} {f : Word → Word} (h : s.Canon) : Stays (unop i d a f s) := by
  unfold Machine.unop
  exact (h.issue h.result).go

theorem State.Canon.loadX {i : Instr} {d a : BitVec 5} {c : BitVec 4} {o : BitVec 8} {size : Nat} {sg : Bool} (h : s.Canon) :
    Stays (loadX i d a c o size sg s) := by
  unfold Machine.loadX
  exact (h.issue (h.withAligned h.issueLoad)).go

theorem State.Canon.storeX {i : Instr} {d a : BitVec 5} {c : BitVec 4} {o : BitVec 8} {size : Nat} (h : s.Canon) :
    Stays (storeX i d a c o size s) := by
  unfold Machine.storeX
  exact (h.issue (h.withAligned h.issueStore)).go

theorem State.Canon.branch {i : Instr} {a b : BitVec 5} {o : BitVec 16} {p : Word → Word → Bool} (h : s.Canon) :
    Stays (branch i a b o p s) := by
  unfold Machine.branch
  refine State.Canon.go (h.issue ?_)
  split
  · exact h.jump
  · exact h.goOn

theorem State.Canon.execSel {d a b c : BitVec 5} (h : s.Canon) : Stays (execSel d a b c s) := by
  unfold Machine.execSel
  exact (h.issue h.result).go

theorem State.Canon.execJalr {d a : BitVec 5} (h : s.Canon) : Stays (execJalr d a s) := by
  unfold Machine.execJalr
  refine State.Canon.go (h.issue ?_)
  split
  · exact h.fault
  · exact h.wx.jump

theorem State.Canon.execBfi {d a : BitVec 5} {p w : BitVec 6} (h : s.Canon) : Stays (execBfi d a p w s) := by
  unfold Machine.execBfi
  exact (h.issue h.result).go

theorem State.Canon.execLi {d : BitVec 5} {i : BitVec 16} (h : s.Canon) : Stays (execLi d i s) := by
  unfold Machine.execLi
  exact (h.issue h.result).go

theorem State.Canon.execLih {d : BitVec 5} {q : BitVec 2} {i : BitVec 16} (h : s.Canon) : Stays (execLih d q i s) := by
  unfold Machine.execLih
  exact (h.issue h.result).go

theorem State.Canon.execLoop {a : BitVec 5} {o : BitVec 16} (h : s.Canon) : Stays (execLoop a o s) := by
  unfold Machine.execLoop
  refine State.Canon.go (h.issue ?_)
  dsimp only
  exact h.wx.jump.ite h.wx.goOn

/-! ## Outcomes of Sys2Proof/Machine/System.lean -/

theorem State.Canon.execJmp {o : BitVec 26} (h : s.Canon) : Stays (execJmp o s) := by
  unfold Machine.execJmp
  exact (h.issue h.jump).go

theorem State.Canon.execJal {o : BitVec 26} (h : s.Canon) : Stays (execJal o s) := by
  unfold Machine.execJal
  exact (h.issue h.wx.jump).go

theorem State.Canon.execRep {n : BitVec 6} {m : BitVec 3} (h : s.Canon) : Stays (execRep n m s) := by
  unfold Machine.execRep
  refine State.Canon.go (h.issue ?_)
  dsimp only
  split
  · exact h.block
  · exact h.updMe.ite h.illegal

theorem State.Canon.execRegion {m : BitVec 26} (h : s.Canon) : Stays (execRegion m s) := by
  unfold Machine.execRegion
  refine State.Canon.go (h.issue ?_)
  split
  · exact h.tryBarrier
  · exact h.updMe.arriveBarrier

theorem State.Canon.execWait {l st c t : BitVec 4} (h : s.Canon) : Stays (execWait l st c t s) := by
  unfold Machine.execWait
  refine State.Canon.go (h.issue ?_)
  split
  · exact h.goOn
  · exact h.block

theorem State.Canon.execFence {m : BitVec 16} (h : s.Canon) : Stays (execFence m s) := by
  unfold Machine.execFence
  refine State.Canon.go (h.issue ?_)
  split
  · exact h.goOn
  · exact h.issueAccess.goOn

theorem State.Canon.execAcq {d a b : BitVec 5} {sc : BitVec 2} (h : s.Canon) : Stays (execAcq d a b sc s) := by
  unfold Machine.execAcq
  refine State.Canon.go (h.issue ?_)
  dsimp only
  exact h.withAligned h.issueLoad

theorem State.Canon.execRel {d a b : BitVec 5} {sc : BitVec 2} (h : s.Canon) : Stays (execRel d a b sc s) := by
  unfold Machine.execRel
  refine State.Canon.go (h.issue ?_)
  dsimp only
  exact h.withAligned h.issueStore

theorem State.Canon.execMon {a : BitVec 5} (h : s.Canon) : Stays (execMon a s) := by
  unfold Machine.execMon
  exact (h.issue h.issueLoad).go

theorem State.Canon.execMwait {a : BitVec 5} (h : s.Canon) : Stays (execMwait a s) := by
  unfold Machine.execMwait
  refine State.Canon.go (h.issue ?_)
  split
  · exact h.goOn
  · refine h.mwaitDone.ite ?_
    split
    · exact h.mwaitDone.ite h
    · exact h.mwaitDone.ite h.block

theorem State.Canon.execVdhop {d a b : BitVec 5} (h : s.Canon) : Stays (execVdhop d a b s) := by
  unfold Machine.execVdhop
  refine State.Canon.go (h.issue ?_)
  dsimp only
  split
  · exact h.result
  · exact h.fault
  · exact h.fault

theorem State.Canon.execTime {d : BitVec 5} (h : s.Canon) : Stays (execTime d s) := by
  unfold Machine.execTime
  exact (h.issue h.result).go

theorem State.Canon.execSrd {d : BitVec 5} {r : BitVec 8} (h : s.Canon) : Stays (execSrd d r s) := by
  unfold Machine.execSrd
  exact (h.issue h.result).go

theorem State.Canon.execSwr {a : BitVec 5} {r : BitVec 8} (h : s.Canon) : Stays (execSwr a r s) := by
  unfold Machine.execSwr
  refine State.Canon.go (h.issue ?_)
  split
  · exact h.sideEffect.updMyCore.goOn
  · exact h.illegal

theorem State.Canon.execNop (h : s.Canon) : Stays (execNop s) := by
  unfold Machine.execNop
  exact (h.issue h.goOn).go

theorem State.Canon.execBrk (h : s.Canon) : Stays (execBrk s) := by
  unfold Machine.execBrk
  exact (h.issue h.ctxFault).go

theorem State.Canon.execTrap {c : BitVec 9} (h : s.Canon) : Stays (execTrap c s) := by
  unfold Machine.execTrap
  exact (h.issue h.ctxFault).go

/-! ## Outcomes of Sys2Proof/Machine/Tasks.lean -/

theorem State.Canon.execFget {d a : BitVec 5} (h : s.Canon) : Stays (execFget d a s) := by
  unfold Machine.execFget
  refine State.Canon.go (h.issue ?_)
  dsimp only
  split
  · exact h.squash.wakeParked.ite h
  · exact h.fgetHome
  · exact h.illegal.ite (h.withAligned (h.begin.withXlat (fun _ _ ht => ht.awaitRead) (fun _ => h.begin.awaitRead) fun _ _ ht => ht.fgetHome))

theorem State.Canon.execFput {a b : BitVec 5} (h : s.Canon) : Stays (execFput a b s) := by
  unfold Machine.execFput
  refine State.Canon.go (h.issue ?_)
  dsimp only
  exact h.withAligned h.issueStore

theorem State.Canon.execFreset {a : BitVec 5} (h : s.Canon) : Stays (execFreset a s) := by
  unfold Machine.execFreset
  refine State.Canon.go (h.issue ?_)
  dsimp only
  exact h.withAligned h.issueStore

theorem State.Canon.execSpawn {a : BitVec 5} {m : BitVec 16} (h : s.Canon) : Stays (execSpawn a m s) := by
  unfold Machine.execSpawn
  refine State.Canon.go (h.issue ?_)
  dsimp only
  split
  · exact h.spawnImage
  · exact h.withAligned (h.block.ite h.countSpawn.begin.spawnImage)

theorem State.Canon.execJoin {a : BitVec 5} (h : s.Canon) : Stays (execJoin a s) := by
  unfold Machine.execJoin
  refine State.Canon.go (h.issue ?_)
  dsimp only
  split
  · exact h.joinAt
  · exact h.withAligned (h.updMe.withXlat (fun _ _ ht => ht.awaitRead) (fun _ => h.updMe.awaitRead) fun _ _ ht => ht.joinAt)

theorem State.Canon.execGbar (h : s.Canon) : Stays (execGbar s) := by
  unfold Machine.execGbar
  refine State.Canon.go (h.issue ?_)
  dsimp only
  split
  · exact h.takeFault
  · exact State.Canon.ite (h.commitCovered.updMe.goOn.ite h.block) (h.gbarGone.ite h.block.tryGbar)

theorem State.Canon.execExit (h : s.Canon) : Stays (execExit s) := by
  unfold Machine.execExit
  refine State.Canon.go (h.issue ?_)
  dsimp only
  refine h.fault.ite ?_
  split
  · exact h.ctxFault
  · exact h.updMe.updTask.thirdExit.ite h.updMe.updTask.arriveBarrier

theorem State.Canon.execSemw {n : BitVec 6} (h : s.Canon) : Stays (execSemw n s) := by
  unfold Machine.execSemw
  refine State.Canon.go (h.issue ?_)
  dsimp only
  exact h.block.ite h.updMyCore.updMe.goOn

theorem State.Canon.execSems {n : BitVec 6} (h : s.Canon) : Stays (execSems n s) := by
  unfold Machine.execSems
  refine State.Canon.go (h.issue (h.withRelease fun t ht => ?_))
  dsimp only
  exact ht.fault.ite ht.sideEffect.updMyCore.goOn

theorem State.Canon.execEvwait {e : BitVec 6} (h : s.Canon) : Stays (execEvwait e s) := by
  unfold Machine.execEvwait
  refine State.Canon.go (h.issue ?_)
  split
  · exact h.goOn
  · exact h.block

theorem State.Canon.execEvsig {e : BitVec 6} (h : s.Canon) : Stays (execEvsig e s) := by
  unfold Machine.execEvsig
  refine State.Canon.go (h.issue (h.withRelease fun t ht => ?_))
  dsimp only
  split
  · exact ht.sideEffect.setEvents.goOn
  · exact ht.sideEffect.goOn

/-! ## Outcomes of Sys2Proof/Machine/Vector.lean -/

theorem State.Canon.vecIssue {i : Instr} {body : State → Core → Core} (h : s.Canon) : Stays (vecIssue i s body) := by
  unfold Machine.vecIssue
  refine State.Canon.go (h.issue ?_)
  split
  exact h.withPorts h.updMyCore.goOn

theorem State.Canon.vArith {i : Instr} {d a b : BitVec 6} {m : BitVec 3} {ff fi : Core → Nat → Nat → VAcc → Nat × VAcc} (h : s.Canon) :
    Stays (vArith i d a b m ff fi s) := by
  unfold Machine.vArith
  exact h.vecIssue

theorem State.Canon.vUnary {i : Instr} {d a : BitVec 6} {m : BitVec 3} {ff fi : Core → Nat → VAcc → Nat × VAcc} (h : s.Canon) :
    Stays (vUnary i d a m ff fi s) := by
  unfold Machine.vUnary
  exact h.vecIssue

theorem State.Canon.vBits {i : Instr} {d a b : BitVec 6} {m : BitVec 3} {f : Nat → Nat → Nat → Nat} (h : s.Canon) : Stays (vBits i d a b m f s) := by
  unfold Machine.vBits
  exact h.vecIssue

theorem State.Canon.vFused {i : Instr} {d a b : BitVec 6} {m : BitVec 3} {np nz : Bool} (h : s.Canon) : Stays (vFused i d a b m np nz s) := by
  unfold Machine.vFused
  exact h.vecIssue

theorem State.Canon.vCompare {i : Instr} {d : BitVec 3} {a b : BitVec 6} {m : BitVec 3} {p : ℤ → Bool} (h : s.Canon) :
    Stays (vCompare i d a b m p s) := by
  unfold Machine.vCompare
  exact h.vecIssue

theorem State.Canon.vecToX {i : Instr} {d : BitVec 5} {f : State → Word} (h : s.Canon) : Stays (vecToX i d f s) := by
  unfold Machine.vecToX
  refine State.Canon.go (h.issue ?_)
  split
  exact h.withPorts h.wx.updMyCore.goOn

theorem State.Canon.vWiden {i : Instr} {d a b : BitVec 6} {m : BitVec 3} {ff : Core → Val → Val → Val} {fi : ℤ → ℤ → ℤ} (h : s.Canon) :
    Stays (vWiden i d a b m ff fi s) := by
  unfold Machine.vWiden
  exact h.vecIssue

theorem State.Canon.vPick {i : Instr} {d a : BitVec 6} {m : BitVec 3} {sel : Val → Val → Val} {e : Fmt → Val} {seli : ℤ → ℤ → ℤ}
    {ei : Nat → ℤ} (h : s.Canon) : Stays (vPick i d a m sel e seli ei s) := by
  unfold Machine.vPick
  exact h.vecIssue

theorem State.Canon.execPpld {a : BitVec 5} {c : BitVec 4} {n : BitVec 6} (h : s.Canon) : Stays (execPpld a c n s) := by
  unfold Machine.execPpld
  refine State.Canon.go (h.issue ?_)
  dsimp only
  exact h.withAligned h.issueLoad

/-! ## Outcomes of Sys2Proof/Machine/Rings.lean -/

theorem State.Canon.execQld {q : BitVec 2} {a : BitVec 5} {c : BitVec 4} {r : BitVec 12} (h : s.Canon) : Stays (execQld q a c r s) := by
  unfold Machine.execQld
  refine State.Canon.go (h.issue ?_)
  dsimp only
  exact h.fault.ite h.issueQld

theorem State.Canon.execQldr {q : BitVec 2} {a : BitVec 5} {c : BitVec 4} {w : BitVec 6} {n : BitVec 5} (h : s.Canon) :
    Stays (execQldr q a c w n s) := by
  unfold Machine.execQldr
  refine State.Canon.go (h.issue ?_)
  dsimp only
  exact h.issueQld.ite h.fault

theorem State.Canon.execQst {q : BitVec 2} {a : BitVec 5} {c : BitVec 4} {r : BitVec 12} (h : s.Canon) : Stays (execQst q a c r s) := by
  unfold Machine.execQst
  refine State.Canon.go (h.issue ?_)
  dsimp only
  exact h.fault.ite h.issueQst

theorem State.Canon.execQstr {q : BitVec 2} {a : BitVec 5} {c : BitVec 4} {w : BitVec 6} {n : BitVec 5} (h : s.Canon) :
    Stays (execQstr q a c w n s) := by
  unfold Machine.execQstr
  refine State.Canon.go (h.issue ?_)
  dsimp only
  split
  · exact h.fault
  · refine h.withInst ?_
    split
    · exact h.issueQst.ite h.fault
    · exact h.fault

theorem State.Canon.execRres {d n : BitVec 5} (h : s.Canon) : Stays (execRres d n s) := by
  unfold Machine.execRres
  refine State.Canon.go (h.issue ?_)
  dsimp only
  split
  · split
    · exact h.withInst h.rresOpen
    · split
      · exact h.updTask.rresOpen
      · exact h.block
  · split
    · exact h.fault
    · exact h.sideEffect.updTask.result

theorem State.Canon.execRpub {a n : BitVec 5} (h : s.Canon) : Stays (execRpub a n s) := by
  unfold Machine.execRpub
  refine State.Canon.go (h.issue ?_)
  dsimp only
  split
  · exact h.fault
  · refine h.withInst ?_
    split
    · exact h.fault
    · exact h.sideEffect.updTask.issueAccess.goOn.ite h.sideEffect.updTask.publish.goOn

theorem State.Canon.execRpop {n : BitVec 5} (h : s.Canon) : Stays (execRpop n s) := by
  unfold Machine.execRpop
  refine State.Canon.go (h.issue ?_)
  dsimp only
  exact h.fault.ite (h.block.ite h.sideEffect.popSlot.goOn)

theorem State.Canon.execRpeek {d n : BitVec 5} (h : s.Canon) : Stays (execRpeek d n s) := by
  unfold Machine.execRpeek
  refine State.Canon.go (h.issue ?_)
  dsimp only
  refine h.result.ite ?_
  split
  · exact h.withInst h.result
  · exact h.fault

theorem State.Canon.execRcfg {a n : BitVec 5} (h : s.Canon) : Stays (execRcfg a n s) := by
  unfold Machine.execRcfg
  refine State.Canon.go (h.issue ?_)
  dsimp only
  exact h.updMyCore.goOn.ite h.fault

/-! ## Outcomes of Sys2Proof/Machine/Commands.lean -/

theorem State.Canon.execKset {k : BitVec 3} {a : BitVec 5} {w : BitVec 2} (h : s.Canon) : Stays (execKset k a w s) := by
  unfold Machine.execKset
  exact (h.issue h.updMe.goOn).go

theorem State.Canon.execKld {k : BitVec 3} {a : BitVec 5} {c : BitVec 4} {o : BitVec 12} (h : s.Canon) : Stays (execKld k a c o s) := by
  unfold Machine.execKld
  exact (h.issue (h.withAligned h.issueLoad)).go

theorem State.Canon.execKst {k : BitVec 3} {a : BitVec 5} {c : BitVec 4} {o : BitVec 12} (h : s.Canon) : Stays (execKst k a c o s) := by
  unfold Machine.execKst
  exact (h.issue (h.withAligned h.issueStore)).go

theorem State.Canon.execShape {n : BitVec 4} {k : BitVec 3} (h : s.Canon) : Stays (execShape n k s) := by
  unfold Machine.execShape
  refine State.Canon.go (h.issue ?_)
  dsimp only
  exact h.updMyCore.goOn.ite h.fault

theorem State.Canon.execShld {n : BitVec 4} {a : BitVec 5} {c : BitVec 4} {o : BitVec 12} (h : s.Canon) : Stays (execShld n a c o s) := by
  unfold Machine.execShld
  exact (h.issue (h.withAligned h.issueLoad)).go

theorem State.Canon.execPush {k : BitVec 3} (h : s.Canon) : Stays (execPush k s) := by
  unfold Machine.execPush
  refine State.Canon.go (h.issue ?_)
  dsimp only
  split
  · exact h.pushFault
  · exact h.pushFault
  · exact h.pushFault
  · exact h.pushFault
  · exact h.sideEffect.updMe.pushTranslate.ite h.sideEffect.updMe.block

/-! ## Outcomes of Sys2Proof/Machine/Matrix.lean -/

theorem State.Canon.execMma {hd : CmdHdr} {b : MmaBody} (h : s.Canon) : Stays (execMma hd b s) := by
  unfold Machine.execMma
  refine State.Canon.go (h.withStart fun q t ht => ?_)
  dsimp only
  split
  · exact ht.startFault
  · exact ht.startFault
  · refine ht.withRows h ?_
    split
    · exact ht.spoilHalf.startFault
    · exact ht.spoilHalf.startFault.ite ht.arrayRun.begun

theorem State.Canon.execPromote {hd : CmdHdr} {bank : Bool} (h : s.Canon) : Stays (execPromote hd bank s) := by
  unfold Machine.execPromote
  exact (h.withStart fun _ _ ht => ht.eachRow.dirtyAll.begun).go

theorem State.Canon.execZacc {hd : CmdHdr} {za zb zp : Bool} (h : s.Canon) : Stays (execZacc hd za zb zp s) := by
  unfold Machine.execZacc
  refine State.Canon.go (h.withStart fun q t ht => ?_)
  dsimp only
  exact (State.Canon.ite (ht.eachRow.foldl fun _ _ hu => hu.updSt) ht.eachRow).begun

theorem State.Canon.execDrain {hd : CmdHdr} {b : DrainBody} (h : s.Canon) : Stays (execDrain hd b s) := by
  unfold Machine.execDrain
  refine State.Canon.go ?_
  split
  · refine State.Canon.keepCur ?_
    split
    · exact h
    split
    · exact h.takeSem.startFault
    dsimp only
    split
    · split
      · exact h.chainStart
      · exact h
    · exact h.takeSem.startFault
  · exact h.withStart fun _ _ ht => ht.drainRun h

theorem State.Canon.execMmac {hd : CmdHdr} {b : MmaBody} (h : s.Canon) : Stays (execMmac hd b s) := by
  unfold Machine.execMmac
  refine State.Canon.go (State.Canon.keepCur ?_)
  split
  · exact h
  split
  · exact h.takeSem.startFault
  split
  · exact h.chainStart
  · exact h

theorem State.Canon.execChain {hd : CmdHdr} {glead : BitVec 3} (h : s.Canon) : Stays (execChain hd glead s) := by
  unfold Machine.execChain
  exact (h.withStart fun _ _ ht => ht.updCore.updCore.begun).go

theorem State.Canon.execUnchain {hd : CmdHdr} {side : Bool} (h : s.Canon) : Stays (execUnchain hd side s) := by
  unfold Machine.execUnchain
  exact (h.withStart fun _ _ ht => (ht.unlinkIn.ite ht.unlinkOut).begun).go

/-! ## Outcomes of Sys2Proof/Machine/Copy.lean -/

theorem State.Canon.execTload {hd : CmdHdr} {b : CopyBody} (h : s.Canon) : Stays (execTload hd b s) := by
  unfold Machine.execTload
  refine State.Canon.go (h.withStart fun q t ht => ?_)
  split
  · exact ht.startFault
  · exact ht.loadRun h

theorem State.Canon.execTgather {hd : CmdHdr} {b : CopyBody} (h : s.Canon) : Stays (execTgather hd b s) := by
  unfold Machine.execTgather
  refine State.Canon.go (h.withStart fun q t ht => ?_)
  dsimp only
  split
  · exact ht.startFault
  · exact ht.startFault
  · refine ht.withRows h ?_
    split
    · exact ht.spoilRows.startFault
    · exact ht.loadRun h

theorem State.Canon.execTcvt {hd : CmdHdr} {b : CopyBody} (h : s.Canon) : Stays (execTcvt hd b s) := by
  unfold Machine.execTcvt
  refine State.Canon.go (h.withStart fun q t ht => ?_)
  dsimp only
  split
  · exact ht.startFault
  · exact ht.startFault
  · refine ht.withRows h ?_
    split
    · exact ht.startFault
    · split
      · exact ht.spoilRows.startFault
      · exact ht.toScratch

theorem State.Canon.execTstore {hd : CmdHdr} {b : CopyBody} (h : s.Canon) : Stays (execTstore hd b s) := by
  unfold Machine.execTstore
  refine State.Canon.go (h.withStart fun q t ht => ?_)
  dsimp only
  split
  · exact ht.startFault
  · refine ht.withRows h ?_
    split
    · exact ht.startFault
    · split
      · exact ht.startFault
      · exact ht.begun

theorem State.Canon.execPrefetch {hd : CmdHdr} {b : CopyBody} (h : s.Canon) : Stays (execPrefetch hd b s) := by
  unfold Machine.execPrefetch
  refine State.Canon.go (h.withStart fun q t ht => ?_)
  dsimp only
  split
  · exact ht.startFault
  · exact h.ite ht.accept.prefetchLines.begun

/-! ## Outcomes of Sys2Proof/Machine/Atomics.lean -/

theorem State.Canon.execGatomAdd {hd : CmdHdr} {b : GatomBody} (h : s.Canon) : Stays (execGatomAdd hd b s) := by
  unfold Machine.execGatomAdd
  exact h.gatomRun.go

theorem State.Canon.execGatomFadd {hd : CmdHdr} {b : GatomBody} (h : s.Canon) : Stays (execGatomFadd hd b s) := by
  unfold Machine.execGatomFadd
  exact h.gatomRun.go

theorem State.Canon.execGatomMax {hd : CmdHdr} {b : GatomBody} (h : s.Canon) : Stays (execGatomMax hd b s) := by
  unfold Machine.execGatomMax
  exact h.gatomRun.go

theorem State.Canon.execGatomMin {hd : CmdHdr} {b : GatomBody} (h : s.Canon) : Stays (execGatomMin hd b s) := by
  unfold Machine.execGatomMin
  exact h.gatomRun.go

theorem State.Canon.execGatomSwap {hd : CmdHdr} {b : GatomBody} (h : s.Canon) : Stays (execGatomSwap hd b s) := by
  unfold Machine.execGatomSwap
  exact h.gatomRun.go

theorem State.Canon.execGatomCas {hd : CmdHdr} {b : GatomBody} (h : s.Canon) : Stays (execGatomCas hd b s) := by
  unfold Machine.execGatomCas
  exact h.gatomRun.go

theorem State.Canon.execMigrate {hd : CmdHdr} {b : MigrateBody} (h : s.Canon) : Stays (execMigrate hd b s) := by
  unfold Machine.execMigrate
  refine State.Canon.go (h.withStart fun q t ht => ?_)
  split
  · exact h
  · refine ht.startFault.ite ?_
    dsimp only
    exact ht.begun.ite ht.begun.askMig

theorem State.Canon.execScatAdd {hd : CmdHdr} {b : ScatBody} (h : s.Canon) : Stays (execScatAdd hd b s) := by
  unfold Machine.execScatAdd
  exact h.scatRun.go

theorem State.Canon.execScatMax {hd : CmdHdr} {b : ScatBody} (h : s.Canon) : Stays (execScatMax hd b s) := by
  unfold Machine.execScatMax
  exact h.scatRun.go

theorem State.Canon.execScatMin {hd : CmdHdr} {b : ScatBody} (h : s.Canon) : Stays (execScatMin hd b s) := by
  unfold Machine.execScatMin
  exact h.scatRun.go

theorem State.Canon.execCntsnap {hd : CmdHdr} {dref : OpRef} (h : s.Canon) : Stays (execCntsnap hd dref s) := by
  unfold Machine.execCntsnap
  refine State.Canon.go (h.withStart fun q t ht => ?_)
  dsimp only
  split
  · exact ht.startFault
  · exact ht.begun.ite (ht.withRows h (((ht.foldl fun _ _ hu => hu.setRow).updCore).begun))

theorem State.Canon.execRwrite {hd : CmdHdr} {b : RwriteBody} (h : s.Canon) : Stays (execRwrite hd b s) := by
  unfold Machine.execRwrite
  refine State.Canon.go (h.withStart fun q t ht => ?_)
  dsimp only
  split
  · exact ht.startFault
  · exact ht.startFault
  · exact ht.startFault.ite (ht.startFault.ite (ht.withRows h ht.begun))

theorem State.Canon.execQfence {hd : CmdHdr} {m : BitVec 6} (h : s.Canon) : Stays (execQfence hd m s) := by
  unfold Machine.execQfence
  dsimp only
  refine State.Canon.go ?_
  split
  · exact h
  · exact State.Canon.ite (((State.Canon.foldl (State.Canon.foldl
    (h.foldl fun _ _ ht => ht.updCore) fun _ _ ht => ht.at_) fun _ _ ht => ht.updCore).signal).settle) (h.foldl fun _ _ ht => ht.updCore)

theorem State.Canon.execSemsig {hd : CmdHdr} (h : s.Canon) : Stays (execSemsig hd s) := by
  unfold Machine.execSemsig
  exact (h.withStart fun _ _ ht => ht.finishNow).go

theorem State.Canon.execSemwait {hd : CmdHdr} (h : s.Canon) : Stays (execSemwait hd s) := by
  unfold Machine.execSemwait
  exact (h.withStart fun _ _ ht => ht.finishNow).go

theorem State.Canon.execCommandComplete {r : CoreRef} {e : BitVec 3} (h : s.Canon) : Stays (execCommandComplete r e s) := by
  unfold Machine.execCommandComplete
  dsimp only
  refine State.Canon.go ?_
  split
  · exact h
  · split
    · split
      · exact h
      · exact h.rwriteDone
      · exact h.at_.finish.ite h
      · exact State.Canon.ite ((h.at_.foldl fun _ _ ht => ht.engWrite).finish) (h.foldl fun _ _ ht => ht.engAsk)
    · exact h

theorem State.Canon.execRemoteWriteRefused {r : CoreRef} {e : BitVec 3} (h : s.Canon) : Stays (execRemoteWriteRefused r e s) := by
  unfold Machine.execRemoteWriteRefused
  dsimp only
  refine State.Canon.go ?_
  split
  · exact h
  · split
    · exact h.rwriteRefused
    · exact h

theorem State.Canon.execRemoteWriteArrival {w : RemoteWrite} (h : s.Canon) : Stays (execRemoteWriteArrival w s) := by
  have hp : s.purgeWrites.Canon := h.purgeWrites
  unfold Machine.execRemoteWriteArrival
  refine State.Canon.go ?_
  split
  next e => exact hp.arrive (.inl e)
  next u e =>
    have hu : u.Canon := hp.arrive (.inr e)
    cases hb : u.bufferWrite w with
    | none => exact hu
    | some v => exact hu.bufferWrite hb
  · exact hp.logErr

/-! ## Outcomes of Sys2Proof/Machine/Turns.lean -/

theorem State.Canon.execQldRowArrival {r : CoreRef} {q : BitVec 2} (h : s.Canon) : Stays (execQldRowArrival r q s) := by
  unfold Machine.execQldRowArrival
  dsimp only
  refine State.Canon.go ?_
  split
  · exact h.performAccess
  · exact h

/-! ## Outcomes of Sys2Proof/Machine/Coherence.lean -/

theorem State.Canon.execLoadValueReturn {c : CtxRef} (h : s.Canon) : Stays (execLoadValueReturn c s) := by
  unfold Machine.execLoadValueReturn
  refine State.Canon.go ?_
  split
  · split
    · exact h
    dsimp only
    split
    · exact h.others.fault
    split
    · refine State.Canon.loadDone ?_
      exact h.others.foldl fun _ _ ht => ht.readEffect
    · exact h
  · exact h

theorem State.Canon.execForcedPublish {line : Nat} (h : s.Canon) : Stays (execForcedPublish line s) := by
  unfold Machine.execForcedPublish
  refine State.Canon.go ?_
  split
  · exact h
  · dsimp only
    exact State.Canon.ite (h.foldl fun _ _ ht => ht.force) (State.Canon.ite (h.foldl fun _ _ ht => ht.publishNote)
      (h.foldl fun _ _ ht => ht.askPublish))

theorem State.Canon.execForcedPublishAck {line : Nat} (h : s.Canon) : Stays (execForcedPublishAck line s) := by
  unfold Machine.execForcedPublishAck
  exact h.updHomes.go

theorem State.Canon.execHomeRequest {q : HomeReq} (h : s.Canon) : Stays (execHomeRequest q s) := by
  unfold Machine.execHomeRequest
  refine State.Canon.go (h.ite ?_)
  split
  · split
    · exact h.loadRequest
    · exact h
  · split
    · exact h.writeRequest.ite h
    · exact h
  · exact h.evictRequest
  · exact h.engineHop
  · exact h.castout
  · exact h.perform
  · exact h

theorem State.Canon.execSnoopResponse {site : Fin 6} {line : Nat} (h : s.Canon) : Stays (execSnoopResponse site line s) := by
  unfold Machine.execSnoopResponse
  refine State.Canon.go ?_
  split
  · exact h.ite h.answer
  · exact h

theorem State.Canon.execOwnerForward {site : Fin 6} {line : Nat} (h : s.Canon) : Stays (execOwnerForward site line s) := by
  unfold Machine.execOwnerForward
  refine State.Canon.go ?_
  split
  · exact h.answer.ite h
  · exact h

theorem State.Canon.execMwaitTimeout {c : CtxRef} (h : s.Canon) : Stays (execMwaitTimeout c s) := by
  unfold Machine.execMwaitTimeout
  refine State.Canon.go ?_
  split
  · exact h.at_.others.mwaitDone
  · exact h

theorem State.Canon.execRedirect {n : Nat} (h : s.Canon) : Stays (execRedirect n s) := by
  unfold Machine.execRedirect
  refine State.Canon.go ?_
  split
  · exact h
  · dsimp only
    split
    · exact h.updHomes.updDie
    · exact h.updHomes.updHomes

theorem State.Canon.execInstructionFetchReturn {c : CtxRef} (h : s.Canon) : Stays (execInstructionFetchReturn c s) := by
  unfold Machine.execInstructionFetchReturn
  refine State.Canon.go ?_
  split
  · dsimp only
    split
    · exact h.fetchFill
    · exact h.dropRefused.ctxFault
    · exact h
    · exact h.askXlat
  · exact h

/-! ## Outcomes of Sys2Proof/Machine/Translate.lean -/

theorem State.Canon.execAtsCompletion {n : Nat} {granted : Bool} {lg dla : Nat} {wr : Bool} (h : s.Canon) :
    Stays (execAtsCompletion n granted lg dla wr s) := by
  unfold Machine.execAtsCompletion
  refine State.Canon.go ?_
  split
  · exact h
  · dsimp only
    split
    · split
      · exact h.updHomes.refuse
      · split
        · exact h
        · exact h.updHomes.updHomes
    · split
      · exact h
      · split
        · exact h.updHomes.fillXlat.mapLogs.replayAll
        · exact h.updHomes.fillXlat

theorem State.Canon.execPageRequestResponse {n : Nat} {ok : Bool} {dla : Nat} (h : s.Canon) : Stays (execPageRequestResponse n ok dla s) := by
  unfold Machine.execPageRequestResponse
  refine State.Canon.go ?_
  split
  · exact h
  · dsimp only
    split
    · split
      · exact h.updHomes.mapLogs.replayAll
      · exact h.updHomes
    · split
      · exact h.updHomes.refuse.refusePage.replayAll
      · exact h.updHomes.refuse

theorem State.Canon.execAtsInvalidation {pasid hva lg : Nat} (h : s.Canon) : Stays (execAtsInvalidation pasid hva lg s) := by
  unfold Machine.execAtsInvalidation
  refine State.Canon.go ?_
  split
  · exact h
  · exact h.dropXlats.updHomes

theorem State.Canon.execAtsInvalidationDone {n : Nat} (h : s.Canon) : Stays (execAtsInvalidationDone n s) := by
  unfold Machine.execAtsInvalidationDone
  refine State.Canon.go ?_
  split
  · exact h
  · split
    · exact h
    · exact h.updHomes

theorem State.Canon.execSpawnEnqueue {c : CtxRef} (h : s.Canon) : Stays (execSpawnEnqueue c s) := by
  unfold Machine.execSpawnEnqueue
  refine State.Canon.go ?_
  split
  · exact h
  · split
    · dsimp only
      exact h.ite (State.Canon.ite (h.ite (h.withWrites h.enqueue)) h.enqueue)
    · exact h

theorem CanonOpt.getD {o : Option State} {s : State} (ho : CanonOpt o) (h : s.Canon) : (o.getD s).Canon := by
  cases o with
  | none => exact h
  | some t => exact ho t rfl

/-! ## Outcomes of Sys2Proof/Machine/Lifecycle.lean -/

theorem State.Canon.execTaskStart {p : Nat} {stage : Fin 16} (h : s.Canon) : Stays (execTaskStart p stage s) := by
  unfold Machine.execTaskStart
  refine State.Canon.go ?_
  split
  · exact h
  split
  · exact h
  · exact h.startNext.getD h

theorem State.Canon.execTaskRetire {r : CoreRef} (h : s.Canon) : Stays (execTaskRetire r s) := by
  unfold Machine.execTaskRetire
  refine State.Canon.go ?_
  split
  · exact h
  · refine h.ite ?_
    split
    · exact h.exitFault
    · dsimp only
      exact h.ite (h.withWrites h.accept.commitTask.retireSteps)

theorem State.Canon.execTaskSquash {r : CoreRef} (h : s.Canon) : Stays (execTaskSquash r s) := by
  unfold Machine.execTaskSquash
  refine State.Canon.go ?_
  split
  · exact h
  split
  · exact h
  · refine State.Canon.wakeParked (State.Canon.leaveCore (State.Canon.updHomes (State.Canon.updCore ?_)))
    exact h.foldl fun _ _ ht => ht.updCore

theorem State.Canon.execFaultRecord {p : Nat} (h : s.Canon) : Stays (execFaultRecord p s) := by
  unfold Machine.execFaultRecord
  refine State.Canon.go ?_
  split
  · exact h
  · split
    · exact h
    · split
      · exact h.writeFault
      · exact h.updPipe

theorem State.Canon.execJoinDeadlock {p : Nat} (h : s.Canon) : Stays (execJoinDeadlock p s) := by
  unfold Machine.execJoinDeadlock
  refine State.Canon.go ?_
  split
  · exact h
  · dsimp only
    exact State.Canon.ite ((h.foldl fun _ _ ht => ht.endBlocked).beginShutdown) h

theorem State.Canon.execShutdownFault {p : Nat} (h : s.Canon) : Stays (execShutdownFault p s) := by
  unfold Machine.execShutdownFault
  refine State.Canon.go ?_
  split
  · exact h
  · dsimp only
    exact State.Canon.ite ((h.foldl fun _ _ ht => ht.endBlocked).beginShutdown) h

theorem State.Canon.execShutdownComplete {p : Nat} (h : s.Canon) : Stays (execShutdownComplete p s) := by
  unfold Machine.execShutdownComplete
  refine State.Canon.go ?_
  split
  · exact h
  · exact h.endPipe.ite h

/-! ## Outcomes of Sys2Proof/Machine/Reel.lean -/

theorem State.Canon.execReelSample {p : Nat} (h : s.Canon) : Stays (execReelSample p s) := by
  unfold Machine.execReelSample
  refine State.Canon.go ?_
  split
  · exact h
  · refine h.ite ?_
    dsimp only
    refine h.at_.updPipe.ite ?_
    split
    · exact h.at_.updPipe
    · split
      · exact h.at_.updPipe.move
      · exact h.at_.updPipe.updPipe

/-! ## Outcomes of Sys2Proof/Machine/Operators.lean -/

theorem State.Canon.readWords {pasid hva n : Nat} (h : s.Canon) : (s.readWords pasid hva n).Canon := by
  induction n generalizing hva with
  | zero => trivial
  | succ n ih =>
    unfold State.readWords
    split
    · split
      · trivial
      · exact ih
    · exact h.readWord

/-- Memory stands in its canonical form in the state that a read of an operator record leaves. -/
def OpFound.Canon : OpFound → Prop
  | .rejected t | .wait t => t.Canon
  | .ok _ => True

theorem State.Canon.readOp {pasid hva : Nat} {follows : Bool} (h : s.Canon) : (s.readOp pasid hva follows).Canon := by
  have found {a n : Nat} {r : WordsFound} (e : s.readWords pasid a n = r) : r.Canon := e ▸ h.readWords
  unfold State.readOp
  split
  next e => exact found e
  next e => exact found e
  dsimp only
  split
  · exact h
  split
  next e => exact found e
  next e => exact found e
  split
  next e => exact found e
  next e => exact found e
  split
  next e => exact found e
  next e => exact found e
  split
  · trivial
  · exact h

theorem State.Canon.expand {c : Chain} {idx : Nat} (h : s.Canon) : (s.expand c idx).Canon := by
  unfold State.expand
  split
  · trivial
  · exact h.readOp

theorem State.Canon.execExpansionStep {id : Nat} (h : s.Canon) : Stays (execExpansionStep id s) := by
  have found {c : Chain} {n : Nat} {r : OpFound} (e : s.expand c n = r) : r.Canon := e ▸ h.expand
  unfold Machine.execExpansionStep
  refine State.Canon.go ?_
  split
  · exact h
  split
  · exact h.endChain
  split
  · split
    next t e =>
      have ht : t.Canon := found e
      exact ht
    next t e =>
      have ht : t.Canon := found e
      exact ht.rejectChain
    · exact h.startOp
  · exact h.startOp
  · exact h.endChain
  · split
    · split
      next t e =>
        have ht : t.Canon := found e
        exact ht
      next t e =>
        have ht : t.Canon := found e
        exact ht.stopQueue.updChain
      · exact h.updChain
    · exact h
  · exact h

/-! ## Outcomes of Sys2Proof/Machine/Completion.lean -/

theorem State.Canon.execCompletionReport {p : Nat} {lvl : CompLevel} (h : s.Canon) : Stays (execCompletionReport p lvl s) := by
  unfold Machine.execCompletionReport
  dsimp only
  refine State.Canon.go ?_
  split
  · exact h.endIfDone
  · split
    · exact h.endIfDone.updPipe.ite h.endIfDone
    · exact h.endIfDone.updPipe.ite h.endIfDone
    · refine State.Canon.ite ?_ h.endIfDone
      split
      · split
        · exact h.endIfDone.endChain
        · exact h.endIfDone.operatorDone
      · exact h.endIfDone

/-! ## Outcomes of Sys2Proof/Machine/Sett.lean -/

theorem State.Canon.grantLinked {p : Pipe} {q : SettReq} (h : s.Canon) : CanonOpt (s.grantLinked p q) := by
  unfold State.grantLinked
  dsimp only
  split
  · exact CanonOpt.none
  split
  · exact CanonOpt.none
  · refine CanonOpt.some (State.Canon.foldl ?_ fun _ _ ht => ht.dropReq)
    refine h.foldl fun t i ht => ?_
    split
    · exact ht.leaseFrag.joinPool
    · exact ht

theorem State.Canon.grant {q : SettReq} (h : s.Canon) : CanonOpt (s.grant q) := by
  unfold State.grant
  split
  · exact CanonOpt.none
  split
  · dsimp only
    split
    · exact CanonOpt.some h.grantCores
    · exact CanonOpt.none
  split
  · exact h.grantLinked
  · dsimp only
    split
    · exact CanonOpt.some h.grantFrags
    · exact CanonOpt.none

theorem State.Canon.execSettGrant (h : s.Canon) : Stays (execSettGrant s) := by
  unfold Machine.execSettGrant
  exact ((CanonOpt.findSome fun _ => h.grant).getD h).go

theorem State.Canon.execZeroingDone {site : Fin 6} (h : s.Canon) : Stays (execZeroingDone site s) := by
  unfold Machine.execZeroingDone
  refine State.Canon.go ?_
  split
  · exact h
  · dsimp only
    refine h.at_.updDie.foldl fun t a ht => ?_
    split
    · exact ht.defineRings.ite ht
    · exact ht

theorem State.Canon.execSettReserve {n : Nat} (h : s.Canon) : Stays (execSettReserve n s) := by
  unfold Machine.execSettReserve
  refine State.Canon.go ?_
  split
  · exact h
  · exact h.ite h.at_.updFe

theorem State.Canon.execLeaseReturn {r : CoreRef} (h : s.Canon) : Stays (execLeaseReturn r s) := by
  unfold Machine.execLeaseReturn
  refine State.Canon.go ?_
  split
  · exact h
  · refine h.ite ?_
    dsimp only
    exact h.freeLease.ite h.updPipe.updDie

theorem State.Canon.execScrubDone {r : CoreRef} (h : s.Canon) : Stays (execScrubDone r s) := by
  unfold Machine.execScrubDone
  refine State.Canon.go ?_
  split
  · exact h
  · exact h.at_.cleanFrag.freeLease

theorem State.Canon.xlatSave_wait {t : State} {pasid : Nat} {l : List Nat} (h : s.Canon) (e : s.xlatSave pasid l = .wait t) : t.Canon := by
  induction l with
  | nil => cases e
  | cons a l ih =>
    unfold State.xlatSave at e
    split at e
    next e' =>
      cases e
      exact h.feXlat_wait e'
    · exact ih e
    · split at e
      · cases e
      · exact ih e

/-! ## Outcomes of Sys2Proof/Machine/Preempt.lean -/

theorem State.Canon.execPreemptionComplete {p : Nat} (h : s.Canon) : Stays (execPreemptionComplete p s) := by
  unfold Machine.execPreemptionComplete
  refine State.Canon.go ?_
  split
  · exact h
  dsimp only
  split
  · exact h
  split
  next e => exact h.xlatSave_wait e
  · exact h.withWrites h.saveAll

theorem State.Canon.execResumption {p : Nat} (h : s.Canon) : Stays (execResumption p s) := by
  unfold Machine.execResumption
  refine State.Canon.go ?_
  split
  · exact h
  · dsimp only
    split
    · exact h
    · exact State.Canon.foldl (h.updPipe.updHomes.moveUses.foldl fun _ _ ht => ht.restore) fun _ _ ht => ht.applyHeld

theorem State.Canon.execSliceBoundary (h : s.Canon) : Stays (execSliceBoundary s) := by
  unfold Machine.execSliceBoundary
  refine State.Canon.go (h.ite ?_)
  dsimp only
  exact (h.at_.ageStops.others.foldl fun _ _ ht => ht.preempt).resumeSlice

/-! ## Outcomes of Sys2Proof/Machine/Placement.lean -/

theorem State.Canon.execMigrationCopyDone {page : Nat} (h : s.Canon) : Stays (execMigrationCopyDone page s) := by
  unfold Machine.execMigrationCopyDone
  refine State.Canon.go ?_
  split
  · exact h.setPhase.ite h
  · exact h

theorem State.Canon.execMigrationPinsCleared {page : Nat} (h : s.Canon) : Stays (execMigrationPinsCleared page s) := by
  unfold Machine.execMigrationPinsCleared
  refine State.Canon.go ?_
  split
  · exact h
  · split
    · split
      · exact h
      · split
        · exact h.updHomes
        · exact h.setPhase.recallPage
    · exact h

theorem State.Canon.execMigrationPinTimeout {page : Nat} (h : s.Canon) : Stays (execMigrationPinTimeout page s) := by
  unfold Machine.execMigrationPinTimeout
  refine State.Canon.go ?_
  split
  · exact h
  · split
    · exact h.ite h.at_.abortMig
    · exact h

theorem State.Canon.execMigrationAccept {page : Nat} (h : s.Canon) : Stays (execMigrationAccept page s) := by
  unfold Machine.execMigrationAccept
  refine State.Canon.go ?_
  split
  · exact h
  · split
    · exact h.endMig.tryMig
    · split
      · exact h
      · split
        · exact h.recallPage
        · exact h.updHomes.endMig.tryMig
    · exact h

theorem State.Canon.execDriverStartedMigration {page : Nat} {dpkg : BitVec 12} {dsl : BitVec 4} (h : s.Canon) :
    Stays (execDriverStartedMigration page dpkg dsl s) := by
  unfold Machine.execDriverStartedMigration
  exact (h.askMig.ite h).go

theorem State.Canon.execStubAgeExpiry {n : Nat} (h : s.Canon) : Stays (execStubAgeExpiry n s) := by
  unfold Machine.execStubAgeExpiry
  refine State.Canon.go ?_
  split
  · exact h
  split
  · exact h.freeStubs
  · refine State.Canon.freeStubs (State.Canon.updHomes ?_)
    split
    · exact h
    · exact h.others

theorem State.Canon.execOwnerCacheInvalidation {n : Nat} {a : Agent} (h : s.Canon) : Stays (execOwnerCacheInvalidation n a s) := by
  unfold Machine.execOwnerCacheInvalidation
  refine State.Canon.go ?_
  split
  · exact h
  · split
    · exact h.forgetOwner.updHomes
    · exact h

theorem State.Canon.execStubAck {n : Nat} {a : Agent} (h : s.Canon) : Stays (execStubAck n a s) := by
  unfold Machine.execStubAck
  refine State.Canon.go ?_
  split
  · exact h
  · split
    · split
      · exact h.updHomes.freeStubs
      · exact h
    · exact h

theorem State.Canon.execGatecmdGate {v : BitVec 64} (h : s.Canon) : Stays (execGatecmdGate v s) := by
  unfold Machine.execGatecmdGate
  exact (h.ite (h.gate.gateTaken.ite h.gateRefused)).go

theorem State.Canon.execGatecmdWake {v : BitVec 64} (h : s.Canon) : Stays (execGatecmdWake v s) := by
  unfold Machine.execGatecmdWake
  exact (h.ite (h.wake.gateTaken.ite h.gateRefused)).go

theorem State.Canon.execGateDone (h : s.Canon) : Stays (execGateDone s) := by
  have awake : (sites.foldl (fun t i => t.updDie i fun d => { d with waking := 0 })
      (allCores.foldl (fun t r => t.updSt r fun x => { x with waking := 0 }) s)).Canon :=
    (h.foldl fun _ _ ht => ht.updSt).foldl fun _ _ ht => ht.updDie
  unfold Machine.execGateDone
  dsimp only
  refine State.Canon.go ?_
  split
  · exact awake.updHomes.others
  · exact awake.updHomes.others.foldl fun _ _ ht => ht.applyHeld

/-! ## Outcomes of Sys2Proof/Machine/FrontEnd.lean -/

theorem State.Canon.execKickEvent {q : BitVec 14} (h : s.Canon) : Stays (execKickEvent q s) := by
  unfold Machine.execKickEvent
  exact h.readOn.go

theorem State.Canon.execPacketRepoll {no : BitVec 14} (h : s.Canon) : Stays (execPacketRepoll no s) := by
  unfold Machine.execPacketRepoll
  dsimp only
  refine State.Canon.go ?_
  split
  · exact h
  next t0 n _ =>
  split
  · exact h
  have ha : (s.at_ (t0 + (n + 1) * repollTicks)).Canon := h.others
  have hr : ((s.at_ (t0 + (n + 1) * repollTicks)).readSlot (s.queue no)).Canon := ha.readSlot
  split
  next t e =>
    replace hr : (SlotRead.wait t).Canon := e ▸ hr
    exact hr
  next t e =>
    replace hr : (SlotRead.refused t).Canon := e ▸ hr
    replace hr : t.Canon := hr
    exact hr.stopQueue
  · exact ha.consume.readOn
  · split
    · exact ha.stopQueue
    · exact ha.setQueue

theorem State.Canon.execOpchain {no : BitVec 14} (h : s.Canon) : Stays (execOpchain no s) := by
  unfold Machine.execOpchain
  refine State.Canon.go ?_
  split
  · exact h
  · exact h.setQueue.updFe

theorem State.Canon.execFencePacket {no : BitVec 14} (h : s.Canon) : Stays (execFencePacket no s) := by
  unfold Machine.execFencePacket
  refine State.Canon.go ?_
  split
  · exact h
  · exact h.completeNext.ite h

theorem State.Canon.execNopPacket {no : BitVec 14} (h : s.Canon) : Stays (execNopPacket no s) := by
  unfold Machine.execNopPacket
  refine State.Canon.go ?_
  split
  · exact h
  · exact h.completeNext

theorem State.Canon.execSignal {no : BitVec 14} (h : s.Canon) : Stays (execSignal no s) := by
  unfold Machine.execSignal
  refine State.Canon.go ?_
  split
  · exact h
  · dsimp only
    refine h.ite ?_
    split
    · next e =>
        have ht := h.feXlat_wait e
        exact ht
    · exact h.dropRefused.completeNext.stopQueue
    · exact h.askWrite.ite (h.force.ite (h.homeWrite.completeNext.raiseIrq.ite h.homeWrite.completeNext))

theorem State.Canon.execWaitPacket {no : BitVec 14} (h : s.Canon) : Stays (execWaitPacket no s) := by
  unfold Machine.execWaitPacket
  refine State.Canon.go ?_
  split
  · exact h
  · dsimp only
    exact h.ite h.setQueue.tryWait

theorem State.Canon.execWaitPacketSatisfied {no : BitVec 14} (h : s.Canon) : Stays (execWaitPacketSatisfied no s) := by
  unfold Machine.execWaitPacketSatisfied
  refine State.Canon.go ?_
  split
  · exact h
  · split
    · exact h.waitMet.ite h
    · exact h.tryWait

theorem State.Canon.execWaitPacketTimeout {no : BitVec 14} (h : s.Canon) : Stays (execWaitPacketTimeout no s) := by
  unfold Machine.execWaitPacketTimeout
  refine State.Canon.go ?_
  split
  · exact h
  · split
    · exact h.at_.completeNext.stopQueue
    · exact h

theorem State.Canon.execBatchBegin {no : BitVec 14} (h : s.Canon) : Stays (execBatchBegin no s) := by
  unfold Machine.execBatchBegin
  refine State.Canon.go ?_
  split
  · exact h
  · exact h.setQueue

/-- Memory stands in its canonical form in the state that the validation of a part of a batch leaves. -/
def Validated.Canon {α : Type} : Validated α → Prop
  | .fail t | .wait t => t.Canon
  | .ok _ => True

/-- Memory stands in its canonical form in the state that the validation of a batch leaves. -/
def BatchRes.Canon : BatchRes → Prop
  | .fail t _ | .wait t => t.Canon
  | .ok _ => True

theorem State.Canon.validOps {pasid hva n : Nat} (h : s.Canon) : (s.validOps pasid hva n).Canon := by
  induction n generalizing hva with
  | zero => trivial
  | succ n ih =>
    have found {r : OpFound} (e : s.readOp pasid hva (decide (0 < n)) = r) : r.Canon := e ▸ h.readOp
    unfold State.validOps
    split
    next e => exact found e
    next e => exact found e
    · split
      · trivial
      · exact ih

theorem State.Canon.validPkt {pasid nmem : Nat} {p : Packet} (h : s.Canon) : (s.validPkt pasid nmem p).Canon := by
  have found {r : Validated (List OpRecord)} (e : s.validOps pasid p.w1.toNat (fld p.w2 0 8 + 1) = r) : r.Canon := e ▸ h.validOps
  unfold State.validPkt
  split
  · exact h
  split
  · split
    · trivial
    next e => exact found e
    next e => exact found e
  · trivial

theorem State.Canon.validAll {pasid nmem : Nat} {l : List Packet} (h : s.Canon) : (s.validAll pasid nmem l).Canon := by
  induction l with
  | nil => trivial
  | cons p l ih =>
    have found {r : Validated Packet} (e : s.validPkt pasid nmem p = r) : r.Canon := e ▸ h.validPkt
    unfold State.validAll
    split
    next e => exact found e
    next e => exact found e
    · split
      · trivial
      · exact ih

theorem State.Canon.execBatchCommit {no : BitVec 14} (h : s.Canon) : Stays (execBatchCommit no s) := by
  unfold Machine.execBatchCommit
  dsimp only
  refine State.Canon.go ?_
  split
  · exact h
  next b _ =>
  have found {r : BatchRes} (e : s.validAll (s.queue no).pasid.toNat b.nmem b.seen = r) : r.Canon := e ▸ h.validAll
  split
  · exact h
  split
  next t e =>
    have ht : t.Canon := found e
    exact ht
  next t _ e =>
    have ht : t.Canon := found e
    exact ht.setQueue.stopQueue
  · exact h.setQueue

theorem State.Canon.execWqcfgWrite {no : BitVec 14} {v : BitVec 64} (h : s.Canon) : Stays (execWqcfgWrite no v s) := by
  unfold Machine.execWqcfgWrite
  dsimp only
  exact (h.ite (h.setQueue.ite (h.setQueue.unwatch.ite h.setQueue))).go

theorem State.Canon.execWqkick {no : BitVec 14} {v : BitVec 64} (h : s.Canon) : Stays (execWqkick no v s) := by
  unfold Machine.execWqkick
  dsimp only
  exact (h.ite (h.stopQueue.ite h.setQueue)).go

theorem State.Canon.execWqstatStopClear {no : BitVec 14} {v : BitVec 64} (h : s.Canon) : Stays (execWqstatStopClear no v s) := by
  unfold Machine.execWqstatStopClear
  dsimp only
  exact (h.setQueue.ite h).go

/-! ## Outcomes of Sys2Proof/Machine/Fence.lean -/

theorem State.Canon.execFenceApply {slice : Fin 12} {site : Fin 6} (h : s.Canon) : Stays (execFenceApply slice site s) := by
  unfold Machine.execFenceApply
  exact (h.fenceApply.ite h).go

theorem State.Canon.execDiefence {v : BitVec 64} (h : s.Canon) : Stays (execDiefence v s) := by
  unfold Machine.execDiefence
  exact (h.fences.ite h).go

theorem State.Canon.execDiereadmit {v : BitVec 64} (h : s.Canon) : Stays (execDiereadmit v s) := by
  unfold Machine.execDiereadmit
  exact (State.Canon.ite (h.foldl fun _ _ ht => ht.readmit) h).go

theorem State.Canon.execDieReadmitDone {site : Fin 6} {ok : Bool} (h : s.Canon) : Stays (execDieReadmitDone site ok s) := by
  unfold Machine.execDieReadmitDone
  exact (h.ite (h.updDie.ite h.updDie.logErr)).go

theorem State.Canon.execDieAsleepTimeout {site : Fin 6} {line : Nat} (h : s.Canon) : Stays (execDieAsleepTimeout site line s) := by
  unfold Machine.execDieAsleepTimeout
  refine State.Canon.go ?_
  split
  · exact h
  · split
    · exact h
    · exact h.at_.logErr.updHomes

theorem State.Canon.execDieDead {site : Fin 6} (h : s.Canon) : Stays (execDieDead site s) := by
  unfold Machine.execDieDead
  refine State.Canon.go ?_
  split
  · exact h.at_.fence
  · exact h

theorem State.Canon.execDieLinkTrainingFailed {site : Fin 6} (h : s.Canon) : Stays (execDieLinkTrainingFailed site s) := by
  unfold Machine.execDieLinkTrainingFailed
  exact (h.updDie.logErr.ite h.fence).go

theorem State.Canon.execThermalCritical {site : Fin 6} (h : s.Canon) : Stays (execThermalCritical site s) := by
  unfold Machine.execThermalCritical
  exact h.fence.go

theorem State.Canon.execFlitCrcError {k : FlitLoss} (h : s.Canon) : Stays (execFlitCrcError k s) := by
  unfold Machine.execFlitCrcError
  refine State.Canon.go ?_
  split
  · exact h
  · exact h.updHomes.logLine
  · exact h.poisonRead.logLine
  · exact h.updCore.logErr
  · exact h.suspectLine.logLine
  · split
    · exact h.updHomes
    · exact h
  · split
    · split
      · exact h
      · exact h.updHomes
    · exact h

theorem State.Canon.execResendTimeout {n : Nat} (h : s.Canon) : Stays (execResendTimeout n s) := by
  unfold Machine.execResendTimeout
  refine State.Canon.go ?_
  split
  · exact h
  · dsimp only
    split
    · exact h.at_.updHomes.logLine
    · exact h.at_.updHomes

/-! ## Outcomes of Sys2Proof/Machine/Manage.lean -/

theorem State.Canon.execFeatctlGo {v : BitVec 64} (h : s.Canon) : Stays (execFeatctlGo v s) := by
  unfold Machine.execFeatctlGo
  dsimp only
  refine State.Canon.go ?_
  split
  · exact h
  · split
    · exact h
    · exact h

theorem State.Canon.execPreempt {v : BitVec 64} (h : s.Canon) : Stays (execPreempt v s) := by
  unfold Machine.execPreempt
  refine State.Canon.go (h.ite ?_)
  split
  · exact h.noteHandle.preempt
  · exact h.noteHandle

theorem State.Canon.execResume {v : BitVec 64} (h : s.Canon) : Stays (execResume v s) := by
  unfold Machine.execResume
  refine State.Canon.go (h.ite ?_)
  split
  · exact h.noteHandle.resume
  · exact h.noteHandle

theorem State.Canon.execPlq {v : BitVec 64} (h : s.Canon) : Stays (execPlq v s) := by
  unfold Machine.execPlq
  refine State.Canon.go ?_
  split
  · exact h
  · exact h

theorem State.Canon.execPgassign {v : BitVec 64} (h : s.Canon) : Stays (execPgassign v s) := by
  unfold Machine.execPgassign
  dsimp only
  exact (h.ite (h.pgstat.ite (h.pgstat.ite h.assignPage.pgstat))).go

theorem State.Canon.loadKey {k : Nat} {v : BitVec 512} (h : s.Canon) : (s.updHomes fun g => g.loadKey k v).Canon :=
  Homes.wf_loadKey (h := s.homes) h k v

theorem State.Canon.execKeycmdLoad {v : BitVec 64} (h : s.Canon) : Stays (execKeycmdLoad v s) := by
  unfold Machine.execKeycmdLoad
  refine State.Canon.go ?_
  split
  · exact h
  · exact h.loadKey.others

theorem State.Canon.execKeycmdErase {v : BitVec 64} (h : s.Canon) : Stays (execKeycmdErase v s) := by
  unfold Machine.execKeycmdErase
  refine State.Canon.go ?_
  split
  · exact h
  · exact h.updHomes.others

theorem State.Canon.execRegisterWrite {off : Nat} {v : BitVec 64} (h : s.Canon) : Stays (execRegisterWrite off v s) := by
  unfold Machine.execRegisterWrite
  exact (h.writeReg.ite h).go

/-! ## Outcomes of Sys2Proof/Machine/Platform.lean -/

theorem State.Canon.execFabricLinkDown {port : BitVec 6} (h : s.Canon) : Stays (execFabricLinkDown port s) := by
  unfold Machine.execFabricLinkDown
  refine State.Canon.go ?_
  split
  · exact h.logErr
  · exact h.others.logErr.lostPkgs

theorem State.Canon.execFabricLinkUp {port : BitVec 6} (h : s.Canon) : Stays (execFabricLinkUp port s) := by
  unfold Machine.execFabricLinkUp
  refine State.Canon.go ?_
  split
  · exact h
  · exact h

theorem State.Canon.execRemoteRequestTimeout {q : HomeReq} (h : s.Canon) : Stays (execRemoteRequestTimeout q s) := by
  unfold Machine.execRemoteRequestTimeout
  refine State.Canon.go ?_
  split
  · exact h.loadTimeout
  · split
    · split
      · exact h.at_.loseWrite.ite h
      · exact h
    · exact h
  · exact h.accessTimeout
  · exact h.rwriteTimeout
  · exact h
  · exact h.engineTimeout
  · exact h

theorem State.Canon.execPtpMessage (h : s.Canon) : Stays (execPtpMessage s) := by
  unfold Machine.execPtpMessage
  refine State.Canon.go ?_
  split
  · exact h
  · split
    · exact h
    · exact h.draw.others

theorem State.Canon.execPtpLockLost (h : s.Canon) : Stays (execPtpLockLost s) := by
  unfold Machine.execPtpLockLost
  exact (h.at_.others.logErr.ite h).go

theorem State.Canon.execNetslotFrameBoundary (h : s.Canon) : Stays (execNetslotFrameBoundary s) := by
  unfold Machine.execNetslotFrameBoundary
  exact h.at_.others.go

theorem State.Canon.execPowerCapExceeded {above : Bool} (h : s.Canon) : Stays (execPowerCapExceeded above s) := by
  unfold Machine.execPowerCapExceeded
  exact h.others.go

theorem State.Canon.execFlashUpdateWrite {tgt : FlashTarget} {off : Nat} {v : BitVec 64} (h : s.Canon) :
    Stays (execFlashUpdateWrite tgt off v s) := by
  unfold Machine.execFlashUpdateWrite
  dsimp only
  refine State.Canon.go (h.ite ?_)
  split
  · exact h.ite h
  · exact h.ite h
  · exact h
  · exact h

theorem State.Canon.execPackageReset (s : State) : Stays (execPackageReset s) := by
  unfold Machine.execPackageReset
  dsimp only
  refine State.Canon.go ?_
  have hr : (s.draw.1.afterReset s.draw.2).Canon := State.Canon.afterReset _ _
  split
  · exact hr.others
  · exact hr.others.boot

theorem State.Canon.execBootclr {v : BitVec 64} (h : s.Canon) : Stays (execBootclr v s) := by
  unfold Machine.execBootclr
  dsimp only
  refine State.Canon.go ?_
  split
  · exact h
  · exact h

theorem State.Canon.execPowerLost (s : State) : Stays (execPowerLost s) :=
  State.Canon.go (Memory.wf_empty [] none)

theorem State.Canon.execRecoveryMailboxCommand {off : Nat} {v : BitVec 64} (h : s.Canon) : Stays (execRecoveryMailboxCommand off v s) := by
  unfold Machine.execRecoveryMailboxCommand
  refine State.Canon.go (h.ite ?_)
  refine State.Canon.ite ?_ h
  exact h.draw.others

theorem State.Canon.execAttestationNonceWrite {v : BitVec 256} (h : s.Canon) : Stays (execAttestationNonceWrite v s) := by
  unfold Machine.execAttestationNonceWrite
  refine State.Canon.go ?_
  split
  · exact h
  · exact h

/-! ## Every instruction -/

theorem State.Canon.exec (i : Instr) (h : s.Canon) : Stays (exec i s) := by
  cases i
  case add | sub | mul | mulh | mulhu | div | divu | rem | remu | and | or | xor | shl | shr | sra | slt | sltu | min | max | minu | maxu | sadd =>
    dsimp only [Machine.exec, execAdd, execSub, execMul, execMulh, execMulhu, execDiv, execDivu, execRem, execRemu, execAnd, execOr, execXor,
      execShl, execShr, execSra, execSlt, execSltu, execMin, execMax, execMinu, execMaxu, execSadd]
    exact h.binop
  case clz | ctz | popc | sext8 | sext16 | sext32 | zext8 | zext16 | zext32 | addi | andi | ori | xori | slti | shli | shri | srai | bfx =>
    dsimp only [Machine.exec, execClz, execCtz, execPopc, execSext8, execSext16, execSext32, execZext8, execZext16, execZext32, execAddi, execAndi,
      execOri, execXori, execSlti, execShli, execShri, execSrai, execBfx]
    exact h.unop
  case ldb | ldbu | ldh | ldhu | ldw | ldwu | ld =>
    dsimp only [Machine.exec, execLdb, execLdbu, execLdh, execLdhu, execLdw, execLdwu, execLd]
    exact h.loadX
  case stb | sth | stw | st =>
    dsimp only [Machine.exec, execStb, execSth, execStw, execSt]
    exact h.storeX
  case beq | bne | blt | bge | bltu | bgeu =>
    dsimp only [Machine.exec, execBeq, execBne, execBlt, execBge, execBltu, execBgeu]
    exact h.branch
  case vadd | vsub | vmul | vdiv | vmin | vmax =>
    dsimp only [Machine.exec, execVadd, execVsub, execVmul, execVdiv, execVmin, execVmax]
    exact h.vArith
  case vabs | vneg | vrcp | vrsq | vsqrt | vmov =>
    dsimp only [Machine.exec, execVabs, execVneg, execVrcp, execVrsq, execVsqrt, execVmov]
    exact h.vUnary
  case vand | vor | vxor | vnot | vshl | vshr | vsra =>
    dsimp only [Machine.exec, execVand, execVor, execVxor, execVnot, execVshl, execVshr, execVsra]
    exact h.vBits
  case vfma | vfms | vnfma =>
    dsimp only [Machine.exec, execVfma, execVfms, execVnfma]
    exact h.vFused
  case vcmpeq | vcmplt | vcmple =>
    dsimp only [Machine.exec, execVcmpeq, execVcmplt, execVcmple]
    exact h.vCompare
  case vsel | mand | mor | mnot | vcvt | vnarrow | vrsum | vramax | vscan | vperm | viota | vcompress | vexpand | vppe | vbcast | vli | vcfg |
      vrotm =>
    dsimp only [Machine.exec, execVsel, execMand, execMor, execMnot, execVcvt, execVnarrow, execVrsum, execVramax, execVscan, execVperm, execViota,
      execVcompress, execVexpand, execVppe, execVbcast, execVli, execVcfg, execVrotm]
    exact h.vecIssue
  case mpop | mfirst | vextr =>
    dsimp only [Machine.exec, execMpop, execMfirst, execVextr]
    exact h.vecToX
  case vwadd | vwmul =>
    dsimp only [Machine.exec, execVwadd, execVwmul]
    exact h.vWiden
  case vrmax | vrmin =>
    dsimp only [Machine.exec, execVrmax, execVrmin]
    exact h.vPick
  case sel => exact h.execSel
  case jalr => exact h.execJalr
  case bfi => exact h.execBfi
  case li => exact h.execLi
  case lih => exact h.execLih
  case loop => exact h.execLoop
  case qld => exact h.execQld
  case qldr => exact h.execQldr
  case qst => exact h.execQst
  case qstr => exact h.execQstr
  case rres => exact h.execRres
  case rpub => exact h.execRpub
  case rpop => exact h.execRpop
  case rpeek => exact h.execRpeek
  case rcfg => exact h.execRcfg
  case kset => exact h.execKset
  case kld => exact h.execKld
  case kst => exact h.execKst
  case push => exact h.execPush
  case shape => exact h.execShape
  case shld => exact h.execShld
  case ppld => exact h.execPpld
  case spawn => exact h.execSpawn
  case join => exact h.execJoin
  case exit => exact h.execExit
  case gbar => exact h.execGbar
  case fget => exact h.execFget
  case fput => exact h.execFput
  case freset => exact h.execFreset
  case semw => exact h.execSemw
  case sems => exact h.execSems
  case evwait => exact h.execEvwait
  case evsig => exact h.execEvsig
  case nop => exact h.execNop
  case brk => exact h.execBrk
  case time => exact h.execTime
  case vdhop => exact h.execVdhop
  case mwait => exact h.execMwait
  case trap => exact h.execTrap
  case rep => exact h.execRep
  case srd => exact h.execSrd
  case swr => exact h.execSwr
  case acq => exact h.execAcq
  case rel => exact h.execRel
  case mon => exact h.execMon
  case fence => exact h.execFence
  case wait => exact h.execWait
  case region => exact h.execRegion
  case jmp => exact h.execJmp
  case jal => exact h.execJal
  case mma => exact h.execMma
  case mmac => exact h.execMmac
  case promote => exact h.execPromote
  case drain => exact h.execDrain
  case zacc => exact h.execZacc
  case chain => exact h.execChain
  case unchain => exact h.execUnchain
  case tload => exact h.execTload
  case tgather => exact h.execTgather
  case tcvt => exact h.execTcvt
  case prefetch => exact h.execPrefetch
  case tstore => exact h.execTstore
  case gatomAdd => exact h.execGatomAdd
  case gatomFadd => exact h.execGatomFadd
  case gatomMax => exact h.execGatomMax
  case gatomMin => exact h.execGatomMin
  case gatomSwap => exact h.execGatomSwap
  case gatomCas => exact h.execGatomCas
  case migrate => exact h.execMigrate
  case scatAdd => exact h.execScatAdd
  case scatMax => exact h.execScatMax
  case scatMin => exact h.execScatMin
  case cntsnap => exact h.execCntsnap
  case rwrite => exact h.execRwrite
  case qfence => exact h.execQfence
  case semsig => exact h.execSemsig
  case semwait => exact h.execSemwait
  case commandComplete => exact h.execCommandComplete
  case qldRowArrival => exact h.execQldRowArrival
  case loadValueReturn => exact h.execLoadValueReturn
  case homeRequest => exact h.execHomeRequest
  case ownerForward => exact h.execOwnerForward
  case mwaitTimeout => exact h.execMwaitTimeout
  case redirect => exact h.execRedirect
  case forcedPublish => exact h.execForcedPublish
  case forcedPublishAck => exact h.execForcedPublishAck
  case atsCompletion => exact h.execAtsCompletion
  case atsInvalidation => exact h.execAtsInvalidation
  case atsInvalidationDone => exact h.execAtsInvalidationDone
  case pageRequestResponse => exact h.execPageRequestResponse
  case taskStart => exact h.execTaskStart
  case spawnEnqueue => exact h.execSpawnEnqueue
  case taskRetire => exact h.execTaskRetire
  case taskSquash => exact h.execTaskSquash
  case faultRecord => exact h.execFaultRecord
  case joinDeadlock => exact h.execJoinDeadlock
  case shutdownFault => exact h.execShutdownFault
  case shutdownComplete => exact h.execShutdownComplete
  case reelSample => exact h.execReelSample
  case completionReport => exact h.execCompletionReport
  case settGrant => exact h.execSettGrant
  case zeroingDone => exact h.execZeroingDone
  case settReserve => exact h.execSettReserve
  case leaseReturn => exact h.execLeaseReturn
  case scrubDone => exact h.execScrubDone
  case preemptionComplete => exact h.execPreemptionComplete
  case resumption => exact h.execResumption
  case sliceBoundary => exact h.execSliceBoundary
  case remoteWriteArrival => exact h.execRemoteWriteArrival
  case remoteWriteRefused => exact h.execRemoteWriteRefused
  case migrationPinsCleared => exact h.execMigrationPinsCleared
  case migrationPinTimeout => exact h.execMigrationPinTimeout
  case migrationAccept => exact h.execMigrationAccept
  case stubAgeExpiry => exact h.execStubAgeExpiry
  case ownerCacheInvalidation => exact h.execOwnerCacheInvalidation
  case stubAck => exact h.execStubAck
  case gatecmdGate => exact h.execGatecmdGate
  case gatecmdWake => exact h.execGatecmdWake
  case gateDone => exact h.execGateDone
  case opchain => exact h.execOpchain
  case batchBegin => exact h.execBatchBegin
  case batchCommit => exact h.execBatchCommit
  case fencePacket => exact h.execFencePacket
  case signal => exact h.execSignal
  case waitPacket => exact h.execWaitPacket
  case waitPacketSatisfied => exact h.execWaitPacketSatisfied
  case waitPacketTimeout => exact h.execWaitPacketTimeout
  case nopPacket => exact h.execNopPacket
  case kickEvent => exact h.execKickEvent
  case packetRepoll => exact h.execPacketRepoll
  case wqcfgWrite => exact h.execWqcfgWrite
  case wqkick => exact h.execWqkick
  case wqstatStopClear => exact h.execWqstatStopClear
  case featctlGo => exact h.execFeatctlGo
  case bootclr => exact h.execBootclr
  case preempt => exact h.execPreempt
  case resume => exact h.execResume
  case diefence => exact h.execDiefence
  case fenceApply => exact h.execFenceApply
  case diereadmit => exact h.execDiereadmit
  case dieReadmitDone => exact h.execDieReadmitDone
  case plq => exact h.execPlq
  case pgassign => exact h.execPgassign
  case keycmdLoad => exact h.execKeycmdLoad
  case keycmdErase => exact h.execKeycmdErase
  case flashUpdateWrite => exact h.execFlashUpdateWrite
  case registerWrite => exact h.execRegisterWrite
  case packageReset => exact .execPackageReset s
  case dieAsleepTimeout => exact h.execDieAsleepTimeout
  case dieDead => exact h.execDieDead
  case dieLinkTrainingFailed => exact h.execDieLinkTrainingFailed
  case flitCrcError => exact h.execFlitCrcError
  case resendTimeout => exact h.execResendTimeout
  case fabricLinkDown => exact h.execFabricLinkDown
  case remoteRequestTimeout => exact h.execRemoteRequestTimeout
  case ptpMessage => exact h.execPtpMessage
  case ptpLockLost => exact h.execPtpLockLost
  case netslotFrameBoundary => exact h.execNetslotFrameBoundary
  case powerCapExceeded => exact h.execPowerCapExceeded
  case thermalCritical => exact h.execThermalCritical
  case snoopResponse => exact h.execSnoopResponse
  case migrationCopyDone => exact h.execMigrationCopyDone
  case driverStartedMigration => exact h.execDriverStartedMigration
  case expansionStep => exact h.execExpansionStep
  case instructionFetchReturn => exact h.execInstructionFetchReturn
  case fabricLinkUp => exact h.execFabricLinkUp
  case powerLost => exact .execPowerLost s
  case recoveryMailboxCommand => exact h.execRecoveryMailboxCommand
  case attestationNonceWrite => exact h.execAttestationNonceWrite

/-! ## A turn and a step -/

theorem Stays.next (h : s.Canon) : Stays (.next s) := h.go

theorem Stays.fault (f : Fault) : Stays (.fault f) := fun _ e => nomatch e

theorem State.Canon.stepIssue {c : CtxRef} (h : s.Canon) : Stays (stepIssue c s) := by
  unfold Machine.stepIssue
  split
  · exact Stays.fault _
  split
  · exact h.slot.go
  split
  · exact h.missed.go
  split
  · split
    · exact h.slot.go
    · exact State.Canon.exec _ h.issued
  · exact h.issued.illegal.go

theorem State.Canon.turn (t : Turn) (h : s.Canon) : Stays (s.turn t) := by
  cases t with
  | issue c => exact h.stepIssue
  | perform c n => exact h.perform.go
  | land r e n => exact h.land.go
  | start r e =>
    unfold State.turn State.headCmd
    dsimp only
    cases ((s.core r).eng[Fin.ofNat 6 e.toNat]).head? with
    | none => exact h.go
    | some q => exact State.Canon.exec _ h.others
  | event i =>
    unfold State.turn
    dsimp only
    split
    · exact h.exec i
    · exact h.go
  | hostWrite dla size data => exact h.hostWrite.go
  | hostRead dla => exact h.hostRead.go
  | inward p via dla op => exact h.inward.go
  | inwardDone p page => exact h.inwardDone.go
  | inwardPublished p line => exact h.inwardPublished.go
  | remotePin page => exact h.remotePin.go
  | remoteUnpin page => exact h.remoteUnpin.go
  | ecc corrected u => exact h.eccError.go
  | migNoSpace page => exact h.migNoSpace.go
  | migCopyFault page => exact h.migCopyFault.go
  | replay r => exact h.replay.go
  | replaySaved id n => exact h.replay.go

theorem State.Canon.run (d : Due) (h : s.Canon) : Stays (d.run s) := by
  cases d with
  | issue c => exact h.stepIssue
  | command r e => exact h.execCommandComplete
  | zeroing i => exact h.execZeroingDone
  | scrub r => exact h.execScrubDone
  | mwait c => exact h.execMwaitTimeout
  | sample p => exact h.execReelSample
  | slice => exact h.execSliceBoundary
  | wait q => exact h.execWaitPacketTimeout
  | repoll q => exact h.execPacketRepoll
  | pins page => exact h.execMigrationPinTimeout
  | stub n => exact h.execStubAgeExpiry
  | asleep i l => exact h.execDieAsleepTimeout
  | dead i => exact h.execDieDead
  | resend n => exact h.execResendTimeout
  | reserve n => exact h.execSettReserve
  | remote q => exact h.execRemoteRequestTimeout
  | frame => exact h.execNetslotFrameBoundary
  | wake => exact h.execGateDone
  | write i n => exact h.execHomeRequest
  | fence sl i => exact h.execFenceApply

theorem State.Canon.meet {t : Nat} {x : Nat × Due} (h : s.Canon) : CanonOpt (s.meet t x) := by
  unfold State.meet
  split
  next u e =>
    split
    · exact CanonOpt.none
    · exact CanonOpt.some (h.run x.2 u e)
  · exact CanonOpt.none

theorem State.Canon.runDue {t : Nat} (h : s.Canon) : CanonOpt (s.runDue t) := by
  unfold State.runDue
  split
  · exact CanonOpt.findSome fun _ => h.meet
  · exact CanonOpt.none

theorem State.Canon.issueFaults {t : Nat} {c : CtxRef} (h : s.Canon) : CanonOpt (s.issueFaults t c) := by
  have issues {n : Nat} {u : State} (e : Machine.stepIssue c { s with now := n } = .next u) : u.Canon := h.others.stepIssue u e
  unfold State.issueFaults
  dsimp only
  split
  · exact CanonOpt.none
  split
  next u e =>
    split
    · exact CanonOpt.none
    · exact CanonOpt.some (issues e).others
  · exact CanonOpt.none

theorem State.Canon.ctxFirst {t : State} (h : s.Canon) : CanonOpt (s.ctxFirst t) :=
  CanonOpt.findSome fun _ => CanonOpt.findSome fun _ => h.issueFaults

theorem State.Canon.before {t : State} (h : s.Canon) : CanonOpt (s.before t) := by
  unfold State.before
  split
  next e => exact e ▸ h.runDue
  · split
    · exact h.ctxFirst
    · exact CanonOpt.none

theorem State.Canon.agendaTurn (h : s.Canon) : Stays s.agendaTurn := by
  unfold State.agendaTurn
  split
  · exact h.idle.go
  · exact h.others.turn _

theorem State.Canon.step (h : s.Canon) : Stays (step s) := by
  unfold Machine.step
  split
  next t e => exact (h.before.getD (h.agendaTurn t e)).go
  · exact h.agendaTurn

end Sys2Proof.Machine

open Sys2Proof Sys2Proof.Machine Sys2Proof.Spec

/-- Settles O59: each function of the model keeps the canonical form of memory, and so does each instruction, each turn of the agenda and what
goes before it. -/
theorem memoryStaysCanonical : Obligations.MemoryStaysCanonical := fun _ t h e => State.Canon.step h t e

end

section
/-! SUPPORT. The ring instructions (R84 to R88, R247 to R249): what they leave of the executing context and core, and the obligation that they
settle (O15). -/

namespace Sys2Proof.Machine

open Sys2Proof.Spec

/-! ## Updates of cores that leave the contexts -/

/-- An update of a core leaves its contexts. -/
def LeavesCtxs (f : Core → Core) : Prop := ∀ c n, (f c).ctx n = c.ctx n

theorem leavesCtxs_updRing (n : Nat) (f : RingInst → RingInst) : LeavesCtxs fun c => c.updRing n f := fun _ m => by cases m <;> rfl

theorem leavesCtxs_task (f : Task → Task) : LeavesCtxs fun c => { c with task := c.task.map f } := fun _ m => by cases m <;> rfl

theorem leavesCtxs_closed : LeavesCtxs fun c => { c with closed := true } := fun _ m => by cases m <;> rfl

theorem LeavesCtxs.comp {f g : Core → Core} (hf : LeavesCtxs f) (hg : LeavesCtxs g) : LeavesCtxs fun c => g (f c) := fun c n =>
  (hg (f c) n).trans (hf c n)

theorem State.me_updCore_leaves {f : Core → Core} (h : LeavesCtxs f) (s : State) (r : CoreRef) : (s.updCore r f).me = s.me := by
  show ((s.updCore r f).core s.cur.at_).ctx s.cur.ctx = (s.core s.cur.at_).ctx s.cur.ctx
  by_cases hr : s.cur.at_ = r
  · rw [hr, State.core_updCore, h]
  · rw [State.core_updCore_ne _ _ hr]

theorem State.updMyCore_updMyCore (s : State) (f g : Core → Core) : (s.updMyCore f).updMyCore g = s.updMyCore fun c => g (f c) := by
  simp [State.updCore, State.updDie, Die.updCore, State.updMyCore]

theorem State.updMyCore_const (s : State) (f : Core → Core) : (s.updMyCore fun _ => f s.myCore) = s.updMyCore f := by
  simp [State.updCore, State.updDie, Die.updCore, State.updMyCore, State.myCore, State.core, State.die]

theorem onlyMyCore_updMyCore (s : State) (f : Core → Core) : OnlyMyCore s (s.updMyCore f) where
  rest := by rw [State.myCore_updMyCore, State.updMyCore_const]
  memory _ := rfl
  seen := State.dieByte_updCore s s.cur.at_ f

/-- Going on is about the program counter and the REP unit of the executing context alone. -/
theorem goesOn_of_me {s u t : State} (h : u.me = s.me) (k : GoesOn u t) : GoesOn s t where
  status := k.status
  plain := h ▸ k.plain
  again := h ▸ k.again
  last := h ▸ k.last

theorem State.x_goOn (s : State) : s.goOn.me.x = s.me.x := by
  show (s.updMe Context.next).me.x = s.me.x
  rw [State.me_updMe, Context.next_eq]

theorem State.rx_of_me {s t : State} (h : t.me = s.me) (r : BitVec 5) : t.rx r = s.rx r := congrArg (Context.rd · r) h

theorem State.sideEffect_eq (s : State) :
    s.sideEffect = s.updMyCore fun c => { c with task := c.task.map fun t => { t with sideEffect := true }, closed := true } :=
  State.updMyCore_updMyCore s _ _

theorem State.me_sideEffect (s : State) : s.sideEffect.me = s.me := by
  rw [State.sideEffect_eq]
  exact State.me_updCore_leaves ((leavesCtxs_task _).comp leavesCtxs_closed) s _

theorem State.me_updTask (s : State) (r : CoreRef) (f : Task → Task) : (s.updTask r f).me = s.me :=
  State.me_updCore_leaves (leavesCtxs_task f) s r

theorem State.me_publish (s : State) (pipe ring : Nat) (r : CoreRef) (p : BitVec 9) : (s.publish pipe ring r p).me = s.me := by
  have hu : ∀ g : RingInst, (s.updCore r fun c => c.updRing ring fun _ => g).me = s.me := fun g =>
    State.me_updCore_leaves (leavesCtxs_updRing ring fun _ => g) s r
  unfold State.publish
  dsimp only
  split
  · exact hu _
  · split <;> exact hu _

/-! ## The rings of the cores -/

theorem Core.ring_updCtx (c : Core) (n : CtxName) (f : Context → Context) (m : Nat) : (c.updCtx n f).ring m = c.ring m := by
  cases n <;> rfl

theorem State.ring_goOn (s : State) (r : CoreRef) (n : Nat) : (s.goOn.core r).ring n = (s.core r).ring n := by
  show ((s.updCore s.cur.at_ fun c => c.updCtx s.cur.ctx Context.next).core r).ring n = _
  by_cases hr : r = s.cur.at_
  · rw [hr, State.core_updCore, Core.ring_updCtx]
  · rw [State.core_updCore_ne _ _ hr]

theorem State.ring_updTask (s : State) (k r : CoreRef) (f : Task → Task) (n : Nat) : ((s.updTask k f).core r).ring n = (s.core r).ring n := by
  by_cases hr : r = k
  · rw [hr]
    show ((s.updCore k _).core k).ring n = _
    rw [State.core_updCore]
    rfl
  · exact congrArg (Core.ring · n) (State.core_updCore_ne s _ hr)

theorem State.ring_sideEffect (s : State) (r : CoreRef) (n : Nat) : (s.sideEffect.core r).ring n = (s.core r).ring n := by
  rw [State.sideEffect_eq]
  by_cases hr : r = s.cur.at_
  · rw [hr]
    show ((s.updCore s.cur.at_ _).core s.cur.at_).ring n = _
    rw [State.core_updCore]
    rfl
  · exact congrArg (Core.ring · n) (State.core_updCore_ne s _ hr)

/-! ## RRES (R247) -/

/-- The executing core after RRES has handed out the next reserved slot of a ring, before its result is written. -/
def Core.handedOut (n : Nat) (c : Core) : Core :=
  { c with task := (c.task.map fun t => { t with sideEffect := true }).map fun t => t.updResv n fun v => { v with slots := handOut v.slots }
           closed := true }

theorem leavesCtxs_handedOut (n : Nat) : LeavesCtxs (Core.handedOut n) := fun _ m => by cases m <;> rfl

theorem execRres_declared {s : State} {d n : BitVec 5} {c : Nat} {rv : Resv} {x : RSlot} (m : MayIssue s (.rres d n))
    (hp : s.production s.cur.at_ n.toNat = some (c + 1)) (hv : s.resvOn s.cur.at_ n.toNat = some rv)
    (hx : (rv.slots.find? fun y => !y.handed) = some x) :
    exec (.rres d n) s = .next ((s.updMyCore (Core.handedOut n.toNat)).result d (BitVec.ofNat 64 (ptrIdx x.ptr))) := by
  have hu : (s.sideEffect.updTask s.cur.at_ fun t => t.updResv n.toNat fun v => { v with slots := handOut v.slots }) =
      s.updMyCore (Core.handedOut n.toNat) := by
    rw [State.sideEffect_eq]
    exact State.updMyCore_updMyCore s _ _
  show go (issue _ s _) = _
  rw [issue_of_may _ m]
  simp only [hp, hv, Option.bind_some, hx, hu]
  rfl

theorem Core.closed_updCtx (c : Core) (n : CtxName) (f : Context → Context) : (c.updCtx n f).closed = c.closed := by cases n <;> rfl

/-- A result of the executing context after an update of its core that leaves the contexts. -/
theorem result_updMyCore {s : State} {f : Core → Core} (hf : LeavesCtxs f) (d : BitVec 5) (v : Word) : let t := (s.updMyCore f).result d v
    GoesOn s t ∧ (d ≠ 0 → t.rx d = v) ∧ (∀ y, y ≠ d → t.rx y = s.rx y) ∧ t.myCore.closed = (f s.myCore).closed ∧ OnlyMyCore s t := by
  have me : (s.updMyCore f).me = s.me := State.me_updCore_leaves hf s _
  have sets := setsX_result (s.updMyCore f) d v
  refine ⟨goesOn_of_me me sets.goesOn, sets.value, fun y hy => (sets.others y hy).trans (State.rx_of_me me y), ?_, ?_⟩
  · rw [State.result_eq, State.myCore_updMe, Core.closed_updCtx, State.myCore_updMyCore]
  · rw [State.result_eq, State.updMyCore_updMe]
    exact onlyMyCore_updMyCore s _

/-! ## RPUB (R247) -/

/-- The state in which RPUB of the slot i publishes: the side effect is noted and the slot marked. -/
def State.publishing (s : State) (n i : Nat) : State :=
  s.sideEffect.updTask s.cur.at_ fun t => t.updResv n fun v => { v with slots := markSlot i (fun x => { x with published := true }) v.slots }

theorem State.me_publishing (s : State) (n i : Nat) : (s.publishing n i).me = s.me := (State.me_updTask _ _ _).trans (State.me_sideEffect s)

theorem State.ring_publishing (s : State) (n i : Nat) (r : CoreRef) (m : Nat) : ((s.publishing n i).core r).ring m = (s.core r).ring m :=
  (State.ring_updTask _ _ _ _ _).trans (State.ring_sideEffect s r m)

theorem State.ring_publish (s : State) (pipe ring : Nat) (r : CoreRef) (p : BitVec 9) :
    ((s.publish pipe ring r p).core r).ring ring = ((s.core r).ring ring).publish p := by
  have hu : ((s.updCore r fun c => c.updRing ring fun _ => ((s.core r).ring ring).publish p).core r).ring ring =
      ((s.core r).ring ring).publish p := by
    rw [State.core_updCore, Core.ring_updRing, if_pos rfl]
  unfold State.publish
  dsimp only
  split
  · exact hu
  · split <;> exact hu

theorem execRpub_reserved {s : State} {xa n : BitVec 5} {k : Task} {rv : Resv} {x : RSlot} (hk : s.myCore.task = some k)
    (m : MayIssue s (.rpub xa n)) (hv : s.resvOn s.cur.at_ n.toNat = some rv) (hb : s.unbound s.cur.at_ rv.inst.site = false)
    (hx : rv.slot (s.rx xa).toNat = some x)
    (hw : s.me.writesRows (slotRows rv.inst ((s.core rv.inst).ring n.toNat) (s.rx xa).toNat) s.me.seq = false) :
    exec (.rpub xa n) s = .next (((s.publishing n.toNat (s.rx xa).toNat).publish k.pipe n.toNat rv.inst x.ptr).goOn) := by
  have task : ((s.publishing n.toNat (s.rx xa).toNat).core s.cur.at_).task.map Task.pipe = some k.pipe := by
    unfold State.publishing
    rw [State.sideEffect_eq]
    show (((s.updMyCore _).updMyCore _).myCore.task).map Task.pipe = _
    rw [State.updMyCore_updMyCore, State.myCore_updMyCore]
    simp only [hk, Option.map_some, Task.updResv]
  show go (issue _ s _) = _
  rw [issue_of_may _ m]
  simp only [hv, withInst, hb, hx, hw, Bool.false_eq_true, if_false]
  unfold State.publishing at task ⊢
  rw [task]
  rfl

theorem bitAt_setFld {w : BitVec 256} {i v : Nat} (hi : i < 256) : bitAt (setFld w i 1 v) i = decide (v % 2 = 1) := by
  unfold bitAt setFld
  simp only [BitVec.getLsbD_or, BitVec.getLsbD_and, BitVec.getLsbD_not, BitVec.getLsbD_ofNat, Nat.testBit_shiftLeft]
  simp [hi, Nat.testBit_zero]

theorem RingInst.rb_advTail (g : RingInst) (n : Nat) : (g.advTail n).rb = g.rb := by
  induction n generalizing g with
  | zero => rfl
  | succ n ih =>
    unfold RingInst.advTail
    split
    · exact ih _
    · rfl

theorem RingInst.ready_publish (g : RingInst) (p : BitVec 9) : bitAt (g.publish p).rb (ptrIdx p) = !ptrPhase p := by
  unfold RingInst.publish
  rw [RingInst.rb_advTail]
  show bitAt (setFld g.rb (ptrIdx p) 1 _) (ptrIdx p) = _
  rw [bitAt_setFld (i := ptrIdx p) (fld_lt p 0 8)]
  cases ptrPhase p <;> rfl

/-! ## RPOP (R248) -/

/-- The task after RPOP of a claimed slot. -/
def Task.popped (n : Nat) (t : Task) : Task :=
  { t with sideEffect := true, claims := mapIf (fun x => x.1 == n) (fun x => (x.1, x.2 - 1)) t.claims }

/-- The executing core after RPOP of a claimed slot, before its context goes on. -/
def Core.popped (n : Nat) (c : Core) : Core :=
  { c.updRing n fun g => { g with head := g.advance g.head } with
    task := (c.task.map fun t => { t with sideEffect := true }).map fun t =>
      { t with claims := mapIf (fun x => x.1 == n) (fun x => (x.1, x.2 - 1)) t.claims }
    closed := true }

theorem leavesCtxs_popped (n : Nat) : LeavesCtxs (Core.popped n) := fun _ m => by cases m <;> rfl

/-- With no write waiting at the front end, a pop gives none a slot. -/
theorem State.popSlot_noWaiting {s : State} (h : s.fab.rwbuf = []) (r : CoreRef) (n : Nat) :
    s.popSlot r n = (s.updCore r fun c => c.updRing n fun g => { g with head := g.advance g.head }).updTask r fun t =>
      { t with claims := mapIf (fun x => x.1 == n) (fun x => (x.1, x.2 - 1)) t.claims } := by
  show State.applyWaiting _ r n s.fab.rwbuf.length = _
  rw [h]
  rfl

theorem Core.ring_popped (c : Core) (n : Nat) : (c.popped n).ring n = { c.ring n with head := (c.ring n).advance (c.ring n).head } :=
  (Core.ring_updRing c n n fun g => { g with head := g.advance g.head }).trans (if_pos rfl)

theorem execRpop_claimed {s : State} {n : BitVec 5} (m : MayIssue s (.rpop n)) (hc : s.claimsOn s.cur.at_ n.toNat ≠ 0)
    (hr : s.myCore.readsSlot n.toNat (ptrIdx (s.myCore.ring n.toNat).head) = false) (hb : s.fab.rwbuf = []) :
    exec (.rpop n) s = .next (s.updMyCore (Core.popped n.toNat)).goOn := by
  have pop : s.sideEffect.popSlot s.cur.at_ n.toNat = s.updMyCore (Core.popped n.toNat) := by
    rw [State.popSlot_noWaiting (s := s.sideEffect) hb, State.sideEffect_eq]
    show ((s.updMyCore _).updMyCore _).updMyCore _ = _
    rw [State.updMyCore_updMyCore, State.updMyCore_updMyCore]
    rfl
  show go (issue _ s _) = _
  rw [issue_of_may _ m]
  simp only [if_neg hc, hr, pop, Bool.false_eq_true, if_false]
  rfl

theorem getKey_claims (n : Nat) (l : List (Nat × Nat)) :
    getKey 0 n (mapIf (fun x => x.1 == n) (fun x => (x.1, x.2 - 1)) l) = getKey 0 n l - 1 := by
  induction l with
  | nil => rfl
  | cons x l ih =>
    obtain ⟨a, b⟩ := x
    simp only [getKey, mapIf, List.map_cons, beq_iff_eq] at ih ⊢
    by_cases h : a = n
    · rw [if_pos h, lookup, lookup, if_pos h, if_pos h]
      rfl
    · rw [if_neg h, lookup, lookup, if_neg h, if_neg h]
      exact ih

theorem State.claimsOn_of_task {t : State} {k : Task} {n : Nat} (h : t.myCore.task = some k) : t.claimsOn t.cur.at_ n = getKey 0 n k.claims := by
  show (Option.map _ t.myCore.task).getD 0 = _
  rw [h]
  rfl

theorem State.myCore_goOn (s : State) : s.goOn.myCore = s.myCore.updCtx s.cur.ctx Context.next := State.myCore_updMe s _

theorem Core.task_updCtx (c : Core) (n : CtxName) (f : Context → Context) : (c.updCtx n f).task = c.task := by cases n <;> rfl

/-! ## RPEEK and RCFG (R248, R249) -/

theorem RingInst.w1_eq (g : RingInst) :
    g.w1 = wrap (g.head.toNat + g.claim.toNat * 2 ^ 9 + g.tail.toNat * 2 ^ 18 + g.resv.toNat * 2 ^ 27) := by
  unfold RingInst.w1 wrap
  rw [← BitVec.ofInt_natCast]
  push_cast
  rfl

theorem execRpeek_consumed {s : State} {d n : BitVec 5} (m : MayIssue s (.rpeek d n)) (hc : s.consumes s.cur.at_ n.toNat = true) :
    exec (.rpeek d n) s = .next (s.result d (s.myCore.ring n.toNat).w1) := by
  show go (issue _ s _) = _
  rw [issue_of_may _ m]
  simp only [hc, if_true]
  rfl

theorem RingInst.empty_iff (g : RingInst) : g.empty = true ↔ g.head = g.claim ∧ g.claim = g.tail ∧ g.tail = g.resv := by
  simp [RingInst.empty, and_assoc]

/-- Whether RCFG takes its word 0: it is well formed where V = 1 (log 25). -/
theorem rcfg_fits (s : State) (w : Word) (n : Nat) :
    (!bitAt w 63 || ringOk w (s.rowLimit s.cur.at_) (s.myCore.otherRings n)) = true ↔
      (w.getLsbD 63 = true → ringOk w (s.rowLimit s.cur.at_) (s.myCore.otherRings n) = true) := by
  unfold bitAt
  cases w.getLsbD 63 <;> simp

theorem execRcfg_eq {s : State} {xa n : BitVec 5} (m : MayIssue s (.rcfg xa n)) : exec (.rcfg xa n) s =
    .next (if ((!bitAt (s.rx xa) 63 || ringOk (s.rx xa) (s.rowLimit s.cur.at_) (s.myCore.otherRings n.toNat)) &&
        (s.myCore.ring n.toNat).empty) = true then
      (s.updMyCore fun c => c.updRing n.toNat fun _ => RingInst.define (s.rx xa)).goOn
    else s.fault 0x04 0) := by
  show go (issue _ s _) = _
  rw [issue_of_may _ m]
  rfl

theorem Core.ring_updRing_ne (c : Core) (n : BitVec 5) (f : RingInst → RingInst) {m : Fin 32} (h : m.val ≠ n.toNat) :
    (c.updRing n.toNat f).ring m.val = c.ring m.val := by
  have hn : Fin.ofNat 32 n.toNat ≠ Fin.ofNat 32 m.val := fun e => by
    have := congrArg Fin.val e
    simp only [Fin.ofNat] at this
    omega
  rw [Core.ring_updRing, if_neg hn]

/-- The slot and ring that a ring fault names (R246). -/
theorem ringAddr_eq (i : Nat) (n : BitVec 5) : ringAddr i n.toNat = i % 256 * 32 + n.toNat := by
  rw [ringAddr, Nat.mod_eq_of_lt n.isLt]

end Sys2Proof.Machine

open Sys2Proof Sys2Proof.Machine Sys2Proof.Spec

theorem ringInstructions : Sys2Proof.Spec.RingInstructions := by
  intro s d xa n k rv x c hk
  refine ⟨fun m hp hv hx => ?_, fun m hv hb hx hw => ?_, fun m hv => ?_, fun m hc hr hb => ?_, fun m hc => ?_, fun hc => ?_⟩
  · obtain ⟨goes, value, others, closed, mine⟩ :=
      result_updMyCore (s := s) (leavesCtxs_handedOut n.toNat) d (BitVec.ofNat 64 (ptrIdx x.ptr))
    exact ⟨_, execRres_declared m hp hv hx, goes, fun hd => (value hd).trans (BitVec.ofInt_natCast ..).symm, others, closed, mine⟩
  · have me : ((s.publishing n.toNat (s.rx xa).toNat).publish k.pipe n.toNat rv.inst x.ptr).me = s.me :=
      (State.me_publish _ _ _ _ _).trans (State.me_publishing _ _ _)
    have ring : (((s.publishing n.toNat (s.rx xa).toNat).publish k.pipe n.toNat rv.inst x.ptr).goOn.core rv.inst).ring n.toNat =
        ((s.core rv.inst).ring n.toNat).publish x.ptr := by
      rw [State.ring_goOn, State.ring_publish, State.ring_publishing]
    refine ⟨_, execRpub_reserved hk m hv hb hx hw, goesOn_of_me me (goesOn_goOn _), ?_, ring, ?_, fun a => ?_⟩
    · rw [State.x_goOn, me]
    · rw [ring]
      exact RingInst.ready_publish _ _
    · rw [State.homes_goOn, State.homes_publish]
      rfl
  · show go (issue _ s _) = _
    rw [issue_of_may _ m]
    simp only [hv, ringAddr_eq]
    rfl
  · have me : (s.updMyCore (Core.popped n.toNat)).me = s.me := State.me_updCore_leaves (leavesCtxs_popped n.toNat) s _
    have mine : (s.updMyCore (Core.popped n.toNat)).goOn.myCore = (Core.popped n.toNat s.myCore).updCtx s.cur.ctx Context.next := by
      rw [State.myCore_goOn, State.myCore_updMyCore]
      rfl
    refine ⟨_, execRpop_claimed m hc hr hb, goesOn_of_me me (goesOn_goOn _), ?_, ?_, ?_, fun _ => rfl⟩
    · rw [State.x_goOn, me]
    · rw [mine, Core.ring_updCtx, Core.ring_popped]
    · have before : s.claimsOn s.cur.at_ n.toNat = getKey 0 n.toNat k.claims := State.claimsOn_of_task hk
      have after : (s.updMyCore (Core.popped n.toNat)).goOn.claimsOn s.cur.at_ n.toNat = getKey 0 n.toNat k.claims - 1 := by
        refine (State.claimsOn_of_task (k := Task.popped n.toNat k) ?_).trans (getKey_claims _ _)
        rw [mine, Core.task_updCtx]
        exact congrArg (Option.map _) (congrArg (Option.map _) hk)
      rw [before, after]
      omega
  · show go (issue _ s _) = _
    rw [issue_of_may _ m]
    simp only [hc, if_true, ringAddr_eq]
    rfl
  · exact result_of fun m => by rw [execRpeek_consumed m hc, RingInst.w1_eq]

theorem ringConfigure : Sys2Proof.Spec.RingConfigure := by
  intro s xa n m
  refine ⟨fun fits empty => ?_, fun h => ?_⟩
  · have me : (s.updMyCore fun c => c.updRing n.toNat fun _ => RingInst.define (s.rx xa)).me = s.me :=
      State.me_updCore_leaves (leavesCtxs_updRing _ _) s _
    have take := execRcfg_eq m
    rw [if_pos (Bool.and_eq_true_iff.2 ⟨(rcfg_fits s _ _).2 fits, (RingInst.empty_iff _).2 empty⟩)] at take
    refine ⟨_, take, goesOn_of_me me (goesOn_goOn _), ?_, fun j hj => ?_, ?_, ?_⟩
    · rw [State.myCore_goOn, Core.ring_updCtx, State.myCore_updMyCore, Core.ring_updRing, if_pos rfl]
      rfl
    · rw [State.myCore_goOn, Core.ring_updCtx, State.myCore_updMyCore, Core.ring_updRing_ne _ _ _ hj]
    · rw [State.x_goOn, me]
    · show OnlyMyCore s ((s.updMyCore _).updMe _)
      rw [State.updMyCore_updMe]
      exact onlyMyCore_updMyCore s _
  · rw [execRcfg_eq m, if_neg]
    intro e
    obtain ⟨fits, empty⟩ := Bool.and_eq_true_iff.1 e
    exact h ⟨(rcfg_fits s _ _).1 fits, (RingInst.empty_iff _).1 empty⟩

/-- Settles O15: what RRES, RPUB, RPOP and RPEEK do (`ringInstructions`), and RCFG (`ringConfigure`). -/
theorem rings : Obligations.Rings := ⟨ringInstructions, ringConfigure⟩
end

section
/-! SUPPORT. The lines of the die caches at their homes: what a recall, a forward and a commit of a line change, and what they leave (R92, R93,
R351). -/

namespace Sys2Proof.Machine

open Sys2Proof.Spec

/-! ## Addresses and bytes -/

theorem pageOf_of_lineOf {a l : Nat} (h : lineOf a = l) : pageOf a = linePage l := by
  unfold lineOf at h
  unfold pageOf linePage
  omega

theorem byteOf_eq {n : Nat} (w : BitVec n) (k : Nat) : byteOf w k = BitVec.ofNat 8 (w.toNat / 256 ^ k) := by
  unfold byteOf lane fld
  rw [Nat.shiftRight_eq_div_pow, Nat.pow_mul]
  exact BitVec.eq_of_toNat_eq (by simp)

theorem lineOf_mul_add {l k : Nat} (h : k < 128) : lineOf (l * 128 + k) = l := by
  unfold lineOf
  omega

theorem mul_add_mod_line {l k : Nat} (h : k < 128) : (l * 128 + k) % 128 = k := by omega

theorem Homes.noKey_commit (h : Homes) (l : Nat) (data : LineData) (page : Nat) : (h.commit l data).noKey page = h.noKey page :=
  Homes.noKey_put h _ _ _ page

/-- The bytes of a line that is committed stand at its home; the others there stay. -/
theorem Homes.byte_commit (h : Homes) (l : Nat) (data : LineData) (a : Nat) : (h.commit l data).byte a =
    if h.noKey (linePage l) = false ∧ lineOf a = l then byteOf data (a % 128) else h.byte a := by
  have base : pageOf (l * 128) = linePage l := pageOf_of_lineOf (Nat.mul_div_cancel l (by decide))
  rw [Homes.commit, Homes.byte_put, base, byteOf_eq]
  by_cases hl : lineOf a = l
  · have range : l * 128 ≤ a ∧ a < l * 128 + 128 := by unfold lineOf at hl; omega
    have off : a - l * 128 = a % 128 := by omega
    rw [pageOf_of_lineOf hl, off]
    simp [hl, range]
  · rw [if_neg, if_neg fun h => hl h.2]
    rintro ⟨-, -, lo, hi⟩
    exact hl (by unfold lineOf; omega)

/-! ## What leaves every reader's view -/

namespace ReadsAlike

variable {s t u : State}

theorem refl (s : State) : ReadsAlike s s := of_eq rfl rfl

theorem foldl {α : Type} {f : State → α → State} (h : ∀ s a, ReadsAlike s (f s a)) (l : List α) (s : State) : ReadsAlike s (l.foldl f s) :=
  foldl_keeps (P := ReadsAlike s) (fun t a ht => ht.trans (h t a)) l s (refl s)

theorem onBase (s : State) (l : Nat) : ReadsAlike s (s.onBase l) :=
  trans (mapDies s (f := fun d => { d with cores := d.cores.map fun c => c.updCtxs (Context.onBase l) }) (fun _ => rfl) fun _ => rfl)
    (updHomes _ (f := fun h => { h with watches := h.watches.map fun w => if lineOf w.dla = l then { w with by_ := none } else w })
      rfl rfl rfl rfl)

theorem carryPoison (s : State) (i : Fin 6) (l : Nat) : ReadsAlike s (s.carryPoison i l) := by
  unfold State.carryPoison
  split
  · exact updHomes s rfl rfl rfl rfl
  · exact refl s

theorem disarmDie (s : State) (i : Fin 6) (l : Nat) : ReadsAlike s (s.disarmDie i l) := updDie s i (fun _ => rfl) fun _ => rfl

end ReadsAlike

/-! ## The commit of a line -/

/-- A line of die i goes to its home: there stand its data where a key is set, and in the cache of the die stands x in its place. -/
structure LineGoes (s t : State) (i : Fin 6) (l : Nat) (data : LineData) (x : Option Moesi) : Prop where
  line : ∀ j k, (t.die j).line k = if j = i ∧ k = l then x else (s.die j).line k
  buf : ∀ j, (t.die j).buf = (s.die j).buf
  byte : ∀ a, t.homes.byte a = if s.homes.noKey (linePage l) = false ∧ lineOf a = l then byteOf data (a % 128) else s.homes.byte a
  noKey : ∀ page, t.homes.noKey page = s.homes.noKey page

theorem Die.line_setLine (d : Die) (l k : Nat) (m : Moesi) : (d.setLine l m).line k = if k = l then some m else d.line k :=
  lookup_insertKey l k m d.cache

theorem Die.line_dropLine (d : Die) (l k : Nat) : (d.dropLine l).line k = if k = l then none else d.line k := lookup_eraseKey l k d.cache

theorem lineGoes_commit {s : State} {i : Fin 6} {l : Nat} {f : Die → Die} {x : Option Moesi} (data : LineData)
    (hf : ∀ k, (f (s.die i)).line k = if k = l then x else (s.die i).line k) (hb : (f (s.die i)).buf = (s.die i).buf) :
    LineGoes s (((s.carryPoison i l).updDie i f).commitLine l data) i l data x := by
  have p := ReadsAlike.carryPoison s i l
  have die : (s.carryPoison i l).dies = s.dies := by
    unfold State.carryPoison
    split <;> rfl
  have die' : ∀ j, (s.carryPoison i l).die j = s.die j := fun j => by rw [State.die, State.die, die]
  have b := ReadsAlike.onBase (((s.carryPoison i l).updDie i f).updHomes fun h => h.commit l data) l
  refine ⟨fun j k => ?_, fun j => ?_, fun a => ?_, fun page => ?_⟩
  · rw [State.commitLine, b.line, State.die_updHomes, State.die_updDie_eq, die']
    by_cases hj : j = i
    · simp [hj, hf]
    · simp [hj]
  · rw [State.commitLine, b.buf, State.die_updHomes, State.die_updDie_eq, die']
    split
    next hj => rw [hj, hb]
    · rfl
  · rw [State.commitLine, b.byte, State.homes_updHomes, State.homes_updDie, Homes.byte_commit, p.noKey, p.byte]
  · rw [State.commitLine, b.noKey, State.homes_updHomes, State.homes_updDie, Homes.noKey_commit, p.noKey]

/-- A recall of a line that its die holds in M. -/
theorem lineGoes_recallFrom {s : State} {i : Fin 6} {l : Nat} {data : LineData} {tags : List (CtxRef × BitVec 16)}
    (h : (s.die i).line l = some (.m data tags)) : LineGoes s (s.recallFrom i l) i l data none := by
  rw [State.recallFrom, h]
  exact lineGoes_commit data (fun k => Die.line_dropLine _ l k) rfl

/-- A forward of a line that its die holds in M. -/
theorem lineGoes_forwardLine {s : State} {i : Fin 6} {l : Nat} {data : LineData} {tags : List (CtxRef × BitVec 16)}
    (h : (s.die i).line l = some (.m data tags)) : LineGoes s (s.forwardLine i l) i l data (some .o) := by
  rw [State.forwardLine, h]
  exact lineGoes_commit data (fun k => Die.line_setLine _ l k .o) rfl

/-! ## A recall of any line -/

theorem State.line_recallFrom (s : State) (i : Fin 6) (l : Nat) (j : Fin 6) (k : Nat) :
    ((s.recallFrom i l).die j).line k = if j = i ∧ k = l then none else (s.die j).line k := by
  cases h : (s.die i).line l with
  | none =>
    rw [State.recallFrom, h]
    dsimp only
    split
    next e => rw [e.1, e.2, h]
    · rfl
  | some x =>
    cases x with
    | m data tags => exact (lineGoes_recallFrom h).line j k
    | _ =>
      rw [State.recallFrom, h]
      dsimp only
      rw [State.die_updDie_eq]
      by_cases hj : j = i
      · simp [hj, Die.line_dropLine]
      · simp [hj]

theorem State.noKey_recallFrom (s : State) (i : Fin 6) (l page : Nat) : (s.recallFrom i l).homes.noKey page = s.homes.noKey page := by
  cases h : (s.die i).line l with
  | none => rw [State.recallFrom, h]
  | some x =>
    cases x with
    | m data tags => exact (lineGoes_recallFrom h).noKey page
    | _ =>
      rw [State.recallFrom, h]
      rfl

theorem State.buf_recallFrom (s : State) (i : Fin 6) (l : Nat) (j : Fin 6) : ((s.recallFrom i l).die j).buf = (s.die j).buf := by
  cases h : (s.die i).line l with
  | none => rw [State.recallFrom, h]
  | some x =>
    cases x with
    | m data tags => exact (lineGoes_recallFrom h).buf j
    | _ =>
      rw [State.recallFrom, h]
      dsimp only
      rw [State.die_updDie_eq]
      split <;> rfl

/-- A recall of another line, or of one that is not held in M, leaves a byte. -/
theorem State.byte_recallFrom_keeps {s : State} {i : Fin 6} {l a : Nat}
    (h : lineOf a = l → ∀ data tags, (s.die i).line l ≠ some (.m data tags)) : (s.recallFrom i l).homes.byte a = s.homes.byte a := by
  cases hl : (s.die i).line l with
  | none => rw [State.recallFrom, hl]
  | some x =>
    cases x with
    | m data tags => rw [(lineGoes_recallFrom hl).byte, if_neg fun e => h e.2 data tags hl]
    | _ =>
      rw [State.recallFrom, hl]
      rfl

/-- What a die's cache and its cores do not decide, a recall leaves. -/
theorem State.dieField_recallFrom {β : Type} (g : Die → β) (hl : ∀ d l, g (Die.dropLine d l) = g d)
    (hc : ∀ (d : Die) (f : Core → Core), g { d with cores := d.cores.map f } = g d) (s : State) (i : Fin 6) (l : Nat) (j : Fin 6) :
    g ((s.recallFrom i l).die j) = g (s.die j) := by
  have drop : ∀ u : State, u.dies = s.dies → g ((u.updDie i fun d => d.dropLine l).die j) = g (s.die j) := fun u hu => by
    rw [State.die_updDie_eq, State.die, State.die, hu]
    split
    · exact hl _ l
    · rfl
  cases h : (s.die i).line l with
  | none => rw [State.recallFrom, h]
  | some x =>
    cases x with
    | m data tags =>
      have poison : (s.carryPoison i l).dies = s.dies := by
        unfold State.carryPoison
        split <;> rfl
      rw [State.recallFrom, h]
      dsimp only
      rw [← drop _ poison]
      show g (Vector.map _ _)[j] = _
      rw [Fin.getElem_fin, Vector.getElem_map]
      exact hc _ _
    | _ =>
      rw [State.recallFrom, h]
      exact drop s rfl

end Sys2Proof.Machine
end

section
/-! SUPPORT. Power gating (R101, R102): what GATECMD gates and wakes, and the obligation that it settles (O46). -/

namespace Sys2Proof.Machine

open Sys2Proof.Spec

/-! ## The command's mask -/

theorem gcMask_setWidth (v : Word) {n : Nat} (h : n ≤ 32) : BitVec.ofNat n (gcMask v) = v.setWidth n := by
  refine BitVec.eq_of_toNat_eq ?_
  have d : 2 ^ n ∣ 2 ^ 32 := Nat.pow_dvd_pow 2 h
  simp only [gcMask, fld, Nat.shiftRight_zero, BitVec.toNat_ofNat, BitVec.toNat_setWidth]
  exact Nat.mod_mod_of_dvd _ d

/-! ## What is done -/

theorem execGatecmdGate_accepted {s : State} {v : Word} (ho : s.regsOpen = true) (h1 : gcOp v = 1) (hf : gcFieldsOk v = true)
    (hu : gcUnit v = 0 → s.bankGateOk (gcRef v) = true) : exec (.gatecmdGate v) s = .next ((s.gate v).gateTaken v) := by
  have unit : (gcUnit v != 0 || s.bankGateOk (gcRef v)) = true := by
    by_cases h : gcUnit v = 0
    · simp [hu h]
    · simp [h]
  show go _ = _
  simp [ho, h1, hf, unit, go]

theorem execGatecmdWake_accepted {s : State} {v : Word} (ho : s.regsOpen = true) (h2 : gcOp v = 2) (hf : gcFieldsOk v = true) :
    exec (.gatecmdWake v) s = .next ((s.wake v).gateTaken v) := by
  show go _ = _
  simp [ho, h2, hf, go]

theorem execGatecmd_refused {s : State} {v : Word} (ho : s.regsOpen = true) (hf : gcFieldsOk v = false) :
    exec (.gatecmdGate v) s = .next s.gateRefused ∧ exec (.gatecmdWake v) s = .next s.gateRefused := by
  constructor <;> show go _ = _ <;> simp [ho, hf, go]

theorem readsAlike_gateTaken (s : State) (v : Word) : ReadsAlike s (s.gateTaken v) := ReadsAlike.of_eq rfl rfl

/-! ## The banks of a strip -/

theorem State.core_updSt (s : State) (r k : CoreRef) (f : Stores → Stores) :
    (s.updSt r f).core k = if k = r then { s.core k with st := f (s.core k).st } else s.core k := by
  by_cases h : k = r
  · rw [if_pos h, h]
    exact State.core_updCore s r _
  · rw [if_neg h]
    exact State.core_updCore_ne s _ h

/-- Whether a row stands in one of some banks. -/
def inBanks (m : BitVec 16) (j : Nat) : Bool := (bankOfRow j).any (bitAt m)

theorem Stores.rows_gate (t : Stores) (m : BitVec 16) : (t.gate m).rows = t.rows.filter fun x => !inBanks m x.1 := by
  refine List.filter_congr fun x _ => ?_
  unfold inBanks
  dsimp only
  cases bankOfRow x.1 <;> rfl

/-- Rows of gated banks read 0. -/
theorem Stores.row_gate (t : Stores) (m : BitVec 16) (j : Nat) :
    getKey 0 j (t.gate m).rows = if inBanks m j = true then 0 else getKey 0 j t.rows := by
  unfold getKey
  rw [Stores.rows_gate, lookup_filter j (fun i => !inBanks m i)]
  cases inBanks m j <;> rfl

theorem inBanks_iff (m : BitVec 16) (j : Nat) : inBanks m j = true ↔ 2048 ≤ j ∧ m.getLsbD ((j - 2048) % 16) = true := by
  unfold inBanks bankOfRow bitAt
  by_cases h : j < 2048
  · simp [h]
  · simp [h, Nat.le_of_not_lt h]

/-! ## The ways of a die cache -/

/-- What a die that gates ways has done with its lines after some of them: a line that it held in M stands there still, or its data stand at
their home. -/
structure GoesHome (s t : State) (i : Fin 6) (line : Nat) (data : LineData) : Prop where
  gated : (t.die i).gated = (s.die i).gated
  noKey : t.homes.noKey (linePage line) = s.homes.noKey (linePage line)
  held : (∃ tags, (t.die i).line line = some (.m data tags)) ∨ (t.die i).line line = none ∧ ∀ k, k < 128 → t.homes.byte (line * 128 + k) = byteOf data k

theorem GoesHome.recallFrom {s t : State} {i : Fin 6} {line l : Nat} {data : LineData} (hk : s.homes.noKey (linePage line) = false)
    (h : GoesHome s t i line data) : GoesHome s (t.recallFrom i l) i line data := by
  refine ⟨?_, (State.noKey_recallFrom t i l _).trans h.noKey, ?_⟩
  · rw [State.dieField_recallFrom Die.gated (fun _ _ => rfl) (fun _ _ => rfl), h.gated]
  · have key : t.homes.noKey (linePage line) = false := h.noKey.trans hk
    by_cases hl : l = line
    · subst hl
      refine .inr ⟨by rw [State.line_recallFrom, if_pos ⟨rfl, rfl⟩], fun k hk => ?_⟩
      rcases h.held with ⟨tags, m⟩ | ⟨gone, stand⟩
      · rw [(lineGoes_recallFrom m).byte, if_pos ⟨key, lineOf_mul_add hk⟩, mul_add_mod_line hk]
      · rw [State.byte_recallFrom_keeps (fun _ data tags e => by rw [gone] at e; cases e), stand k hk]
    · have line' : ((t.recallFrom i l).die i).line line = (t.die i).line line := by
        rw [State.line_recallFrom, if_neg fun e => hl e.2.symm]
      refine h.held.imp (fun ⟨tags, m⟩ => ⟨tags, line'.trans m⟩) fun ⟨gone, stand⟩ => ⟨line'.trans gone, fun k hk => ?_⟩
      rw [State.byte_recallFrom_keeps (fun e => absurd ((lineOf_mul_add hk).symm.trans e).symm hl), stand k hk]

theorem GoesHome.disarmDie {s t : State} {i : Fin 6} {line : Nat} {data : LineData} (h : GoesHome s t i line data) (l : Nat) :
    GoesHome s (t.disarmDie i l) i line data := by
  have r := ReadsAlike.disarmDie t i l
  refine ⟨?_, (r.noKey _).trans h.noKey, ?_⟩
  · rw [← h.gated, State.disarmDie, State.die_updDie]
  · simp only [r.line, r.byte]
    exact h.held

/-- The lines that a die gives up as it gates ways. -/
def State.dropLines (s : State) (i : Fin 6) (l : List Nat) : State := l.foldl (fun s l => (s.recallFrom i l).disarmDie i l) s

theorem State.goesHome_dropLines {s : State} {i : Fin 6} {line : Nat} {data : LineData} {tags : List (CtxRef × BitVec 16)}
    (hm : (s.die i).line line = some (.m data tags)) (hk : s.homes.noKey (linePage line) = false) (l : List Nat) :
    GoesHome s (s.dropLines i l) i line data :=
  foldl_keeps (P := fun t => GoesHome s t i line data) (fun _ a ht => (ht.recallFrom hk (l := a)).disarmDie a) l s ⟨rfl, rfl, .inl ⟨tags, hm⟩⟩

theorem State.gated_dropLines (s : State) (i : Fin 6) (l : List Nat) : ((s.dropLines i l).die i).gated = (s.die i).gated :=
  foldl_keeps (P := fun t => (t.die i).gated = (s.die i).gated) (fun t a ht => by
    rw [State.disarmDie, State.die_updDie, ← ht]
    exact State.dieField_recallFrom Die.gated (fun _ _ => rfl) (fun _ _ => rfl) t i a i) l s rfl

theorem lookup_none_of_not_key {β : Type} {k : Nat} {l : List (Nat × β)} (h : k ∉ l.map Prod.fst) : lookup k l = none := by
  induction l with
  | nil => rfl
  | cons x l ih =>
    rw [List.map_cons, List.mem_cons, not_or] at h
    rw [lookup, if_neg (Ne.symm h.1), ih h.2]

theorem eq_nil_of_lookup_none {β : Type} {l : List (Nat × β)} (h : ∀ k, lookup k l = none) : l = [] := by
  cases l with
  | nil => rfl
  | cons x l =>
    have hx := h x.1
    rw [lookup, if_pos rfl] at hx
    cases hx

/-- A die that gives up every line of its cache keeps none. -/
theorem State.cache_dropLines (s : State) (i : Fin 6) : ((s.dropLines i ((s.die i).cache.map Prod.fst)).die i).cache = [] := by
  have line (t : State) (l k : Nat) : (((t.recallFrom i l).disarmDie i l).die i).line k = if k = l then none else (t.die i).line k := by
    rw [(ReadsAlike.disarmDie _ i l).line, State.line_recallFrom]
    simp
  refine eq_nil_of_lookup_none fun k => ?_
  have keep (t : State) (l : Nat) (ht : (t.die i).line k = none) : (((t.recallFrom i l).disarmDie i l).die i).line k = none := by
    rw [line, ht]
    exact ite_self _
  by_cases hk : k ∈ (s.die i).cache.map Prod.fst
  · exact foldl_gains (P := fun t => (t.die i).line k = none) keep (fun t => by rw [line, if_pos rfl]) hk s
  · exact foldl_keeps (P := fun t => (t.die i).line k = none) keep _ s (lookup_none_of_not_key hk)

theorem State.gateWays_eq {s : State} {i : Fin 6} {m : BitVec 16} (h : m ≠ 0) : s.gateWays i m =
    (s.dropLines i ((s.die i).cache.map Prod.fst)).updDie i fun d => { d with gated := d.gated ||| m, waking := d.waking &&& ~~~m } := by
  rw [State.gateWays, if_neg h]
  rfl

/-! ## The ways of a last-level cache -/

theorem getKey_insertKey {β : Type} (d v : β) (k : Nat) (l : List (Nat × β)) : getKey d k (insertKey k v l) = v := by
  rw [getKey, lookup_insertKey, if_pos rfl]
  rfl

/-! ## The end of a wake -/

theorem mem_coreIdxs (c : Fin 8) : c ∈ coreIdxs := by revert c; decide

theorem mem_allCores (r : CoreRef) : r ∈ allCores :=
  List.mem_flatMap.2 ⟨r.site, mem_sites r.site, List.mem_map.2 ⟨r.core, mem_coreIdxs r.core, rfl⟩⟩

/-- t differs from s in which banks and ways are waking. -/
structure OnlyWakes (s t : State) : Prop where
  reads : ReadsAlike s t
  fab : t.fab = s.fab
  gated : ∀ k, (t.core k).st.gated = (s.core k).st.gated
  row : ∀ k j, (t.core k).row j = (s.core k).row j

namespace OnlyWakes

variable {s t u : State}

theorem refl (s : State) : OnlyWakes s s := ⟨ReadsAlike.refl s, rfl, fun _ => rfl, fun _ _ => rfl⟩

theorem trans (h : OnlyWakes s t) (k : OnlyWakes t u) : OnlyWakes s u :=
  ⟨h.reads.trans k.reads, k.fab.trans h.fab, fun r => (k.gated r).trans (h.gated r), fun r j => (k.row r j).trans (h.row r j)⟩

theorem foldl {α : Type} {f : State → α → State} (h : ∀ s a, OnlyWakes s (f s a)) (l : List α) (s : State) : OnlyWakes s (l.foldl f s) :=
  foldl_keeps (P := OnlyWakes s) (fun t a ht => ht.trans (h t a)) l s (refl s)

theorem updSt (s : State) (r : CoreRef) {f : Stores → Stores} (hg : ∀ t, (f t).gated = t.gated) (hr : ∀ t, (f t).rows = t.rows) :
    OnlyWakes s (s.updSt r f) := by
  refine ⟨ReadsAlike.updCore s r _, rfl, fun k => ?_, fun k j => ?_⟩ <;> rw [State.core_updSt] <;> split
  · exact hg _
  · rfl
  · exact congrArg (getKey 0 j) (hr _)
  · rfl

theorem updDie (s : State) (i : Fin 6) {f : Die → Die} (hc : ∀ d, (f d).cache = d.cache) (hb : ∀ d, (f d).buf = d.buf)
    (hk : ∀ d, (f d).cores = d.cores) : OnlyWakes s (s.updDie i f) := by
  refine ⟨ReadsAlike.updDie s i hc hb, rfl, fun k => ?_, fun k j => ?_⟩ <;> rw [State.core_updDie_cores s i hk]

end OnlyWakes

/-- The machine once no bank is waking. -/
def State.coresAwake (s : State) : State := allCores.foldl (fun s r => s.updSt r fun t => { t with waking := 0 }) s

/-- The machine once no bank and no way of a die cache is waking. -/
def State.awake (s : State) : State := sites.foldl (fun s i => s.updDie i fun d => { d with waking := 0 }) s.coresAwake

theorem State.onlyWakes_coresAwake (s : State) : OnlyWakes s s.coresAwake := by
  unfold State.coresAwake
  refine OnlyWakes.foldl (fun t r => ?_) _ _
  exact OnlyWakes.updSt t r (fun _ => rfl) fun _ => rfl

theorem State.onlyWakes_awake (s : State) : OnlyWakes s s.awake := by
  refine (State.onlyWakes_coresAwake s).trans ?_
  unfold State.awake
  refine OnlyWakes.foldl (fun t i => ?_) _ _
  exact OnlyWakes.updDie t i (fun _ => rfl) (fun _ => rfl) fun _ => rfl

theorem State.waking_coresAwake (s : State) (k : CoreRef) : (s.coresAwake.core k).st.waking = 0 := by
  unfold State.coresAwake
  refine foldl_gains (P := fun t => (t.core k).st.waking = 0) (fun t r ht => ?_) (fun t => ?_) (mem_allCores k) s
  · rw [State.core_updSt]
    split
    · rfl
    · exact ht
  · rw [State.core_updSt, if_pos rfl]

theorem State.coreWaking_awake (s : State) (k : CoreRef) : (s.awake.core k).st.waking = 0 := by
  unfold State.awake
  refine foldl_keeps (P := fun t => (t.core k).st.waking = 0) (fun t i ht => ?_) sites _ (State.waking_coresAwake s k)
  rw [State.core_updDie_cores t i (f := fun d => { d with waking := 0 }) (fun _ => rfl)]
  exact ht

theorem State.dieWaking_awake (s : State) (i : Fin 6) : (s.awake.die i).waking = 0 := by
  unfold State.awake
  refine foldl_gains (P := fun t => (t.die i).waking = 0) (fun t j ht => ?_) (fun t => ?_) (mem_sites i) _
  · rw [State.die_updDie_eq]
    split
    · rfl
    · exact ht
  · rw [State.die_updDie]

/-- The machine once a GATECMD that woke units has ended, the last-level caches' ways and its registers among them. -/
def State.gateEnded (s : State) : State :=
  { s.updHomes (fun h => { h with wakingLlc := [] }) with mgmt := { s.mgmt with gateBusy := none, wakeAt := none } }

theorem OnlyWakes.gateEnded (s : State) : OnlyWakes s s.gateEnded :=
  ⟨⟨rfl, rfl, rfl, rfl, fun _ => rfl, fun _ => rfl⟩, rfl, fun _ => rfl, fun _ _ => rfl⟩

@[simp] theorem State.core_gateEnded (s : State) (r : CoreRef) : s.gateEnded.core r = s.core r := rfl
@[simp] theorem State.die_gateEnded (s : State) (i : Fin 6) : s.gateEnded.die i = s.die i := rfl

theorem execGateDone_awake {s : State} (h : s.fab.rwbuf = []) : exec .gateDone s = .next s.awake.gateEnded := by
  have hf : s.awake.fab.rwbuf.isEmpty = true := by rw [(State.onlyWakes_awake s).fab, h]; rfl
  show execGateDone s = _
  unfold execGateDone State.gateEnded State.awake State.coresAwake at *
  dsimp only
  rw [if_pos]
  · rfl
  · exact hf

/-! ## What a command gates and wakes -/

theorem State.gate_banks {s : State} {v : Word} (h : gcUnit v = 0) : s.gate v = s.updSt (gcRef v) fun t => t.gate (v.setWidth 16) := by
  rw [State.gate, h, gcMask_setWidth v (by decide)]
  rfl

theorem State.gate_ways {s : State} {v : Word} (h : gcUnit v = 1) (hm : v.setWidth 16 ≠ (0 : BitVec 16)) :
    s.gate v = (s.dropLines (gcRef v).site ((s.die (gcRef v).site).cache.map Prod.fst)).updDie (gcRef v).site fun d =>
      { d with gated := d.gated ||| v.setWidth 16, waking := d.waking &&& ~~~v.setWidth 16 } := by
  rw [State.gate, h, gcMask_setWidth v (by decide)]
  exact State.gateWays_eq hm

theorem State.gate_llc {s : State} {v : Word} (h : gcUnit v = 2) : s.gate v = s.updHomes fun g => ({ g with
    gatedLlc := insertKey (gcSlice v) (getKey 0 (gcSlice v) g.gatedLlc ||| v.setWidth 24) g.gatedLlc
    wakingLlc := insertKey (gcSlice v) (getKey 0 (gcSlice v) g.wakingLlc &&& ~~~v.setWidth 24) g.wakingLlc }).trimLlc (gcSlice v) s.fab.pkg := by
  rw [State.gate, h, gcMask_setWidth v (n := 24) (by decide)]
  rfl

theorem State.wake_banks {s : State} {v : Word} (h : gcUnit v = 0) :
    s.wake v = (s.updSt (gcRef v) fun t => t.wake (v.setWidth 16)).waking := by
  rw [State.wake, h, gcMask_setWidth v (by decide)]
  rfl

theorem State.wake_ways {s : State} {v : Word} (h : gcUnit v = 1) : s.wake v = (s.updDie (gcRef v).site fun d =>
    { d with waking := d.waking ||| (d.gated &&& v.setWidth 16), gated := d.gated &&& ~~~v.setWidth 16 }).waking := by
  rw [State.wake, h, gcMask_setWidth v (by decide)]
  rfl

theorem State.wake_llc {s : State} {v : Word} (h : gcUnit v = 2) : s.wake v = (s.updHomes fun g => { g with
    wakingLlc := insertKey (gcSlice v) (getKey 0 (gcSlice v) g.wakingLlc ||| (getKey 0 (gcSlice v) g.gatedLlc &&& v.setWidth 24)) g.wakingLlc
    gatedLlc := insertKey (gcSlice v) (getKey 0 (gcSlice v) g.gatedLlc &&& ~~~v.setWidth 24) g.gatedLlc }).waking := by
  rw [State.wake, h, gcMask_setWidth v (n := 24) (by decide)]
  rfl

@[simp] theorem State.core_gateTaken (s : State) (v : Word) (r : CoreRef) : (s.gateTaken v).core r = s.core r := rfl
@[simp] theorem State.die_gateTaken (s : State) (v : Word) (i : Fin 6) : (s.gateTaken v).die i = s.die i := rfl
@[simp] theorem State.homes_gateTaken (s : State) (v : Word) : (s.gateTaken v).homes = s.homes := rfl
@[simp] theorem State.core_waking (s : State) (r : CoreRef) : s.waking.core r = s.core r := rfl
@[simp] theorem State.die_waking (s : State) (i : Fin 6) : s.waking.die i = s.die i := rfl
@[simp] theorem State.homes_waking (s : State) : s.waking.homes = s.homes := rfl

theorem readsAlike_waking (s : State) : ReadsAlike s s.waking := ReadsAlike.of_eq rfl rfl

/-- A command has been taken: it is busy, and nothing is refused. -/
theorem State.busy_gateTaken (s : State) (v : Word) : (s.gateTaken v).mgmt.gateBusy = some v ∧ (s.gateTaken v).mgmt.gateErr = false := ⟨rfl, rfl⟩

end Sys2Proof.Machine

open Sys2Proof Sys2Proof.Machine Sys2Proof.Spec

/-- Settles O46: a gated bank loses its rows (`Stores.row_gate`), a die that gates ways gives up its lines (`State.cache_dropLines`,
`State.goesHome_dropLines`), and a wake ends for every bank and way (`State.awake`). -/
theorem powerGating : Obligations.PowerGating := by
  intro s v ho
  refine ⟨fun h1 hf hu hb => ?_, fun h1 hf hu hm => ?_, fun h1 hf hu => ?_, fun h2 hf hu => ?_, fun hf => execGatecmd_refused ho hf,
    fun h2 hf hu => ?_, fun h2 hf hu => ?_, fun hb => ?_⟩
  · refine ⟨_, execGatecmdGate_accepted ho h1 hf fun _ => hb, State.busy_gateTaken _ v, ?_, fun k j => ?_, ?_⟩
    · rw [State.core_gateTaken, State.gate_banks hu, State.core_updSt, if_pos rfl]
      rfl
    · rw [State.core_gateTaken, State.gate_banks hu, State.core_updSt]
      by_cases hk : k = gcRef v
      · rw [if_pos hk]
        refine (Stores.row_gate _ _ j).trans ?_
        simp only [inBanks_iff, hk, true_and]
        rfl
      · rw [if_neg hk, if_neg fun e => hk e.1]
    · rw [State.gate_banks hu]
      exact ((ReadsAlike.updCore s (gcRef v) _).trans (readsAlike_gateTaken _ v)).keepsMemory
  · have banks : gcUnit v = 0 → s.bankGateOk (gcRef v) = true := fun e => by rw [hu] at e; cases e
    refine ⟨_, execGatecmdGate_accepted ho h1 hf banks, State.busy_gateTaken _ v, ?_, ?_, fun line data tags hl hk k hk' => ?_⟩
    · rw [State.die_gateTaken, State.gate_ways hu hm, State.die_updDie, State.gated_dropLines]
    · rw [State.die_gateTaken, State.gate_ways hu hm, State.die_updDie]
      exact State.cache_dropLines s _
    · rw [State.homes_gateTaken, State.gate_ways hu hm, State.homes_updDie]
      have home := State.goesHome_dropLines hl hk ((s.die (gcRef v).site).cache.map Prod.fst)
      rcases home.held with ⟨tags', e⟩ | ⟨-, stand⟩
      · rw [Die.line, State.cache_dropLines] at e
        cases e
      · exact stand k hk'
  · have banks : gcUnit v = 0 → s.bankGateOk (gcRef v) = true := fun e => by rw [hu] at e; cases e
    refine ⟨_, execGatecmdGate_accepted ho h1 hf banks, State.busy_gateTaken _ v, ?_, ?_⟩
    · rw [State.homes_gateTaken, State.gate_llc hu]
      exact getKey_insertKey _ _ _ _
    · rw [State.gate_llc hu]
      refine ((ReadsAlike.updHomes s ?_ ?_ ?_ ?_).trans (readsAlike_gateTaken _ v)).keepsMemory <;> rfl
  · refine ⟨_, execGatecmdWake_accepted ho h2 hf, State.busy_gateTaken _ v, ?_, ?_⟩
    · rw [State.homes_gateTaken, State.wake_llc hu, State.homes_waking]
      exact getKey_insertKey _ _ _ _
    · rw [State.wake_llc hu]
      refine (((ReadsAlike.updHomes s ?_ ?_ ?_ ?_).trans (readsAlike_waking _)).trans (readsAlike_gateTaken _ v)).keepsMemory <;> rfl
  · refine ⟨_, execGatecmdWake_accepted ho h2 hf, State.busy_gateTaken _ v, ?_, ?_, fun k j => ?_⟩
    · rw [State.core_gateTaken, State.wake_banks hu, State.core_waking, State.core_updSt, if_pos rfl]
      rfl
    · rw [State.core_gateTaken, State.wake_banks hu, State.core_waking, State.core_updSt, if_pos rfl]
      rfl
    · rw [State.core_gateTaken, State.wake_banks hu, State.core_waking, State.core_updSt]
      split <;> rfl
  · refine ⟨_, execGatecmdWake_accepted ho h2 hf, State.busy_gateTaken _ v, ?_, ?_⟩ <;>
      rw [State.die_gateTaken, State.wake_ways hu, State.die_waking, State.die_updDie]
  · have w := (State.onlyWakes_awake s).trans (OnlyWakes.gateEnded _)
    refine ⟨_, execGateDone_awake hb, rfl, fun k => ⟨?_, w.gated k⟩, fun i => ?_, w.row, w.reads.keepsMemory⟩
    · rw [State.core_gateEnded, State.coreWaking_awake]
    · rw [State.die_gateEnded, State.dieWaking_awake]
end

section
/-! SUPPORT. Snoops and forwards (R92, R93, R351): what the queues of messages at the homes see of a step, and what a die answers to a snoop. -/

namespace Sys2Proof.Machine

open Sys2Proof.Spec

/-! ## The snoops and notes that stand at the homes -/

/-- The snoops that are due, and the notes and stubs that stand at the homes, are the same. -/
structure SameNotices (s t : State) : Prop where
  snoops : t.homes.snoops = s.homes.snoops
  notes : t.homes.notes = s.homes.notes
  stubs : t.homes.stubs = s.homes.stubs

namespace SameNotices

variable {s t u : State}

theorem refl (s : State) : SameNotices s s := ⟨rfl, rfl, rfl⟩

theorem trans (h : SameNotices s t) (k : SameNotices t u) : SameNotices s u :=
  ⟨k.snoops.trans h.snoops, k.notes.trans h.notes, k.stubs.trans h.stubs⟩

theorem foldl {α : Type} {f : State → α → State} (h : ∀ s a, SameNotices s (f s a)) (l : List α) (s : State) : SameNotices s (l.foldl f s) :=
  foldl_keeps (P := SameNotices s) (fun t a ht => ht.trans (h t a)) l s (refl s)

theorem updDie (s : State) (i : Fin 6) (f : Die → Die) : SameNotices s (s.updDie i f) := ⟨rfl, rfl, rfl⟩

theorem put (s : State) (a size w : Nat) : SameNotices s (s.updHomes fun h => h.put a size w) := by
  constructor <;> rw [State.homes_updHomes, Homes.put] <;> split <;> rfl

theorem carryPoison (s : State) (i : Fin 6) (l : Nat) : SameNotices s (s.carryPoison i l) := by
  unfold State.carryPoison
  split <;> exact ⟨rfl, rfl, rfl⟩

theorem commitLine (s : State) (l : Nat) (data : LineData) : SameNotices s (s.commitLine l data) := by
  unfold State.commitLine
  exact trans (put s (l * 128) 128 data.toNat) ⟨rfl, rfl, rfl⟩

/-- The commit of a line that a die holds, as recalls, forwards and releases do it. -/
theorem commitFrom (s : State) (i : Fin 6) (l : Nat) (f : Die → Die) (data : LineData) :
    SameNotices s (((s.carryPoison i l).updDie i f).commitLine l data) :=
  (carryPoison s i l).trans ((updDie _ i f).trans (commitLine _ l data))

theorem recallFrom (s : State) (i : Fin 6) (l : Nat) : SameNotices s (s.recallFrom i l) := by
  unfold State.recallFrom
  split
  · exact commitFrom s i l _ _
  · exact updDie s i _
  · exact refl s

theorem recallLine (s : State) (l : Nat) : SameNotices s (s.recallLine l) :=
  foldl (f := fun s k => s.recallFrom k l) (fun s k => recallFrom s k l) sites s

theorem forwardLine (s : State) (i : Fin 6) (l : Nat) : SameNotices s (s.forwardLine i l) := by
  unfold State.forwardLine
  split
  · exact commitFrom s i l _ _
  · exact updDie s i _
  · exact refl s

theorem commitCovered (s : State) (c : CtxRef) (m : BitVec 16) : SameNotices s (s.commitCovered c m) := by
  unfold State.commitCovered
  refine foldl (fun s x => ?_) _ s
  split
  · split
    · exact commitFrom s _ _ _ _
    · exact refl s
  · exact refl s

theorem touchLlc (s : State) (l : Nat) : SameNotices s (s.touchLlc l) := by
  unfold State.touchLlc
  split <;> exact ⟨rfl, rfl, rfl⟩

theorem overwrite (s : State) (p : Nat → Bool) : SameNotices s (s.overwrite p) := ⟨rfl, rfl, rfl⟩

theorem triggerAll (s : State) (l : Nat) : SameNotices s (s.triggerAll l) := by
  have dies : SameNotices s (sites.foldl (fun s i => s.triggerDie i l) s) :=
    foldl (f := fun s i => s.triggerDie i l) (fun s i => updDie s i _) sites s
  exact ⟨dies.snoops, dies.notes, dies.stubs⟩

theorem homeWrite (s : State) (a size w : Nat) : SameNotices s (s.homeWrite a size w) := by
  unfold State.homeWrite
  refine trans (recallLine s (lineOf a)) ?_
  refine trans (put _ a size w) ?_
  refine trans ?_ (triggerAll _ _)
  refine trans ?_ (overwrite _ _)
  exact touchLlc _ _

theorem unpin (s : State) (pages : List Nat) : SameNotices s (s.unpin pages) := by
  have one (t : State) (p : Nat) : SameNotices t (t.updHomes fun h => h.unpin p) := by
    constructor <;> rw [State.homes_updHomes, Homes.unpin] <;> split <;> rfl
  have all : s.unpin pages = pages.foldl (fun t p => t.updHomes fun h => h.unpin p) s := by
    induction pages generalizing s with
    | nil => rfl
    | cons p l ih => exact ih (s.updHomes fun h => h.unpin p)
  rw [all]
  exact foldl one pages s

end SameNotices

/-! ## The answer to a snoop -/

theorem Homes.snoopAt_some {h : Homes} {i : Fin 6} {l : Nat} {x : Snoop} (e : h.snoopAt i l = some x) : x.site = i ∧ x.line = l := by
  have := List.find?_some e
  simpa using this

theorem execSnoopResponse_eq {s : State} {i : Fin 6} {l : Nat} {x : Snoop} (h : s.homes.snoopAt i l = some x)
    (hl : s.homes.isLost (.inv i l) = false) : exec (.snoopResponse i l) s = .next (s.answer x) := by
  show go _ = _
  rw [h, hl]
  rfl

theorem execOwnerForward_eq {s : State} {i : Fin 6} {l : Nat} {x : Snoop} (h : s.homes.snoopAt i l = some x)
    (hl : s.homes.isLost (.inv i l) = false) (hf : x.forward.isSome = true) : exec (.ownerForward i l) s = .next (s.answer x) := by
  show go _ = _
  rw [h, hl]
  dsimp only
  rw [hf]
  rfl

/-- A snoop of the home's queue is taken from it. -/
def State.takeSnoop (s : State) (x : Snoop) : State := s.updHomes fun h => { h with snoops := h.snoops.erase x }

theorem readsAlike_takeSnoop (s : State) (x : Snoop) : ReadsAlike s (s.takeSnoop x) := ReadsAlike.updHomes s rfl rfl rfl rfl

/-- A line of die i goes to its home, once what stands between has left every reader's view. -/
theorem LineGoes.after {s t u : State} {i : Fin 6} {l : Nat} {data : LineData} {x : Option Moesi} (h : ReadsAlike s t)
    (k : LineGoes t u i l data x) : LineGoes s u i l data x :=
  ⟨fun j n => by rw [k.line, h.line], fun j => (k.buf j).trans (h.buf j), fun a => by rw [k.byte, h.noKey, h.byte],
    fun page => (k.noKey page).trans (h.noKey page)⟩

theorem LineGoes.before {s t u : State} {i : Fin 6} {l : Nat} {data : LineData} {x : Option Moesi} (k : LineGoes s t i l data x)
    (h : ReadsAlike t u) : LineGoes s u i l data x :=
  ⟨fun j n => (h.line j n).trans (k.line j n), fun j => (h.buf j).trans (k.buf j), fun a => (h.byte a).trans (k.byte a),
    fun page => (h.noKey page).trans (k.noKey page)⟩

/-- The line of one die apart, no die holds another line than before. -/
theorem LineGoes.line_of_ne {s t : State} {i : Fin 6} {l : Nat} {data : LineData} {x : Option Moesi} (h : LineGoes s t i l data x)
    (j : Fin 6) (k : Nat) (ne : ¬ (j = i ∧ k = l)) : (t.die j).line k = (s.die j).line k := by
  rw [h.line, if_neg ne]

/-- The data of a line stand at its home, whose page has a key; every other byte there is as before. -/
theorem LineGoes.atHome {s t : State} {i : Fin 6} {l : Nat} {data : LineData} {x : Option Moesi} (h : LineGoes s t i l data x)
    (key : s.homes.noKey (linePage l) = false) (a : Nat) :
    t.homes.byte a = if lineOf a = l then byteOf data (a % 128) else s.homes.byte a := by
  rw [h.byte, key]
  simp only [true_and]

/-- A die that gives up a line sends its data home. -/
theorem lineGoes_answer {s : State} {i : Fin 6} {l : Nat} {x : Snoop} {data : LineData} {tags : List (CtxRef × BitVec 16)}
    (site : x.site = i) (line : x.line = l) (none : x.forward = none) (h : (s.die i).line l = some (.m data tags)) :
    LineGoes s (s.answer x) i l data Option.none := by
  have go : LineGoes s ((s.takeSnoop x).recallFrom i l) i l data Option.none :=
    LineGoes.after (readsAlike_takeSnoop s x) (lineGoes_recallFrom (tags := tags) h)
  unfold State.answer
  rw [none, site, line]
  dsimp only
  split
  · exact go.before (ReadsAlike.disarmDie _ i l)
  · exact go

/-- An owner that forwards a line keeps it in O. -/
theorem lineGoes_answer_forward {s : State} {i : Fin 6} {l : Nat} {x : Snoop} {data : LineData} {tags : List (CtxRef × BitVec 16)}
    (h : (s.die i).line l = some (.m data tags)) : LineGoes s ((s.takeSnoop x).forwardLine i l) i l data (some .o) :=
  LineGoes.after (readsAlike_takeSnoop s x) (lineGoes_forwardLine (tags := tags) h)

theorem State.snoops_answer (s : State) (x : Snoop) : (s.answer x).homes.snoops = s.homes.snoops.erase x := by
  have taken : (s.takeSnoop x).homes.snoops = s.homes.snoops.erase x := rfl
  unfold State.answer
  dsimp only
  split
  · refine Eq.trans ?_ taken
    split
    · exact (SameNotices.forwardLine (s.takeSnoop x) x.site x.line).snoops
    · exact (SameNotices.forwardLine (s.takeSnoop x) x.site x.line).snoops
  · refine Eq.trans ?_ taken
    split
    · exact (SameNotices.recallFrom (s.takeSnoop x) x.site x.line).snoops
    · exact (SameNotices.recallFrom (s.takeSnoop x) x.site x.line).snoops

theorem State.answer_forward_self {s : State} {x : Snoop} (h : x.forward = some x.site) :
    s.answer x = (s.takeSnoop x).forwardLine x.site x.line := by
  unfold State.answer
  rw [h]
  simp [State.takeSnoop]

theorem State.answer_forward {s : State} {x : Snoop} {i : Fin 6} (h : x.forward = some i) (ne : i ≠ x.site)
    (hc : ((s.takeSnoop x).forwardLine x.site x.line).canCache i x.line = true) :
    s.answer x = ((s.takeSnoop x).forwardLine x.site x.line).updDie i fun d => d.setLine x.line .s := by
  have hc' : (i != x.site && ((s.takeSnoop x).forwardLine x.site x.line).canCache i x.line) = true := by
    rw [hc, bne_iff_ne.2 ne, Bool.and_self]
  unfold State.answer
  rw [h]
  dsimp only
  exact if_pos hc'

/-- What the ways and the number of lines decide, the forward of a line of another die leaves. -/
theorem State.canFill_forwardLine {s : State} {i j : Fin 6} (ne : j ≠ i) (l : Nat) : ((s.forwardLine i l).die j).canFill = (s.die j).canFill := by
  unfold State.forwardLine
  split
  · have poison : (s.carryPoison i l).die j = s.die j := by
      unfold State.carryPoison
      split <;> rfl
    have base (u : State) : (u.onBase l).die j = { u.die j with cores := (u.die j).cores.map fun c => c.updCtxs (Context.onBase l) } :=
      Vector.getElem_map _ _
    rw [State.commitLine, base, State.die_updHomes, State.die_updDie_ne _ _ ne, poison]
    rfl
  · rw [State.die_updDie_ne _ _ ne]
  · rfl

/-- The reader of a line that an owner keeps can cache it, if it has room for a line. -/
theorem State.canCache_of_held {s : State} {i j : Fin 6} {l : Nat} (room : (s.die j).canFill = true) (held : ((s.die i).line l).isSome = true) :
    s.canCache j l = true := by
  have any : (sites.any fun i => ((s.die i).line l).isSome) = true := List.any_eq_true.2 ⟨i, mem_sites i, held⟩
  rw [State.canCache, State.filterRoom, room, any]
  simp only [Bool.true_or, Bool.and_self, Bool.or_true]

/-- R92, R93, R351: a snoop is answered: the line goes home, and what the die and the reader then hold. -/
theorem snoopsAndForwards : Spec.SnoopsAndForwards := by
  intro s site line x data tags i at_ lost m key AtHomeNow
  obtain ⟨rfl, rfl⟩ := Homes.snoopAt_some at_
  refine ⟨fun none => ?_, fun fwd ne room => ?_, fun fwd => ?_⟩
  · have goes := lineGoes_answer rfl rfl none m
    refine ⟨_, execSnoopResponse_eq at_ lost, goes.atHome key, ?_, fun k hk => ?_, fun j hj => funext fun k => ?_, s.snoops_answer x⟩
    · rw [goes.line, if_pos ⟨rfl, rfl⟩]
    · exact goes.line_of_ne _ k fun e => hk e.2
    · exact goes.line_of_ne j k fun e => hj e.1
  · have goes := lineGoes_answer_forward (x := x) m
    have own : (((s.takeSnoop x).forwardLine x.site x.line).die x.site).line x.line = some .o := by rw [goes.line, if_pos ⟨rfl, rfl⟩]
    have room' : (((s.takeSnoop x).forwardLine x.site x.line).die i).canFill = true := (State.canFill_forwardLine ne _).trans room
    have eq := State.answer_forward fwd ne (State.canCache_of_held room' (by rw [own]; rfl))
    have line (j : Fin 6) (k : Nat) : ((s.answer x).die j).line k = if j = i ∧ k = x.line then some .s
        else (((s.takeSnoop x).forwardLine x.site x.line).die j).line k := by
      rw [eq, State.die_updDie_eq]
      by_cases hj : j = i
      · simp [hj, Die.line_setLine]
      · simp [hj]
    refine ⟨_, execOwnerForward_eq at_ lost (by rw [fwd]; rfl), fun a => ?_, ?_, ?_, fun j k hk => ?_, s.snoops_answer x⟩
    · rw [eq]
      exact goes.atHome key a
    · rw [line, if_neg fun e => ne e.1.symm, own]
    · rw [line, if_pos ⟨rfl, rfl⟩]
    · rw [line, if_neg fun e => hk e.2, goes.line_of_ne j k fun e => hk e.2]
  · have goes := lineGoes_answer_forward (x := x) m
    rw [← State.answer_forward_self fwd] at goes
    refine ⟨_, execOwnerForward_eq at_ lost (by rw [fwd]; rfl), goes.atHome key, ?_, fun k hk => ?_, fun j hj => funext fun k => ?_,
      s.snoops_answer x⟩
    · rw [goes.line, if_pos ⟨rfl, rfl⟩]
    · exact goes.line_of_ne _ k fun e => hk e.2
    · exact goes.line_of_ne j k fun e => hj e.1

end Sys2Proof.Machine
end

section
/-! SUPPORT. Forced publishes (R117, R118): a write at its home, what a commit leaves of other lines, the runs of writes and of notes that publish
together, and the obligation that they settle with the answers to snoops (O33). -/

namespace Sys2Proof.Machine

open Sys2Proof.Spec

/-! ## A write at its home -/

theorem State.line_recallLine (s : State) (l : Nat) (i : Fin 6) : ((s.recallLine l).die i).line l = none := by
  have keep (t : State) (k : Fin 6) (ht : (t.die i).line l = none) : ((t.recallFrom k l).die i).line l = none := by
    rw [State.line_recallFrom, ht]
    exact ite_self _
  exact foldl_gains (P := fun t => (t.die i).line l = none) (f := fun t k => t.recallFrom k l) keep
    (fun t => by rw [State.line_recallFrom, if_pos ⟨rfl, rfl⟩]) (mem_sites i) s

theorem State.noKey_recallLine (s : State) (l page : Nat) : (s.recallLine l).homes.noKey page = s.homes.noKey page :=
  foldl_keeps (P := fun t => t.homes.noKey page = s.homes.noKey page) (f := fun t k => t.recallFrom k l)
    (fun t k ht => by rw [State.noKey_recallFrom, ht]) sites s rfl

theorem State.buf_recallLine (s : State) (l : Nat) (i : Fin 6) : ((s.recallLine l).die i).buf = (s.die i).buf :=
  foldl_keeps (P := fun t => (t.die i).buf = (s.die i).buf) (f := fun t k => t.recallFrom k l)
    (fun t k ht => by rw [State.buf_recallFrom, ht]) sites s rfl

/-- Before a home writes, it recalls the line; a second recall finds nothing. -/
theorem State.homeWrite_recallLine (s : State) (a size w : Nat) : s.homeWrite a size w = (s.recallLine (lineOf a)).homeWrite a size w := by
  unfold State.homeWrite
  rw [State.recallLine_noCopy (s.line_recallLine (lineOf a))]

/-- The recall and the bytes apart, a buffered write that performs at its home leaves every reader's view. -/
theorem State.publishWrite_reads (s : State) (w : DieWrite) :
    ReadsAlike ((s.recallLine (lineOf w.dla)).updHomes fun h => h.put w.dla w.size w.data.toNat) (s.publishWrite w) := by
  have written := (Tidies.homeWrite (s.line_recallLine (lineOf w.dla)) w.size w.data.toNat).toReadsAlike
  rw [← State.homeWrite_recallLine] at written
  have unpinned := written.trans (Tidies.unpin _ w.pages).toReadsAlike
  unfold State.publishWrite
  dsimp only
  split
  · exact unpinned.trans (Tidies.accept _ _ _).toReadsAlike
  · exact unpinned

theorem SameNotices.publishWrite (s : State) (w : DieWrite) : SameNotices s (s.publishWrite w) := by
  have written := (SameNotices.homeWrite s w.dla w.size w.data.toNat).trans (SameNotices.unpin _ w.pages)
  unfold State.publishWrite
  dsimp only
  split
  · exact written.trans ⟨rfl, rfl, rfl⟩
  · exact written

/-! ## What a commit leaves of a line that the die does not hold -/

/-- Line l is as it was: what stands at its home, and who holds it; and so are the lists of writes. -/
structure KeepsLine (s t : State) (l : Nat) : Prop where
  line : ∀ i, (t.die i).line l = (s.die i).line l
  byte : ∀ a, lineOf a = l → t.homes.byte a = s.homes.byte a
  buf : ∀ i, (t.die i).buf = (s.die i).buf

namespace KeepsLine

variable {s t u : State} {l : Nat}

theorem refl (s : State) (l : Nat) : KeepsLine s s l := ⟨fun _ => rfl, fun _ _ => rfl, fun _ => rfl⟩

theorem trans (h : KeepsLine s t l) (k : KeepsLine t u l) : KeepsLine s u l :=
  ⟨fun i => (k.line i).trans (h.line i), fun a ha => (k.byte a ha).trans (h.byte a ha), fun i => (k.buf i).trans (h.buf i)⟩

/-- A commit of another line. -/
theorem of_lineGoes {i : Fin 6} {k : Nat} {data : LineData} {x : Option Moesi} (h : LineGoes s t i k data x) (ne : k ≠ l) : KeepsLine s t l :=
  ⟨fun j => h.line_of_ne j l fun e => ne e.2.symm, fun a ha => by rw [h.byte, if_neg fun e => ne (e.2.symm.trans ha)], h.buf⟩

end KeepsLine

theorem not_key_of_lookup_none {β : Type} {k : Nat} {l : List (Nat × β)} (h : lookup k l = none) : ∀ x ∈ l, x.1 ≠ k := by
  induction l with
  | nil => exact fun _ hx => absurd hx List.not_mem_nil
  | cons y l ih =>
    rw [lookup] at h
    split at h
    · cases h
    next ne =>
      intro x hx
      cases hx with
      | head => exact ne
      | tail _ hx => exact ih h x hx

theorem keepsLine_commitCovered {s : State} {c : CtxRef} {l : Nat} (h : (s.die c.at_.site).line l = none) (m : BitVec 16) :
    KeepsLine s (s.commitCovered c m) l := by
  unfold State.commitCovered
  refine List.foldlRecOn (motive := fun t => KeepsLine s t l) _ _ (KeepsLine.refl s l) fun t ht x hx => ?_
  split
  · split
    · exact ht.trans (KeepsLine.of_lineGoes (lineGoes_commit _ (fun k => Die.line_setLine _ x.1 k .e) rfl) (not_key_of_lookup_none h x hx))
    · exact ht
  · exact ht

/-! ## What a holder has to publish -/

/-- What a list's run holds, it holds after more rounds. -/
theorem mem_publishRun {l run : List DieWrite} {x : DieWrite} (hl : x ∈ l) (h : x ∈ run) (n : Nat) : x ∈ publishRun l run n := by
  induction n generalizing run with
  | zero => exact h
  | succ n ih => exact ih (List.mem_filter.2 ⟨hl, by simp [h]⟩)

theorem publishRun_nil (l : List DieWrite) (n : Nat) : publishRun l [] n = [] := by
  induction n with
  | zero => rfl
  | succ n ih =>
    rw [publishRun]
    simpa using ih

/-- Where a release covers but one write of a list, it covers none of the others. -/
theorem coveredRun_filter {rc : CtxRef} {ri : RelInfo} {l : List DieWrite} {w : DieWrite} (h : coveredRun rc ri l = [w]) :
    coveredRun rc ri (l.filter (· ≠ w)) = [] := by
  have none : (l.filter (· ≠ w)).filter (fun x => x.covered rc ri.mask ri.seq) = [] := by
    refine List.filter_eq_nil_iff.2 fun x hx hc => ?_
    obtain ⟨hl, ne⟩ := List.mem_filter.1 hx
    have : x ∈ coveredRun rc ri l := mem_publishRun hl (List.mem_filter.2 ⟨hl, hc⟩) _
    rw [h, List.mem_singleton] at this
    simp [this] at ne
  rw [coveredRun, none, publishRun_nil]

/-- A write of the list is published, no other: it stands at its home, no die holds its line, and its note is acknowledged. -/
structure Published (s t : State) (n : Note) (w : DieWrite) : Prop where
  byte : ∀ k, k < w.size → t.homes.byte (w.dla + k) = byteOf w.data k
  line : ∀ i, (t.die i).line (lineOf w.dla) = none
  buf : (t.die n.site).buf = (s.die n.site).buf.filter (· ≠ w)
  notes : t.homes.notes = s.homes.notes.map fun x => if x = n then { n with acked := true } else x

/-- A holder publishes at most one write, which is no release. -/
theorem State.publishNote_one {s : State} {n : Note} {w : DieWrite} (h : s.noteRun n = [w]) (hr : w.rel = none) :
    s.publishNote n = (((s.publishWrite w).updDie n.site fun d => { d with buf := d.buf.filter fun x => !([w].contains x) }).commitCovered n.ctx
      n.mask).updHomes fun x => { x with notes := mapIf (fun x => x == n) (fun x => { x with acked := true }) x.notes } := by
  unfold State.publishNote State.commitRun
  rw [h]
  dsimp only [List.foldl]
  rw [hr]
  congr 1
  funext x
  rw [Homes.noteRel, hr]

theorem State.publishNote_nil {s : State} {n : Note} (h : s.noteRun n = []) :
    s.publishNote n = ((s.updDie n.site fun d => { d with buf := d.buf.filter fun x => !(([] : List DieWrite).contains x) }).commitCovered n.ctx
      n.mask).updHomes fun x => { x with notes := mapIf (fun x => x == n) (fun x => { x with acked := true }) x.notes } := by
  unfold State.publishNote State.commitRun
  rw [h]
  rfl

theorem published_publishNote {s : State} {n : Note} {w : DieWrite} (h : s.noteRun n = [w]) (hr : w.rel = none)
    (key : s.homes.noKey (pageOf w.dla) = false) (small : w.size ≤ 8) (word : w.dla % 8 + w.size ≤ 8) :
    Published s (s.publishNote n) n w := by
  have reads := s.publishWrite_reads w
  have gone (i : Fin 6) : ((s.publishWrite w).die i).line (lineOf w.dla) = none := by
    rw [reads.line, State.die_updHomes, State.line_recallLine]
  let t := (s.publishWrite w).updDie n.site fun d => { d with buf := d.buf.filter fun x => !([w].contains x) }
  have gone' (i : Fin 6) : (t.die i).line (lineOf w.dla) = none := by
    rw [State.die_updDie_eq]
    split
    · exact gone i
    · exact gone i
  have committed := keepsLine_commitCovered (gone' n.ctx.at_.site) n.mask
  have notes : (t.commitCovered n.ctx n.mask).homes.notes = s.homes.notes :=
    ((SameNotices.publishWrite s w).trans ((SameNotices.updDie _ n.site _).trans (SameNotices.commitCovered t n.ctx n.mask))).notes
  rw [State.publishNote_one h hr]
  refine ⟨fun k hk => ?_, fun i => (committed.line i).trans (gone' i), ?_, ?_⟩
  · have hl : lineOf (w.dla + k) = lineOf w.dla := by unfold lineOf; omega
    have hp : pageOf (w.dla + k) = pageOf w.dla := by unfold pageOf; omega
    have key' : (s.recallLine (lineOf w.dla)).homes.noKey (pageOf w.dla) = false := (s.noKey_recallLine _ _).trans key
    refine (committed.byte _ hl).trans ((reads.byte _).trans ?_)
    rw [State.homes_updHomes, Homes.byte_put, if_pos ⟨key', by rw [hp, key'], by omega, by omega⟩, Nat.add_sub_cancel_left, byteOf_eq]
  · refine (committed.buf _).trans ?_
    rw [State.die_updDie]
    show ((s.publishWrite w).die n.site).buf.filter _ = _
    rw [reads.buf, State.die_updHomes, State.buf_recallLine]
    refine List.filter_congr fun x _ => ?_
    simp
  · show mapIf _ _ (t.commitCovered n.ctx n.mask).homes.notes = _
    rw [notes, mapIf]
    refine List.map_congr_left fun x _ => ?_
    by_cases e : x = n
    · simp [e]
    · simp [e]

/-- A second note of the same publish finds nothing to publish. -/
theorem Published.again {s t : State} {n : Note} {w : DieWrite} (h : Published s t n w) (word : w.dla % 8 + w.size ≤ 8)
    (hn : n.acked = false) (run : s.noteRun n = [w]) : Published s (t.publishNote n) n w := by
  have none : t.noteRun n = [] := by
    rw [State.noteRun, h.buf]
    exact coveredRun_filter run
  let u := t.updDie n.site fun d => { d with buf := d.buf.filter fun x => !(([] : List DieWrite).contains x) }
  have reads : ReadsAlike t u := ReadsAlike.updDie t n.site (fun _ => rfl) fun d => by simp
  have committed := keepsLine_commitCovered ((reads.line n.ctx.at_.site _).trans (h.line _)) n.mask
  have notes : (u.commitCovered n.ctx n.mask).homes.notes = t.homes.notes := (SameNotices.commitCovered u n.ctx n.mask).notes
  rw [State.publishNote_nil none]
  refine ⟨fun k hk => ?_, fun i => ?_, ?_, ?_⟩
  · have hl : lineOf (w.dla + k) = lineOf w.dla := by unfold lineOf; omega
    exact (committed.byte _ hl).trans ((reads.byte _).trans (h.byte k hk))
  · exact (committed.line i).trans ((reads.line i _).trans (h.line i))
  · exact (committed.buf _).trans ((reads.buf _).trans h.buf)
  · show mapIf _ _ (u.commitCovered n.ctx n.mask).homes.notes = _
    rw [notes, h.notes, mapIf, List.map_map]
    refine List.map_congr_left fun x _ => ?_
    have ne : ({ n with acked := true } : Note) ≠ n := fun e => by
      have := congrArg Note.acked e
      rw [hn] at this
      cases this
    by_cases e : x = n
    · simp [e, ne]
    · simp [e]

/-! ## The notes that publish together -/

/-- A holder whose run holds no release publishes alone. -/
theorem State.noteClosure_alone {s : State} {n : Note} (at_ : n ∈ s.homes.notes) (none : relLines (s.noteRun n) = []) (k : Nat) :
    ∀ ns : List Note, (∀ x ∈ ns, x = n) → n ∈ ns → (∀ x ∈ s.noteClosure ns k, x = n) ∧ n ∈ s.noteClosure ns k := by
  induction k with
  | zero => exact fun ns all has => ⟨all, has⟩
  | succ k ih =>
    intro ns all has
    refine ih _ (fun x hx => ?_) (List.mem_filter.2 ⟨at_, by simp [has]⟩)
    obtain ⟨-, hx⟩ := List.mem_filter.1 hx
    have alone : (ns.any fun m => (relLines (s.noteRun m)).contains x.line) = false := by
      refine List.any_eq_false.2 fun m hm => ?_
      rw [all m hm, none]
      simp
    rw [alone, Bool.or_false] at hx
    exact all x (by simpa using hx)

/-- Notes that are all the same publish one write among them. -/
theorem published_foldl {s : State} {n : Note} {w : DieWrite} {ns : List Note} (all : ∀ x ∈ ns, x = n) (has : n ∈ ns)
    (word : w.dla % 8 + w.size ≤ 8) (hn : n.acked = false) (run : s.noteRun n = [w]) (first : Published s (s.publishNote n) n w) :
    Published s (ns.foldl State.publishNote s) n w := by
  cases ns with
  | nil => cases has
  | cons m ns =>
    rw [List.foldl_cons, all m List.mem_cons_self]
    refine List.foldlRecOn (motive := fun t => Published s t n w) ns _ first fun t ht x hx => ?_
    rw [all x (List.mem_cons_of_mem _ hx)]
    exact ht.again word hn run

/-- Whether a write may perform, its run decides only through the writes that stand in it. -/
theorem State.publishOpen_congr {s : State} {l r : List DieWrite} (h : ∀ x, x ∈ l ↔ x ∈ r) (w : DieWrite) :
    s.publishOpen l w = s.publishOpen r w := by
  have any (p : DieWrite → Bool) : l.any p = r.any p := by
    rw [Bool.eq_iff_iff, List.any_eq_true, List.any_eq_true]
    simp only [h]
  unfold State.publishOpen State.atHome
  dsimp only
  rw [any]

theorem execForcedPublish_eq {s : State} {line : Nat} {n : Note} {w : DieWrite}
    (h : (s.homes.notes.find? fun x => x.line == line && x.sent.isSome && !x.acked) = some n) (run : s.noteRun n = [w]) (hr : w.rel = none)
    (open_ : s.publishOpen [w] w = true) :
    ∃ ns : List Note, (∀ x ∈ ns, x = n) ∧ n ∈ ns ∧ exec (.forcedPublish line) s = .next (ns.foldl State.publishNote s) := by
  have none : relLines (s.noteRun n) = [] := by rw [run]; simp [relLines, hr]
  obtain ⟨all, has⟩ := State.noteClosure_alone (List.mem_of_find?_eq_some h) none s.homes.notes.length [n]
    (fun x hx => List.mem_singleton.1 hx) List.mem_cons_self
  refine ⟨_, all, has, ?_⟩
  generalize hns : s.noteClosure [n] s.homes.notes.length = ns at all has ⊢
  have runs (x : DieWrite) : x ∈ ns.flatMap s.noteRun ↔ x ∈ [w] := by
    rw [List.mem_flatMap]
    refine ⟨fun ⟨m, hm, hx⟩ => ?_, fun hx => ⟨n, has, by rwa [run]⟩⟩
    rwa [all m hm, run] at hx
  have noRel : relLines (ns.flatMap s.noteRun) = [] := by
    refine List.map_eq_nil_iff.2 (List.filter_eq_nil_iff.2 fun x hx => ?_)
    rw [List.mem_singleton.1 ((runs x).1 hx), hr]
    simp
  have opens : (ns.flatMap s.noteRun).all (s.publishOpen (ns.flatMap s.noteRun)) = true := by
    refine List.all_eq_true.2 fun x hx => ?_
    rw [State.publishOpen_congr runs, List.mem_singleton.1 ((runs x).1 hx)]
    exact open_
  show go _ = _
  rw [h]
  dsimp only
  rw [hns, noRel, opens]
  rfl

/-- R117: a holder that is asked for a forced publish, and the acknowledgement. -/
theorem forcedPublishes : Spec.ForcedPublishes := by
  intro s line n w
  refine ⟨fun at_ run hr open_ key small word => ?_, _, rfl, rfl, (ReadsAlike.updHomes s rfl rfl rfl rfl).keepsMemory⟩
  obtain ⟨ns, all, has, eq⟩ := execForcedPublish_eq at_ run hr open_
  have waits : n.acked = false := by
    have := List.find?_some at_
    simp only [Bool.and_eq_true, Bool.not_eq_true'] at this
    exact this.2
  have done := published_foldl all has word waits run (published_publishNote run hr key small word)
  exact ⟨_, eq, done.byte, done.buf, done.notes⟩

end Sys2Proof.Machine

open Sys2Proof Sys2Proof.Machine Sys2Proof.Spec

/-- Settles O33: the answers to snoops (`snoopsAndForwards`) and forced publishes (`forcedPublishes`). -/
theorem snoopsAndPublishes : Obligations.SnoopsAndPublishes := ⟨snoopsAndForwards, forcedPublishes⟩
end

section
/-! SUPPORT. Redirects, time limits and instruction fetches (R96, R97, R155, R195, R209): the owner caches, and the words of memory that a fetch
returns. -/

namespace Sys2Proof.Machine

open Sys2Proof.Spec

/-! ## Redirects and time limits -/

theorem lookup_fillOwner_same (n page : Nat) (h : Home) (l : List (Nat × Home)) : lookup page (fillOwner n page h l) = some h := by
  unfold fillOwner
  split
  · rw [lookup_insertKey, if_pos rfl]
  · rw [lookup_insertKey, if_pos rfl]

/-- A cache that is not full loses nothing. -/
theorem lookup_fillOwner_other {n page p : Nat} {l : List (Nat × Home)} (h : Home) (room : l.length < n) (ne : p ≠ page) :
    lookup p (fillOwner n page h l) = lookup p l := by
  rw [fillOwner, if_pos (by simp [room]), lookup_insertKey, if_neg ne]

theorem execRedirect_die {s : State} {n : Nat} {i : Fin 6} {page : Nat} {h : Home} (at_ : s.homes.redirects[n]? = some (.die i, page, h)) :
    exec (.redirect n) s = .next ((s.updHomes fun x => { x with redirects := dropAt n x.redirects }).updDie i fun d =>
      { d with owners := fillOwner 4096 page h d.owners }) := by
  show go _ = _
  rw [at_]
  rfl

theorem execMwaitTimeout_waiting {s : State} {c : CtxRef} {tick : Nat} (h : (s.ctx c).status = .waiting (.mwait tick)) :
    exec (.mwaitTimeout c) s = .next ({ s.at_ tick with cur := c } : State).mwaitDone := by
  show go _ = _
  rw [h]
  rfl

/-- R96, R97, R209, R210: what a redirect fills, and what the end of an MWAIT does. -/
theorem redirectsAndTimeLimits : Spec.RedirectsAndTimeLimits := by
  intro s n i page h c tick
  refine ⟨fun at_ => ⟨_, execRedirect_die at_, ?_, rfl, fun room p ne => ?_, fun j ne => ?_, ?_⟩,
    fun waits => ⟨_, execMwaitTimeout_waiting waits, rfl, rfl, ?_, ?_, ?_, ?_⟩⟩
  · rw [State.die_updDie]
    exact lookup_fillOwner_same 4096 page h _
  · rw [State.die_updDie]
    exact lookup_fillOwner_other h room ne
  · exact State.die_updDie_ne _ _ ne
  · refine ReadsAlike.keepsMemory (ReadsAlike.trans (t := s.updHomes fun x => { x with redirects := dropAt n x.redirects }) ?_ ?_)
    · exact ReadsAlike.updHomes s rfl rfl rfl rfl
    · exact ReadsAlike.updDie _ i (fun _ => rfl) fun _ => rfl
  all_goals
    let u : State := { s.at_ tick with cur := c }
    have disarmed : (u.updMe fun x => { x with mon := ⟨none, false⟩ }).me = { s.ctx c with mon := ⟨none, false⟩ } := State.me_updMe u _
  · show (u.updMe _).goOn.me.mon = _
    rw [State.goOn, State.me_updMe, Context.next_eq, disarmed]
  · show (u.updMe _).goOn.me.x = _
    rw [State.x_goOn, disarmed]
  · have := goesOn_next u (fun x => { x with mon := ⟨none, false⟩ }) fun _ => ⟨rfl, rfl⟩
    show GoesOn _ ((u.updMe _).updMe Context.next)
    rw [State.updMe_updMe]
    exact goesOn_of_me (s := { s with cur := c }) (u := u) rfl this
  · have ends : ReadsAlike u u.mwaitDone := by
      refine ReadsAlike.trans (ReadsAlike.updCore u c.at_ fun k => k.updCtx c.ctx fun x => { x with mon := ⟨none, false⟩ }) ?_
      exact ReadsAlike.updCore _ c.at_ fun k => k.updCtx c.ctx Context.next
    exact (ReadsAlike.trans (s := s) (t := u) (ReadsAlike.of_eq rfl rfl) ends).keepsMemory

/-! ## The bytes of a word that is read -/

theorem bytesNat_lt (f : Nat → Byte) (a n : Nat) : bytesNat f a n < 256 ^ n := by
  induction n generalizing a with
  | zero => exact Nat.one_pos
  | succ n ih =>
    have hb := (f a).isLt
    have := ih (a + 1)
    rw [bytesNat, Nat.pow_succ']
    omega

/-- The bytes of what is read are those that were read. -/
theorem bytesNat_div (f : Nat → Byte) (a n k : Nat) (h : k < n) : BitVec.ofNat 8 (bytesNat f a n / 256 ^ k) = f (a + k) := by
  have low (b : Byte) (m : Nat) : BitVec.ofNat 8 (b.toNat + 256 * m) = b := BitVec.eq_of_toNat_eq (by
    have := b.isLt
    rw [BitVec.toNat_ofNat]
    omega)
  induction n generalizing a k with
  | zero => cases h
  | succ n ih =>
    rw [bytesNat]
    cases k with
    | zero => rw [Nat.pow_zero, Nat.div_one, low, Nat.add_zero]
    | succ k =>
      have skip : ((f a).toNat + 256 * bytesNat f (a + 1) n) / 256 = bytesNat f (a + 1) n := by
        have := (f a).isLt
        omega
      rw [Nat.pow_succ', ← Nat.div_div_eq_div_mul, skip, ih _ _ (Nat.lt_of_succ_lt_succ h), Nat.add_assoc, Nat.add_comm 1 k]

theorem byteOf_ofNat_bytesNat (f : Nat → Byte) (a n k : Nat) (h : k < n) : byteOf (BitVec.ofNat (8 * n) (bytesNat f a n)) k = f (a + k) := by
  have lt : bytesNat f a n < 2 ^ (8 * n) := by
    rw [Nat.pow_mul]
    exact bytesNat_lt f a n
  rw [byteOf_eq, BitVec.toNat_ofNat, Nat.mod_eq_of_lt lt, bytesNat_div f a n k h]

/-! ## Instruction fetches -/

/-- What decides a fetch's answer, and what the contexts and the tasks are, an accepted request leaves. -/
structure SameCtxs (s t : State) : Prop where
  reads : ReadsAlike s t
  core : ∀ r, t.core r = s.core r
  fe : t.fe = s.fe
  poisoned : ∀ l, t.homes.poisoned l = s.homes.poisoned l
  bad : ∀ i, (t.die i).badLines = (s.die i).badLines

theorem sameCtxs_accept (s : State) (i : Fin 6) (ls : List Nat) : SameCtxs s (s.accept i ls) := by
  obtain ⟨f, g, e⟩ := s.accept_eq i ls
  rw [e]
  refine ⟨ReadsAlike.updDie s i (fun _ => rfl) fun _ => rfl, State.core_updDie_cores s i fun _ => rfl, rfl, fun _ => rfl, fun j => ?_⟩
  rw [State.die_updDie_eq]
  split <;> rfl

theorem sameCtxs_touchLlc (s : State) (l : Nat) : SameCtxs s (s.touchLlc l) := by
  unfold State.touchLlc
  split
  · exact ⟨ReadsAlike.updHomes s rfl rfl rfl rfl, fun _ => rfl, rfl, fun _ => rfl, fun _ => rfl⟩
  · exact ⟨ReadsAlike.refl s, fun _ => rfl, rfl, fun _ => rfl, fun _ => rfl⟩

theorem SameCtxs.trans {s t u : State} (h : SameCtxs s t) (k : SameCtxs t u) : SameCtxs s u :=
  ⟨h.reads.trans k.reads, fun r => (k.core r).trans (h.core r), k.fe.trans h.fe, fun l => (k.poisoned l).trans (h.poisoned l),
    fun i => (k.bad i).trans (h.bad i)⟩

theorem SameCtxs.icTag {s t : State} (h : SameCtxs s t) (r : CoreRef) (hva : Nat) : t.icTag r hva = s.icTag r hva := by
  simp only [State.icTag, State.pasidOf, State.pipeOf, State.pipe?, h.core, h.fe]

/-- The state in which the home of a line has accepted a fetch of it. -/
def State.fetchAccepted (s : State) (c : CtxRef) (dla : Nat) : State := (s.accept c.at_.site [lineOf dla]).touchLlc (lineOf dla)

theorem sameCtxs_fetchAccepted (s : State) (c : CtxRef) (dla : Nat) : SameCtxs s (s.fetchAccepted c dla) :=
  (sameCtxs_accept s _ _).trans (sameCtxs_touchLlc _ _)

/-- The word of a fetch comes into the cache, and the context runs. -/
def State.fetched (s : State) (c : CtxRef) (hva : Nat) (w : CtlWord) : State :=
  (s.updCore c.at_ fun k => k.fillIcache (s.icTag c.at_ hva) w).updCtx c fun x => { x with status := .running }

theorem State.fetchFill_eq {s : State} {c : CtxRef} {hva d : Nat} (ok : s.dlaOk d = true) (routed : s.routed c.at_.site (pageOf d) = true)
    (reach : s.reachable (s.homes.slice d).pkg = true) (clear : s.readClear (some c.at_.site) (lineOf d) = true)
    (clean : s.homes.poisoned (lineOf d) = false) (good : lineOf d ∉ (s.die c.at_.site).badLines) :
    s.fetchFill c hva d = (s.fetchAccepted c d).fetched c hva (BitVec.ofNat 32 ((s.fetchAccepted c d).cohN d 4)) := by
  have same := sameCtxs_fetchAccepted s c d
  have clean' : (s.fetchAccepted c d).homes.poisoned (lineOf d) = false := (same.poisoned _).trans clean
  have good' : ((s.fetchAccepted c d).die c.at_.site).badLines.contains (lineOf d) = false := by
    rw [same.bad]
    simpa using good
  have all : ([lineOf d].all (s.readClear (some c.at_.site))) = true := by simp [clear]
  unfold State.fetchFill withReads
  rw [ok, routed, reach, all]
  simp only [Bool.not_true, Bool.or_self, Bool.false_eq_true, if_false, if_true]
  unfold State.fetchAccepted at clean' good' ⊢
  rw [clean', good']
  rfl

theorem execInstructionFetchReturn_hit {s : State} {c : CtxRef} {d hva : Nat} {asked : Option Nat}
    (waits : (s.ctx c).status = .waiting (.fetch hva asked)) (hit : s.lookupXlat (.engine c.at_ ctxEng) (s.pasidOf c.at_) hva false = .hit d) :
    exec (.instructionFetchReturn c) s = .next (s.fetchFill c hva d) := by
  show go _ = _
  rw [waits]
  dsimp only
  rw [hit]
  rfl

theorem Core.lookup_fillIcache (c : Core) (tag : Nat) (w : CtlWord) : lookup tag (c.fillIcache tag w).icache = some w := if_pos rfl

theorem Core.icache_updCtx (c : Core) (n : CtxName) (f : Context → Context) : (c.updCtx n f).icache = c.icache := by cases n <;> rfl

theorem State.core_fetched (s : State) (c : CtxRef) (hva : Nat) (w : CtlWord) :
    (s.fetched c hva w).core c.at_ =
      ((s.core c.at_).fillIcache (s.icTag c.at_ hva) w).updCtx c.ctx fun x => { x with status := .running } := by
  rw [State.fetched, State.updCtx, State.core_updCore, State.core_updCore]

/-- R155, R195, R196: the word comes as it stands in global memory, and the context runs. -/
theorem fetchReturns : Spec.FetchReturns := by
  intro s c d hva asked waits hit ok routed reach clear clean good
  have same := sameCtxs_fetchAccepted s c d
  let t := s.fetchAccepted c d
  let w : CtlWord := BitVec.ofNat 32 (t.cohN d 4)
  have core := State.core_fetched t c hva w
  have ended := execInstructionFetchReturn_hit waits hit
  rw [State.fetchFill_eq ok routed reach clear clean good] at ended
  have reads : ReadsAlike s (t.fetched c hva w) :=
    same.reads.trans ((ReadsAlike.updCore t c.at_ _).trans (ReadsAlike.updCore _ c.at_ _))
  refine ⟨_, w, ended, ?_, fun k hk => ?_, ?_, reads.keepsMemory⟩
  · have tag : (t.fetched c hva w).icTag c.at_ hva = t.icTag c.at_ hva := by
      have task : ((t.fetched c hva w).core c.at_).task = (t.core c.at_).task := by
        rw [core, Core.task_updCtx]
        rfl
      simp only [State.icTag, State.pasidOf, State.pipeOf, task]
      rfl
    rw [State.cached, tag, core, Core.icache_updCtx]
    exact Core.lookup_fillIcache _ _ w
  · exact (byteOf_ofNat_bytesNat t.cohByte d 4 k hk).trans (same.reads.cohByte _)
  · have before : (t.core c.at_).ctx c.ctx = s.ctx c := by rw [same.core]; rfl
    rw [State.ctx, core, Core.ctx_updCtx, ← before]
    rfl

end Sys2Proof.Machine
end

section
/-! SUPPORT. Translation messages (R76 to R78, R270, R372): the translation caches, completions, page requests and invalidations, and the obligation
that they settle with redirects and fetches (O34). -/

namespace Sys2Proof.Machine

open Sys2Proof.Spec

/-! ## Translation caches -/

/-- What is put into a cache is found there, where nothing else in it serves. -/
theorem find?_addXlat {p : Xlat → Bool} {x : Xlat} {l : List Xlat} (hx : p x = true) (hl : ∀ y ∈ l, p y = false) (n : Nat) :
    (addXlat n x l).find? p = some x := by
  unfold addXlat
  have sub : ∀ y ∈ (if (l.filter (· != x)).length < n then l.filter (· != x) else (l.filter (· != x)).drop 1), p y = false := fun y hy => by
    split at hy
    · exact hl y (List.mem_filter.1 hy).1
    · exact hl y (List.mem_filter.1 (List.mem_of_mem_drop hy)).1
  have none : (if (l.filter (· != x)).length < n then l.filter (· != x) else (l.filter (· != x)).drop 1).find? p = none :=
    List.find?_eq_none.2 fun y hy => by rw [sub y hy]; exact Bool.false_ne_true
  rw [List.find?_append, none, Option.none_or, List.find?_singleton, if_pos hx]

theorem State.lookupXlat_hit {s : State} {u : XlatUser} {pasid hva : Nat} {x : Xlat}
    (h : ((s.xlats u).find? fun x => x.serves pasid hva false) = some x) : s.lookupXlat u pasid hva false = .hit (x.apply hva) := by
  rw [State.lookupXlat, h]

/-- An address that is not found is served by nothing that its requester's caches hold. -/
theorem State.not_serves_of_miss {s : State} {u : XlatUser} {pasid hva : Nat} (h : ∀ d, s.lookupXlat u pasid hva false ≠ .hit d) :
    ∀ y ∈ s.xlats u, y.serves pasid hva false = false := by
  cases e : (s.xlats u).find? fun x => x.serves pasid hva false with
  | none => exact fun y hy => Bool.eq_false_iff.2 (List.find?_eq_none.1 e y hy)
  | some x => exact absurd (State.lookupXlat_hit e) (h _)

/-- The cache of an engine of a core, filled. -/
def Core.fillXlat (e : Nat) (x : Xlat) (c : Core) : Core :=
  { c with xlat := (c.xlat.filter fun y => y.1 != e) ++
      (addXlat 512 x ((c.xlat.filter fun y => y.1 == e).map Prod.snd)).map fun y => (e, y) }

/-- The cache of a die, filled. -/
def Die.fillXlat (x : Xlat) (d : Die) : Die := { d with xlat := addXlat 16384 x d.xlat }

theorem State.fillXlat_engine (s : State) (r : CoreRef) (e : Nat) (x : Xlat) :
    s.fillXlat (.engine r e) x = (s.updCore r (Core.fillXlat e x)).updDie r.site (Die.fillXlat x) := rfl

/-- The entries of an engine after its cache was filled. -/
theorem Core.filter_fillXlat (c : Core) (e : Nat) (x : Xlat) : (((c.fillXlat e x).xlat.filter fun y => y.1 == e).map Prod.snd) =
    addXlat 512 x ((c.xlat.filter fun y => y.1 == e).map Prod.snd) := by
  have none : ((c.xlat.filter fun y => y.1 != e).filter fun y => y.1 == e) = [] :=
    List.filter_eq_nil_iff.2 fun y hy he => by
      have ne := (List.mem_filter.1 hy).2
      rw [bne, he] at ne
      exact Bool.false_ne_true ne
  rw [Core.fillXlat, List.filter_append, none, List.nil_append, List.filter_map, List.map_map]
  simp [Function.comp_def]

/-- The entries of an engine after its caches were filled: its own first. -/
theorem State.xlats_fillXlat_engine (s : State) (r : CoreRef) (e : Nat) (x : Xlat) : ∃ rest,
    (s.fillXlat (.engine r e) x).xlats (.engine r e) = addXlat 512 x (((s.core r).xlat.filter fun y => y.1 == e).map Prod.snd) ++ rest := by
  refine ⟨_, congrArg (· ++ _) ?_⟩
  rw [State.fillXlat_engine, State.core_updDie_cores (f := Die.fillXlat x) _ _ (fun _ => rfl), State.core_updCore, Core.filter_fillXlat]

/-- What the caches of a requester are filled with serves its address. -/
theorem State.find?_fillXlat {s : State} {u : XlatUser} {p : Xlat → Bool} {x : Xlat} (hx : p x = true) (hl : ∀ y ∈ s.xlats u, p y = false) :
    ((s.fillXlat u x).xlats u).find? p = some x := by
  cases u with
  | engine r e =>
    obtain ⟨rest, eq⟩ := s.xlats_fillXlat_engine r e x
    rw [eq, List.find?_append, find?_addXlat hx fun y hy => hl y (List.mem_append_left _ hy)]
    rfl
  | frontEnd => exact find?_addXlat hx hl _

theorem readsAlike_fillXlat (s : State) (u : XlatUser) (x : Xlat) : ReadsAlike s (s.fillXlat u x) := by
  cases u with
  | engine r e =>
    rw [State.fillXlat_engine]
    exact (ReadsAlike.updCore s r _).trans (ReadsAlike.updDie _ r.site (fun _ => rfl) fun _ => rfl)
  | frontEnd =>
    unfold State.fillXlat
    exact ReadsAlike.updHomes s rfl rfl rfl rfl

theorem State.ats_fillXlat (s : State) (u : XlatUser) (x : Xlat) : (s.fillXlat u x).homes.ats = s.homes.ats := by cases u <;> rfl

/-- The range of 2^lg bytes that holds an address serves it. -/
theorem Xlat.serves_range (pasid hva lg dla : Nat) (wr : Bool) : (⟨pasid, hva / 2 ^ lg * 2 ^ lg, lg, dla, wr⟩ : Xlat).serves pasid hva false = true := by
  simp [Xlat.serves, Nat.mul_div_cancel _ (Nat.two_pow_pos lg)]

/-! ## Completions and page requests -/

/-- The n-th request to the host is answered. -/
def State.dropAts (s : State) (n : Nat) : State := s.updHomes fun h => { h with ats := dropAt n h.ats }

/-- The n-th page request is answered. -/
def State.dropPri (s : State) (n : Nat) : State := s.updHomes fun h => { h with pri := dropAt n h.pri }

theorem readsAlike_dropAts (s : State) (n : Nat) : ReadsAlike s (s.dropAts n) := ReadsAlike.updHomes s rfl rfl rfl rfl

theorem readsAlike_dropPri (s : State) (n : Nat) : ReadsAlike s (s.dropPri n) := ReadsAlike.updHomes s rfl rfl rfl rfl

theorem State.refuse_frame (s : State) (q : XlatReq) : ReadsAlike s (s.refuse q) ∧ (s.refuse q).dies = s.dies ∧
    (s.refuse q).homes.ats = s.homes.ats ∧ (s.refuse q).homes.pri = s.homes.pri ∧
    (s.refuse q).homes.refused = if s.awaits q then s.homes.refused ++ [q] else s.homes.refused := by
  unfold State.refuse
  split
  · exact ⟨ReadsAlike.updHomes s rfl rfl rfl rfl, rfl, rfl, rfl, rfl⟩
  · exact ⟨ReadsAlike.refl s, rfl, rfl, rfl, rfl⟩

theorem execAtsCompletion_granted {s : State} {n lg dla : Nat} {q : XlatReq} {wr : Bool} (at_ : s.homes.ats[n]? = some q) (rd : q.wr = false)
    (lo : 12 ≤ lg) (hi : lg ≤ 30) : exec (.atsCompletion n true lg dla wr) s = .next ((s.dropAts n).fillXlat q.user
      ⟨q.pasid, q.page * 4096 / 2 ^ lg * 2 ^ lg, lg, dla / 2 ^ lg * 2 ^ lg, wr⟩) := by
  show go _ = _
  rw [at_]
  dsimp only
  rw [rd, if_neg (by simp), if_neg (by omega)]
  rfl

theorem execAtsCompletion_refused {s : State} {n lg dla : Nat} {q : XlatReq} {wr : Bool} (at_ : s.homes.ats[n]? = some q) :
    exec (.atsCompletion n false lg dla wr) s = .next (if q.skip then (s.dropAts n).refuse q
      else if 512 ≤ s.homes.pri.length then s else (s.dropAts n).updHomes fun h => { h with pri := h.pri ++ [q] }) := by
  show go _ = _
  rw [at_]
  rfl

theorem execPageRequestResponse_read {s : State} {n dla : Nat} {q : XlatReq} (at_ : s.homes.pri[n]? = some q) (rd : q.wr = false) (ok : Bool) :
    exec (.pageRequestResponse n ok dla) s = .next (if ok then s.dropPri n else (s.dropPri n).refuse q) := by
  show go _ = _
  rw [at_]
  dsimp only
  rw [rd]
  rfl

/-! ## Invalidations -/

/-- What is done to one site after another is done to each. -/
theorem State.die_foldl_updDie {l : List (Fin 6)} (nodup : l.Nodup) (f : Die → Die) (s : State) (i : Fin 6) :
    (l.foldl (fun s i => s.updDie i f) s).die i = if i ∈ l then f (s.die i) else s.die i := by
  induction l generalizing s with
  | nil => simp
  | cons k l ih =>
    obtain ⟨hk, hl⟩ := List.nodup_cons.1 nodup
    rw [List.foldl_cons, ih hl, State.die_updDie_eq]
    by_cases e : i = k
    · simp [e, hk]
    · simp [e]

theorem nodup_sites : sites.Nodup := by decide

/-- The entries of a die and of its cores, without those of a range. -/
def Die.dropXlats (pasid hva lg : Nat) (d : Die) : Die :=
  { d with
    xlat := d.xlat.filter fun x => !x.inRange pasid hva lg
    cores := d.cores.map fun c => { c with xlat := c.xlat.filter fun x => !x.2.inRange pasid hva lg } }

theorem State.die_dropXlats (s : State) (pasid hva lg : Nat) (i : Fin 6) :
    (s.dropXlats pasid hva lg).die i = (s.die i).dropXlats pasid hva lg := by
  show (sites.foldl (fun s i => s.updDie i (Die.dropXlats pasid hva lg)) s).die i = _
  rw [State.die_foldl_updDie nodup_sites, if_pos (mem_sites i)]

theorem readsAlike_dropXlats (s : State) (pasid hva lg : Nat) : ReadsAlike s (s.dropXlats pasid hva lg) := by
  have dies : ReadsAlike s (sites.foldl (fun s i => s.updDie i (Die.dropXlats pasid hva lg)) s) :=
    ReadsAlike.foldl (f := fun s i => s.updDie i (Die.dropXlats pasid hva lg)) (fun s i => ReadsAlike.updDie s i (fun _ => rfl) fun _ => rfl) sites s
  refine dies.trans (u := s.dropXlats pasid hva lg) ?_
  exact ReadsAlike.updHomes (f := fun h => { h with feXlat := h.feXlat.filter fun x => !x.inRange pasid hva lg }) _ rfl rfl rfl rfl

theorem State.homes_foldl_updDie (l : List (Fin 6)) (f : Die → Die) (s : State) : (l.foldl (fun s i => s.updDie i f) s).homes = s.homes :=
  foldl_keeps (P := fun t => t.homes = s.homes) (f := fun s i => s.updDie i f) (fun _ _ ht => ht) l s rfl

theorem State.homes_dropXlats (s : State) (pasid hva lg : Nat) :
    (s.dropXlats pasid hva lg).homes = { s.homes with feXlat := s.homes.feXlat.filter fun x => !x.inRange pasid hva lg } := by
  have dies := State.homes_foldl_updDie sites (Die.dropXlats pasid hva lg) s
  exact congrArg (fun h : Homes => { h with feXlat := h.feXlat.filter fun x => !x.inRange pasid hva lg }) dies

theorem State.allXlats_dropXlats (s : State) (pasid hva lg : Nat) :
    (s.dropXlats pasid hva lg).allXlats = s.allXlats.filter fun x => !x.inRange pasid hva lg := by
  have core (i : Fin 6) (c : Fin 8) : ((s.dropXlats pasid hva lg).core ⟨i, c⟩).xlat =
      (s.core ⟨i, c⟩).xlat.filter fun x => !x.2.inRange pasid hva lg := by
    show ((s.dropXlats pasid hva lg).die i).cores[c].xlat = _
    rw [State.die_dropXlats]
    exact congrArg Core.xlat (Vector.getElem_map _ _)
  simp only [State.allXlats, State.homes_dropXlats, core, State.die_dropXlats, Die.dropXlats, List.filter_append, List.filter_flatMap,
    List.filter_map, Function.comp_def]

/-- An invalidation, with the accesses that were translated in what it removes. -/
def State.invalOf (s : State) (pasid hva lg : Nat) : Inval :=
  ⟨pasid, hva, lg, s.usesOf ⟨pasid, hva, lg, s.allXlats.filter fun x => x.inRange pasid hva lg⟩⟩

theorem execAtsInvalidation_room {s : State} {pasid hva lg : Nat} (room : s.homes.invals.length < 32) :
    exec (.atsInvalidation pasid hva lg) s = .next ((s.dropXlats pasid hva lg).updHomes fun h =>
      { h with invals := h.invals ++ [s.invalOf pasid hva lg] }) := by
  show go _ = _
  rw [if_neg (show ¬ invalMax ≤ _ from Nat.not_le.2 room)]
  rfl

theorem execAtsInvalidationDone_eq {s : State} {n : Nat} {v : Inval} (at_ : s.homes.invals[n]? = some v) :
    exec (.atsInvalidationDone n) s = .next (if v.uses.any s.inUse then s else s.updHomes fun h => { h with invals := dropAt n h.invals }) := by
  show go _ = _
  rw [at_]
  rfl

/-- R76 to R78, R270, R372: completions, page requests and invalidations. -/
theorem translationMessages : Spec.TranslationMessages := by
  intro s n q lg dla pasid hva wr v
  refine ⟨fun at_ rd lo hi miss => ?_, fun at_ skip room => ?_, fun at_ skip full => ?_, fun at_ skip => ?_, fun at_ rd => ?_, fun at_ rd => ?_,
    fun room => ?_, fun at_ => ⟨fun unused => ?_, fun used => ?_⟩⟩
  · have filled := State.find?_fillXlat (s := s.dropAts n) (u := q.user)
      (Xlat.serves_range q.pasid (q.page * 4096) lg (dla / 2 ^ lg * 2 ^ lg) wr) (State.not_serves_of_miss miss)
    exact ⟨_, execAtsCompletion_granted at_ rd lo hi, State.lookupXlat_hit filled, State.ats_fillXlat _ _ _,
      ((readsAlike_dropAts s n).trans (readsAlike_fillXlat _ _ _)).keepsMemory⟩
  · refine ⟨_, execAtsCompletion_refused at_, ?_⟩
    rw [skip, if_neg Bool.false_ne_true, if_neg (Nat.not_le.2 room)]
    exact ⟨rfl, rfl, rfl, ((readsAlike_dropAts s n).trans (ReadsAlike.updHomes _ rfl rfl rfl rfl)).keepsMemory⟩
  · rw [execAtsCompletion_refused at_, skip, if_neg Bool.false_ne_true, if_pos full]
  · obtain ⟨reads, dies, ats, pri, -⟩ := (s.dropAts n).refuse_frame q
    refine ⟨_, execAtsCompletion_refused at_, ?_⟩
    rw [skip, if_pos rfl]
    exact ⟨ats, pri, dies, ((readsAlike_dropAts s n).trans reads).keepsMemory⟩
  · exact ⟨_, execPageRequestResponse_read at_ rd true, rfl, rfl, rfl, (readsAlike_dropPri s n).keepsMemory⟩
  · obtain ⟨reads, dies, -, pri, refused⟩ := (s.dropPri n).refuse_frame q
    exact ⟨_, execPageRequestResponse_read at_ rd false, pri, refused, dies, ((readsAlike_dropPri s n).trans reads).keepsMemory⟩
  · refine ⟨_, execAtsInvalidation_room room, s.allXlats_dropXlats pasid hva lg, ⟨s.invalOf pasid hva lg, ?_, rfl, rfl, rfl⟩, ?_⟩
    · rw [State.homes_updHomes, State.homes_dropXlats]
    · exact ((readsAlike_dropXlats s pasid hva lg).trans (ReadsAlike.updHomes _ rfl rfl rfl rfl)).keepsMemory
  · rw [execAtsInvalidationDone_eq at_, if_neg]
    · rfl
    · simpa using unused
  · rw [execAtsInvalidationDone_eq at_, if_pos]
    simpa using used

end Sys2Proof.Machine

open Sys2Proof Sys2Proof.Machine Sys2Proof.Spec

/-- Settles O34: redirects and time limits (`redirectsAndTimeLimits`), instruction fetches (`fetchReturns`), and the messages of translation
(`translationMessages`). -/
theorem fetchesAndTranslations : Obligations.FetchesAndTranslations := ⟨redirectsAndTimeLimits, fetchReturns, translationMessages⟩
end

section
/-! SUPPORT. The refutation of O31. `Spec.ReleasePerformsAtHome` says that a wide release that performs at its home leaves its die holding the line
in M. In the states that the steps reach, the lines of a die's cache stand in the order of their numbers, and the commit of a covered line replaces
its entry. The statement is about every state, and where the lines stand out of order the commit puts a second entry of the line in front: a cache
with room for one more line is then full, the die cannot hold the line of the release, and the release is written at its home instead. -/

namespace Sys2Proof.Machine

open Sys2Proof.Spec

/-! ## The counterexample -/

/-- The release: it writes a word of line 64, with the scope of its package, and covers the accesses of class 2 before it. -/
def wideRelease : DieWrite :=
  ⟨⟨⟨0, 0⟩, .load⟩, 9, 4, 0x2000, 8, 6, some ⟨2, 4, 9⟩, [], [], none, 0, 0, none, 0, 0, none, 0, none⟩

/-- A cache whose lines stand out of order: line 517, which holds a write that the release covers, after line 519. -/
def unsortedCache (n : Nat) : List (Nat × Moesi) := (519, .e) :: (517, .m 0 [(⟨⟨0, 0⟩, .load⟩, 4)]) :: List.replicate n (519, .e)

/-- The die: its list holds the release, one of its ways is awake, and its cache holds n + 2 lines out of order. -/
def Die.crowd (n : Nat) (d : Die) : Die := { d with buf := [wideRelease], cache := unsortedCache n, gated := 0x7FFF }

def crowded (n : Nat) : State := State.reset.updDie 0 (Die.crowd n)

theorem die_crowded (n : Nat) : (crowded n).die 0 = (State.reset.die 0).crowd n := State.die_updDie _ _ _

theorem die_crowded_ne (n : Nat) {j : Fin 6} (h : j ≠ 0) : (crowded n).die j = State.reset.die j := State.die_updDie_ne _ _ h

theorem homes_crowded (n : Nat) : (crowded n).homes = State.reset.homes := rfl

theorem length_unsortedCache (n : Nat) : (unsortedCache n).length = n + 2 := by
  rw [unsortedCache, List.length_cons, List.length_cons, List.length_replicate]

/-- Its lines are 517 and 519. -/
theorem mem_unsortedCache {n : Nat} {x : Nat × Moesi} (h : x ∈ unsortedCache n) : x.1 = 519 ∨ x.1 = 517 := by
  rw [unsortedCache, List.mem_cons, List.mem_cons] at h
  obtain rfl | rfl | h := h
  · exact .inl rfl
  · exact .inr rfl
  · rw [List.eq_of_mem_replicate h]
    exact .inl rfl

theorem lookup_unsortedCache (n : Nat) : lookup 64 (unsortedCache n) = none := by
  refine lookup_none_of_not_key fun h => ?_
  obtain ⟨x, hx, e⟩ := List.mem_map.1 h
  have := mem_unsortedCache hx
  omega

theorem cache_reset (j : Fin 6) : (State.reset.die j).cache = [] := by
  rw [State.die, Fin.getElem_fin]
  exact congrArg Die.cache (Vector.getElem_replicate _)

theorem line_crowded (n : Nat) (j : Fin 6) : ((crowded n).die j).line 64 = none := by
  by_cases h : j = 0
  · rw [h, die_crowded]
    exact lookup_unsortedCache n
  · rw [die_crowded_ne n h, Die.line, cache_reset]
    rfl

/-- One way is awake. -/
theorem awakeWays_crowd (n : Nat) : ((State.reset.die 0).crowd n).awakeWays = 1 := by
  show 16 - popNat (0x7FFF ||| (State.reset.die 0).waking).toNat 16 = 1
  decide +kernel

theorem canFill_crowd (n : Nat) : ((State.reset.die 0).crowd n).canFill = decide (n + 2 < 16384) := by
  rw [Die.canFill, awakeWays_crowd, Nat.one_mul]
  show decide ((unsortedCache n).length < 16384) = _
  rw [length_unsortedCache]

/-- No line that a die holds has its home where line 64 has. -/
theorem filterUsed_crowded (n : Nat) : (crowded n).filterUsed ((crowded n).homes.curHome (linePage 64)) = 0 := by
  have none : ((sites.flatMap fun i => ((crowded n).die i).cache.map Prod.fst).filter fun l =>
      (crowded n).homes.curHome (linePage l) == (crowded n).homes.curHome (linePage 64)) = [] := by
    refine List.filter_eq_nil_iff.2 fun l hl => ?_
    obtain ⟨i, -, hl⟩ := List.mem_flatMap.1 hl
    obtain ⟨x, hx, rfl⟩ := List.mem_map.1 hl
    by_cases h : i = 0
    · rw [h, die_crowded] at hx
      obtain e | e := mem_unsortedCache hx
      · rw [e, homes_crowded]
        decide +kernel
      · rw [e, homes_crowded]
        decide +kernel
    · rw [die_crowded_ne n h, cache_reset] at hx
      cases hx
  rw [State.filterUsed, none]
  rfl

theorem canCache_crowded {n : Nat} (h : n + 2 < 16384) : (crowded n).canCache 0 64 = true := by
  rw [State.canCache, die_crowded, canFill_crowd, decide_eq_true h, State.filterRoom, filterUsed_crowded]
  simp

/-- The request of the release stands at its home, which can take it. -/
theorem atHome_crowded {n : Nat} (h : n + 2 < 16384) : AtHome (crowded n) 0 wideRelease.dla := by
  refine ⟨?_, ?_, ?_, ?_, ?_, ?_, ?_, canCache_crowded h⟩
  · rw [die_crowded]
    show 0 ∉ (State.reset.die 0).relayed
    decide +kernel
  · rw [State.sendTo, die_crowded]
    show (lookup 0 (State.reset.die 0).owners).getD (birthHome 0) = State.reset.homes.curHome 0
    decide +kernel
  · show State.reset.pageLocal 0 = true
    decide +kernel
  · show State.reset.homes.held 0 = false
    decide +kernel
  · show State.reset.homes.snoopDue 64 = false
    decide +kernel
  · show State.reset.llcStall 64 = false
    decide +kernel
  · rw [die_crowded]
    show (0x7FFF#16 == BitVec.allOnes 16) = false
    decide

/-! ## What the release does -/

/-- The commit of a line that a die holds leaves but the die's cache and cores. -/
theorem State.die_commitFrom (s : State) (i : Fin 6) (l : Nat) (f : Die → Die) (data : LineData) :
    (((s.carryPoison i l).updDie i f).commitLine l data).die i =
      { f (s.die i) with cores := (f (s.die i)).cores.map fun c => c.updCtxs (Context.onBase l) } := by
  have poison : (s.carryPoison i l).die i = s.die i := by
    unfold State.carryPoison
    split <;> rfl
  have base (u : State) : (u.onBase l).die i = { u.die i with cores := (u.die i).cores.map fun c => c.updCtxs (Context.onBase l) } :=
    Vector.getElem_map _ _
  rw [State.commitLine, base, State.die_updHomes, State.die_updDie, poison]

/-- The commit of line 517 puts a second entry of the line in front. -/
theorem die_commitCovered_crowded (n : Nat) : ∃ cores, ((crowded n).commitCovered ⟨⟨0, 0⟩, .load⟩ 4).die 0 =
    { (State.reset.die 0).crowd n with cache := (517, .e) :: unsortedCache n, cores := cores } := by
  have cache : ((crowded n).die 0).cache = unsortedCache n := by rw [die_crowded]; rfl
  have covers : coversTags ⟨⟨0, 0⟩, .load⟩ 4 [(⟨⟨0, 0⟩, .load⟩, 4)] = true := by decide
  have committed := (crowded n).die_commitFrom 0 517 (fun d => d.setLine 517 .e) 0
  unfold State.commitCovered
  dsimp only
  rw [cache, unsortedCache, List.foldl_cons, List.foldl_cons]
  dsimp only
  rw [if_pos covers]
  generalize (((crowded n).carryPoison 0 517).updDie 0 fun d => d.setLine 517 .e).commitLine 517 0 = t at committed ⊢
  refine ⟨_, Eq.trans ?_ (committed.trans (by rw [die_crowded]; rfl))⟩
  refine congrArg (State.die · 0) (List.foldlRecOn (motive := fun u => u = t) _ _ rfl fun u hu x hx => ?_)
  rw [List.eq_of_mem_replicate hx, hu]

theorem State.relPerforms_wide {s : State} {w : DieWrite} {ri : RelInfo} {line : Nat} (h : w.rel = some ri) (wide : 2 ≤ ri.scope.toNat) :
    s.relPerforms line w = s.commitCovered w.ctx ri.mask := by
  rw [State.relPerforms, h]
  exact if_pos wide

/-- A write that its die cannot hold performs at its home; no die holds its line then. -/
theorem State.line_writePerforms_home {s : State} {i : Fin 6} {w : DieWrite}
    (h : (s.relPerforms (lineOf w.dla) w).canCache i (lineOf w.dla) = false) (n : Nat) (j : Fin 6) :
    ((s.writePerforms i n w).die j).line (lineOf w.dla) = none := by
  generalize hu : s.relPerforms (lineOf w.dla) w = u at h
  have written := (Tidies.homeWrite (u.line_recallLine (lineOf w.dla)) w.size w.data.toNat).toReadsAlike
  rw [← State.homeWrite_recallLine] at written
  have gone : ((u.homeWrite w.dla w.size w.data.toNat).die j).line (lineOf w.dla) = none := by
    rw [written.line, State.die_updHomes, State.line_recallLine]
  have dropped (t : State) : ((t.updDie i fun d => { d.accepted (pageOf w.dla) with buf := dropAt n d.buf }).die j).line (lineOf w.dla) =
      (t.die j).line (lineOf w.dla) := by
    rw [State.die_updDie_eq]
    split <;> rfl
  have settled (t : State) (r : CoreRef) : ReadsAlike t (t.settle r) := by
    unfold State.settle
    split
    · split
      · exact ReadsAlike.updCore t r _
      · exact ReadsAlike.refl t
    · exact ReadsAlike.refl t
  unfold State.writePerforms
  dsimp only
  rw [hu, h, Bool.and_false, if_neg Bool.false_ne_true, (settled _ _).line, (Tidies.unpin _ w.pages).line, dropped, gone]

theorem execHomeRequest_write {s : State} {i : Fin 6} {n : Nat} {w : DieWrite} (at_ : (s.die i).buf[n]? = some w)
    (lost : s.homes.isLost (.write w.ctx w.seq) = false) (accepts : s.accepts i (pageOf w.dla) = true) :
    exec (.homeRequest (.write i n)) s = .next (s.writeRequest i n w) := by
  show go _ = _
  have msg : ((s.msgOf (.write i n)).map s.homes.isLost).getD false = false := by
    rw [State.msgOf, at_]
    exact lost
  rw [msg, if_neg Bool.false_ne_true]
  dsimp only
  rw [at_]
  dsimp only
  rw [accepts]
  rfl

/-- A release whose request its home takes, and whose line no other die holds, performs. -/
theorem State.writeRequest_performs {s : State} {i : Fin 6} {n : Nat} {w : DieWrite} (site : w.ctx.at_.site = i) (route : w.route = none)
    (first : earlierSame (s.die i).buf n w = false) {ri : RelInfo} (rel : w.rel = some ri) (free : s.relWaits i w ri = false)
    (noted : s.homes.noted (lineOf w.dla) = false) (home : AtHome s i w.dla) (alone : ∀ j, j ≠ i → (s.die j).line (lineOf w.dla) = none) :
    s.writeRequest i n w = s.writePerforms i n w := by
  obtain ⟨relayed, sent, here, held, due, stall, -, cache⟩ := home
  have reach : s.reachable (s.homes.curHome (pageOf w.dla)).pkg = true := by
    rw [State.reachable]
    exact Bool.or_eq_true_iff.2 (.inl here)
  have page : linePage (lineOf w.dla) = pageOf w.dla := (pageOf_of_lineOf rfl).symm
  have lineOpen : s.lineOpen (lineOf w.dla) = true := by
    rw [State.lineOpen, page, held, due, stall]
    rfl
  have others : s.heldElsewhere i (lineOf w.dla) = [] := by
    refine List.filter_eq_nil_iff.2 fun j _ hj => ?_
    obtain ⟨ne, hj⟩ := Bool.and_eq_true_iff.1 hj
    rw [alone j (bne_iff_ne.1 ne)] at hj
    cases hj
  have at_ : s.writeAt w = s.homes.curHome (pageOf w.dla) := by rw [State.writeAt, route, site]; exact sent
  have path : s.behindPath i n w = false := by rw [State.behindPath, here]; rfl
  unfold State.writeRequest
  rw [rel]
  dsimp only
  simp [first, path, free, here, at_, reach, lineOpen, noted, cache, others, relayed]

/-- The die has no room for the line of the release once line 517 is committed. -/
theorem canCache_relPerforms_crowded {n : Nat} (h : 16384 ≤ n + 3) :
    ((crowded n).relPerforms (lineOf wideRelease.dla) wideRelease).canCache 0 (lineOf wideRelease.dla) = false := by
  have wide : (crowded n).relPerforms (lineOf wideRelease.dla) wideRelease = (crowded n).commitCovered ⟨⟨0, 0⟩, .load⟩ 4 :=
    State.relPerforms_wide (ri := ⟨2, 4, 9⟩) rfl (by decide)
  obtain ⟨cores, die⟩ := die_commitCovered_crowded n
  have miss : lookup 64 ((517, .e) :: unsortedCache n) = none := by rw [lookup, if_neg (by decide), lookup_unsortedCache]
  have full : (((crowded n).commitCovered ⟨⟨0, 0⟩, .load⟩ 4).die 0).canFill = false := by
    rw [die]
    show decide (((517, Moesi.e) :: unsortedCache n).length < ((State.reset.die 0).crowd n).awakeWays * 16384) = false
    rw [awakeWays_crowd, List.length_cons, length_unsortedCache]
    exact decide_eq_false (by omega)
  have line : (((crowded n).commitCovered ⟨⟨0, 0⟩, .load⟩ 4).die 0).line 64 = none := by rw [die]; exact miss
  rw [wide, State.canCache, full, Bool.false_and, Bool.or_false]
  exact congrArg Option.isSome line

/-- With room for one more line, the die holds no line of the release after it performed. -/
theorem not_releasePerformsAtHome : ¬ Spec.ReleasePerformsAtHome := by
  intro h
  have room : 16381 + 2 < 16384 := by decide
  have buf : ((crowded 16381).die 0).buf = [wideRelease] := by rw [die_crowded]; rfl
  have uncovered : ∀ x ∈ ((crowded 16381).die 0).buf, x.covered wideRelease.ctx 4 9 = false := by rw [buf]; decide
  have words : ∀ x ∈ ((crowded 16381).die 0).buf, x.dla % 8 + x.size ≤ 8 := by rw [buf]; decide
  have accepts : (crowded 16381).accepts 0 (pageOf wideRelease.dla) = true := by
    rw [State.accepts, die_crowded]
    show (!(State.reset.die 0).fenced || _) = true
    rw [show (State.reset.die 0).fenced = false by decide +kernel]
    rfl
  have first : earlierSame ((crowded 16381).die 0).buf 0 wideRelease = false := rfl
  have free : (crowded 16381).relWaits 0 wideRelease ⟨2, 4, 9⟩ = false := by
    rw [State.relWaits, buf]
    decide
  have lost : (crowded 16381).homes.isLost (.write wideRelease.ctx wideRelease.seq) = false := by
    show State.reset.homes.isLost _ = false
    decide +kernel
  obtain ⟨-, performs⟩ := h (crowded 16381) 0 0 wideRelease ⟨2, 4, 9⟩ (by rw [buf]; rfl) rfl rfl
  obtain ⟨-, performs⟩ := performs rfl (by decide) rfl first lost accepts
    (atHome_crowded room) (fun j _ => line_crowded _ j) (fun _ => uncovered) words
  have noted : (crowded 16381).homes.noted (lineOf wideRelease.dla) = false := by
    show State.reset.homes.noted 64 = false
    decide +kernel
  have step := execHomeRequest_write (s := crowded 16381) (i := 0) (n := 0) (by rw [buf]; rfl) lost accepts
  rw [State.writeRequest_performs (i := 0) rfl rfl first rfl free noted (atHome_crowded room) fun j _ => line_crowded _ j] at step
  obtain ⟨t, data, tags, step', -, holds, -⟩ := performs noted
  have after := Host.Outcome.next.inj (step.symm.trans step')
  have gone := State.line_writePerforms_home (canCache_relPerforms_crowded (n := 16381) (by decide)) 0 0
  rw [after] at gone
  exact Option.some_ne_none _ (holds.symm.trans gone)

end Sys2Proof.Machine

open Sys2Proof Sys2Proof.Machine Sys2Proof.Spec

/-- Refutes O31: a wide release that performs at its home does not leave its line in M where the lines of its die's cache stand out of order
(`not_releasePerformsAtHome`, with the state `crowded 16381`). -/
theorem not_homeAnswers : ¬ Obligations.HomeAnswers := by
  rintro ⟨-, -, releases⟩
  exact not_releasePerformsAtHome releases
end

section
/-! SUPPORT. Stubs (R99): that the end of a migration and the start of the next leave the stubs of the homes, and what reclaims a stub. -/

namespace Sys2Proof.Machine

open Sys2Proof.Spec

/-! ## What the end of a command leaves of the homes' queues -/

namespace SameNotices

theorem of_homes {s t : State} (h : t.homes = s.homes) : SameNotices s t := ⟨by rw [h], by rw [h], by rw [h]⟩

theorem updCore (s : State) (r : CoreRef) (f : Core → Core) : SameNotices s (s.updCore r f) := ⟨rfl, rfl, rfl⟩

theorem updPipe (s : State) (n : Nat) (f : Pipe → Pipe) : SameNotices s (s.updPipe n f) := ⟨rfl, rfl, rfl⟩

theorem settle (s : State) (r : CoreRef) : SameNotices s (s.settle r) := by
  unfold State.settle
  split
  · split
    · exact of_homes rfl
    · exact refl s
  · exact refl s

theorem dropHeld (s : State) (r : CoreRef) : SameNotices s (s.dropHeld r) := by
  unfold State.dropHeld
  exact trans (unpin s _) (updDie _ r.site _)

theorem endTask (s : State) (r : CoreRef) (f : FaultInfo) (first : Option Nat) : SameNotices s (s.endTask r f first) := by
  unfold State.endTask
  split
  · exact refl s
  · refine trans (unpin s (s.core r).unstartedPages) ?_
    refine trans (dropHeld _ r) ?_
    refine trans ?_ (settle _ r)
    exact of_homes rfl

theorem endGang (s : State) (r : CoreRef) (f : FaultInfo) : SameNotices s (s.endGang r f) := by
  unfold State.endGang
  split
  · exact refl s
  next t _ =>
    split
    · exact trans (endTask s r f none) (foldl (f := fun s k => s.endTask k f (some t.member)) (fun s k => endTask s k f _) _ _)
    · exact refl s

theorem dropKids (s : State) (id : Nat) : SameNotices s (s.dropKids id) := by
  unfold State.dropKids
  split
  · exact refl s
  next p _ =>
    let kept (c : Core) : Core := { c with kids := c.kids.filter fun k => k.pipe != id || p.modes[k.record.stage]? != some .stopped }
    have cores : SameNotices s (allCores.foldl (fun s r => s.updCore r kept) s) :=
      foldl (f := fun s r => s.updCore r kept) (fun s r => updCore s r kept) allCores s
    exact trans cores (updPipe _ id _)

theorem takeFault (s : State) (r : CoreRef) (f : FaultInfo) : SameNotices s (s.takeFault r f) := by
  unfold State.takeFault
  split
  · exact refl s
  · split
    · unfold State.beginShutdown
      refine trans (endGang s r f) ?_
      split
      · exact trans (updPipe _ _ _) (dropKids _ _)
      · exact refl _
    · exact refl s

theorem signal (s : State) (r : CoreRef) (q : QEntry) : SameNotices s (s.signal r q) := by
  unfold State.signal
  dsimp only
  split
  · split
    · exact takeFault s r _
    · exact of_homes rfl
  · exact refl s

theorem popClaimed (s : State) (r : CoreRef) (ring n : Nat) : SameNotices s (s.popClaimed r ring n).1 := by
  induction n generalizing s with
  | zero => exact refl s
  | succ n ih =>
    unfold State.popClaimed
    split
    · exact refl s
    · exact trans (of_homes (State.homes_popSlot s r ring)) (ih _)

theorem popRings (s : State) (r : CoreRef) (l : List (Nat × Nat)) : SameNotices s (s.popRings r l).1 := by
  induction l generalizing s with
  | nil => exact refl s
  | cons x l ih =>
    have popped := popClaimed s r x.1 x.2
    unfold State.popRings
    split
    next t e => exact trans (by rwa [e] at popped) (ih t)
    next t ring e => rwa [e] at popped

theorem finish (s : State) (r : CoreRef) (e : Fin 6) (q : QEntry) (am : Option (BitVec 33)) (pops : List (Nat × Nat)) :
    SameNotices s (s.finish r e q am pops) := by
  have popped := trans (updCore s r fun c => c.dropHead e) (popRings _ r pops)
  unfold State.finish
  split
  next t h =>
    rw [h] at popped
    refine trans popped ?_
    refine trans ?_ (settle _ r)
    refine trans ?_ (signal _ r q)
    refine trans ?_ (unpin _ q.pages)
    exact of_homes rfl
  next t ring h =>
    rw [h] at popped
    refine trans popped ?_
    refine trans ?_ (settle _ r)
    refine trans ?_ (unpin _ q.pages)
    exact takeFault _ r _

theorem dropMig (s : State) (m : Migration) (status : Nat) : SameNotices s (s.dropMig m status) := by
  unfold State.dropMig
  extract_lets dropped logged
  have same : SameNotices s logged := by
    unfold logged
    split
    · exact ⟨rfl, rfl, rfl⟩
    · exact ⟨rfl, rfl, rfl⟩
  clear_value logged
  refine trans same ?_
  split
  · exact refl _
  · split
    · split
      · exact trans (t := logged.at_ _) ⟨rfl, rfl, rfl⟩ (finish _ _ _ _ _ _)
      · exact refl _
    · exact refl _

end SameNotices

/-! ## The stubs through the end of a migration and the start of the next -/

theorem State.stubs_addSnoop (s : State) (i : Fin 6) (l : Nat) (fwd : Option (Fin 6)) (release : Bool) :
    (s.addSnoop i l fwd release).homes.stubs = s.homes.stubs := by
  unfold State.addSnoop
  split <;> rfl

theorem State.stubs_askWrite (s : State) (l : Nat) : (s.askWrite l).homes.stubs = s.homes.stubs := by
  unfold State.askWrite
  split
  · exact foldl_keeps (P := fun t => t.homes.stubs = s.homes.stubs) (f := fun s k => s.addSnoop k l none false)
      (fun t k ht => (t.stubs_addSnoop k l none false).trans ht) _ s rfl
  · rfl

theorem State.stubs_endMig (s : State) (m : Migration) (status : Nat) : (s.endMig m status).homes.stubs = s.homes.stubs := by
  unfold State.endMig
  split
  · exact (SameNotices.dropMig s m status).stubs
  next d _ =>
    dsimp only
    split
    · rfl
    · unfold withWrites
      split
      · exact (SameNotices.dropMig _ m status).stubs.trans (SameNotices.homeWrite _ d 8 status).stubs
      · exact foldl_keeps (P := fun t => t.homes.stubs = s.homes.stubs) (fun t l ht => (t.stubs_askWrite l).trans ht) _ _ rfl

theorem State.stubs_tryMig (s : State) (page n : Nat) : (s.tryMig page n).homes.stubs = s.homes.stubs := by
  induction n generalizing s with
  | zero => rfl
  | succ n ih =>
    unfold State.tryMig
    split
    · rfl
    · split
      · split
        · exact (ih _).trans (State.stubs_endMig s _ _)
        · dsimp only
          split <;> rfl
      · rfl

/-- Whether the reclamation of a stub has ended. -/
def State.stubDone (s : State) (x : Stub) : Bool := x.reclaiming == some [] && !s.relayOut x.page

/-- The stubs whose reclamation has ended are gone, and no other. -/
theorem State.stubs_freeStubs (s : State) : s.freeStubs.homes.stubs = s.homes.stubs.filter fun x => !s.stubDone x := by
  have keep (l : List Migration) (t : State) : (l.foldl (fun t m => t.tryMig m.page (t.homes.migs.length + 1)) t).homes.stubs = t.homes.stubs :=
    foldl_keeps (P := fun u => u.homes.stubs = t.homes.stubs) (f := fun u m => u.tryMig m.page (u.homes.migs.length + 1))
      (fun u m hu => (u.stubs_tryMig m.page _).trans hu) l t rfl
  unfold State.freeStubs
  dsimp only
  split
  · exact keep _ _
  · rfl

/-! ## Reclamation -/

theorem execStubAgeExpiry_idle {s : State} {n : Nat} {x : Stub} (at_ : s.homes.stubs[n]? = some x) (idle : x.reclaiming = none) :
    ∃ u : State, u.homes = s.homes ∧ exec (.stubAgeExpiry n) s = .next (u.updHomes fun h =>
      { h with stubs := h.stubs.set n { x with reclaiming := some (x.mask.map fun a => (a, u.now)) } }).freeStubs := by
  refine ⟨if s.homes.crowded n x then s else s.at_ (x.last + s.mgmt.stubAge.toNat * tUs), ?_, ?_⟩
  · split <;> rfl
  · show go _ = _
    rw [at_]
    dsimp only
    rw [idle]
    rfl

theorem execOwnerCacheInvalidation_die {s : State} {n : Nat} {x : Stub} {i : Fin 6} (at_ : s.homes.stubs[n]? = some x)
    (reclaims : x.reclaiming.isSome = true) (served : .die i ∈ x.mask) (idle : s.relaying i x.page = false) :
    exec (.ownerCacheInvalidation n (.die i)) s = .next ((s.updDie i fun d => { d with owners := eraseKey x.page d.owners }).updHomes fun h =>
      { h with stubs := h.stubs.set n { x with mask := x.mask.filter (· != .die i) } }) := by
  have told : (x.reclaiming.isSome && x.mask.contains (.die i) && !s.agentBusy (.die i) x.page) = true := by
    rw [reclaims, State.agentBusy, idle]
    simpa using served
  show go _ = _
  rw [at_]
  dsimp only
  rw [told]
  rfl

theorem execStubAck_last {s : State} {n k : Nat} {x : Stub} {a : Agent} (at_ : s.homes.stubs[n]? = some x)
    (last : x.reclaiming = some [(a, k)]) (told : a ∉ x.mask) :
    exec (.stubAck n a) s = .next (s.updHomes fun h => { h with stubs := h.stubs.set n { x with reclaiming := some [] } }).freeStubs := by
  have acked : (([(a, k)].any fun y => y.1 == a) && !x.mask.contains a) = true := by simpa using told
  have rest : ([(a, k)].filter fun y => y.1 != a) = [] := by simp
  show go _ = _
  rw [at_]
  dsimp only
  rw [last]
  dsimp only
  rw [acked, rest]
  rfl

/-- R99: a stub begins to reclaim, tells its agents, and is gone with the last acknowledgement. -/
theorem stubsAreReclaimed : Spec.StubsAreReclaimed := by
  intro s n k x i a at_
  have lt : n < s.homes.stubs.length := (List.getElem?_eq_some_iff.1 at_).1
  refine ⟨fun idle served => ?_, fun reclaims served idle => ?_, fun last told idle => ?_⟩
  · obtain ⟨u, homes, step⟩ := execStubAgeExpiry_idle at_ idle
    refine ⟨_, step, u.now, ?_⟩
    rw [State.stubs_freeStubs]
    refine List.mem_filter.2 ⟨List.mem_iff_getElem?.2 ⟨n, ?_⟩, ?_⟩
    · rw [State.homes_updHomes, homes]
      exact List.getElem?_set_self lt
    · simp [State.stubDone, served]
  · refine ⟨_, execOwnerCacheInvalidation_die at_ reclaims served idle, ?_, fun p ne => ?_, ?_, ?_⟩
    · rw [State.die_updHomes, State.die_updDie]
      exact (lookup_eraseKey _ _ _).trans (if_pos rfl)
    · rw [State.die_updHomes, State.die_updDie]
      exact (lookup_eraseKey _ _ _).trans (if_neg ne)
    · exact List.getElem?_set_self lt
    · have forgets : ReadsAlike s (s.updDie i fun d => { d with owners := eraseKey x.page d.owners }) :=
        ReadsAlike.updDie s i (fun _ => rfl) fun _ => rfl
      refine (forgets.trans ?_).keepsMemory
      exact ReadsAlike.updHomes _ rfl rfl rfl rfl
  · refine ⟨_, execStubAck_last at_ last told, fun y hy => ?_⟩
    rw [State.stubs_freeStubs] at hy
    obtain ⟨hy, waits⟩ := List.mem_filter.1 hy
    obtain ⟨j, hj⟩ := List.mem_iff_getElem?.1 hy
    rw [State.homes_updHomes] at hj
    by_cases e : n = j
    · rw [← e, List.getElem?_set_self lt] at hj
      obtain rfl := Option.some.inj hj
      have ended : (s.updHomes fun h => { h with stubs := h.stubs.set n { x with reclaiming := some [] } }).stubDone
          { x with reclaiming := some [] } = true := by
        show (true && !s.relayOut x.page) = true
        rw [idle]
        rfl
      rw [ended] at waits
      cases waits
    · rw [List.getElem?_set_ne e] at hj
      exact List.mem_eraseIdx_iff_getElem?.2 ⟨j, Ne.symm e, hj⟩

end Sys2Proof.Machine
end

section
/-! SUPPORT. Migrations (R82, R95, R274, R355): the placement records and the migrations of the homes, how a migration begins, proceeds, switches and
ends. -/

namespace Sys2Proof.Machine

open Sys2Proof.Spec

/-! ## Placement records -/

theorem Homes.placeRec_page (h : Homes) (page : Nat) : (h.placeRec page).page = page := by
  unfold Homes.placeRec
  cases e : h.recs.find? fun r => r.page == page with
  | none => rfl
  | some r => simpa using List.find?_some e

/-- The record of a page that was put is found. -/
theorem Homes.placeRec_of_recs {h g : Homes} {r : PlaceRec} (e : h.recs = r :: g.recs.filter fun x => x.page != r.page) (page : Nat) :
    h.placeRec page = if page = r.page then r else g.placeRec page := by
  rw [Homes.placeRec, e, List.find?_cons]
  by_cases same : page = r.page
  · simp [same]
  · have other : (r.page == page) = false := beq_eq_false_iff_ne.2 (Ne.symm same)
    have rest : ((g.recs.filter fun x => x.page != r.page).find? fun x => x.page == page) = g.recs.find? fun x => x.page == page := by
      rw [List.find?_filter]
      congr 1
      funext x
      by_cases hx : x.page = page
      · simp [hx, same]
      · simp [hx]
    rw [other, rest, if_neg same]
    rfl

theorem Homes.placeRec_setRec (h : Homes) (r : PlaceRec) (page : Nat) : (h.setRec r).placeRec page = if page = r.page then r else h.placeRec page :=
  Homes.placeRec_of_recs rfl page

/-- ST is put in the record of one page. -/
theorem Homes.placeRec_setSt (h : Homes) (p : Nat) (st : BitVec 2) (page : Nat) :
    (h.setSt p st).placeRec page = if page = p then { h.placeRec p with st := st } else h.placeRec page := by
  rw [Homes.setSt, Homes.placeRec_setRec, Homes.placeRec_page]

/-! ## The migrations of a page -/

theorem find?_updFirst {page : Nat} {f : Migration → Migration} (hf : ∀ m, (f m).page = m.page) (l : List Migration) :
    ((updFirst page f l).find? fun m => m.page == page) = (l.find? fun m => m.page == page).map f := by
  induction l with
  | nil => rfl
  | cons m l ih =>
    unfold updFirst
    by_cases e : m.page = page
    · simp [e, hf]
    · simp [e, ih]

theorem filter_dropFirst (page : Nat) (l : List Migration) :
    ((dropFirst page l).filter fun m => m.page == page) = (l.filter fun m => m.page == page).tail := by
  induction l with
  | nil => rfl
  | cons m l ih =>
    unfold dropFirst
    by_cases e : m.page = page
    · simp [e]
    · simp [e, ih]

/-- The one migration of a page is its first. -/
theorem Homes.migOf_of_filter {h : Homes} {page : Nat} {m : Migration} (only : (h.migs.filter fun x => x.page == page) = [m]) :
    h.migOf page = some m := by
  rw [Homes.migOf, ← List.head?_filter, only]
  rfl

theorem Homes.migOf_page {h : Homes} {page : Nat} {m : Migration} (e : h.migOf page = some m) : m.page = page := by
  simpa using List.find?_some (show (h.migs.find? fun m => m.page == page) = some m from e)

/-- With its one migration a page loses all. -/
theorem find?_dropFirst_only {l : List Migration} {page : Nat} {m : Migration} (only : (l.filter fun x => x.page == page) = [m]) :
    ((dropFirst page l).find? fun x => x.page == page) = none := by
  rw [← List.head?_filter, filter_dropFirst, only]
  rfl

theorem State.tryMig_none {s : State} {page : Nat} (h : s.homes.migOf page = none) (n : Nat) : s.tryMig page n = s := by
  cases n with
  | zero => rfl
  | succ n => rw [State.tryMig, h]

/-- A migration that no core and no status word waits for ends: it is gone, and what the driver began is logged. -/
theorem State.endMig_alone {s : State} {m : Migration} (core : m.core = none) (stat : m.stat = none) (status : Nat) :
    (s.endMig m status).homes = { s.homes with migs := dropFirst m.page s.homes.migs } ∧ (s.endMig m status).dies = s.dies ∧
      (s.endMig m status).now = s.now := by
  rw [State.endMig, stat]
  dsimp only
  rw [State.dropMig, core]
  dsimp only
  split <;> exact ⟨rfl, rfl, rfl⟩

/-! ## Snoops that are sent -/

/-- A snoop is due from a die, which is to give up a line. -/
def Homes.recalls (h : Homes) (i : Fin 6) (l : Nat) : Prop := ∃ y ∈ h.snoops, y.site = i ∧ y.line = l ∧ y.forward = none

/-- Snoops stand at the homes that did not, and nothing else is new. -/
structure OnlySnoops (s t : State) : Prop where
  rest : t = { s with homes := { s.homes with snoops := t.homes.snoops } }
  more : ∀ x ∈ s.homes.snoops, x ∈ t.homes.snoops

namespace OnlySnoops

variable {s t u : State}

theorem refl (s : State) : OnlySnoops s s := ⟨rfl, fun _ h => h⟩

theorem trans (h : OnlySnoops s t) (k : OnlySnoops t u) : OnlySnoops s u := by
  refine ⟨?_, fun x hx => k.more x (h.more x hx)⟩
  rw [k.rest, h.rest]

theorem readsAlike (h : OnlySnoops s t) : ReadsAlike s t := by
  rw [h.rest]
  exact ⟨rfl, rfl, rfl, rfl, fun _ => rfl, fun _ => rfl⟩

theorem addSnoop (s : State) (i : Fin 6) (l : Nat) (fwd : Option (Fin 6)) (release : Bool) : OnlySnoops s (s.addSnoop i l fwd release) := by
  unfold State.addSnoop
  split
  · exact refl s
  · exact ⟨rfl, fun x hx => List.mem_append_left _ hx⟩

end OnlySnoops

theorem State.recalls_addSnoop (s : State) (i : Fin 6) (l : Nat) (release : Bool) : (s.addSnoop i l none release).homes.recalls i l := by
  unfold State.addSnoop
  split
  next h =>
    obtain ⟨y, hy, e⟩ := List.any_eq_true.1 h
    simp only [Bool.and_eq_true, beq_iff_eq, Option.isSome_none, Option.isSome_eq_false_iff, Option.isNone_iff_eq_none] at e
    exact ⟨y, hy, e.1.2, e.1.1, e.2⟩
  · exact ⟨_, List.mem_append_right _ (List.mem_singleton_self _), rfl, rfl, rfl⟩

theorem State.onlySnoops_recallPage (s : State) (page : Nat) : OnlySnoops s (s.recallPage page) :=
  foldl_keeps (P := OnlySnoops s) (f := fun s (x : Fin 6 × Nat) => s.addSnoop x.1 x.2 none true)
    (fun t x ht => ht.trans (OnlySnoops.addSnoop t x.1 x.2 none true)) _ s (OnlySnoops.refl s)

/-- Every die that holds a line of a page is asked for it. -/
theorem State.recalls_recallPage {s : State} {page : Nat} {x : Fin 6 × Nat} (h : x ∈ s.heldLines page) :
    (s.recallPage page).homes.recalls x.1 x.2 := by
  have keep (t : State) (y : Fin 6 × Nat) (ht : t.homes.recalls x.1 x.2) : (t.addSnoop y.1 y.2 none true).homes.recalls x.1 x.2 := by
    obtain ⟨z, hz, e⟩ := ht
    exact ⟨z, (OnlySnoops.addSnoop t y.1 y.2 none true).more z hz, e⟩
  exact foldl_gains (P := fun t => t.homes.recalls x.1 x.2) (f := fun s y => s.addSnoop y.1 y.2 none true) keep
    (fun t => t.recalls_addSnoop x.1 x.2 true) h s

/-! ## How a migration begins -/

/-- What a migration is once it copies. -/
def Migration.begun (cur : Home) (st : BitVec 2) (m : Migration) : Migration := { m with phase := .copying, old := cur, st0 := st }

/-- A migration has begun: the record of its page is Migrating, and it copies. -/
def State.migBegun (s : State) (m : Migration) : State := s.updHomes fun h =>
  { h.setSt m.page 1 with migs := updFirst m.page (Migration.begun (h.curHome m.page) (h.placeRec m.page).st) (h.migs ++ [m]) }

/-- What lets a migration begin at once (R95 step 1, R39, R367). -/
structure MayBegin (s : State) (m : Migration) : Prop where
  queued : m.phase = .queued
  none : s.homes.migOf m.page = none
  moves : m.dest ≠ s.homes.curHome m.page
  reachOld : s.reachable (s.homes.curHome m.page).pkg = true
  reachNew : s.reachable m.dest.pkg = true
  key : m.dest.pkg = s.fab.pkg → (s.homes.curHome m.page).pkg = s.fab.pkg ∨ s.homes.noKey m.page = false
  place : m.dest.pkg = s.fab.pkg → s.homes.stackFull m.dest = false
  stub : s.homes.stubsDue (s.homes.curHome m.page) < 8

/-- The state in which a migration waits behind those of its page. -/
def State.migAsked (s : State) (m : Migration) : State := s.updHomes fun h => { h with migs := h.migs ++ [m] }

/-- A migration that waits takes no place in a stack. -/
theorem Homes.stackFull_migAsked {s : State} {m : Migration} (h : m.phase = .queued) (x : Home) :
    (s.migAsked m).homes.stackFull x = s.homes.stackFull x := by
  have waits : ([m].filter fun m => m.phase.runs && m.dest == x) = [] := by simp [h, MigPhase.runs]
  show decide (stackPages ≤ (s.homes.knownPages.filter fun p => s.homes.curHome p == x).length +
    ((s.homes.migs ++ [m]).filter fun m => m.phase.runs && m.dest == x).length) = _
  rw [List.filter_append, waits, List.append_nil]
  rfl

/-- A migration that waits takes no entry of a stub store. -/
theorem Homes.stubsDue_migAsked {s : State} {m : Migration} (h : m.phase = .queued) (x : Home) :
    (s.migAsked m).homes.stubsDue x = s.homes.stubsDue x := by
  have waits : ([m].filter fun m => m.old == x && m.phase.runs) = [] := by simp [h, MigPhase.runs]
  show (s.homes.stubs.filter fun y => y.at_ == x).length + ((s.homes.migs ++ [m]).filter fun m => m.old == x && m.phase.runs).length = _
  rw [List.filter_append, waits, List.append_nil]
  rfl

theorem MayBegin.migVerdict {s : State} {m : Migration} (h : MayBegin s m) : (s.migAsked m).migVerdict m = Option.none := by
  have open_ : (m.dest.pkg == s.fab.pkg && (((s.homes.curHome m.page).pkg != s.fab.pkg && s.homes.noKey m.page) ||
      (s.migAsked m).homes.stackFull m.dest)) = false := by
    rw [Homes.stackFull_migAsked h.queued]
    by_cases here : m.dest.pkg = s.fab.pkg
    · rw [h.place here]
      obtain e | e := h.key here
      · simp [e]
      · simp [e]
    · simp [here]
  have reachOld : (s.migAsked m).reachable (s.homes.curHome m.page).pkg = true := h.reachOld
  have reachNew : (s.migAsked m).reachable m.dest.pkg = true := h.reachNew
  unfold State.migVerdict
  dsimp only
  rw [if_neg (show ¬ (s.migAsked m).homes.curHome m.page = m.dest from fun e => h.moves e.symm), if_neg, if_neg, if_neg]
  · show ¬ (m.dest.pkg == s.fab.pkg && _) = true
    rw [Bool.not_eq_true]
    exact open_
  · simp [reachNew]
  · show ¬ (!(s.migAsked m).reachable (s.homes.curHome m.page).pkg) = true
    simp [reachOld]

theorem MayBegin.askMig {s : State} {m : Migration} (h : MayBegin s m) : s.askMig m = s.migBegun m := by
  have first : (s.migAsked m).homes.migOf m.page = some m := by
    show ((s.homes.migs ++ [m]).find? fun x => x.page == m.page) = some m
    rw [List.find?_append, show (s.homes.migs.find? fun x => x.page == m.page) = Option.none from h.none]
    simp
  have room : stubRoom ((s.migAsked m).homes.stubsDue ((s.migAsked m).homes.curHome m.page)) = true := by
    rw [Homes.stubsDue_migAsked h.queued, stubRoom]
    exact Bool.or_eq_true_iff.2 (.inl (decide_eq_true h.stub))
  show (s.migAsked m).tryMig m.page ((s.migAsked m).homes.migs.length + 1) = _
  rw [State.tryMig, first]
  dsimp only
  rw [if_pos h.queued, h.migVerdict]
  dsimp only
  rw [if_pos room]
  rfl

/-- A migration that has begun: its page's record, where its page is, and what it is. -/
theorem State.migBegun_spec {s : State} {m : Migration} (h : s.homes.migOf m.page = none) :
    ((s.migBegun m).homes.placeRec m.page).st = 1 ∧ (s.migBegun m).homes.curHome m.page = s.homes.curHome m.page ∧
      (s.migBegun m).homes.migOf m.page = some (m.begun (s.homes.curHome m.page) (s.homes.placeRec m.page).st) := by
  have rec_ : (s.migBegun m).homes.placeRec m.page = { s.homes.placeRec m.page with st := 1 } :=
    (s.homes.placeRec_setSt m.page 1 m.page).trans (if_pos rfl)
  refine ⟨by rw [rec_], by rw [Homes.curHome, rec_]; rfl, ?_⟩
  show ((updFirst m.page _ (s.homes.migs ++ [m])).find? fun x => x.page == m.page) = _
  refine Eq.trans (find?_updFirst ?_ _) ?_
  · exact fun _ => rfl
  rw [List.find?_append, show (s.homes.migs.find? fun x => x.page == m.page) = none from h]
  simp

theorem readsAlike_migBegun (s : State) (m : Migration) : ReadsAlike s (s.migBegun m) := ReadsAlike.updHomes s rfl rfl rfl rfl

/-! ## How a migration proceeds (R95, R355) -/

theorem State.migOf_setPhase {s : State} {page : Nat} {m : Migration} (h : s.homes.migOf page = some m) (ph : MigPhase) :
    (s.setPhase page ph).homes.migOf page = some { m with phase := ph } := by
  show ((updFirst page _ s.homes.migs).find? fun x => x.page == page) = _
  refine Eq.trans (find?_updFirst ?_ _) ?_
  · exact fun _ => rfl
  rw [show (s.homes.migs.find? fun x => x.page == page) = some m from h]
  rfl

theorem Homes.held_of_migOf {h : Homes} {page : Nat} {m : Migration} (e : h.migOf page = some m) (sw : m.phase = .switching) :
    h.held page = true :=
  List.any_eq_true.2 ⟨m, List.mem_of_find?_eq_some e, by simp [Homes.migOf_page e, sw]⟩

theorem readsAlike_setPhase (s : State) (page : Nat) (ph : MigPhase) : ReadsAlike s (s.setPhase page ph) := ReadsAlike.updHomes s rfl rfl rfl rfl

theorem execMigrationCopyDone_copying {s : State} {page : Nat} {m : Migration} (h : s.homes.migOf page = some m) (ph : m.phase = .copying) :
    exec (.migrationCopyDone page) s = .next (s.setPhase page (.pinWait s.now)) := by
  show go _ = _
  rw [h]
  dsimp only
  rw [if_pos ph]
  rfl

theorem execMigrationPinsCleared_free {s : State} {page since : Nat} {m : Migration} (h : s.homes.migOf page = some m)
    (ph : m.phase = .pinWait since) (free : getKey 0 page s.homes.pins = 0) (quiet : s.homes.pageNoted page = false) :
    exec (.migrationPinsCleared page) s = .next ((s.setPhase page .switching).recallPage page) := by
  show go _ = _
  rw [h]
  dsimp only
  rw [ph]
  dsimp only
  rw [if_neg (not_not.2 free), quiet]
  rfl

theorem execMigrationPinTimeout_pinned {s : State} {page since : Nat} {m : Migration} (h : s.homes.migOf page = some m)
    (ph : m.phase = .pinWait since) (pinned : getKey 0 page s.homes.pins ≠ 0) :
    exec (.migrationPinTimeout page) s = .next ((s.at_ (since + 1000 * 336000)).abortMig m 2) := by
  show go _ = _
  rw [h]
  dsimp only
  rw [ph]
  dsimp only
  rw [if_neg pinned]
  rfl

/-- A migration for which nothing waits aborts: it is gone, and ST is what it was. -/
theorem State.abortMig_alone {s : State} {page : Nat} {m : Migration} (only : (s.homes.migs.filter fun x => x.page == page) = [m])
    (core : m.core = none) (stat : m.stat = none) (status : Nat) :
    (s.abortMig m status).homes = { s.homes.setSt page m.st0 with migs := dropFirst page s.homes.migs } ∧
      (s.abortMig m status).dies = s.dies ∧ (s.abortMig m status).now = s.now := by
  obtain rfl := Homes.migOf_page (Homes.migOf_of_filter only)
  obtain ⟨homes, dies, now⟩ := State.endMig_alone (s := s.updHomes fun h => h.setSt m.page m.st0) core stat status
  have gone : ((s.updHomes fun h => h.setSt m.page m.st0).endMig m status).homes.migOf m.page = none := by
    rw [homes]
    exact find?_dropFirst_only only
  unfold State.abortMig
  dsimp only
  rw [State.tryMig_none gone]
  exact ⟨homes, dies, now⟩

theorem execDriverStartedMigration_open {s : State} {page : Nat} {dp : BitVec 12} {ds : BitVec 4} (open_ : s.regsOpen = true)
    (slice : ds.toNat ≤ 11) : exec (.driverStartedMigration page dp ds) s = .next (s.askMig ⟨page, ⟨dp.toNat, ds.toNat⟩, s.homes.curHome page,
      (s.homes.placeRec page).st, [], .queued, none, none, true⟩) := by
  show go _ = _
  rw [if_pos (by rw [open_, decide_eq_true slice]; rfl)]
  rfl

/-- R95, R355: the copy ends, the pins clear or the migration aborts, and the driver starts one. -/
theorem migrationsProceed : Spec.MigrationsProceed := by
  intro s page m since dp ds
  refine ⟨fun at_ ph => ?_, fun at_ ph free quiet => ?_, fun only ph pinned core stat => ?_, fun open_ slice none => ?_⟩
  · exact ⟨_, execMigrationCopyDone_copying at_ ph, State.migOf_setPhase at_ _, rfl, (readsAlike_setPhase s page _).keepsMemory⟩
  · have snoops := (s.setPhase page .switching).onlySnoops_recallPage page
    have first : ((s.setPhase page .switching).recallPage page).homes.migOf page = some { m with phase := .switching } := by
      rw [snoops.rest]
      exact State.migOf_setPhase at_ _
    refine ⟨_, execMigrationPinsCleared_free at_ ph free quiet, first, Homes.held_of_migOf first rfl, ?_, fun x hx => ?_, ?_⟩
    · rw [snoops.rest]
      rfl
    · exact State.recalls_recallPage (s := s.setPhase page .switching) hx
    · exact ((readsAlike_setPhase s page _).trans snoops.readsAlike).keepsMemory
  · obtain ⟨homes, dies, now⟩ := State.abortMig_alone (s := s.at_ (since + 1000 * 336000)) only core stat 2
    refine ⟨_, execMigrationPinTimeout_pinned (Homes.migOf_of_filter only) ph pinned, now, ?_, ?_, ?_, ?_⟩
    · rw [homes]
      exact find?_dropFirst_only only
    · rw [homes]
      exact (s.homes.placeRec_setSt page m.st0 page).trans (if_pos rfl)
    · rw [homes]
      rfl
    · refine (ReadsAlike.trans (t := s.updHomes fun h => { h.setSt page m.st0 with migs := dropFirst page h.migs }) ?_ ?_).keepsMemory
      · exact ReadsAlike.updHomes s rfl rfl rfl rfl
      · exact ReadsAlike.of_eq dies homes
  · intro dest cur moves reachOld reachNew here stub
    let m' : Migration := ⟨page, dest, cur, (s.homes.placeRec page).st, [], .queued, Option.none, Option.none, true⟩
    have may : MayBegin s m' := ⟨rfl, none, moves, reachOld, reachNew, fun e => (here e).1, fun e => (here e).2, stub⟩
    obtain ⟨st, -, first⟩ := State.migBegun_spec (m := m') none
    have step := execDriverStartedMigration_open (page := page) (dp := dp) open_ slice
    rw [may.askMig] at step
    exact ⟨_, _, step, first, rfl, rfl, rfl, rfl, st, (readsAlike_migBegun s m').keepsMemory⟩

/-! ## How a migration switches (R82, R95) -/

/-- The homes after the switch of a migration: the new home has accepted the page. -/
def Homes.switched (now : Nat) (m : Migration) (h : Homes) : Homes :=
  ({ h with llc := h.llc.filter fun l => linePage l != m.page }.publishStub m.page m.old m.dest now).setRec ((h.placeRec m.page).moved m.dest)

/-- Once every copy has come back, a migration for which nothing waits switches and ends. -/
theorem execMigrationAccept_switching {s : State} {page : Nat} {m : Migration} (only : (s.homes.migs.filter fun x => x.page == page) = [m])
    (ph : m.phase = .switching) (clear : ∀ x ∈ s.homes.snoops, linePage x.line ≠ page) (free : s.heldLines page = []) (core : m.core = none)
    (stat : m.stat = none) : ∃ t, exec (.migrationAccept page) s = .next t ∧
      t.homes = { s.homes.switched s.now m with migs := dropFirst page s.homes.migs } ∧ t.dies = s.dies := by
  have first := Homes.migOf_of_filter only
  obtain rfl := Homes.migOf_page first
  have noSnoop : (s.homes.snoops.any fun x => linePage x.line == m.page) = false := by
    refine List.any_eq_false.2 fun x hx => ?_
    simpa using clear x hx
  obtain ⟨homes, dies, -⟩ := State.endMig_alone (s := s.updHomes fun h => h.switched s.now m) core stat 0
  have gone : ((s.updHomes fun h => h.switched s.now m).endMig m 0).homes.migOf m.page = none := by
    rw [homes]
    exact find?_dropFirst_only only
  refine ⟨(s.updHomes fun h => h.switched s.now m).endMig m 0, ?_, homes, dies⟩
  show go _ = _
  rw [first]
  dsimp only
  rw [ph]
  dsimp only
  rw [noSnoop, free]
  exact congrArg Host.Outcome.next (State.tryMig_none gone _)

theorem Homes.stubAt_publishStub (h : Homes) (page : Nat) (at_ to_ : Home) (now : Nat) :
    (h.publishStub page at_ to_ now).stubAt page at_ = some ⟨page, at_, to_, [], now, none⟩ := by
  have none : ((h.stubs.filter fun x => !(x.page == page && x.at_ == at_)).find? fun x => x.page == page && x.at_ == at_) = none :=
    List.find?_eq_none.2 fun x hx => by
      have other := (List.mem_filter.1 hx).2
      rw [Bool.not_eq_true'] at other
      rw [other]
      exact Bool.false_ne_true
  rw [Homes.stubAt, Homes.publishStub]
  dsimp only
  rw [List.find?_append, none]
  simp

/-- R95 steps 6 to 8, R82: the new home accepts the page. -/
theorem migrationsSwitch : Spec.MigrationsSwitch := by
  intro s page m only ph clear free core stat
  obtain ⟨t, step, homes, dies⟩ := execMigrationAccept_switching only ph clear free core stat
  obtain rfl := Homes.migOf_page (Homes.migOf_of_filter only)
  have moved : ((s.homes.placeRec m.page).moved m.dest).page = m.page := s.homes.placeRec_page m.page
  have recs (q : Nat) : t.homes.placeRec q = if q = m.page then (s.homes.placeRec m.page).moved m.dest else s.homes.placeRec q := by
    have put : t.homes.recs = (s.homes.placeRec m.page).moved m.dest ::
        s.homes.recs.filter fun x => x.page != ((s.homes.placeRec m.page).moved m.dest).page := by
      rw [homes]
      rfl
    rw [Homes.placeRec_of_recs put, moved]
  have own : t.homes.placeRec m.page = (s.homes.placeRec m.page).moved m.dest := (recs m.page).trans (if_pos rfl)
  refine ⟨t, step, ?_, by rw [Homes.curHome, own]; rfl, by rw [own]; rfl, ?_, ⟨⟨m.page, m.old, m.dest, [], s.now, none⟩, ?_, rfl, rfl, rfl⟩,
    fun q ne => (recs q).trans (if_neg ne), ?_⟩
  · rw [homes]
    exact find?_dropFirst_only only
  · rw [own, PlaceRec.moved, s.homes.placeRec_page]
  · rw [homes]
    exact Homes.stubAt_publishStub _ _ _ _ _
  · refine (ReadsAlike.trans (t := s.updHomes fun h => { h.switched s.now m with migs := dropFirst m.page h.migs }) ?_ ?_).keepsMemory
    · exact ReadsAlike.updHomes s rfl rfl rfl rfl
    · exact ReadsAlike.of_eq dies homes

end Sys2Proof.Machine
end

section
/-! SUPPORT. The start of a MIGRATE (R95, R274): what the start of any command leaves, and the obligation that the rules of migrations and stubs
settle (O45). -/

namespace Sys2Proof.Machine

open Sys2Proof.Spec

/-! ## The start of a command (R254, R256) -/

/-- A core, with one taken from the semaphore that a command waits for. -/
def Core.takesSem (i : Instr) (c : Core) : Core :=
  if (cmdHdrOf i).wv then c.setSem (cmdHdrOf i).wsem (c.semVal (cmdHdrOf i).wsem - 1) else c

theorem Core.takesSem_rest (c : Core) (i : Instr) : c.takesSem i = { c with sem := (c.takesSem i).sem } := by
  unfold Core.takesSem
  split <;> rfl

theorem Core.sem_takesSem (c : Core) (i : Instr) (n : Fin 64) :
    (c.takesSem i).sem[n] = if (cmdHdrOf i).wv = true ∧ n = (cmdHdrOf i).wsem.toFin then c.sem[n] - 1 else c.sem[n] := by
  unfold Core.takesSem
  split
  next waits =>
    by_cases e : n = (cmdHdrOf i).wsem.toFin
    · refine Eq.trans ?_ (if_pos ⟨waits, e⟩).symm
      rw [e]
      exact Vector.getElem_set_self _
    · refine Eq.trans ?_ (if_neg fun h => e h.2).symm
      exact Vector.getElem_set_ne (Fin.isLt _) (Fin.isLt _) fun h => e (Fin.ext h.symm)
  next waits => exact (if_neg fun h => waits h.1).symm

/-- The state in which a command starts differs in the time and in a semaphore. -/
theorem State.atStart_frame (s : State) (i : Instr) : (atStart s i).now = startTime s i ∧ (atStart s i).cur = s.cur ∧
    (atStart s i).homes = s.homes ∧ (atStart s i).fab = s.fab ∧ (atStart s i).mgmt = s.mgmt ∧ ReadsAlike s (atStart s i) := by
  unfold atStart takeSem
  dsimp only
  split
  · refine ⟨rfl, rfl, rfl, rfl, rfl, ?_⟩
    refine ReadsAlike.trans (t := s.at_ (s.core s.cur.at_).engFree[engOf i]) ?_ (ReadsAlike.updCore _ _ _)
    exact ReadsAlike.of_eq rfl rfl
  · exact ⟨rfl, rfl, rfl, rfl, rfl, ReadsAlike.of_eq rfl rfl⟩

theorem State.core_atStart (s : State) (i : Instr) (r : CoreRef) :
    (atStart s i).core r = if r = s.cur.at_ then s.myCore.takesSem i else s.core r := by
  unfold atStart takeSem Core.takesSem
  dsimp only
  by_cases hr : r = s.cur.at_
  · rw [hr, if_pos rfl]
    split
    · exact State.core_updCore _ _ _
    · rfl
  · rw [if_neg hr]
    split
    · exact State.core_updCore_ne _ _ hr
    · rfl

/-- A command at the head of its queue begins. -/
def State.started (s : State) (i : Instr) (q : QEntry) : State := begun (atStart s i) q [] none none []

/-- The head of the queue of a command that has begun. -/
def QEntry.begins (s : State) (i : Instr) (q : QEntry) : QEntry := { q with state := .started (startTime s i) [] none none [] }

theorem State.started_eq (s : State) (i : Instr) (q : QEntry) : s.started i q =
    (atStart s i).updCore s.cur.at_ fun c => c.setHead (engOf q.cmd) (q.begins s i) := by
  obtain ⟨now, cur, -⟩ := s.atStart_frame i
  rw [State.started, begun, now, cur]
  rfl

theorem State.core_started (s : State) (i : Instr) (q : QEntry) (r : CoreRef) : (s.started i q).core r =
    if r = s.cur.at_ then (s.myCore.takesSem i).setHead (engOf q.cmd) (q.begins s i) else s.core r := by
  have core := s.core_atStart i r
  rw [State.started_eq]
  by_cases hr : r = s.cur.at_
  · rw [hr] at core ⊢
    rw [State.core_updCore, core, if_pos rfl, if_pos rfl]
  · rw [State.core_updCore_ne _ _ hr, core, if_neg hr, if_neg hr]

/-- The homes, what the fabric reaches and every reader's view are as before a command began. -/
theorem State.started_frame (s : State) (i : Instr) (q : QEntry) : (s.started i q).cur = s.cur ∧ (s.started i q).homes = s.homes ∧
    (s.started i q).fab = s.fab ∧ (s.started i q).mgmt = s.mgmt ∧ ReadsAlike s (s.started i q) := by
  obtain ⟨-, cur, homes, fab, mgmt, reads⟩ := s.atStart_frame i
  rw [State.started_eq]
  exact ⟨cur, homes, fab, mgmt, reads.trans (ReadsAlike.updCore _ _ _)⟩

/-- Queues and semaphores apart, every core is as before a command began. -/
theorem State.core_started_rest (s : State) (i : Instr) (q : QEntry) (r : CoreRef) :
    (s.started i q).core r = { s.core r with eng := ((s.started i q).core r).eng, sem := ((s.started i q).core r).sem } := by
  rw [State.core_started]
  split
  next hr =>
    have rest := s.myCore.takesSem_rest i
    rw [hr]
    generalize s.myCore.takesSem i = c at rest ⊢
    rw [rest]
    rfl
  · rfl

/-- A command that begins has started, and no row and no byte of memory changes. -/
theorem starts_started {s : State} {i : Instr} {q : QEntry} (cmd : q.cmd = i) :
    Starts s i q [] none none [] (s.started i q) ∧ KeepsRows s (s.started i q) := by
  obtain ⟨cur, -, -, -, reads⟩ := s.started_frame i q
  have mine : (s.started i q).myCore = (s.myCore.takesSem i).setHead (engOf i) (q.begins s i) := by
    rw [State.myCore, cur, State.core_started, if_pos rfl, cmd]
  have eng : (s.myCore.takesSem i).eng = s.myCore.eng := by rw [Core.takesSem_rest]
  have rest := s.core_started_rest i q
  refine ⟨⟨?_, fun e ne => ?_, fun n => ?_, cur, fun c => ?_, fun r => ?_⟩, fun r j => ?_, reads.keepsMemory.memory, reads.keepsMemory.seen⟩
  · rw [mine, Core.setHead, eng]
    exact Vector.getElem_set_self _
  · rw [mine, Core.setHead, eng]
    exact Vector.getElem_set_ne (Fin.isLt _) (Fin.isLt _) fun h => ne (Fin.ext h.symm)
  · rw [mine]
    exact Core.sem_takesSem s.myCore i n
  · obtain ⟨r, n⟩ := c
    show (((s.started i q).core r).ctx n).x = ((s.core r).ctx n).x
    rw [rest]
    cases n <;> rfl
  · rw [rest]
  · rw [rest]
    rfl

/-! ## The start of a MIGRATE -/

/-- The migration that a MIGRATE asks for. -/
def State.asksMigration (s : State) (b : MigrateBody) (q : QEntry) (d : Nat) : Migration :=
  ⟨pageOf d, ⟨b.dpkg.toNat, b.dsl.toNat⟩, s.homes.curHome (pageOf d), (s.homes.placeRec (pageOf d)).st, [], .queued,
    some s.cur.at_, if b.staddr = 0 then none else q.dla b.staddr.toNat, false⟩

theorem State.startable_of_atHead {s : State} {i : Instr} {q : QEntry} (h : AtHead s i q) : s.startable s.cur.at_ i = some q := by
  obtain ⟨head, cmd, queued, clear, ready, runs⟩ := h
  cases e : s.myCore.eng[engOf i] with
  | nil => rw [e] at head; cases head
  | cons x l =>
    rw [e] at head
    obtain rfl := Option.some.inj head
    rw [State.startable, show (s.core s.cur.at_).eng[engOf i] = x :: l from e]
    exact if_pos ⟨cmd, queued, clear, ready, runs⟩

theorem execMigrate_starts {s : State} {h : CmdHdr} {b : MigrateBody} {q : QEntry} {d : Nat} (head : AtHead s (.migrate h b) q)
    (count : h.vcnt ≠ 0) (hit : q.dla b.addr.toNat = some d) (ok : s.dlaOk d = true) :
    exec (.migrate h b) s = .next ((s.started (.migrate h b) q).askMig (s.asksMigration b q d)) := by
  obtain ⟨-, -, -, fab, mgmt, -⟩ := s.atStart_frame (.migrate h b)
  obtain ⟨cur, homes, -⟩ := s.started_frame (.migrate h b) q
  have ok' : (atStart s (.migrate h b)).dlaOk d = true := by
    rw [← ok]
    simp only [State.dlaOk, State.reachable, State.feature, fab, mgmt]
  show go (withStart (.migrate h b) s _) = _
  rw [withStart, State.startable_of_atHead head]
  dsimp only
  rw [hit]
  dsimp only
  rw [show takeSem s s.cur.at_ (.migrate h b) = atStart s (.migrate h b) from rfl, ok', if_neg (by simp), if_neg count]
  rw [show begun (atStart s (.migrate h b)) q [] none none [] = s.started (.migrate h b) q from rfl, homes, cur]
  rfl

/-- R95, R274: a MIGRATE starts, and its migration begins. -/
theorem migrateStarts : Spec.MigrateStarts := by
  intro s h b q d head count hit ok none dest cur moves reachOld reachNew key place stub
  have cmd : q.cmd = .migrate h b := head.2.1
  let u := s.started (.migrate h b) q
  let m := s.asksMigration b q d
  obtain ⟨cur', homes, fab, mgmt, reads⟩ := s.started_frame (.migrate h b) q
  obtain ⟨starts, keeps⟩ := starts_started (s := s) cmd
  have reach (p : Nat) : u.reachable p = s.reachable p := by simp only [State.reachable, State.feature, u, fab, mgmt]
  have may : MayBegin u m := ⟨rfl, by rw [homes]; exact none, by rw [homes]; exact moves, by rw [homes, reach]; exact reachOld,
    by rw [reach]; exact reachNew, by rw [homes, fab]; exact key, by rw [homes, fab]; exact place, by rw [homes]; exact stub⟩
  have step := execMigrate_starts head count hit ok
  rw [may.askMig] at step
  obtain ⟨st, at_, first⟩ := State.migBegun_spec may.none
  refine ⟨_, _, step, ⟨starts.head, starts.queues, starts.sem, starts.cur, starts.regs, starts.vector⟩, st, ?_, first, rfl, ?_, rfl,
    keeps.rows, ?_, ?_⟩
  · exact at_.trans (congrArg (fun g : Homes => g.curHome (pageOf d)) homes)
  · exact congrArg (fun g : Homes => g.curHome (pageOf d)) homes
  · exact (reads.trans (readsAlike_migBegun u m)).keepsMemory.memory
  · exact (reads.trans (readsAlike_migBegun u m)).keepsMemory.seen

end Sys2Proof.Machine

open Sys2Proof Sys2Proof.Machine Sys2Proof.Spec

/-- Settles O45: a MIGRATE starts (`migrateStarts`), a migration proceeds (`migrationsProceed`) and switches (`migrationsSwitch`), and a stub is
reclaimed (`stubsAreReclaimed`). -/
theorem migrations : Obligations.Migrations := ⟨migrateStarts, migrationsProceed, migrationsSwitch, stubsAreReclaimed⟩
end

section
/-! SUPPORT. Row accesses (R103, R245): what the settling of a core and the fall of its FENCEs leave, how a row enters a load queue, and
the obligation that they settle (O14). -/

namespace Sys2Proof.Machine

open Sys2Proof.Spec

/-! ## What an access that is gone leaves -/

/-- A settling core loses at most its task. -/
theorem State.core_settle (s : State) (r k : CoreRef) : ∃ x, (s.settle r).core k = { s.core k with task := x } := by
  by_cases h : k = r
  · subst h
    unfold State.settle
    split
    · split
      · exact ⟨none, State.core_updCore s k _⟩
      · exact ⟨_, rfl⟩
    · exact ⟨_, rfl⟩
  · exact ⟨_, State.core_settle_ne s h⟩

theorem State.lq_settle (s : State) (r k : CoreRef) : ((s.settle r).core k).lq = (s.core k).lq := by
  obtain ⟨x, e⟩ := s.core_settle r k
  rw [e]

theorem State.ctx_settle (s : State) (r : CoreRef) (c : CtxRef) : (s.settle r).ctx c = s.ctx c := by
  obtain ⟨x, e⟩ := s.core_settle r c.at_
  rw [State.ctx, State.ctx, e]
  cases c.ctx <;> rfl

theorem ReadsAlike.settle (s : State) (r : CoreRef) : ReadsAlike s (s.settle r) := by
  unfold State.settle
  split
  · split
    · exact ReadsAlike.updCore s r _
    · exact ReadsAlike.of_eq rfl rfl
  · exact ReadsAlike.of_eq rfl rfl

/-- An update of one core leaves on every core what it leaves on that one. -/
theorem State.updCore_leaves {α : Type} (p : Core → α) (f : Core → Core) (h : ∀ c, p (f c) = p c) (s : State) (r k : CoreRef) :
    p ((s.updCore r f).core k) = p (s.core k) :=
  CoresVia.updCore (R := fun c d => p d = p c) s r (fun _ => rfl) h k

theorem State.lq_updCtx (s : State) (c : CtxRef) (f : Context → Context) (k : CoreRef) : ((s.updCtx c f).core k).lq = (s.core k).lq :=
  State.updCore_leaves Core.lq _ (fun _ => by cases c.ctx <;> rfl) s c.at_ k

theorem State.row_updCtx (s : State) (c : CtxRef) (f : Context → Context) (k : CoreRef) (i : Nat) :
    ((s.updCtx c f).core k).row i = (s.core k).row i :=
  State.updCore_leaves (Core.row · i) _ (fun _ => by cases c.ctx <;> rfl) s c.at_ k

theorem State.lq_sweep (s : State) (c : CtxRef) (k : CoreRef) : ((s.sweep c).core k).lq = (s.core k).lq :=
  State.updCore_leaves Core.lq Core.sweep (fun _ => rfl) s c.at_ k

theorem State.row_sweep (s : State) (c : CtxRef) (k : CoreRef) (i : Nat) : ((s.sweep c).core k).row i = (s.core k).row i :=
  State.updCore_leaves (Core.row · i) Core.sweep (fun _ => rfl) s c.at_ k

/-- The fall of FENCEs adds no access (R108). -/
theorem sweepOut_sublist (log : List LogEntry) (n : CtxName) (before l : List Access) : (sweepOut log n before l).Sublist l := by
  induction l generalizing before with
  | nil => exact List.Sublist.refl _
  | cons a t ih =>
    unfold sweepOut
    split
    · split
      · exact (ih _).cons_cons a
      · exact (ih _).cons a
    · exact (ih _).cons_cons a

theorem State.out_sweep (s : State) (c : CtxRef) : (((s.sweep c).ctx c).out).Sublist (s.ctx c).out := by
  rw [State.ctx, State.ctx, State.sweep, State.core_updCore]
  cases c.ctx <;> exact sweepOut_sublist _ _ _ _

/-- An access that is dropped is no longer outstanding. -/
theorem State.seq_ne_of_mem_dropAccess {s : State} {c : CtxRef} {n : Nat} {b : Access} (h : b ∈ ((s.dropAccess c n).ctx c).out) : b.seq ≠ n := by
  rw [State.dropAccess, State.ctx_settle] at h
  have left := (State.out_sweep _ c).subset h
  rw [State.ctx_updCtx] at left
  exact bne_iff_ne.1 (List.mem_filter.1 left).2

theorem State.row_dropAccess (s : State) (c : CtxRef) (n : Nat) (k : CoreRef) (i : Nat) :
    ((s.dropAccess c n).core k).row i = (s.core k).row i := by
  rw [State.dropAccess, State.row_settle, State.row_sweep, State.row_updCtx]

/-! ## The rows that enter a load queue (R245) -/

/-- An access fills no entry of a load queue. -/
def Access.NotFor (q : Fin 4) (b : Access) : Prop := ∀ p s' r' o g, b.op = .qld p s' r' o g → p ≠ q

/-- An access that fills an entry of a load queue has still to read its row. -/
def Access.Unread (q : Fin 4) (b : Access) : Prop := ∀ s' r' o g, b.op = .qld q s' r' o g → g = none

theorem deliver_notFor {q : Fin 4} {a : Access} (h : a.NotFor q) (t : List Access) (l : List (Option Row)) :
    deliver q (a :: t) l = (a :: (deliver q t l).1, (deliver q t l).2) := by
  cases hop : a.op with
  | qld p s' r' o g => simp only [deliver, hop, h p s' r' o g hop, if_false]
  | _ => simp only [deliver, hop]

theorem deliver_read {q : Fin 4} {a : Access} {src : CoreRef} {row : Nat} {slot : Option (Nat × Nat)} {v : Row}
    (h : a.op = .qld q src row slot (some v)) (t : List Access) (l : List (Option Row)) :
    deliver q (a :: t) l = deliver q t (fillFirst v l) := by
  simp only [deliver, h, if_true]

theorem deliver_unread {q : Fin 4} {t : List Access} (h : ∀ b ∈ t, b.Unread q) (l : List (Option Row)) : deliver q t l = (t, l) := by
  induction t with
  | nil => rfl
  | cons a t ih =>
    have rest := ih fun b hb => h b (List.mem_cons_of_mem a hb)
    by_cases for_ : a.NotFor q
    · rw [deliver_notFor for_, rest]
    · obtain ⟨s', r', o, g, hop⟩ : ∃ s' r' o g, a.op = .qld q s' r' o g := by
        simp only [Access.NotFor, not_forall, not_not] at for_
        obtain ⟨p, s', r', o, g, hop, rfl⟩ := for_
        exact ⟨s', r', o, g, hop⟩
      obtain rfl := h a List.mem_cons_self s' r' o g hop
      simp only [deliver, hop, if_true]

/-- The row of an access enters its queue, where none that fills the queue stands before it and none behind it has been read. -/
theorem deliver_first {q : Fin 4} {a : Access} {src : CoreRef} {row : Nat} {slot : Option (Nat × Nat)} {v : Row} {pre post : List Access}
    (read : a.op = .qld q src row slot (some v)) (before : ∀ b ∈ pre, b.NotFor q) (after : ∀ b ∈ post, b.Unread q) (l : List (Option Row)) :
    deliver q (pre ++ a :: post) l = (pre ++ post, fillFirst v l) := by
  induction pre with
  | nil => exact (deliver_read read post l).trans (deliver_unread after _)
  | cons b pre ih =>
    rw [List.cons_append, deliver_notFor (before b List.mem_cons_self), ih fun x hx => before x (List.mem_cons_of_mem b hx)]
    rfl

/-- An access takes another form under its issue number, and no other changes. -/
theorem mapIf_seq {a x : Access} {pre post : List Access} (same : a.seq = x.seq) (alone : ∀ b ∈ pre ++ post, b.seq ≠ a.seq) :
    mapIf (fun b => b.seq == x.seq) (fun _ => x) (pre ++ a :: post) = pre ++ x :: post := by
  have others {l : List Access} (h : ∀ b ∈ l, b.seq ≠ a.seq) : (l.map fun b => if b.seq == x.seq then x else b) = l :=
    (List.map_congr_left fun b hb => if_neg (by simpa [same] using h b hb)).trans (List.map_id' l)
  rw [mapIf, List.map_append, List.map_cons, others fun b hb => alone b (List.mem_append_left _ hb),
    others fun b hb => alone b (List.mem_append_right _ hb), if_pos (beq_iff_eq.2 same)]

/-! ## What performs (R103) -/

theorem State.performAccess_qld {s : State} {c : CtxRef} {a : Access} {q : Fin 4} {src : CoreRef} {row : Nat} {slot : Option (Nat × Nat)}
    (op : a.op = .qld q src row slot none) (old : s.oldest c a = true) : s.performAccess c a = s.qldArrives c a q src row slot := by
  simp only [State.performAccess, op, old, State.behindRelay, Bool.not_true, Bool.or_self, Bool.false_eq_true, if_false]

theorem State.performAccess_qst {s : State} {c : CtxRef} {a : Access} {dst : CoreRef} {row : Nat} {v : Row}
    (op : a.op = .qst dst row v) (old : s.oldest c a = true) (awake : (s.core dst).rowStalled row = false) :
    s.performAccess c a = (s.updCore dst fun k => k.setRow row v).dropAccess c a.seq := by
  simp only [State.performAccess, op, old, awake, State.behindRelay, Bool.not_true, Bool.or_self, Bool.false_eq_true, if_false]

/-- An access that its context issued before every other outstanding one, and of whose classes nothing stands in the side log, is the oldest. -/
theorem State.oldest_head {s : State} {c : CtxRef} {a : Access} {rest : List Access} (out : (s.ctx c).out = a :: rest)
    (first : ∀ b ∈ rest, a.seq < b.seq) (log : s.logged c a.cls = false) : s.oldest c a = true := by
  have earlier : (s.ctx c).out.any (fun b => decide (b.seq < a.seq) && b.pending && meets b.cls a.cls) = false := by
    refine List.any_eq_false.2 fun b hb => ?_
    have : ¬ b.seq < a.seq := by
      rcases List.mem_cons.1 (out ▸ hb) with rfl | hb
      · exact Nat.lt_irrefl _
      · exact Nat.lt_asymm (first b hb)
    simp [this]
  have logged : ((s.core c.at_).sideLog.any fun e => e.ctx == c.ctx && decide (e.seq < a.seq) && meets e.cls a.cls) = false := by
    refine List.any_eq_false.2 fun e he => ?_
    have := List.any_eq_false.1 log e he
    grind
  rw [State.oldest, State.drainedBefore, earlier, logged]
  rfl

/-! ## The arrival of a row (R245) -/

/-- An access that is alone with its issue number, before which none fills its queue, and behind which none that does has been read. -/
structure EntersNext (q : Fin 4) (a : Access) (pre post : List Access) : Prop where
  alone : ∀ b ∈ pre ++ post, b.seq ≠ a.seq
  before : ∀ b ∈ pre, b.NotFor q
  after : ∀ b ∈ post, b.Unread q

/-- An access of a load context has read its row, and the rows that can enter its queue do. -/
def State.rowRead (s : State) (r : CoreRef) (q : Fin 4) (x : Access) : State :=
  (s.setAccess ⟨r, .load⟩ x).updCore r fun k => k.deliver q

theorem State.qldArrives_awake {s : State} {r src : CoreRef} {row : Nat} (awake : (s.core src).rowStalled row = false) (a : Access) (q : Fin 4)
    (slot : Option (Nat × Nat)) : s.qldArrives ⟨r, .load⟩ a q src row slot =
      ((s.rowRead r q { a with op := .qld q src row slot (some ((s.core src).row row)) }).sweep ⟨r, .load⟩).settle r := by
  rw [State.qldArrives, awake]
  rfl

theorem State.row_rowRead (s : State) (r : CoreRef) (q : Fin 4) (x : Access) (k : CoreRef) (i : Nat) :
    ((s.rowRead r q x).core k).row i = (s.core k).row i :=
  (State.updCore_leaves (Core.row · i) (Core.deliver · q) (fun _ => rfl) _ r k).trans (State.row_updCtx s ⟨r, .load⟩ _ k i)

theorem ReadsAlike.rowRead (s : State) (r : CoreRef) (q : Fin 4) (x : Access) : ReadsAlike s (s.rowRead r q x) :=
  (ReadsAlike.updCore s r _).trans (ReadsAlike.updCore _ r _)

/-- Where an access enters next, its row enters its queue once it is read, and the access is gone. -/
theorem State.core_rowRead {s : State} {r src : CoreRef} {a x : Access} {q : Fin 4} {row : Nat} {slot : Option (Nat × Nat)} {v : Row}
    {pre post : List Access} (out : (s.ctx ⟨r, .load⟩).out = pre ++ a :: post) (next : EntersNext q a pre post) (same : a.seq = x.seq)
    (read : x.op = .qld q src row slot (some v)) : let t := s.rowRead r q x
    (t.core r).lq[q] = fillFirst v (s.core r).lq[q] ∧ (t.ctx ⟨r, .load⟩).out = pre ++ post := by
  intro t
  have delivered : deliver q (mapIf (fun b => b.seq == x.seq) (fun _ => x) (s.core r).l.out) (s.core r).lq[q] =
      (pre ++ post, fillFirst v (s.core r).lq[q]) := by
    rw [show (s.core r).l.out = _ from out, mapIf_seq same next.alone]
    exact deliver_first read next.before next.after _
  have core : t.core r = ((s.core r).updCtx .load fun c => { c with out := mapIf (fun b => b.seq == x.seq) (fun _ => x) c.out }).deliver q :=
    (State.core_updCore _ r _).trans (congrArg (Core.deliver · q) (State.core_updCore s r _))
  refine ⟨?_, (congrArg (fun k : Core => k.l.out) core).trans (congrArg Prod.fst delivered)⟩
  rw [core]
  exact (Vector.getElem_set_self _).trans (congrArg Prod.snd delivered)

/-- The row of a QLD that enters next enters the first entry that awaits one, and its access is gone (R245). -/
theorem State.qldArrives_enters {s : State} {r src : CoreRef} {a : Access} {q : Fin 4} {row : Nat} {pre post : List Access}
    (slot : Option (Nat × Nat)) (out : (s.ctx ⟨r, .load⟩).out = pre ++ a :: post) (next : EntersNext q a pre post)
    (awake : (s.core src).rowStalled row = false) : let t := s.qldArrives ⟨r, .load⟩ a q src row slot
    (t.core r).lq[q] = fillFirst ((s.core src).row row) (s.core r).lq[q] ∧ (∀ b ∈ (t.ctx ⟨r, .load⟩).out, b.seq ≠ a.seq) ∧
      (∀ k i, (t.core k).row i = (s.core k).row i) ∧ ReadsAlike s t := by
  rw [State.qldArrives_awake awake]
  obtain ⟨queue, left⟩ :=
    State.core_rowRead (x := { a with op := .qld q src row slot (some ((s.core src).row row)) }) out next rfl rfl
  refine ⟨?_, fun b hb => ?_, fun k i => ?_, ?_⟩
  · rw [State.lq_settle, State.lq_sweep, queue]
  · rw [State.ctx_settle] at hb
    exact next.alone b (left ▸ (State.out_sweep _ ⟨r, .load⟩).subset hb)
  · rw [State.row_settle, State.row_sweep, State.row_rowRead]
  · exact ((ReadsAlike.rowRead s r q _).trans (ReadsAlike.updCore _ r _)).trans (ReadsAlike.settle _ r)

/-- Issue numbers that do not repeat single out every access. -/
theorem seq_ne_of_nodup {a : Access} {pre post : List Access} (h : ((pre ++ a :: post).map Access.seq).Nodup) :
    ∀ b ∈ pre ++ post, b.seq ≠ a.seq := by
  rw [(List.perm_middle.map Access.seq).nodup_iff, List.map_cons, List.nodup_cons] at h
  exact fun b hb e => h.1 (List.mem_map.2 ⟨b, hb, e⟩)

/-! ## The obligation -/

/-- R103, R245: outstanding row accesses perform. -/
theorem rowAccessesPerform : Spec.RowAccessesPerform := by
  intro s c j a q src dst row slot v hj old
  have split : (s.ctx c).out = (s.ctx c).out.take j ++ a :: (s.ctx c).out.drop (j + 1) := by
    obtain ⟨lt, rfl⟩ := List.getElem?_eq_some_iff.1 hj
    rw [List.getElem_cons_drop, List.take_append_drop]
  have performs : s.perform c j = s.performAccess c a := by rw [State.perform, hj]
  rw [performs]
  refine ⟨fun op load nodup before after awake => ?_, fun op awake => ?_⟩
  · obtain ⟨r, n⟩ := c
    obtain rfl : n = .load := load
    obtain ⟨queue, gone, rows, -⟩ :=
      State.qldArrives_enters slot split ⟨seq_ne_of_nodup (split ▸ nodup), before, after⟩ awake
    rw [State.performAccess_qld op old]
    exact ⟨queue, gone, rows⟩
  · rw [State.performAccess_qst op old awake]
    refine ⟨fun k i => ?_, fun b => State.seq_ne_of_mem_dropAccess⟩
    rw [State.row_dropAccess]
    by_cases hk : k = dst
    · subst hk
      rw [State.core_updCore, Core.row_setRow]
      simp
    · rw [State.core_updCore_ne s _ hk, if_neg fun e => hk e.1]

/-- R245: QLD_ROW_ARRIVAL is the arrival of the oldest row that the queue awaits. -/
theorem qldRowArrives : Spec.QldRowArrives := by
  intro s r q a rest src row slot out op first after log awake
  have found : (s.ctx ⟨r, .load⟩).out.find? (fun b => b.awaits q.toFin) = some a := by
    rw [out]
    exact List.find?_cons_of_pos (by simp [Access.awaits, op])
  have step : exec (.qldRowArrival r q) s = .next (s.qldArrives ⟨r, .load⟩ a q.toFin src row slot) := by
    show execQldRowArrival r q s = _
    rw [execQldRowArrival, found]
    exact congrArg go (State.performAccess_qld op (State.oldest_head out first log))
  obtain ⟨queue, gone, -, reads⟩ :=
    State.qldArrives_enters slot (pre := []) out ⟨fun b hb => (first b hb).ne', fun _ h => absurd h List.not_mem_nil, after⟩ awake
  exact ⟨_, step, queue, gone, reads.keepsMemory.seen⟩

end Sys2Proof.Machine

open Sys2Proof Sys2Proof.Machine Sys2Proof.Spec

/-- Settles O14: outstanding row accesses perform (`rowAccessesPerform`), and QLD_ROW_ARRIVAL brings the oldest row that a load queue awaits
(`qldRowArrives`). -/
theorem rowAccessesLand : Obligations.RowAccessesLand := ⟨rowAccessesPerform, qldRowArrives⟩
end

section
/-! SUPPORT. Reset: the die, the core, the context and the work queue that reset leaves at every place, and the obligation that they
settle (O60). -/

namespace Sys2Proof.Machine

/-! ## What stands at every place -/

@[simp] theorem State.die_reset (i : Fin 6) : State.reset.die i = Die.reset := Vector.getElem_replicate _

@[simp] theorem State.core_reset (r : CoreRef) : State.reset.core r = Core.reset := by
  rw [State.core, State.die_reset]
  exact Vector.getElem_replicate _

@[simp] theorem Core.ctx_reset (n : CtxName) : Core.reset.ctx n = Context.reset := by cases n <;> rfl

@[simp] theorem State.ctx_reset (c : CtxRef) : State.reset.ctx c = Context.reset := by
  rw [State.ctx, State.core_reset, Core.ctx_reset]

/-- No queue is listed, so each stands as R292 to R294 leave it. -/
@[simp] theorem State.queue_reset (q : BitVec 14) : State.reset.queue q = WorkQueue.reset q.toNat := rfl

/-! ## The registers of a context, a core and a die -/

/-- R20, R171: VDTAB and the command registers of a context. -/
theorem Context.registers_reset : Context.reset.vdtab = 0 ∧ ∀ k : Fin 8, Context.reset.k[k] = 0 :=
  ⟨rfl, fun _ => Vector.getElem_replicate _⟩

/-- R143, R149, R150, R170: LFSR, VTYPE, VSTAT and the amax registers. -/
theorem VectorFile.registers_reset : VectorFile.reset.lfsr = 1 ∧ VectorFile.reset.vtype = 0 ∧ VectorFile.reset.vstat = 0 ∧
    ∀ n : Fin 16, VectorFile.reset.am[n] = 0 :=
  ⟨rfl, rfl, rfl, fun _ => Vector.getElem_replicate _⟩

/-- R251: the shape registers. -/
theorem Core.shapes_reset (n : Fin 16) : Core.reset.h[n] = 0 := Vector.getElem_replicate _

/-- R85, R86: the rings. -/
theorem Core.rings_reset (n : Fin 32) : Core.reset.rings[n] = ⟨0, 0, 0, 0, 0, 0⟩ := Vector.getElem_replicate _

/-- R316: the strips. -/
theorem Die.strips_reset (c : Fin 8) : Die.reset.strips[c] = .free := Vector.getElem_replicate _

end Sys2Proof.Machine

open Sys2Proof Sys2Proof.Machine

/-- Settles O60: reset leaves one die at every site (`State.die_reset`), one core at every place of a die (`State.core_reset`), one context
thrice in a core (`State.ctx_reset`) and no queue (`State.queue_reset`), and these hold the values named, as do the homes (`State.wf_reset`),
the management registers and the fabric. -/
theorem resetState : Obligations.ResetState := by
  unfold Obligations.ResetState
  refine ⟨State.wf_reset, fun c => ?context, fun r => ?core, fun i => ?die, rfl, rfl, rfl, rfl, rfl, rfl, rfl, rfl, fun no => ?queue,
    rfl, rfl, rfl, rfl⟩
  case context =>
    rw [State.ctx_reset]
    exact Context.registers_reset
  case core =>
    obtain ⟨lfsr, vtype, vstat, amax⟩ := VectorFile.registers_reset
    rw [State.core_reset]
    exact ⟨lfsr, vtype, vstat, fun n => ⟨amax n, Core.shapes_reset n⟩, Core.rings_reset⟩
  case die =>
    rw [State.die_reset]
    exact ⟨rfl, rfl, Die.strips_reset⟩
  case queue =>
    rw [State.queue_reset]
    exact ⟨rfl, rfl, rfl⟩
end

section
/-! SUPPORT. Words laid out from fields (R8): a word that is the sum of fields that share no bit reads back as each of them, and a decoder's
tests on it come out as the bits that no field takes decide. -/

namespace Sys2Proof.Machine

/-- A field of a word: its lowest bit and its value. -/
structure WordField where
  lo : Nat
  {len : Nat}
  val : BitVec len

/-- Where a field lies: its lowest bit and its length. -/
def WordField.place (f : WordField) : Nat × Nat := (f.lo, f.len)

/-- What a field adds to its word. -/
def WordField.num (f : WordField) : Nat := f.val.toNat * 2 ^ f.lo

/-- Two fields share no bit. -/
def apart (p q : Nat × Nat) : Bool := decide (p.1 + p.2 ≤ q.1) || decide (q.1 + q.2 ≤ p.1)

/-- A number with fields added to it, the head of the list last. -/
def laid (m : Nat) : List WordField → Nat
  | [] => m
  | f :: l => laid m l + f.num

/-- A number m of n bits has room for fields: they lie within n bits, share no bit, and find 0 in m. -/
def fits (n m : Nat) : List (Nat × Nat) → Bool
  | [] => decide (m < 2 ^ n)
  | p :: l => decide (p.1 + p.2 ≤ n) && l.all (apart p) && decide (m / 2 ^ p.1 % 2 ^ p.2 = 0) && fits n m l

/-- The bits that fields take. -/
def cover : List (Nat × Nat) → Nat
  | [] => 0
  | p :: l => cover l ||| (2 ^ p.2 - 1) * 2 ^ p.1

/-- Every field of a word reads as its value. -/
def ReadsBack {n : Nat} (w : BitVec n) (l : List WordField) : Prop := ∀ f ∈ l, w.extractLsb' f.lo f.len = f.val

/-- A word is m outside the bits of c. -/
def AgreesOff {n : Nat} (w : BitVec n) (m c : Nat) : Prop := w.toNat ||| c = m ||| c

theorem WordField.testBit_num (f : WordField) (j : Nat) : f.num.testBit j = (decide (f.lo ≤ j) && f.val.getLsbD (j - f.lo)) := by
  rw [num, Nat.testBit_mul_two_pow, BitVec.testBit_toNat]

theorem apart_iff {p q : Nat × Nat} : apart p q = true ↔ p.1 + p.2 ≤ q.1 ∨ q.1 + q.2 ≤ p.1 := by
  simp [apart]

theorem apart_comm {p q : Nat × Nat} (h : apart p q = true) : apart q p = true := apart_iff.mpr (apart_iff.mp h).symm

theorem WordField.testBit_away {f : WordField} {p : Nat × Nat} {k : Nat} (h : apart f.place p = true) (hk : k < p.2) :
    f.num.testBit (p.1 + k) = false := by
  rw [testBit_num, Bool.and_eq_false_iff, decide_eq_false_iff_not]
  rcases apart_iff.mp h with below | above
  · exact .inr (BitVec.getLsbD_of_ge _ _ (by simp only [place] at below; omega))
  · exact .inl (by simp only [place] at above; omega)

/-- Where no bit is 1 in both, numbers add without a carry. -/
theorem testBit_add_of_disjoint {a b : Nat} (h : ∀ j, a.testBit j = true → b.testBit j = false) (j : Nat) :
    (a + b).testBit j = (a.testBit j || b.testBit j) := by
  obtain ⟨n, hn⟩ : ∃ n, a + b < 2 ^ n := ⟨_, Nat.lt_two_pow_self⟩
  obtain ⟨ha, hb⟩ : a < 2 ^ n ∧ b < 2 ^ n := by omega
  have none : BitVec.ofNat n a &&& BitVec.ofNat n b = 0#n := BitVec.eq_of_getLsbD_eq fun i hi => by
    rw [BitVec.getLsbD_and, BitVec.getLsbD_ofNat, BitVec.getLsbD_ofNat, BitVec.getLsbD_zero]
    cases one : a.testBit i
    · simp
    · simp [h i one]
  have sum := congrArg BitVec.toNat (BitVec.add_eq_or_of_and_eq_zero _ _ none)
  rw [← BitVec.ofNat_add, BitVec.toNat_or, BitVec.toNat_ofNat, BitVec.toNat_ofNat, BitVec.toNat_ofNat, Nat.mod_eq_of_lt hn,
    Nat.mod_eq_of_lt ha, Nat.mod_eq_of_lt hb] at sum
  rw [sum, Nat.testBit_or]

/-- A number takes a field where it holds 0. -/
theorem testBit_add_num {a : Nat} {f : WordField} (h : ∀ k < f.len, a.testBit (f.lo + k) = false) (j : Nat) :
    (a + f.num).testBit j = (a.testBit j || f.num.testBit j) := by
  refine testBit_add_of_disjoint (fun i hi => ?_) j
  rw [WordField.testBit_num, Bool.and_eq_false_iff, decide_eq_false_iff_not]
  by_contra inside
  obtain ⟨low, bit⟩ : f.lo ≤ i ∧ i - f.lo < f.len := by
    simp only [not_or, not_not, Bool.not_eq_false] at inside
    exact ⟨inside.1, BitVec.lt_of_getLsbD inside.2⟩
  have zero := h _ bit
  rw [Nat.add_sub_cancel' low, hi] at zero
  exact Bool.noConfusion zero

theorem fits_cons {n m : Nat} {p : Nat × Nat} {l : List (Nat × Nat)} (h : fits n m (p :: l) = true) :
    p.1 + p.2 ≤ n ∧ (∀ q ∈ l, apart p q = true) ∧ m / 2 ^ p.1 % 2 ^ p.2 = 0 ∧ fits n m l = true := by
  simpa only [fits, Bool.and_eq_true, decide_eq_true_eq, List.all_eq_true, and_assoc] using h

/-- A word that is laid out holds 0 where no field lies and m holds 0. -/
theorem testBit_laid_apart {n m : Nat} {l : List WordField} {p : Nat × Nat} (h : fits n m (l.map WordField.place) = true)
    (away : ∀ q ∈ l.map WordField.place, apart p q = true) (zero : m / 2 ^ p.1 % 2 ^ p.2 = 0) :
    ∀ k < p.2, (laid m l).testBit (p.1 + k) = false := by
  induction l generalizing p with
  | nil =>
    intro k hk
    have bit := Nat.testBit_mod_two_pow (m / 2 ^ p.1) p.2 k
    rw [zero, Nat.zero_testBit, decide_eq_true hk, Bool.true_and, Nat.testBit_div_two_pow, Nat.add_comm] at bit
    exact bit.symm
  | cons f l ih =>
    intro k hk
    obtain ⟨-, free, clear, rest⟩ := fits_cons h
    obtain ⟨hf, hl⟩ := List.forall_mem_cons.mp away
    rw [laid, testBit_add_num (ih rest free clear), ih rest hl zero k hk, WordField.testBit_away (apart_comm hf) hk, Bool.or_false]

theorem testBit_laid_cons {n m : Nat} {f : WordField} {l : List WordField} (h : fits n m ((f :: l).map WordField.place) = true) (j : Nat) :
    (laid m (f :: l)).testBit j = ((laid m l).testBit j || f.num.testBit j) := by
  obtain ⟨-, free, clear, rest⟩ := fits_cons h
  exact testBit_add_num (testBit_laid_apart rest free clear) j

/-- Every field of a word that is laid out reads as its value. -/
theorem readsBack_laid {n m : Nat} {l : List WordField} (h : fits n m (l.map WordField.place) = true) :
    ReadsBack (BitVec.ofNat n (laid m l)) l := by
  suffices bits : ∀ f ∈ l, f.lo + f.len ≤ n ∧ ∀ k < f.len, (laid m l).testBit (f.lo + k) = f.val.getLsbD k by
    intro f hf
    obtain ⟨room, bit⟩ := bits f hf
    refine BitVec.eq_of_getLsbD_eq fun k hk => ?_
    rw [BitVec.getLsbD_extractLsb', BitVec.getLsbD_ofNat, bit k hk, decide_eq_true hk, decide_eq_true (by omega : f.lo + k < n)]
    rfl
  induction l with
  | nil => exact fun f hf => absurd hf List.not_mem_nil
  | cons f l ih =>
    obtain ⟨room, free, clear, rest⟩ := fits_cons h
    refine List.forall_mem_cons.mpr ⟨⟨room, fun k hk => ?_⟩, fun g hg => ⟨(ih rest g hg).1, fun k hk => ?_⟩⟩
    · rw [testBit_laid_cons h, show f.lo = f.place.1 from rfl, testBit_laid_apart rest free clear k hk, WordField.testBit_num]
      simp [WordField.place]
    · have off : f.num.testBit (g.lo + k) = false := WordField.testBit_away (p := g.place) (free _ (List.mem_map_of_mem hg)) hk
      rw [testBit_laid_cons h, (ih rest g hg).2 k hk, off, Bool.or_false]

theorem lt_of_fits {n m : Nat} {l : List (Nat × Nat)} (h : fits n m l = true) : m < 2 ^ n := by
  induction l with
  | nil => exact of_decide_eq_true h
  | cons p l ih => exact ih (fits_cons h).2.2.2

theorem laid_or_cover {n m : Nat} {l : List WordField} (h : fits n m (l.map WordField.place) = true) :
    laid m l ||| cover (l.map WordField.place) = m ||| cover (l.map WordField.place) := by
  apply Nat.eq_of_testBit_eq
  intro j
  induction l with
  | nil => rfl
  | cons f l ih =>
    obtain ⟨-, -, -, rest⟩ := fits_cons h
    have same := ih rest
    rw [Nat.testBit_or, Nat.testBit_or] at same ⊢
    rw [testBit_laid_cons h, List.map_cons, cover, Nat.testBit_or, Nat.testBit_mul_two_pow, Nat.testBit_two_pow_sub_one,
      WordField.testBit_num, WordField.place]
    by_cases within : j - f.lo < f.len
    · cases decide (f.lo ≤ j) <;> simp [within, same]
    · simp [BitVec.getLsbD_of_ge f.val (j - f.lo) (Nat.le_of_not_lt within), within, same]

/-- Outside its fields a word that is laid out is m. -/
theorem agreesOff_laid {n m : Nat} {l : List WordField} (h : fits n m (l.map WordField.place) = true) :
    AgreesOff (BitVec.ofNat n (laid m l)) m (cover (l.map WordField.place)) := by
  apply Nat.eq_of_testBit_eq
  intro j
  rw [BitVec.toNat_ofNat, Nat.testBit_or, Nat.testBit_mod_two_pow]
  by_cases hj : j < n
  · rw [decide_eq_true hj, Bool.true_and, ← Nat.testBit_or, laid_or_cover h]
  · rw [decide_eq_false hj, Bool.false_and, Nat.testBit_or,
      Nat.testBit_lt_two_pow (lt_of_lt_of_le (lt_of_fits h) (Nat.pow_le_pow_right Nat.two_pos (Nat.le_of_not_lt hj)))]

/-! ## What a decoder's test sees of a word -/

/-- Whether a test of bits lo + len - 1 : lo for the value v comes out the same on every word that is m outside c: the test sees
nothing of c, or testFails outside c. -/
def testSettled (m c lo len v : Nat) : Bool :=
  decide (c / 2 ^ lo % 2 ^ len = 0) || decide (m / 2 ^ lo % 2 ^ len ||| c / 2 ^ lo % 2 ^ len ≠ v ||| c / 2 ^ lo % 2 ^ len)

/-- A test that comes out true on every word that is m outside c. -/
def testPasses (m c lo len v : Nat) : Bool := testSettled m c lo len v && decide (m / 2 ^ lo % 2 ^ len = v)

/-- A test that comes out false on every word that is m outside c. -/
def testFails (m c lo len v : Nat) : Bool := testSettled m c lo len v && !decide (m / 2 ^ lo % 2 ^ len = v)

/-- A testSettled test comes out on a word as on m. -/
theorem fld_eq_iff {n m c lo len v : Nat} {w : BitVec n} (h : AgreesOff w m c) (hs : testSettled m c lo len v = true) :
    fld w lo len = v ↔ m / 2 ^ lo % 2 ^ len = v := by
  have cut := congrArg (fun x => x / 2 ^ lo % 2 ^ len) h
  simp only [Nat.or_div_two_pow, Nat.or_mod_two_pow] at cut
  rw [testSettled, Bool.or_eq_true, decide_eq_true_eq, decide_eq_true_eq] at hs
  rw [fld, Nat.shiftRight_eq_div_pow]
  rcases hs with zero | ne
  · rw [zero, Nat.or_zero, Nat.or_zero] at cut
    rw [cut]
  · exact ⟨fun e => absurd (by rw [← cut, e]) ne, fun e => absurd (by rw [e]) ne⟩

theorem ite_of_passes {α : Type} {n m c lo len v : Nat} {w : BitVec n} {x y : α} (h : AgreesOff w m c)
    (ht : testPasses m c lo len v = true) :
    (if fld w lo len = v then x else y) = x := by
  obtain ⟨hs, e⟩ := (Bool.and_eq_true _ _).mp ht
  exact if_pos ((fld_eq_iff h hs).mpr (of_decide_eq_true e))

theorem ite_of_fails {α : Type} {n m c lo len v : Nat} {w : BitVec n} {x y : α} (h : AgreesOff w m c)
    (ht : testFails m c lo len v = true) :
    (if fld w lo len = v then x else y) = y := by
  obtain ⟨hs, ne⟩ := (Bool.and_eq_true _ _).mp ht
  exact if_neg (mt (fld_eq_iff h hs).mp (of_decide_eq_false ((Bool.not_eq_true' _).mp ne)))

end Sys2Proof.Machine
end

section
/-! SUPPORT. Control words: the decoder of each major opcode, what a control word keeps of its form and fields, and the obligation that
decoding undoes encoding (O57). -/

namespace Sys2Proof.Machine

/-! ## The decoder of each major opcode (R157) -/

/-- The major opcodes with their decoders. -/
def decoders : List (Nat × (CtlWord → Except DecodeError Instr)) :=
  [(0x00, decode00), (0x01, decode01), (0x02, decode02), (0x03, decode03), (0x04, decode04), (0x05, decode05), (0x06, decode06),
    (0x07, decode07), (0x08, decode08), (0x09, decode09), (0x0A, decode0A), (0x0B, decode0B), (0x0C, decode0C), (0x0D, decode0D),
    (0x0E, decode0E), (0x0F, decode0F), (0x10, decode10), (0x11, decode11), (0x12, decode12), (0x13, decode13), (0x14, decode14),
    (0x15, decode15), (0x16, decode16), (0x17, decode17), (0x18, decode18), (0x19, decode19), (0x1A, decode1A), (0x1B, decode1B),
    (0x1C, decode1C), (0x20, decode20), (0x21, decode21), (0x22, decode22), (0x23, decode23), (0x24, decode24), (0x25, decode25),
    (0x28, decode28), (0x29, decode29), (0x2A, decode2A), (0x2B, decode2B), (0x2C, decode2C), (0x2D, decode2D), (0x2E, decode2E),
    (0x30, decode30), (0x31, decode31), (0x32, decode32), (0x33, decode33), (0x34, decode34), (0x38, decode38), (0x39, decode39),
    (0x3A, decode3A), (0x3B, decode3B), (0x3C, decode3C), (0x3D, decode3D), (0x3E, decode3E)]

theorem decode_eq_of_lookup {w : CtlWord} {n : Nat} {d : CtlWord → Except DecodeError Instr} (hn : fld w 26 6 = n)
    (hd : lookup n decoders = some d) : decode w = d w := by
  have bound : n < 64 := hn ▸ fld_lt w 26 6
  rw [decode, hn]
  clear hn
  interval_cases n <;> cases hd <;> rfl

/-- A word of a form, which fixes the major opcode, goes to the decoder of that opcode. -/
theorem decode_of_form {w : CtlWord} {m c : Nat} {d : CtlWord → Except DecodeError Instr} (h : AgreesOff w m c)
    (fixed : testSettled m c 26 6 (m / 2 ^ 26 % 2 ^ 6) = true) (hd : lookup (m / 2 ^ 26 % 2 ^ 6) decoders = some d) : decode w = d w :=
  decode_eq_of_lookup ((fld_eq_iff h fixed).mpr rfl) hd

/-! ## What a control word keeps of its form and of each field -/

theorem reads_of_laid {m : Nat} {l : List WordField} {w : CtlWord} (h : some (BitVec.ofNat 32 (laid m l)) = some w)
    (hf : fits 32 m (l.map WordField.place) = true) : AgreesOff w m (cover (l.map WordField.place)) ∧ ReadsBack w l := by
  obtain rfl := Option.some.inj h
  exact ⟨agreesOff_laid hf, readsBack_laid hf⟩

section words

variable {m i j k l n p q r s t : Nat} {x : BitVec p} {y : BitVec q} {z : BitVec r} {u : BitVec s} {v : BitVec t} {w : CtlWord}

theorem word0_reads (h : word0 m = some w) (hf : fits 32 m [] = true) : AgreesOff w m (cover []) :=
  (reads_of_laid (l := []) h hf).1

theorem word1_reads (h : word1 m x.toNat i = some w) (hf : fits 32 m [(i, p)] = true) :
    AgreesOff w m (cover [(i, p)]) ∧ w.extractLsb' i p = x := by
  simpa [ReadsBack, WordField.place] using reads_of_laid (l := [⟨i, x⟩]) h hf

theorem word2_reads (h : word2 m x.toNat i y.toNat j = some w) (hf : fits 32 m [(j, q), (i, p)] = true) :
    AgreesOff w m (cover [(j, q), (i, p)]) ∧ w.extractLsb' j q = y ∧ w.extractLsb' i p = x := by
  simpa [ReadsBack, WordField.place] using reads_of_laid (l := [⟨j, y⟩, ⟨i, x⟩]) h hf

theorem word3_reads (h : word3 m x.toNat i y.toNat j z.toNat k = some w) (hf : fits 32 m [(k, r), (j, q), (i, p)] = true) :
    AgreesOff w m (cover [(k, r), (j, q), (i, p)]) ∧ w.extractLsb' k r = z ∧ w.extractLsb' j q = y ∧ w.extractLsb' i p = x := by
  simpa [ReadsBack, WordField.place] using reads_of_laid (l := [⟨k, z⟩, ⟨j, y⟩, ⟨i, x⟩]) h hf

theorem word4_reads (h : word4 m x.toNat i y.toNat j z.toNat k u.toNat l = some w)
    (hf : fits 32 m [(l, s), (k, r), (j, q), (i, p)] = true) :
    AgreesOff w m (cover [(l, s), (k, r), (j, q), (i, p)]) ∧
      w.extractLsb' l s = u ∧ w.extractLsb' k r = z ∧ w.extractLsb' j q = y ∧ w.extractLsb' i p = x := by
  simpa [ReadsBack, WordField.place] using reads_of_laid (l := [⟨l, u⟩, ⟨k, z⟩, ⟨j, y⟩, ⟨i, x⟩]) h hf

theorem word5_reads (h : word5 m x.toNat i y.toNat j z.toNat k u.toNat l v.toNat n = some w)
    (hf : fits 32 m [(n, t), (l, s), (k, r), (j, q), (i, p)] = true) :
    AgreesOff w m (cover [(n, t), (l, s), (k, r), (j, q), (i, p)]) ∧
      w.extractLsb' n t = v ∧ w.extractLsb' l s = u ∧ w.extractLsb' k r = z ∧ w.extractLsb' j q = y ∧ w.extractLsb' i p = x := by
  simpa [ReadsBack, WordField.place] using reads_of_laid (l := [⟨n, v⟩, ⟨l, u⟩, ⟨k, z⟩, ⟨j, y⟩, ⟨i, x⟩]) h hf

end words

/-! ## Decoding undoes encoding (R155 to R167) -/

/-- Decoding gives back what was encoded: each form goes to the decoder of its major opcode, every test there comes out as on the bits
of the form, and the fields read back (R155 to R167). Commands and events have no control word. -/
theorem decode_encode {i : Instr} {w : CtlWord} (h : encode i = some w) : decode w = .ok i := by
  cases i with
  | exit | gbar | nop | brk =>
    have form := word0_reads h (by decide)
    rw [decode_of_form form rfl rfl]
    simp (disch := decide) only [decode31, decode38, ↓ite_and, ↓ite_of_passes form, ↓ite_of_fails form]
  | rpop | push | join | freset | semw | sems | evwait | evsig | time | mwait | trap | mon | fence | region
  | jmp | jal =>
    obtain ⟨form, read⟩ := word1_reads h (by decide)
    rw [decode_of_form form rfl rfl]
    simp (disch := decide) only [decode24, decode2B, decode31, decode32, decode33, decode34, decode38, decode39,
      decode3A, decode3C, decode3D, decode3E, ↓ite_and, ↓ite_of_passes form, ↓ite_of_fails form, read]
  | clz | ctz | popc | sext8 | sext16 | sext32 | zext8 | zext16 | zext32 | jalr | li | loop | mnot | mpop
  | mfirst | viota | vbcast | vli | rres | rpub | rpeek | rcfg | shape | spawn | fget | fput | rep | srd | swr =>
    obtain ⟨form, read⟩ := word2_reads h (by decide)
    rw [decode_of_form form rfl rfl]
    simp (disch := decide) only [decode00, decode07, decode09, decode13, decode17, decode19, decode1A, decode24,
      decode25, decode2C, decode30, decode32, decode38, ↓ite_and, ↓ite_of_passes form, ↓ite_of_fails form, read]
  | add | sub | mul | mulh | mulhu | div | divu | rem | remu | and | or | xor | shl | shr | sra | slt | sltu
  | min | max | minu | maxu | sadd | addi | andi | ori | xori | slti | shli | shri | srai | lih | beq | bne
  | blt | bge | bltu | bgeu | vabs | vneg | vrcp | vrsq | vsqrt | vmov | vnot | mand | mor | vrsum | vrmax
  | vrmin | vramax | vscan | vperm | vcompress | vexpand | vppe | vextr | vcfg | kset | ppld | vdhop =>
    obtain ⟨form, read⟩ := word3_reads h (by decide)
    rw [decode_of_form form rfl rfl]
    simp (disch := decide) only [decode00, decode01, decode02, decode03, decode04, decode05, decode06, decode07,
      decode0A, decode0B, decode0C, decode0D, decode0E, decode0F, decode10, decode13, decode16, decode17, decode18,
      decode19, decode1B, decode28, decode2E, decode38, ↓ite_and, ↓ite_of_passes form, ↓ite_of_fails form, read]
  | sel | bfx | bfi | ldb | ldbu | ldh | ldhu | ldw | ldwu | ld | stb | sth | stw | st | vadd | vsub | vmul
  | vdiv | vmin | vmax | vand | vor | vxor | vshl | vshr | vsra | vfma | vfms | vnfma | vcmpeq | vcmplt | vcmple
  | vsel | vcvt | vwadd | vwmul | vrotm | qld | qst | kld | kst | shld | acq | rel | wait =>
    obtain ⟨form, read⟩ := word4_reads h (by decide)
    rw [decode_of_form form rfl rfl]
    simp (disch := decide) only [decode00, decode06, decode08, decode10, decode11, decode12, decode14, decode15,
      decode1C, decode20, decode22, decode29, decode2A, decode2D, decode39, decode3B, ↓ite_and, ↓ite_of_passes form,
      ↓ite_of_fails form, read]
  | vnarrow | qldr | qstr =>
    obtain ⟨form, read⟩ := word5_reads h (by decide)
    rw [decode_of_form form rfl rfl]
    simp (disch := decide) only [decode15, decode21, decode23, ↓ite_and, ↓ite_of_passes form, ↓ite_of_fails form, read]
  | _ => cases h

/-- Every form of a group of R157 has a control word, and only those. -/
theorem encode_isSome (i : Instr) : (encode i).isSome = (groupOf i != .none) := by cases i <;> rfl

end Sys2Proof.Machine

open Sys2Proof Sys2Proof.Machine

/-- Settles O57: every form of a group has a control word (`encode_isSome`), and decoding it gives the form back (`decode_encode`). -/
theorem controlWordsRoundTrip : Obligations.ControlWordsRoundTrip :=
  ⟨fun i hg => (encode_isSome i).trans (bne_iff_ne.mpr hg), fun _ _ _ h => decode_encode h⟩
end

section
/-! SUPPORT. Tile command words: the fields of each command, what a word shows that reads back, and the obligation that decoding undoes
encoding (O58). -/

namespace Sys2Proof.Machine

/-! ## The fields of each tile command (R171, R253, 17_tile.md) -/

/-- A flag as a field. -/
def flagAt (i : Nat) (b : Bool) : WordField := ⟨i, BitVec.ofBool b⟩

/-- Reserved bits lo + len - 1 : lo. -/
def reserved (lo len : Nat) : WordField := ⟨lo, 0#len⟩

/-- The header with its CMD (R171). -/
def hdrFields (c : Nat) (h : CmdHdr) : List WordField :=
  [⟨192, h.vcnt⟩, ⟨224, h.ssem⟩, reserved 230 1, flagAt 231 h.sv, ⟨232, h.wsem⟩, reserved 238 1, flagAt 239 h.wv, ⟨240, h.cls⟩,
    ⟨244, h.eng⟩, ⟨248, BitVec.ofNat 8 c⟩]

/-- An operand reference (R253). -/
def refFields (lo : Nat) (r : OpRef) : List WordField := [⟨lo, r.loc⟩, reserved (lo + 18) 3, flagAt (lo + 21) r.keep, ⟨lo + 22, r.mode⟩]

/-- The body and FLAGS of MMA and MMAC (R261). -/
def mmaFields (b : MmaBody) : List WordField :=
  [reserved 0 116, ⟨116, b.km1⟩, reserved 128 4, ⟨132, b.plog⟩, ⟨136, b.bfmt⟩, ⟨140, b.afmt⟩] ++ refFields 144 b.bref ++
  refFields 168 b.aref ++ [flagAt 208 b.ta, flagAt 209 b.tb, flagAt 210 b.bank, flagAt 211 b.zf, reserved 212 12]

/-- The body and FLAGS of DRAIN (R264). -/
def drainFields (b : DrainBody) : List WordField :=
  [reserved 0 96, ⟨96, b.scale⟩, reserved 128 23, flagAt 151 b.se, ⟨152, b.amn⟩, reserved 156 1, flagAt 157 b.ae, ⟨158, b.layout⟩,
    flagAt 160 b.sat, ⟨161, b.rm⟩, ⟨164, b.ofmt⟩] ++ refFields 168 b.dref ++
  [reserved 208 2, flagAt 210 b.bank, flagAt 211 b.keep, reserved 212 12]

/-- The body of the copy commands (R268). -/
def copyFields (b : CopyBody) : List WordField :=
  refFields 0 b.xref ++ [reserved 24 8, ⟨32, b.stval⟩, ⟨64, b.staddr⟩, reserved 128 2, ⟨130, b.amn⟩, flagAt 134 b.ae, flagAt 135 b.ste,
    flagAt 136 b.sat, ⟨137, b.rm⟩, ⟨140, b.spfmt⟩, reserved 144 11, flagAt 155 b.zpd, flagAt 156 b.gix, flagAt 157 b.bsc,
    flagAt 158 b.trn, flagAt 159 b.cvt] ++ refFields 160 b.sref ++ [reserved 184 4, ⟨188, b.sh⟩, flagAt 208 b.lvl, reserved 209 15]

/-- The body and FLAGS of GATOM with its OP (R273). -/
def gatomFields (op : Nat) (b : GatomBody) : List WordField :=
  [⟨0, b.cmpv⟩, ⟨64, b.opnd⟩, ⟨128, b.addr⟩, ⟨208, BitVec.ofNat 3 op⟩, flagAt 211 b.res, reserved 212 1, ⟨213, b.rrow⟩]

/-- The body of SCAT with its OP (R271). -/
def scatFields (op : Nat) (b : ScatBody) : List WordField :=
  [reserved 0 107, ⟨107, b.nent⟩, flagAt 119 b.ce, ⟨120, BitVec.ofNat 2 op⟩, ⟨122, b.fmt⟩, ⟨126, b.drow⟩] ++ refFields 144 b.xref ++
  refFields 168 b.vref ++ [reserved 208 16]

/-- The fields of a command's word, reserved bits among them. -/
def cmdFields : Instr → List WordField
  | .mma h b => hdrFields 0x01 h ++ mmaFields b
  | .mmac h b => hdrFields 0x02 h ++ mmaFields b
  | .promote h bank => hdrFields 0x03 h ++ [reserved 0 192, reserved 208 2, flagAt 210 bank, reserved 211 13]
  | .drain h b => hdrFields 0x04 h ++ drainFields b
  | .zacc h za zb zp => hdrFields 0x05 h ++ [reserved 0 192, flagAt 208 za, flagAt 209 zb, flagAt 210 zp, reserved 211 13]
  | .chain h g => hdrFields 0x06 h ++ [reserved 0 189, ⟨189, g⟩, reserved 208 16]
  | .unchain h side => hdrFields 0x07 h ++ [reserved 0 191, flagAt 191 side, reserved 208 16]
  | .tload h b => hdrFields 0x10 h ++ copyFields b
  | .tgather h b => hdrFields 0x11 h ++ copyFields b
  | .tcvt h b => hdrFields 0x12 h ++ copyFields b
  | .prefetch h b => hdrFields 0x13 h ++ copyFields b
  | .tstore h b => hdrFields 0x14 h ++ copyFields b
  | .gatomAdd h b => hdrFields 0x15 h ++ gatomFields 0 b
  | .gatomFadd h b => hdrFields 0x15 h ++ gatomFields 1 b
  | .gatomMax h b => hdrFields 0x15 h ++ gatomFields 2 b
  | .gatomMin h b => hdrFields 0x15 h ++ gatomFields 3 b
  | .gatomSwap h b => hdrFields 0x15 h ++ gatomFields 4 b
  | .gatomCas h b => hdrFields 0x15 h ++ gatomFields 5 b
  | .migrate h b =>
    hdrFields 0x16 h ++ [reserved 0 48, ⟨48, b.staddr⟩, ⟨112, b.dsl⟩, ⟨116, b.dpkg⟩, ⟨128, b.addr⟩, reserved 208 16]
  | .scatAdd h b => hdrFields 0x20 h ++ scatFields 0 b
  | .scatMax h b => hdrFields 0x20 h ++ scatFields 1 b
  | .scatMin h b => hdrFields 0x20 h ++ scatFields 2 b
  | .cntsnap h r => hdrFields 0x21 h ++ ([reserved 0 168] ++ refFields 168 r ++ [reserved 208 16])
  | .rwrite h b =>
    hdrFields 0x28 h ++ ([reserved 0 144] ++ refFields 144 b.sref ++ [reserved 168 12, ⟨180, b.nrows⟩, ⟨186, b.rent⟩, reserved 208 16])
  | .qfence h m => hdrFields 0x30 h ++ [reserved 0 192, ⟨208, m⟩, reserved 214 10]
  | .semsig h => hdrFields 0x31 h ++ [reserved 0 192, reserved 208 16]
  | .semwait h => hdrFields 0x32 h ++ [reserved 0 192, reserved 208 16]
  | _ => []

/-! ## The number of a command is the sum of its fields -/

theorem num_field {n : Nat} (i : Nat) (x : BitVec n) : (WordField.mk i x).num = x.toNat * 2 ^ i := by rw [WordField.num]

theorem num_code (i : Nat) {n c : Nat} (h : c < 2 ^ n) : (WordField.mk i (BitVec.ofNat n c)).num = c * 2 ^ i := by
  rw [WordField.num, BitVec.toNat_ofNat, Nat.mod_eq_of_lt h]

theorem num_flagAt (i : Nat) (b : Bool) : (flagAt i b).num = bitN b i := by
  cases b <;> simp [flagAt, WordField.num, bitN]

theorem num_reserved (lo len : Nat) : (reserved lo len).num = 0 := by
  simp [reserved, WordField.num]

theorem laid_nil (m : Nat) : laid m [] = m := by rw [laid]

theorem laid_cons (m : Nat) (f : WordField) (l : List WordField) : laid m (f :: l) = f.num + laid m l := by rw [laid, Nat.add_comm]

theorem laid_append (l k : List WordField) : laid 0 (l ++ k) = laid 0 l + laid 0 k := by
  induction l with
  | nil => rw [List.nil_append, laid, zero_add]
  | cons f l ih => rw [List.cons_append, laid_cons, ih, laid_cons, add_assoc]

theorem encHdr_eq (h : CmdHdr) {c : Nat} (hc : c < 2 ^ 8) : encHdr c h = laid 0 (hdrFields c h) := by
  simp only [encHdr, hdrFields, laid_cons, laid_nil, num_code 248 hc, num_field, num_flagAt, num_reserved, zero_add, add_zero,
    add_assoc]

theorem encRef_eq (r : OpRef) (lo : Nat) : encRef r lo = laid 0 (refFields lo r) := by
  simp only [encRef, refFields, laid_cons, laid_nil, num_field, num_flagAt, num_reserved, zero_add, add_zero, add_assoc]

theorem encMma_eq (b : MmaBody) : encMma b = laid 0 (mmaFields b) := by
  simp only [encMma, mmaFields, laid_append, encRef_eq, laid_cons, laid_nil, num_field, num_flagAt, num_reserved, zero_add,
    add_zero, add_assoc]

theorem encDrain_eq (b : DrainBody) : encDrain b = laid 0 (drainFields b) := by
  simp only [encDrain, drainFields, laid_append, encRef_eq, laid_cons, laid_nil, num_field, num_flagAt, num_reserved, zero_add,
    add_zero, add_assoc]

theorem encCopy_eq (b : CopyBody) : encCopy b = laid 0 (copyFields b) := by
  simp only [encCopy, copyFields, laid_append, encRef_eq, laid_cons, laid_nil, num_field, num_flagAt, num_reserved, zero_add,
    add_zero, add_assoc]

theorem encGatom_eq (b : GatomBody) {op : Nat} (h : op < 2 ^ 3) : encGatom op b = laid 0 (gatomFields op b) := by
  simp only [encGatom, gatomFields, num_code 208 h, pow_zero, mul_one, laid_cons, laid_nil, num_field, num_flagAt, num_reserved, zero_add,
    add_zero, add_assoc]

theorem encScat_eq (b : ScatBody) {op : Nat} (h : op < 2 ^ 2) : encScat op b = laid 0 (scatFields op b) := by
  simp only [encScat, scatFields, num_code 120 h, laid_append, encRef_eq, laid_cons, laid_nil, num_field, num_flagAt, num_reserved, zero_add,
    add_zero, add_assoc]

/-- A command's number is the sum of its fields. -/
theorem encodeCmdNat_eq {i : Instr} {n : Nat} (h : encodeCmdNat i = some n) : n = laid 0 (cmdFields i) := by
  cases i <;> cases h
  all_goals
    simp (disch := decide) only [cmdFields, encHdr_eq, encRef_eq, encMma_eq, encDrain_eq, encCopy_eq, encGatom_eq, encScat_eq, laid_append,
      laid_cons, laid_nil, num_field, num_flagAt, num_reserved, zero_add, add_zero, add_assoc]

/-- The fields of a command lie side by side in 256 bits. -/
theorem fits_cmdFields (i : Instr) : fits 256 0 ((cmdFields i).map WordField.place) = true := by
  cases i <;>
    simp only [cmdFields, hdrFields, refFields, mmaFields, drainFields, copyFields, gatomFields, scatFields, flagAt, reserved,
      WordField.place, List.cons_append, List.nil_append, List.map_cons, List.map_nil] <;> decide

/-- Every field of a command's word reads back. -/
theorem readsBack_encodeCmd {i : Instr} {w : CmdWord} (h : encodeCmd i = some w) : ReadsBack w (cmdFields i) := by
  obtain ⟨n, hn, rfl⟩ := Option.map_eq_some_iff.mp h
  rw [encodeCmdNat_eq hn]
  exact readsBack_laid (fits_cmdFields i)

/-! ## What a word shows that reads back -/

theorem readsBack_append {n : Nat} {w : BitVec n} {l k : List WordField} : ReadsBack w (l ++ k) ↔ ReadsBack w l ∧ ReadsBack w k :=
  List.forall_mem_append

theorem readsBack_nil {n : Nat} {w : BitVec n} : ReadsBack w [] := fun _ h => absurd h List.not_mem_nil

theorem readsBack_field {n len lo : Nat} {w : BitVec n} {x : BitVec len} {l : List WordField} :
    ReadsBack w (⟨lo, x⟩ :: l) ↔ w.extractLsb' lo len = x ∧ ReadsBack w l :=
  List.forall_mem_cons

theorem readsBack_reserved {n len lo : Nat} {w : BitVec n} {l : List WordField} :
    ReadsBack w (reserved lo len :: l) ↔ w.extractLsb' lo len = 0#len ∧ ReadsBack w l :=
  List.forall_mem_cons

theorem bitAt_eq_extract {n : Nat} (w : BitVec n) (i : Nat) : BitVec.ofBool (bitAt w i) = w.extractLsb' i 1 := by
  refine BitVec.eq_of_getLsbD_eq fun k hk => ?_
  obtain rfl : k = 0 := by omega
  simp [bitAt]

theorem readsBack_flagAt {n i : Nat} {b : Bool} {w : BitVec n} {l : List WordField} :
    ReadsBack w (flagAt i b :: l) ↔ bitAt w i = b ∧ ReadsBack w l := by
  refine List.forall_mem_cons.trans (and_congr_left' ?_)
  show w.extractLsb' i 1 = BitVec.ofBool b ↔ _
  rw [← bitAt_eq_extract]
  cases bitAt w i <;> cases b <;> simp

theorem fld_beq_zero {n : Nat} (w : BitVec n) (lo len : Nat) : (fld w lo len == 0) = (w.extractLsb' lo len == 0#len) := by
  rw [fld_eq_extract, Bool.eq_iff_iff, beq_iff_eq, beq_iff_eq, ← BitVec.toNat_inj, BitVec.toNat_ofNat, Nat.zero_mod]

theorem extract_eq_zero {n lo len : Nat} {w : BitVec n} : w.extractLsb' lo len = 0#len ↔ ∀ k < len, bitAt w (lo + k) = false := by
  constructor
  · intro h k hk
    have bit := congrArg (BitVec.getLsbD · k) h
    simpa [bitAt, BitVec.getLsbD_extractLsb', hk] using bit
  · exact fun h => BitVec.eq_of_getLsbD_eq fun k hk => by
      simpa [bitAt, BitVec.getLsbD_extractLsb', hk] using h k hk

/-- Bits that stand side by side are 0 where each part of them is. -/
theorem extract_eq_zero_add {n lo : Nat} {w : BitVec n} (a b : Nat) :
    w.extractLsb' lo (a + b) = 0#(a + b) ↔ w.extractLsb' lo a = 0#a ∧ w.extractLsb' (lo + a) b = 0#b := by
  simp only [extract_eq_zero]
  refine ⟨fun h => ⟨fun k hk => h k (by omega), fun k hk => by rw [Nat.add_assoc]; exact h _ (by omega)⟩, fun h k hk => ?_⟩
  obtain ⟨low, high⟩ := h
  by_cases ha : k < a
  · exact low k ha
  · have bit := high (k - a) (by omega)
    rwa [Nat.add_assoc, Nat.add_sub_cancel' (by omega)] at bit

theorem extract_one_eq_zero {n i : Nat} {w : BitVec n} : w.extractLsb' i 1 = 0#1 ↔ bitAt w i = false := by
  simp [extract_eq_zero]

/-- A part of a field is a part of its number. -/
theorem fld_part {n lo len a b : Nat} (w : BitVec n) (h : a + b ≤ len) : fld w (lo + a) b = fld w lo len / 2 ^ a % 2 ^ b := by
  apply Nat.eq_of_testBit_eq
  intro j
  simp only [fld, Nat.testBit_mod_two_pow, Nat.testBit_div_two_pow, Nat.testBit_shiftRight]
  by_cases hj : j < b
  · simp [hj, show a + j < len by omega, Nat.add_comm, Nat.add_left_comm]
  · simp [hj]

theorem fld_beq {n lo len v : Nat} (w : BitVec n) (h : v < 2 ^ len) :
    (fld w lo len == v) = (w.extractLsb' lo len == BitVec.ofNat len v) := by
  rw [fld_eq_extract, Bool.eq_iff_iff, beq_iff_eq, beq_iff_eq, ← BitVec.toNat_inj, BitVec.toNat_ofNat, Nat.mod_eq_of_lt h]

/-- The checks of an operand reference are those of the reference it holds, with bits 20:18 reserved (R253). -/
theorem opRefOk_eq (w : CmdWord) (lo : Nat) (read : Bool) : opRefOk w lo read = ((opRef w lo).ok read && fld w (lo + 18) 3 == 0) := by
  have size : fld w lo 18 < 2 ^ 18 := fld_lt w lo 18
  have loc : (opRef w lo).loc.toNat = fld w lo 18 := (fld_eq_extract w lo 18).symm
  have ring : (fld w (lo + 13) 5 == 0) = decide ((opRef w lo).loc.toNat < 8192) := by
    rw [loc, fld_part (len := 18) w (by decide), Bool.eq_iff_iff, beq_iff_eq, decide_eq_true_eq]
    omega
  have slot : (opRef w lo).loc.toNat < 8192 → (fld w (lo + 5) 8 == 0) = decide ((opRef w lo).loc.toNat < 32) := fun small => by
    rw [loc] at small ⊢
    rw [fld_part (len := 18) w (by decide), Bool.eq_iff_iff, beq_iff_eq, decide_eq_true_eq]
    omega
  have both : (fld w (lo + 13) 5 == 0 && (!read || fld w (lo + 5) 8 == 0)) =
      (decide ((opRef w lo).loc.toNat < 8192) && (!read || decide ((opRef w lo).loc.toNat < 32))) := by
    rw [ring]
    by_cases small : (opRef w lo).loc.toNat < 8192
    · rw [slot small]
    · rw [decide_eq_false small, Bool.false_and, Bool.false_and]
  rw [opRefOk, both, bne, bne, bne, fld_beq w (show 3 < 2 ^ 2 by decide), fld_beq w (show 1 < 2 ^ 2 by decide),
    fld_beq w (show 2 < 2 ^ 2 by decide), fld_beq_zero w lo 18]
  change (!((opRef w lo).mode == 3) && (fld w (lo + 18) 3 == 0) && (!(opRef w lo).keep || (read && (opRef w lo).mode == 1)) &&
    (!((opRef w lo).mode == 1) || (decide ((opRef w lo).loc.toNat < 8192) && (!read || decide ((opRef w lo).loc.toNat < 32)))) &&
    (!((opRef w lo).mode == 2) || (opRef w lo).loc == 0)) = _
  rw [OpRef.ok, bne, bne, bne]
  ac_rfl

theorem readsBack_refFields {w : CmdWord} {lo : Nat} {r : OpRef} :
    ReadsBack w (refFields lo r) ↔ opRef w lo = r ∧ w.extractLsb' (lo + 18) 3 = 0#3 := by
  obtain ⟨mode, keep, loc⟩ := r
  simp only [refFields, readsBack_field, readsBack_reserved, readsBack_flagAt, readsBack_nil, and_true, opRef, OpRef.mk.injEq]
  tauto

/-- A header that reads back: its CMD, its fields, and its reserved bits 0 (R171). -/
theorem cmdHdr_of_reads {w : CmdWord} {c : Nat} {h : CmdHdr} (r : ReadsBack w (hdrFields c h)) :
    w.extractLsb' 248 8 = BitVec.ofNat 8 c ∧ cmdHdr w = h ∧ bitAt w 230 = false ∧ bitAt w 238 = false := by
  simp only [hdrFields, readsBack_field, readsBack_reserved, readsBack_flagAt, readsBack_nil, and_true, extract_one_eq_zero] at r
  obtain ⟨vcnt, ssem, zero, sv, wsem, zero', wv, cls, eng, code⟩ := r
  exact ⟨code, by rw [cmdHdr, vcnt, ssem, sv, wsem, wv, cls, eng], zero, zero'⟩

/-! ## Decoding undoes encoding (R171 to R173, R253) -/

/-- A command whose header and body pass their checks, and whose queue is allowed, is accepted. -/
theorem cmdIf_ok {w : CmdWord} {clean engOk : Bool} {i j : Instr} (free : bitAt w 230 = false ∧ bitAt w 238 = false)
    (waits : ((cmdHdr w).wv || (cmdHdr w).wsem == 0) = true) (signals : ((cmdHdr w).sv || (cmdHdr w).ssem == 0) = true)
    (hc : clean = true) (he : engOk = true) (hi : i = j) : cmdIf w clean engOk i = .ok j := by
  obtain ⟨zero230, zero238⟩ := free
  have hdr : cmdHdrOk w = true := by
    rw [cmdHdrOk, fld_beq_zero, fld_beq_zero, zero230, zero238, Bool.and_eq_true, Bool.and_eq_true]
    exact ⟨⟨rfl, waits⟩, signals⟩
  rw [cmdIf, hdr, hc, he, hi]
  rfl

theorem fld_eng (w : CmdWord) : fld w 244 4 = (cmdHdr w).eng.toNat := fld_eq_extract w 244 4

/-- Reserved FLAGS beside the LVL flag of a copy command. -/
theorem extract_flags_eq_zero {w : CmdWord} : w.extractLsb' 208 16 = 0#16 ↔ bitAt w 208 = false ∧ w.extractLsb' 209 15 = 0#15 :=
  (extract_eq_zero_add 1 15).trans (and_congr_left' extract_one_eq_zero)

/-- The flags of the stages of a copy. -/
theorem extract_stages_eq_zero {w : CmdWord} : w.extractLsb' 155 5 = 0#5 ↔
    bitAt w 155 = false ∧ bitAt w 156 = false ∧ bitAt w 157 = false ∧ bitAt w 158 = false ∧ bitAt w 159 = false := by
  simp only [extract_eq_zero, Nat.forall_lt_succ_left, Nat.not_lt_zero]
  simp

/-- The bits of an operand reference that is all 0. -/
theorem extract_ref_eq_zero {w : CmdWord} {lo : Nat} :
    w.extractLsb' lo 24 = 0#24 ↔ opRef w lo = OpRef.zero ∧ w.extractLsb' (lo + 18) 3 = 0#3 := by
  rw [extract_eq_zero_add (lo := lo) 18 6, extract_eq_zero_add (lo := lo + 18) 3 3, extract_eq_zero_add (lo := lo + 18 + 3) 1 2,
    extract_one_eq_zero, opRef, OpRef.zero, OpRef.mk.injEq]
  tauto

theorem OpRef.zero_ok (read : Bool) : OpRef.zero.ok read = true := by cases read <;> rfl

/-- WV stands where the check of a QFENCE reads it. -/
theorem wv_eq (w : CmdWord) : bitAt w 239 = (cmdHdr w).wv := rfl

theorem gatom_op {w : CmdWord} {op : Nat} {b : GatomBody} (r : ReadsBack w (gatomFields op b)) :
    w.extractLsb' 208 3 = BitVec.ofNat 3 op := r ⟨208, BitVec.ofNat 3 op⟩ (by simp [gatomFields])

theorem scat_op {w : CmdWord} {op : Nat} {b : ScatBody} (r : ReadsBack w (scatFields op b)) :
    w.extractLsb' 120 2 = BitVec.ofNat 2 op := r ⟨120, BitVec.ofNat 2 op⟩ (by simp [scatFields])

/-- Decoding gives back what was encoded: the header leads to the arm of the command, the reserved bits are 0, the checks on the fields are
those that make the command well formed, and the fields read back (R171 to R173, R253). Control words and events have no command word. -/
theorem decodeCmd_encodeCmd {i : Instr} {w : CmdWord} (wf : i.wf = true) (h : encodeCmd i = some w) : decodeCmd w = .ok i := by
  have r := readsBack_encodeCmd h
  cases i with
  | mma | mmac | promote | drain | zacc | chain | unchain | migrate | cntsnap | rwrite | qfence | semsig | semwait =>
    obtain ⟨hdr, body⟩ := readsBack_append.mp r
    obtain ⟨code, rfl, free⟩ := cmdHdr_of_reads hdr
    simp only [mmaFields, drainFields, readsBack_append, readsBack_refFields, readsBack_field, readsBack_reserved, readsBack_flagAt,
      readsBack_nil, and_true] at body
    simp only [Instr.wf, CmdHdr.ok, Bool.and_eq_true, List.mem_cons, List.not_mem_nil, or_false, decide_eq_true_eq] at wf
    rw [decodeCmd, fld_eq_extract w 248, code]
    exact cmdIf_ok free (by simp only [wf]) (by simp only [wf])
      (by simp_all [fld_beq_zero, opRefOk_eq, extract_one_eq_zero, extract_ref_eq_zero, wv_eq, fld_eng])
      (by simp only [fld_eng, beq_iff_eq, Bool.or_eq_true, decide_eq_true_eq] <;> omega)
      (by simp only [mmaBody, drainBody, migrateBody, rwriteBody, body])
  | tload | tgather | tcvt | tstore | prefetch =>
    obtain ⟨hdr, body⟩ := readsBack_append.mp r
    obtain ⟨code, rfl, free⟩ := cmdHdr_of_reads hdr
    simp only [copyFields, readsBack_append, readsBack_refFields, readsBack_field, readsBack_reserved, readsBack_flagAt, readsBack_nil,
      and_true] at body
    simp only [Instr.wf, CmdHdr.ok, CopyBody.ok, Bool.and_eq_true, List.mem_cons, List.not_mem_nil, or_false, decide_eq_true_eq] at wf
    rw [decodeCmd, fld_eq_extract w 248, code]
    exact cmdIf_ok free (by simp only [wf]) (by simp only [wf])
      (by simp_all [copyOk, fld_beq_zero, opRefOk_eq, extract_flags_eq_zero, extract_stages_eq_zero, extract_ref_eq_zero, OpRef.zero_ok])
      (by simp [fld_eng, wf]) (by simp only [copyBody, body])
  | gatomAdd | gatomFadd | gatomMax | gatomMin | gatomSwap | gatomCas =>
    obtain ⟨hdr, body⟩ := readsBack_append.mp r
    obtain ⟨code, rfl, free⟩ := cmdHdr_of_reads hdr
    have op := gatom_op body
    simp only [gatomFields, readsBack_field, readsBack_reserved, readsBack_flagAt, readsBack_nil, and_true] at body
    simp only [Instr.wf, CmdHdr.ok, GatomBody.ok, Bool.and_eq_true, List.mem_cons, List.not_mem_nil, or_false, decide_eq_true_eq] at wf
    rw [decodeCmd, fld_eq_extract w 248, code, fld_eq_extract w 208 3, op]
    exact cmdIf_ok free (by simp only [wf]) (by simp only [wf]) (by simp_all [fld_beq_zero, extract_one_eq_zero])
      (by simp [fld_eng, wf]) (by simp only [gatomBody, body])
  | scatAdd | scatMax | scatMin =>
    obtain ⟨hdr, body⟩ := readsBack_append.mp r
    obtain ⟨code, rfl, free⟩ := cmdHdr_of_reads hdr
    have op := scat_op body
    simp only [scatFields, readsBack_append, readsBack_refFields, readsBack_field, readsBack_reserved, readsBack_flagAt, readsBack_nil,
      and_true] at body
    simp only [Instr.wf, CmdHdr.ok, ScatBody.ok, Bool.and_eq_true, List.mem_cons, List.not_mem_nil, or_false, decide_eq_true_eq] at wf
    rw [decodeCmd, fld_eq_extract w 248, code, fld_eq_extract w 120 2, op]
    exact cmdIf_ok free (by simp only [wf]) (by simp only [wf]) (by simp [fld_beq_zero, opRefOk_eq, body, wf])
      (by simp [fld_eng, wf]) (by simp only [scatBody, body])
  | _ => cases h

/-- Every tile command has a word, and only those. -/
theorem encodeCmd_isSome (i : Instr) : (encodeCmd i).isSome = isCommand i := by cases i <;> rfl

end Sys2Proof.Machine

open Sys2Proof Sys2Proof.Machine

/-- Settles O58: decoding gives a well-formed command back (`decodeCmd_encodeCmd`), and every tile command has a word (`encodeCmd_isSome`). -/
theorem commandWordsRoundTrip : Obligations.CommandWordsRoundTrip :=
  ⟨fun _ _ => decodeCmd_encodeCmd, fun i h => (encodeCmd_isSome i).trans h⟩
end

section
/-! SUPPORT. Where control words stop (R175, R201, R338): the meaning of every control word is its issue, and a task that has
taken a fault takes no other. -/

namespace Sys2Proof.Machine

/-- The meaning of every control word is its issue; tile commands and events have no group (R167). -/
theorem exec_eq_issue {i : Instr} (s : State) (h : groupOf i ≠ .none) : ∃ k, exec i s = .next (issue i s k) := by
  cases i
  -- the tile commands and the events
  any_goals exact absurd rfl h
  all_goals exact ⟨_, rfl⟩

theorem Task.live_of_faulted {k : Task} (h : k.phase = .faulted) : k.live = false := by rw [Task.live, h]

end Sys2Proof.Machine

open Sys2Proof Sys2Proof.Machine

/-- R175, R201: a control word that its context may not issue takes the illegal-instruction fault and does nothing else. -/
theorem forbiddenFormsFault : Spec.ForbiddenFormsFault := by
  intro s i control forbidden
  obtain ⟨k, meaning⟩ := exec_eq_issue s control
  rw [meaning, issue_not k forbidden]

/-- R338: a task that has taken a fault takes no other. -/
theorem faultTakenOnce : Spec.FaultTakenOnce := fun _ _ f faulted =>
  takeFault_ended f fun k task => Task.live_of_faulted (faulted k task)

/-- Settles O4: a control word does nothing before its issue, which alone decides where it stops. -/
theorem formsAndFaultsOnce : Obligations.FormsAndFaultsOnce := ⟨forbiddenFormsFault, faultTakenOnce⟩
end

section
/-! SUPPORT. PUSH (R174), step by step: where its checks stop it, the state in which it looks for room and translates, and the
entry that it puts in the queues. -/

namespace Sys2Proof.Machine

open Sys2Proof.Spec

/-! ## Updates of the executing core that leave what translation reads (R75, R76) -/

theorem State.xlats_updMyCore {f : Core → Core} (hf : ∀ c, (f c).xlat = c.xlat) (s : State) (u : XlatUser) :
    (s.updMyCore f).xlats u = s.xlats u := by
  cases u with
  | frontEnd => rfl
  | engine r e =>
    have core : ((s.updMyCore f).core r).xlat = (s.core r).xlat := by
      by_cases at_ : r = s.cur.at_
      · rw [at_, State.updMyCore, State.core_updCore, hf]
      · rw [State.updMyCore, State.core_updCore_ne s f at_]
    have die : ((s.updMyCore f).die r.site).xlat = (s.die r.site).xlat := by
      rw [State.updMyCore, State.updCore, State.die_updDie_eq]
      split <;> rfl
    simp only [State.xlats, core, die]

theorem State.pasidOf_updMyCore {f : Core → Core} (hf : ∀ c, (f c).task.map Task.pipe = c.task.map Task.pipe) (s : State)
    (r : CoreRef) : (s.updMyCore f).pasidOf r = s.pasidOf r := by
  have pipe (t : State) : t.pipeOf r = ((t.core r).task.map Task.pipe).bind t.pipe? := by
    rw [State.pipeOf, Option.bind_map]
    rfl
  have core : ((s.updMyCore f).core r).task.map Task.pipe = (s.core r).task.map Task.pipe := by
    by_cases at_ : r = s.cur.at_
    · rw [at_, State.updMyCore, State.core_updCore, hf]
    · rw [State.updMyCore, State.core_updCore_ne s f at_]
  rw [State.pasidOf, State.pasidOf, pipe, pipe, core]
  rfl

theorem pushXlat_updMyCore {f : Core → Core} (hf : ∀ c, (f c).xlat = c.xlat) (s : State) (u : XlatUser) (pasid : Nat) (skip : Bool)
    (l : List (Nat × Bool)) : pushXlat (s.updMyCore f) u pasid skip l = pushXlat s u pasid skip l := by
  have look (hva : Nat) (wr : Bool) : (s.updMyCore f).lookupXlat u pasid hva wr skip = s.lookupXlat u pasid hva wr skip := by
    rw [State.lookupXlat, State.lookupXlat, State.xlats_updMyCore hf]
    rfl
  induction l with
  | nil => rfl
  | cons p t ih => simp only [pushXlat, look, ih]

theorem State.pinAll_updMyCore {s : State} {l : List Nat} (f : Core → Core) (h : (s.pinAll l).isSome = true) :
    (s.updMyCore f).pinAll l = some ((s.updMyCore f).updHomes fun h => l.foldl Homes.pin h) := by
  obtain ⟨t, pinned⟩ := Option.isSome_iff_exists.1 h
  obtain ⟨g, each, -⟩ := Option.map_eq_some_iff.1 pinned
  rw [State.pinAll, State.homes_updMyCore, State.fab_updMyCore, each, pinEach_eq each]
  rfl

theorem Homes.byte_foldl_pin (l : List Nat) (h : Homes) (a : Nat) : (l.foldl Homes.pin h).byte a = h.byte a := by
  induction l generalizing h with
  | nil => rfl
  | cons p t ih => exact (ih (h.pin p)).trans (Homes.byte_pin h p a)

/-! ## Steps 1 to 4 -/

/-- What PUSH does on what its checks find. -/
def State.afterPushCheck (s : State) (k : BitVec 3) : PushCheck → State
  | .illegal => s.pushFault fIllegal 0 s.me.k[k.toFin] ((wordOfInstr (.push k)).setWidth 64)
  | .shape => s.pushFault fShape 0 s.me.k[k.toFin]
  | .misaligned a => s.pushFault fMisCmd a s.me.k[k.toFin]
  | .unbound d => s.pushFault fUnbound d s.me.k[k.toFin]
  | .ok i h =>
    let t := s.sideEffect.updMe fun c => { c with heldShape := some h }
    if pushRoom t.myCore i then pushTranslate t s.me.k[k.toFin] h i else t.block .engine

theorem execPush_of_check {s : State} {k : BitVec 3} {c : PushCheck} (m : MayIssue s (.push k))
    (found : pushCheck s s.cur s.me.k[k.toFin] s.me.heldShape = c) : exec (.push k) s = .next (s.afterPushCheck k c) := by
  show go (issue _ s _) = _
  rw [issue_of_may _ m, ← found]
  rfl

/-- The shape copy that a PUSH of a command takes (R174). -/
def State.shapeCopy (s : State) (r : CoreRef) (i : Instr) : CmdWord :=
  match copyBodyOf i with | some b => (s.core r).h[b.sh.toFin] | none => 0

/-- Steps 3 and 4, on a word that decodes to a command of which its context may use the rounding mode. -/
theorem pushCheck_decoded {s : State} {c : CtxRef} {w : CmdWord} {i : Instr} (decoded : decodeCmd w = .ok i)
    (rounds : usesSr i = true → c.ctx = .compute) :
    pushCheck s c w none =
      if !pushShapeOk s c.at_ (s.shapeCopy c.at_ i) i then .shape
      else match (cmdAligns (s.shapeCopy c.at_ i) i).find? fun x => x.1 % x.2 ≠ 0 with
        | some x => .misaligned x.1
        | none => match s.pushUnbound c.at_ i with
          | some d => .unbound d
          | none => .ok i (s.shapeCopy c.at_ i) := by
  have allowed : (usesSr i && c.ctx != .compute) = false := by
    cases sr : usesSr i
    · rfl
    · simp [rounds sr]
  unfold pushCheck
  rw [decoded]
  simp only [allowed, Bool.false_eq_true, if_false]
  rfl

/-! ## Step 5: the side effect, the shape copy and the room (R65, R258) -/

/-- The executing core once a PUSH has passed its checks: it keeps the shape copy. -/
def Core.passedPush (n : CtxName) (h : CmdWord) (c : Core) : Core :=
  ({ c with task := c.task.map fun t => { t with sideEffect := true }, closed := true } : Core).updCtx n fun x =>
    { x with heldShape := some h }

/-- The state in which a PUSH looks for room and translates. -/
def State.passedPush (s : State) (h : CmdWord) : State := s.updMyCore (Core.passedPush s.cur.ctx h)

theorem State.passedPush_eq (s : State) (h : CmdWord) :
    (s.sideEffect.updMe fun c => { c with heldShape := some h }) = s.passedPush h := by
  rw [State.sideEffect_eq, State.updMyCore_updMe]
  rfl

theorem State.me_passedPush (s : State) (h : CmdWord) : (s.passedPush h).me = { s.me with heldShape := some h } := by
  rw [← State.passedPush_eq, State.me_updMe, State.me_sideEffect]

theorem State.myCore_passedPush (s : State) (h : CmdWord) : (s.passedPush h).myCore = s.myCore.passedPush s.cur.ctx h :=
  State.myCore_updMyCore s _

theorem Core.eng_passedPush (n : CtxName) (h : CmdWord) (c : Core) : (c.passedPush n h).eng = c.eng := by cases n <;> rfl
theorem Core.vf_passedPush (n : CtxName) (h : CmdWord) (c : Core) : (c.passedPush n h).vf = c.vf := by cases n <;> rfl
theorem Core.pushes_passedPush (n : CtxName) (h : CmdWord) (c : Core) : (c.passedPush n h).pushes = c.pushes := by cases n <;> rfl
theorem Core.xlat_passedPush (n : CtxName) (h : CmdWord) (c : Core) : (c.passedPush n h).xlat = c.xlat := by cases n <;> rfl
theorem Core.closed_passedPush (n : CtxName) (h : CmdWord) (c : Core) : (c.passedPush n h).closed = true := by cases n <;> rfl

theorem Core.task_passedPush (n : CtxName) (h : CmdWord) (c : Core) :
    (c.passedPush n h).task = c.task.map fun t => { t with sideEffect := true } := by cases n <;> rfl

theorem Core.taskPipe_passedPush (n : CtxName) (h : CmdWord) (c : Core) :
    (c.passedPush n h).task.map Task.pipe = c.task.map Task.pipe := by
  rw [Core.task_passedPush, Option.map_map]
  rfl

/-- Room is about the queues alone. -/
theorem pushRoom_of_eng {c d : Core} (h : d.eng = c.eng) (i : Instr) : pushRoom d i = pushRoom c i := by
  unfold pushRoom Core.fencesOut
  rw [h]

theorem pushRoom_passedPush (s : State) (h : CmdWord) (i : Instr) : pushRoom (s.passedPush h).myCore i = pushRoom s.myCore i := by
  rw [State.myCore_passedPush]
  exact pushRoom_of_eng (Core.eng_passedPush _ h _) i

theorem State.afterPushCheck_ok (s : State) (k : BitVec 3) (i : Instr) (h : CmdWord) :
    s.afterPushCheck k (.ok i h) =
      if pushRoom s.myCore i then pushTranslate (s.passedPush h) s.me.k[k.toFin] h i else (s.passedPush h).block .engine := by
  rw [← pushRoom_passedPush s h, ← State.passedPush_eq]
  rfl

/-! ## Step 6: translation and pins -/

/-- Whether a command goes on without the pages that ATS refuses (R270). -/
def skipsRefused : Instr → Bool
  | .prefetch .. => true
  | _ => false

/-- Step 6 where every page translates and every pin can be taken. -/
theorem pushTranslate_pinned {s t : State} {h : CmdWord} {i : Instr} {xs : List Xlat} (w : CmdWord)
    (translated : pushXlat s (.engine s.cur.at_ (cmdHdrOf i).eng.toNat) (s.pasidOf s.cur.at_) (skipsRefused i)
      (spanPages (cmdSpans h i) 12) = .ok xs) (few : (cmdPins i xs).length ≤ pageMax) (pins : s.pinAll (cmdPins i xs) = some t) :
    pushTranslate s w h i = pushQueue t w h i xs (cmdPins i xs) := by
  unfold pushTranslate
  dsimp only
  split
  · next ys found =>
    obtain rfl : xs = ys := Except.ok.inj (translated.symm.trans found)
    rw [if_neg (Nat.not_lt.2 few), pins]
  all_goals
    next found => cases translated.symm.trans found

/-- What step 5 has done is nothing to step 6. -/
theorem pushTranslate_passedPush {s : State} {h : CmdWord} {i : Instr} {xs : List Xlat} (w : CmdWord)
    (translated : pushXlat s (.engine s.cur.at_ (cmdHdrOf i).eng.toNat) (s.pasidOf s.cur.at_) (skipsRefused i)
      (spanPages (cmdSpans h i) 12) = .ok xs) (few : (cmdPins i xs).length ≤ pageMax) (pins : (s.pinAll (cmdPins i xs)).isSome = true) :
    pushTranslate (s.passedPush h) w h i =
      pushQueue ((s.passedPush h).updHomes fun h => (cmdPins i xs).foldl Homes.pin h) w h i xs (cmdPins i xs) := by
  refine pushTranslate_pinned w ?_ few (State.pinAll_updMyCore _ pins)
  rw [State.passedPush, pushXlat_updMyCore (Core.xlat_passedPush _ h), State.pasidOf_updMyCore (Core.taskPipe_passedPush _ h)]
  exact translated

/-! ## Step 7: the entry (R144, R174) -/

/-- The seed of a command that rounds by SR is the LFSR after one step. -/
def nextSeed (i : Instr) (lfsr : BitVec 32) : BitVec 32 := if usesSr i then lfsrStep lfsr else lfsr

/-- The state in which a command has drawn its seed. -/
def State.drawSeed (s : State) (i : Instr) : State :=
  if usesSr i then s.updMyCore fun c => { c with vf := { c.vf with lfsr := lfsrStep c.vf.lfsr } } else s

/-- An entry comes at the end of each queue that its command enters. -/
def Core.enterQueues (i : Instr) (e : QEntry) (c : Core) : Core :=
  { c with pushes := c.pushes + 1, eng := (cmdQueues i).foldl (fun v (q : Fin 6) => v.set q (v[q] ++ [e])) c.eng }

/-- The entry of a command that is pushed now. -/
def State.pushEntry (s : State) (w h : CmdWord) (i : Instr) (xs : List Xlat) (pages : List Nat) : QEntry :=
  ⟨w, i, h, s.me.pc, s.cur.ctx, s.me.seq, nextSeed i s.myCore.vf.lfsr, xs, pages, s.myCore.pushes, none, .queued⟩

theorem State.cur_drawSeed (s : State) (i : Instr) : (s.drawSeed i).cur = s.cur := by
  unfold State.drawSeed
  split <;> rfl

theorem State.homes_drawSeed (s : State) (i : Instr) : (s.drawSeed i).homes = s.homes := by
  unfold State.drawSeed
  split <;> rfl

theorem State.me_drawSeed (s : State) (i : Instr) : (s.drawSeed i).me = s.me := by
  unfold State.drawSeed
  split
  · exact State.me_updCore_leaves (fun _ n => by cases n <;> rfl) s _
  · rfl

theorem State.myCore_drawSeed (s : State) (i : Instr) :
    (s.drawSeed i).myCore = { s.myCore with vf := { s.myCore.vf with lfsr := nextSeed i s.myCore.vf.lfsr } } := by
  unfold State.drawSeed nextSeed
  split
  · exact State.myCore_updMyCore s _
  · rfl

theorem leavesCtxs_enterQueues (i : Instr) (e : QEntry) : LeavesCtxs (Core.enterQueues i e) := fun _ n => by cases n <;> rfl

/-- An element comes once into each list of a choice that names none twice. -/
theorem getElem_foldl_append {α : Type} {l : List (Fin 6)} (nodup : l.Nodup) (x : α) (v : Vector (List α) 6) (e : Fin 6) :
    (l.foldl (fun v q => v.set q (v[q] ++ [x])) v)[e] = if e ∈ l then v[e] ++ [x] else v[e] := by
  induction l generalizing v with
  | nil => rfl
  | cons q t ih =>
    obtain ⟨fresh, rest⟩ := List.nodup_cons.1 nodup
    rw [List.foldl_cons, ih rest]
    by_cases here : e = q
    · subst here
      simp [fresh]
    · have other : (v.set q (v[q] ++ [x]))[e] = v[e] := Vector.getElem_set_ne q.isLt e.isLt fun same => here (Fin.ext same.symm)
      rw [other]
      simp only [List.mem_cons, here, false_or]

theorem nodup_cmdQueues (i : Instr) : (cmdQueues i).Nodup := by
  unfold cmdQueues
  split
  · exact List.Nodup.filter _ (by decide)
  · exact List.nodup_singleton _

theorem Core.eng_updCtx (c : Core) (n : CtxName) (f : Context → Context) : (c.updCtx n f).eng = c.eng := by cases n <;> rfl
theorem Core.vf_updCtx (c : Core) (n : CtxName) (f : Context → Context) : (c.updCtx n f).vf = c.vf := by cases n <;> rfl
theorem Core.pushes_updCtx (c : Core) (n : CtxName) (f : Context → Context) : (c.updCtx n f).pushes = c.pushes := by cases n <;> rfl

theorem State.myCore_takeSeq (s : State) :
    s.takeSeq.1.myCore = s.myCore.updCtx s.cur.ctx fun c => { c with seq := c.seq + 1 } := State.myCore_updMe s _

/-- The state in which the entry of a command stands in its queues, before its context goes on. -/
def State.pushed (s : State) (i : Instr) (e : QEntry) : State :=
  ((s.drawSeed i).takeSeq.1.updMyCore (Core.enterQueues i e)).updMe fun c => { c with heldShape := none }

theorem pushQueue_eq (s : State) (w h : CmdWord) (i : Instr) (xs : List Xlat) (pages : List Nat) :
    pushQueue s w h i xs pages = (s.pushed i (s.pushEntry w h i xs pages)).goOn := by
  have entry : s.pushEntry w h i xs pages =
      let t := (s.drawSeed i).takeSeq.1
      ⟨w, i, h, t.me.pc, t.cur.ctx, (s.drawSeed i).takeSeq.2, (s.drawSeed i).myCore.vf.lfsr, xs, pages, t.myCore.pushes, none,
        .queued⟩ := by
    dsimp only
    rw [State.me_takeSeq, State.takeSeq_number, State.me_drawSeed, State.myCore_takeSeq, Core.pushes_updCtx, State.myCore_drawSeed,
      show (s.drawSeed i).takeSeq.1.cur = s.cur from State.cur_drawSeed s i]
    rfl
  rw [entry]
  rfl

theorem State.homes_pushed (s : State) (i : Instr) (e : QEntry) : (s.pushed i e).homes = s.homes := State.homes_drawSeed s i

theorem State.me_pushed (s : State) (i : Instr) (e : QEntry) :
    (s.pushed i e).me = { s.me with seq := s.me.seq + 1, heldShape := none } := by
  unfold State.pushed
  rw [State.me_updMe, State.updMyCore, State.me_updCore_leaves (leavesCtxs_enterQueues i e), State.me_takeSeq, State.me_drawSeed]

/-- The seed, the region and the queues of the core once a command has been pushed. -/
theorem State.myCore_pushed (s : State) (i : Instr) (e : QEntry) : let t := (s.pushed i e).goOn
    t.myCore.vf.lfsr = nextSeed i s.myCore.vf.lfsr ∧ t.myCore.closed = s.myCore.closed ∧
    ∀ q : Fin 6, t.myCore.eng[q] = if q ∈ cmdQueues i then s.myCore.eng[q] ++ [e] else s.myCore.eng[q] := by
  unfold State.pushed
  simp only [State.myCore_goOn, State.myCore_updMe, State.myCore_updMyCore, State.myCore_takeSeq, State.myCore_drawSeed,
    Core.vf_updCtx, Core.closed_updCtx, Core.eng_updCtx, Core.enterQueues]
  exact ⟨trivial, trivial, getElem_foldl_append (nodup_cmdQueues i) e s.myCore.eng⟩

/-- Going on leaves the command registers. -/
theorem State.k_goOn (s : State) : s.goOn.me.k = s.me.k := by
  show (s.updMe Context.next).me.k = s.me.k
  rw [State.me_updMe, Context.next_eq]

/-- Going on after a change of the executing context that leaves its program counter and its REP unit. -/
theorem goesOn_of_pc {s t : State} (pc : t.me.pc = s.me.pc) (rep : t.me.rep = s.me.rep) : GoesOn s t.goOn where
  status := (goesOn_goOn t).status
  plain := by rw [← pc, ← rep]; exact (goesOn_goOn t).plain
  again := by rw [← pc, ← rep]; exact (goesOn_goOn t).again
  last := by rw [← pc, ← rep]; exact (goesOn_goOn t).last

end Sys2Proof.Machine

open Sys2Proof Sys2Proof.Machine

/-- R174: a PUSH that finds nothing against its command, room and every page puts the command in its queues. -/
theorem pushEntersQueues_entry : Spec.PushEntersQueues := by
  intro s k i h xs m w seed
  refine ⟨fun checked room translated few pins => ?_, execPush_of_check m⟩
  let t := (s.passedPush h).updHomes fun h => (cmdPins i xs).foldl Homes.pin h
  have me : t.me = { s.me with heldShape := some h } := State.me_passedPush s h
  have core : t.myCore = s.myCore.passedPush s.cur.ctx h := State.myCore_passedPush s h
  have ends : exec (.push k) s = .next (t.pushed i (t.pushEntry w h i xs (cmdPins i xs))).goOn := by
    rw [execPush_of_check m checked, State.afterPushCheck_ok, if_pos room, pushTranslate_passedPush w translated few pins, pushQueue_eq]
  have entry : t.pushEntry w h i xs (cmdPins i xs) =
      ⟨w, i, h, s.me.pc, s.cur.ctx, s.me.seq, seed, xs, cmdPins i xs, s.myCore.pushes, none, .queued⟩ := by
    rw [State.pushEntry, me, core, Core.vf_passedPush, Core.pushes_passedPush]
    rfl
  obtain ⟨lfsr, closed, queues⟩ := State.myCore_pushed t i (t.pushEntry w h i xs (cmdPins i xs))
  rw [core, Core.closed_passedPush] at closed
  rw [core, Core.vf_passedPush] at lfsr
  rw [core, Core.eng_passedPush] at queues
  refine ⟨_, ends, goesOn_of_pc ?_ ?_, ?_, ?_, closed, lfsr, fun q => ?_, fun a => ?_⟩
  · rw [State.me_pushed, me]
  · rw [State.me_pushed, me]
  · rw [State.x_goOn, State.me_pushed, me]
  · rw [State.k_goOn, State.me_pushed, me]
  · rw [queues, entry]
  · rw [State.goOn, State.homes_updMe, State.homes_pushed]
    exact Homes.byte_foldl_pin _ _ a

/-- R174, R65: where a PUSH stops on its shape, its addresses and its room. -/
theorem pushStops : Spec.PushStops := by
  intro s k i h a n m w
  refine ⟨fun decoded rounds held copy => ?_, fun checked full => ?_⟩
  · have checks := pushCheck_decoded decoded rounds (s := s)
    rw [← held, show s.shapeCopy s.cur.at_ i = h from copy.symm] at checks
    refine ⟨fun ill => ?_, fun good misaligned => ?_⟩
    · rw [ill] at checks
      exact execPush_of_check m checks
    · rw [good, misaligned] at checks
      exact execPush_of_check m checks
  · have ends : exec (.push k) s = .next ((s.passedPush h).block .engine) := by
      rw [execPush_of_check m checked, State.afterPushCheck_ok, full]
      rfl
    have core : ((s.passedPush h).block .engine).myCore =
        (s.myCore.passedPush s.cur.ctx h).updCtx s.cur.ctx fun c => { c with status := .waiting .engine } := by
      rw [State.block, State.myCore_updMe, State.myCore_passedPush]
      rfl
    refine ⟨_, ends, ?_, ?_, ?_, fun x task => ?_, ?_⟩
    · rw [State.me_block, State.me_passedPush]
    · rw [core, Core.closed_updCtx, Core.closed_passedPush]
    · rw [core, Core.eng_updCtx, Core.eng_passedPush]
    · rw [core, Core.task_updCtx, Core.task_passedPush, task]
      rfl
    · rw [State.block, State.passedPush, State.updMyCore_updMe]
      exact onlyMyCore_updMyCore s _

/-- Settles O16: the checks of a PUSH are its only stops before its room, and what it has marked by then is nothing to the
translations, so that its entry is the one the state before it gives. -/
theorem pushEntersQueues : Obligations.PushEntersQueues := ⟨pushEntersQueues_entry, pushStops⟩
end

section
/-! SUPPORT. Words and numbers (R181): what wrap makes of u, s and the arithmetic of the manual, so that a register operation is the
word that its rule's number names. -/

namespace Sys2Proof.Machine

open Sys2Proof.Spec

/-! ## The three readings of a word (R181) -/

theorem wrap_natCast (n : Nat) : wrap n = BitVec.ofNat 64 n := BitVec.ofInt_natCast 64 n

@[simp] theorem wrap_u (a : Word) : wrap (u a) = a := by rw [u, wrap_natCast, BitVec.ofNat_toNat, BitVec.setWidth_eq]

@[simp] theorem wrap_sg (a : Word) : wrap (sg a) = a := BitVec.ofInt_toInt

theorem wrap_add (m n : Int) : wrap (m + n) = wrap m + wrap n := BitVec.ofInt_add m n

theorem wrap_neg (m : Int) : wrap (-m) = -wrap m := BitVec.ofInt_neg

theorem wrap_sub (m n : Int) : wrap (m - n) = wrap m - wrap n := by
  rw [Int.sub_eq_add_neg, wrap_add, wrap_neg, BitVec.sub_eq_add_neg]

theorem wrap_mul (m n : Int) : wrap (m * n) = wrap m * wrap n := BitVec.ofInt_mul m n

theorem u_eq_zero {a : Word} : u a = 0 ↔ a = 0 := by
  rw [u, Int.natCast_eq_zero, BitVec.toNat_eq]
  rfl

theorem u_ediv (a b : Word) : u a / u b = (a.toNat / b.toNat : Nat) := (Int.natCast_ediv _ _).symm

theorem u_emod (a b : Word) : u a % u b = (a.toNat % b.toNat : Nat) := (Int.natCast_emod _ _).symm

/-! ## Division (R182) -/

theorem divS_eq (a b : Word) : divS a b = if u b = 0 then 0xFFFFFFFFFFFFFFFF else wrap ((sg a).tdiv (sg b)) := by
  unfold divS
  by_cases zero : b = 0
  · rw [if_pos zero, if_pos (u_eq_zero.mpr zero)]
    rfl
  · rw [if_neg zero, if_neg (zero ∘ u_eq_zero.mp)]
    split
    · next overflow => rw [overflow.1, overflow.2]; rfl
    · rfl

theorem remS_eq (a b : Word) : remS a b = if u b = 0 then a else wrap (sg a - sg b * (sg a).tdiv (sg b)) := by
  unfold remS
  by_cases zero : b = 0
  · rw [if_pos zero, if_pos (u_eq_zero.mpr zero)]
  · rw [if_neg zero, if_neg (zero ∘ u_eq_zero.mp)]
    split
    · next overflow => rw [overflow.1, overflow.2]; rfl
    · rfl

theorem divU_eq (a b : Word) : divU a b = if u b = 0 then 0xFFFFFFFFFFFFFFFF else wrap (u a / u b) := by
  rw [u_ediv]
  simp only [divU, u_eq_zero, wrap_natCast]
  rfl

theorem remU_eq (a b : Word) : remU a b = if u b = 0 then a else wrap (u a % u b) := by
  rw [u_emod]
  simp only [remU, u_eq_zero, wrap_natCast]

/-! ## Shifts (R182, R186) -/

theorem shiftLeft_eq_wrap (a : Word) (n : Nat) : a <<< n = wrap (u a * 2 ^ n) := by
  have pow : wrap (2 ^ n) = BitVec.twoPow 64 n := by
    rw [show (2 ^ n : Int) = (2 ^ n : Nat) from (Nat.cast_pow 2 n).symm, wrap_natCast]
    exact BitVec.eq_of_toNat_eq (by simp)
  rw [wrap_mul, wrap_u, pow, BitVec.shiftLeft_eq_mul_twoPow]

theorem ushiftRight_eq_wrap (a : Word) (n : Nat) : a >>> n = wrap (u a / 2 ^ n) := by
  rw [← wrap_u (a >>> n), u, BitVec.toNat_ushiftRight, Nat.shiftRight_eq_div_pow]
  push_cast
  rfl

theorem sshiftRight_eq_wrap (a : Word) (n : Nat) : a.sshiftRight n = wrap (sg a / 2 ^ n) := by
  rw [← wrap_sg (a.sshiftRight n), sg, BitVec.toInt_sshiftRight, Int.shiftRight_eq_div_pow]
  push_cast
  rfl

/-! ## Order (R182) -/

theorem flagW_slt (a b : Word) : flagW (a.slt b) = truth (sg a < sg b) := by
  rw [BitVec.slt_eq_decide, flagW, truth, sg, sg]; simp

theorem flagW_ult (a b : Word) : flagW (a.ult b) = truth (u a < u b) := by
  rw [BitVec.ult_eq_decide, flagW, truth, u, u]; simp

theorem sle_iff (a b : Word) : a.sle b = true ↔ sg a ≤ sg b := BitVec.sle_iff_toInt_le

theorem ule_iff (a b : Word) : a.ule b = true ↔ u a ≤ u b := by rw [BitVec.ule_iff_le, BitVec.le_def, u, u, Int.ofNat_le]

section extremes

variable {r : Word → Int} {le : Word → Word → Bool} (wrap_r : ∀ a, wrap (r a) = a) (le_iff : ∀ a b, le a b = true ↔ r a ≤ r b)

include wrap_r le_iff

/-- The lesser of two words in a reading that wrap undoes. -/
theorem lesser_eq_wrap (a b : Word) : (if le a b then a else b) = wrap (min (r a) (r b)) := by
  split
  · next h => rw [min_eq_left ((le_iff a b).mp h), wrap_r]
  · next h => rw [min_eq_right (le_of_not_ge fun k => h ((le_iff a b).mpr k)), wrap_r]

theorem greater_eq_wrap (a b : Word) : (if le a b then b else a) = wrap (max (r a) (r b)) := by
  split
  · next h => rw [max_eq_right ((le_iff a b).mp h), wrap_r]
  · next h => rw [max_eq_left (le_of_not_ge fun k => h ((le_iff a b).mpr k)), wrap_r]

end extremes

/-! ## Results of one and of two sources (R181) -/

/-- A register operation of two sources, o being its meaning, gives the word that its function makes of them. -/
theorem result_binop {i : Instr} {d xa xb : BitVec 5} {f : Word → Word → Word} {v : Word} {s : State} (o : Host.Outcome State Fault Refusal)
    (meaning : exec i s = o) (body : o = binop i d xa xb f s) (value : f (s.rx xa) (s.rx xb) = v) : Result i d v s :=
  result_of fun m => by rw [meaning, body, binop_eq m, value]

theorem result_unop {i : Instr} {d xa : BitVec 5} {f : Word → Word} {v : Word} {s : State} (o : Host.Outcome State Fault Refusal)
    (meaning : exec i s = o) (body : o = unop i d xa f s) (value : f (s.rx xa) = v) : Result i d v s :=
  result_of fun m => by rw [meaning, body, unop_eq m, value]

end Sys2Proof.Machine

open Sys2Proof Sys2Proof.Machine Sys2Proof.Spec

/-- Settles O1: each operation is the word of its rule's number, and a result writes nothing else. -/
theorem binaryRegisterOperations : Obligations.BinaryRegisterOperations := by
  intro s d xa xb a b
  refine ⟨?_, ?_, ?_, ?_, ?_, ?_, ?_, ?_, ?_, ⟨a &&& b, fun _ _ => BitVec.getLsbD_and, ?_⟩, ⟨a ||| b, fun _ _ => BitVec.getLsbD_or, ?_⟩,
    ⟨a ^^^ b, fun _ _ => BitVec.getLsbD_xor, ?_⟩, ?_, ?_, ?_, ?_, ?_, ?_, ?_, ?_, ?_, ?_⟩
  · exact result_binop (execAdd d xa xb s) rfl rfl (by rw [wrap_add, wrap_u, wrap_u])
  · exact result_binop (execSub d xa xb s) rfl rfl (by rw [wrap_sub, wrap_u, wrap_u])
  · exact result_binop (execMul d xa xb s) rfl rfl (by rw [wrap_mul, wrap_u, wrap_u])
  · exact result_binop (execMulh d xa xb s) rfl rfl rfl
  · exact result_binop (execMulhu d xa xb s) rfl rfl ((wrap_natCast (a.toNat * b.toNat / 2 ^ 64)).symm)
  · exact result_binop (execDiv d xa xb s) rfl rfl (divS_eq a b)
  · exact result_binop (execDivu d xa xb s) rfl rfl (divU_eq a b)
  · exact result_binop (execRem d xa xb s) rfl rfl (remS_eq a b)
  · exact result_binop (execRemu d xa xb s) rfl rfl (remU_eq a b)
  · exact result_binop (execAnd d xa xb s) rfl rfl rfl
  · exact result_binop (execOr d xa xb s) rfl rfl rfl
  · exact result_binop (execXor d xa xb s) rfl rfl rfl
  · exact result_binop (execShl d xa xb s) rfl rfl (shiftLeft_eq_wrap a _)
  · exact result_binop (execShr d xa xb s) rfl rfl (ushiftRight_eq_wrap a _)
  · exact result_binop (execSra d xa xb s) rfl rfl (sshiftRight_eq_wrap a _)
  · exact result_binop (execSlt d xa xb s) rfl rfl (flagW_slt a b)
  · exact result_binop (execSltu d xa xb s) rfl rfl (flagW_ult a b)
  · exact result_binop (execMin d xa xb s) rfl rfl (lesser_eq_wrap wrap_sg sle_iff a b)
  · exact result_binop (execMax d xa xb s) rfl rfl (greater_eq_wrap wrap_sg sle_iff a b)
  · exact result_binop (execMinu d xa xb s) rfl rfl (lesser_eq_wrap wrap_u ule_iff a b)
  · exact result_binop (execMaxu d xa xb s) rfl rfl (greater_eq_wrap wrap_u ule_iff a b)
  · exact result_binop (execSadd d xa xb s) rfl rfl rfl
end

section
/-! SUPPORT. Bits of words (R183 to R187): what extending, extracting and inserting a field makes of each bit, the counts of bits, and the
obligation that the unary and immediate operations settle (O2). -/

namespace Sys2Proof.Machine

open Sys2Proof.Spec

/-! ## The bits of an extended field (R183, R185, R187) -/

/-- Sign-extension repeats the highest bit. -/
theorem getLsbD_signExtend_min {w v i : Nat} (x : BitVec w) (hi : i < v) : (x.signExtend v).getLsbD i = x.getLsbD (min i (w - 1)) := by
  rw [BitVec.getLsbD_signExtend, decide_eq_true hi, Bool.true_and]
  split
  · next low => rw [min_eq_left (by omega)]
  · next high => rw [min_eq_right (by omega), BitVec.msb_eq_getLsbD_last]

theorem toSigned_toNat {n : Nat} (x : BitVec n) {w : Nat} (pos : 0 < w) : toSigned w x.toNat = (x.setWidth w).toInt := by
  have half : 2 ^ w = 2 * 2 ^ (w - 1) := by rw [← Nat.pow_succ', Nat.succ_eq_add_one, Nat.sub_add_cancel pos]
  have low : x.toNat % 2 ^ w < 2 ^ (w - 1) ↔ 2 * (x.toNat % 2 ^ w) < 2 ^ w := by omega
  rw [BitVec.toInt, BitVec.toNat_setWidth, toSigned, Nat.cast_pow]
  simp only [low]
  rfl

theorem sextW_eq (a : Word) {w : Nat} (pos : 0 < w) : sextW w a = (a.setWidth w).signExtend 64 := by
  rw [sextW, toSigned_toNat a pos, BitVec.signExtend]

/-- The bits of a word whose low w bits are sign-extended: those, and above them the highest of them. -/
theorem sextW_bits (a : Word) {w : Nat} (pos : 0 < w) : BitsAre (sextW w a) fun i => a.getLsbD (min i (w - 1)) := by
  intro i hi
  rw [sextW_eq a pos, getLsbD_signExtend_min _ hi, BitVec.getLsbD_setWidth, decide_eq_true (by omega), Bool.true_and]

theorem zextW_eq (w : Nat) (a : Word) : zextW w a = wrap (u a % 2 ^ w) := by
  rw [zextW, ← wrap_natCast]
  push_cast
  rfl

/-! ## Fields (R186, R187) -/

/-- The bits of a word into which a field is inserted: the field's, and around them the word's. -/
theorem getLsbD_setFld {n : Nat} (w : BitVec n) (lo len v : Nat) {k : Nat} (hk : k < n) :
    (setFld w lo len v).getLsbD k = if lo ≤ k ∧ k < lo + len then v.testBit (k - lo) else w.getLsbD k := by
  simp only [setFld, BitVec.getLsbD_or, BitVec.getLsbD_and, BitVec.getLsbD_not, BitVec.getLsbD_ofNat, Nat.testBit_shiftLeft,
    Nat.testBit_two_pow_sub_one, Nat.testBit_mod_two_pow, decide_eq_true hk, Bool.true_and]
  by_cases low : lo ≤ k
  · by_cases high : k < lo + len
    · have : k - lo < len := by omega
      simp [low, high, this]
    · have : ¬ k - lo < len := by omega
      simp [high, this]
  · simp [low]

/-- The quarter of a word that holds bit k (R187). -/
theorem div_sixteen_eq_iff (k q : Nat) : k / 16 = q ↔ 16 * q ≤ k ∧ k < 16 * q + 16 := by omega

theorem setFld_word_bits (w a : Word) (lo len : Nat) :
    BitsAre (setFld w lo len a.toNat) fun k => if lo ≤ k ∧ k < lo + len then a.getLsbD (k - lo) else w.getLsbD k :=
  fun _ hk => getLsbD_setFld w lo len _ hk

theorem setFld_quarter_bits (w : Word) (imm : BitVec 16) (q : BitVec 2) :
    BitsAre (setFld w (16 * q.toNat) 16 imm.toNat) fun k => if k / 16 = q.toNat then imm.getLsbD (k % 16) else w.getLsbD k := by
  intro k hk
  rw [getLsbD_setFld w _ _ _ hk]
  simp only [div_sixteen_eq_iff]
  split
  · next here => rw [show k % 16 = k - 16 * q.toNat by omega, BitVec.getLsbD]
  · rfl

theorem fld_eq_wrap (a : Word) (lo len : Nat) : BitVec.ofNat 64 (fld a lo len) = wrap (u a / 2 ^ lo % 2 ^ len) := by
  rw [fld, Nat.shiftRight_eq_div_pow, ← wrap_natCast]
  push_cast
  rfl

/-! ## Counts of bits (R183) -/

theorem clz64_spec (a : Word) : clz64 a ≤ 64 ∧ (∀ i, i < clz64 a → a.getLsbD (63 - i) = false) ∧
    (clz64 a < 64 → a.getLsbD (63 - clz64 a) = true) := by
  by_cases zero : a = 0
  · subst zero
    exact ⟨le_refl 64, fun i _ => BitVec.getLsbD_zero, fun h => absurd h (lt_irrefl 64)⟩
  · have nonzero : a.toNat ≠ 0 := fun h => zero (BitVec.eq_of_toNat_eq h)
    have top : a.toNat.log2 < 64 := (Nat.log2_lt nonzero).mpr a.isLt
    rw [clz64, if_neg zero]
    refine ⟨by omega, fun i hi => ?_, fun _ => ?_⟩
    · exact Nat.testBit_lt_two_pow ((Nat.log2_lt nonzero).mp (by omega))
    · rw [show 63 - (63 - a.toNat.log2) = a.toNat.log2 by omega]
      exact Nat.testBit_log2 nonzero

theorem ctz64_spec (a : Word) : ctz64 a ≤ 64 ∧ (∀ i, i < ctz64 a → a.getLsbD i = false) ∧ (ctz64 a < 64 → a.getLsbD (ctz64 a) = true) := by
  unfold ctz64
  cases found : (List.range 64).find? fun i => bitAt a i with
  | none =>
    refine ⟨le_refl 64, fun i hi => ?_, fun h => absurd h (lt_irrefl 64)⟩
    exact Bool.not_eq_true' _ ▸ List.find?_range_eq_none.mp found i hi
  | some n =>
    obtain ⟨set, mem, below⟩ := List.find?_range_eq_some.mp found
    exact ⟨(List.mem_range.mp mem).le, fun i hi => Bool.not_eq_true' _ ▸ below i hi, fun _ => set⟩

theorem popNat_eq_card (a : Word) : popNat a.toNat 64 = (Finset.univ.filter fun i : Fin 64 => a.getLsbD i = true).card := by
  rw [popNat, ← List.map_coe_finRange_eq_range, List.filter_map, List.length_map]
  simp [Finset.card, Finset.univ, Fintype.elems, Function.comp_def, BitVec.getLsbD]

/-- A form that may issue is well formed (R175). -/
theorem MayIssue.wf {s : State} {i : Instr} (m : MayIssue s i) : i.wf = true := by
  have ok := m.1
  simp only [formOk, Bool.and_eq_true] at ok
  exact ok.1.1.1.1

end Sys2Proof.Machine


open Sys2Proof Sys2Proof.Machine Sys2Proof.Spec

/-- R183, R184: the unary register operations and SEL. -/
theorem unaryRegisterOperations : Spec.UnaryRegisterOperations := by
  intro s d xa xb xc a
  obtain ⟨clzLe, clzZeros, clzOne⟩ := clz64_spec a
  obtain ⟨ctzLe, ctzZeros, ctzOne⟩ := ctz64_spec a
  refine ⟨⟨clz64 a, clzLe, clzZeros, clzOne, ?_⟩, ⟨ctz64 a, ctzLe, ctzZeros, ctzOne, ?_⟩, ?_, ⟨sextW 8 a, sextW_bits a (by decide), ?_⟩,
    ⟨sextW 16 a, sextW_bits a (by decide), ?_⟩, ⟨sextW 32 a, sextW_bits a (by decide), ?_⟩, ?_, ?_, ?_, ?_⟩
  · exact result_unop (execClz d xa s) rfl rfl (wrap_natCast _).symm
  · exact result_unop (execCtz d xa s) rfl rfl (wrap_natCast _).symm
  · exact result_unop (execPopc d xa s) rfl rfl (by rw [wrap_natCast, ← popNat_eq_card])
  · exact result_unop (execSext8 d xa s) rfl rfl rfl
  · exact result_unop (execSext16 d xa s) rfl rfl rfl
  · exact result_unop (execSext32 d xa s) rfl rfl rfl
  · exact result_unop (execZext8 d xa s) rfl rfl (zextW_eq 8 a)
  · exact result_unop (execZext16 d xa s) rfl rfl (zextW_eq 16 a)
  · exact result_unop (execZext32 d xa s) rfl rfl (zextW_eq 32 a)
  · have chosen : (if s.rx xc ≠ 0 then a else s.rx xb) = if u (s.rx xc) ≠ 0 then a else s.rx xb := by simp only [ne_eq, u_eq_zero]
    exact chosen ▸ result_of fun m => congrArg Host.Outcome.next (issue_of_may _ m)

/-- R185 to R187: the immediate operations. -/
theorem immediateOperations : Spec.ImmediateOperations := by
  intro s d xa imm p w q a i
  have ext : imm.signExtend 64 = wrap i := rfl
  have extBits : BitsAre (imm.signExtend 64) fun k => imm.getLsbD (min k 15) := fun _ => getLsbD_signExtend_min imm
  refine ⟨?_, ⟨a &&& imm.signExtend 64, fun k hk => ?_, ?_⟩, ⟨a ||| imm.signExtend 64, fun k hk => ?_, ?_⟩,
    ⟨a ^^^ imm.signExtend 64, fun k hk => ?_, ?_⟩, ?_, ?_, ?_, ?_, ?_, ⟨_, setFld_word_bits (s.rx d) a p.toNat (w.toNat + 1), ?_⟩,
    fun m => ?_, fun m => ?_, ?_, ⟨_, setFld_quarter_bits (s.rx d) imm q, ?_⟩⟩
  · exact result_unop (execAddi d xa imm s) rfl rfl (by rw [wrap_add, wrap_u, ext])
  · rw [BitVec.getLsbD_and, extBits k hk]
  · exact result_unop (execAndi d xa imm s) rfl rfl rfl
  · rw [BitVec.getLsbD_or, extBits k hk]
  · exact result_unop (execOri d xa imm s) rfl rfl rfl
  · rw [BitVec.getLsbD_xor, extBits k hk]
  · exact result_unop (execXori d xa imm s) rfl rfl rfl
  · refine result_unop (execSlti d xa imm s) rfl rfl ((flagW_slt a _).trans ?_)
    rw [sg, sg, BitVec.toInt_signExtend_of_le (by decide)]
  · exact result_unop (execShli d xa p s) rfl rfl (shiftLeft_eq_wrap a _)
  · exact result_unop (execShri d xa p s) rfl rfl (ushiftRight_eq_wrap a _)
  · exact result_unop (execSrai d xa p s) rfl rfl (sshiftRight_eq_wrap a _)
  · exact result_unop (execBfx d xa p w s) rfl rfl (fld_eq_wrap a _ _)
  · exact result_of fun m => congrArg Host.Outcome.next (issue_of_may _ m)
  · have fits : p.toNat + w.toNat < 64 := of_decide_eq_true (MayIssue.wf m)
    omega
  · have fits : p.toNat + w.toNat < 64 := of_decide_eq_true (MayIssue.wf m)
    omega
  · exact result_of fun m => congrArg Host.Outcome.next (issue_of_may _ m)
  · exact result_of fun m => congrArg Host.Outcome.next (issue_of_may _ m)

/-- Settles O2: each value is named by its bits or by its number, and a result writes nothing else. -/
theorem unaryAndImmediateOperations : Obligations.UnaryAndImmediateOperations := ⟨unaryRegisterOperations, immediateOperations⟩
end

section
/-! SUPPORT. A branch that is not taken (R192) goes on as any control word does, which ends what its context has begun; and the refutation
of the obligation that says it leaves all of the context but its program counter and status (O3). -/

namespace Sys2Proof.Machine

open Sys2Proof.Spec

theorem Context.begun_next (c : Context) : c.next.begun = none := by rw [Context.next_eq]

theorem State.begun_goOn (s : State) : s.goOn.me.begun = none := by
  rw [State.goOn, State.me_updMe, Context.begun_next]

/-- BNE of a register with itself is not taken. -/
theorem execBne_self {s : State} {xa : BitVec 5} {off : BitVec 16} (m : MayIssue s (.bne xa xa off)) :
    exec (.bne xa xa off) s = .next s.goOn := by
  have untaken : (if (s.rx xa != s.rx xa) = true then s.jump (s.target off) else s.goOn) = s.goOn := if_neg (by simp)
  exact congrArg Host.Outcome.next ((issue_of_may _ m).trans untaken)

/-- The machine after reset, its executing context having begun an FGET. -/
def begunFget : State := State.reset.updMe fun c => { c with begun := some .fget }

theorem me_begunFget : begunFget.me = { Context.reset with begun := some .fget } := by
  rw [begunFget, State.me_updMe, State.me, State.ctx_reset]

/-- A branch that is not taken does not leave the rest of the context: the FGET that it had begun is gone. -/
theorem not_conditionalBranches : ¬ Spec.ConditionalBranches := by
  intro h
  obtain ⟨-, branch, -⟩ := h begunFget 0 0 0
  have may : MayIssue begunFget (.bne 0 0 0) := ⟨rfl, rfl⟩
  obtain ⟨t, step, -, untaken⟩ := branch may (by rw [me_begunFget]; rfl)
  have after : t = begunFget.goOn := (Host.Outcome.next.inj ((execBne_self may).symm.trans step)).symm
  have kept : t.me.begun = begunFget.me.begun := by rw [(untaken fun differ => differ rfl).context]
  rw [after, State.begun_goOn, me_begunFget] at kept
  exact Option.some_ne_none _ kept.symm

end Sys2Proof.Machine

open Sys2Proof Sys2Proof.Machine Sys2Proof.Spec

/-- Refutes O3: a conditional branch that is not taken changes more of its context than its program counter and status where the context
has begun an FGET (`not_conditionalBranches`, with the state `begunFget`). -/
theorem not_branchesAndJumps : ¬ Obligations.BranchesAndJumps := by
  rintro ⟨branches, -, -⟩
  exact not_conditionalBranches branches
end

section
/-! SUPPORT. The words that the manual writes out (O55). -/

open Sys2Proof Sys2Proof.Machine

/-- Settles O55: each word is the code of its instruction, and decoding undoes encoding. -/
theorem decodeSanity : Obligations.DecodeSanity := by
  refine ⟨?_, ?_, ?_, ?_, ?_, ?_, ?_, ?_, ?_, ?_, ?_, ?_, ?_, ?_, ?_⟩
  all_goals exact decode_encode rfl
end

section
/-! SUPPORT. Scalar stores (R188, R190): how one issues, how it enters the side log (R100, R341), and how it performs on its die (R105), with
the obligation that they settle (O6). -/

namespace Sys2Proof.Machine

open Sys2Proof.Spec

/-! ## An instruction that goes on after a change of its core -/

/-- A context goes on whose instruction has left its program counter and its REP unit. -/
theorem goesOn_of_next {s t : State} {c : Context} (me : t.me = c.next) (pc : c.pc = s.me.pc) (rep : c.rep = s.me.rep) : GoesOn s t where
  status := by rw [me, Context.next_eq]
  plain h := by
    rw [me, Context.next, rep, h, ← pc]
    exact ⟨rfl, rfl⟩
  again q h more := by
    rw [me, Context.next, rep, h, ← pc]
    simp only [more, if_true, and_self]
  last q h ends := by
    rw [me, Context.next, rep, h, ← pc]
    simp only [ends, if_false, and_self]

theorem State.me_updMyCore (s : State) (f : Core → Core) : (s.updMyCore f).me = (f s.myCore).ctx s.cur.ctx :=
  congrArg (Core.ctx · s.cur.ctx) (State.myCore_updMyCore s f)

/-- A core whose task has had a side effect; its region is closed (R65, R70). -/
def Core.sideEffect (c : Core) : Core := { c with task := c.task.map fun k => { k with sideEffect := true }, closed := true }

theorem State.sideEffect_eq_core (s : State) : s.sideEffect = s.updMyCore Core.sideEffect := State.sideEffect_eq s

/-- A core whose context n has done f with a side effect and goes on. -/
def Core.effectBy (n : CtxName) (f : Context → Context) (c : Core) : Core := c.sideEffect.updCtx n fun x => (f x).next

theorem State.goOn_sideEffect (s : State) (f : Context → Context) :
    (s.sideEffect.updMe f).goOn = s.updMyCore (Core.effectBy s.cur.ctx f) := by
  rw [State.goOn, State.updMe_updMe, State.sideEffect_eq, State.updMyCore_updMe]
  rfl

theorem Core.ctx_effectBy (n : CtxName) (f : Context → Context) (c : Core) : (c.effectBy n f).ctx n = (f (c.ctx n)).next := by
  cases n <;> rfl

theorem Core.effectBy_eq (n : CtxName) (f : Context → Context) (c : Core) :
    c.effectBy n f = (c.updCtx n fun _ => (f (c.ctx n)).next).sideEffect := by
  cases n <;> rfl

/-! ## A store that becomes outstanding (R190) -/

/-- A context that has issued an access: its next number is taken, and the access stands last among the outstanding ones. -/
def Context.issuing (n : Nat) (cls : BitVec 16) (op : AccOp) (hva : Word) (pages : List Nat) (c : Context) : Context :=
  { c with seq := c.seq + 1, out := c.out ++ [⟨n, cls, op, c.faultPc, hva, pages, c.faultRep, none⟩] }

theorem State.issueAccess_eq (s : State) (cls : BitVec 16) (op : AccOp) (hva : Word) (pages : List Nat) :
    s.issueAccess cls op hva pages = s.updMe (Context.issuing s.me.seq cls op hva pages) := by
  unfold State.issueAccess State.takeSeq
  exact State.updMe_updMe s _ _

/-- A store of one word that translates is outstanding, its page pinned, and nothing else of the machine changes. -/
theorem issues_issueStore {s : State} {e dla : Nat} {cls : BitVec 16} {op : LogOp} (unlogged : s.logged s.cur cls = false)
    (reaches : Reaches s e dla true) : Issues s ⟨s.me.seq, cls, op.access dla, s.me.faultPc, BitVec.ofNat 64 e, [pageOf dla], s.me.faultRep, none⟩
      dla (issueStore s cls [(e, op)]) := by
  let p := s.updHomes fun h => h.pin (pageOf dla)
  let f := Context.issuing s.me.seq cls (op.access dla) (BitVec.ofNat 64 e) [pageOf dla]
  let t := p.updMyCore (Core.effectBy s.cur.ctx f)
  have step : issueStore s cls [(e, op)] = t := by
    rw [issueStore_one unlogged reaches, State.issueAccess_eq, State.me_sideEffect]
    exact State.goOn_sideEffect p f
  have me : t.me = (f s.me).next := (State.me_updMyCore p _).trans (Core.ctx_effectBy _ f _)
  have core : t.myCore = (s.myCore.updCtx s.cur.ctx fun _ => (f s.me).next).sideEffect :=
    (State.myCore_updMyCore p _).trans (Core.effectBy_eq _ f _)
  obtain ⟨rest, memory, seen⟩ := onlyMyCore_updMyCore p (Core.effectBy s.cur.ctx f)
  rw [step]
  refine ⟨goesOn_of_next me rfl rfl, ?_, ?_, rest, memory, seen⟩
  · rw [me, Context.next_eq]
    rfl
  · rw [core, me, Core.sideEffect, Core.task_updCtx]

/-- A scalar store whose address is aligned is a store of its register. -/
theorem storeX_aligned {i : Instr} {d xa : BitVec 5} {c : BitVec 4} {off : BitVec 8} {size : Nat} {s : State} (m : MayIssue s i)
    (aligned : ea s xa off size % size = 0) :
    storeX i d xa c off size s = .next (issueStore s (clsBit c) [(ea s xa off size, .store size (s.rx d))]) := by
  rw [storeX, issue_of_may _ m]
  simp only [eaOf_eq, withAligned_of _ aligned, go]

theorem storeX_misaligned {i : Instr} {d xa : BitVec 5} {c : BitVec 4} {off : BitVec 8} {size : Nat} {s : State} (m : MayIssue s i)
    (misaligned : ea s xa off size % size ≠ 0) : storeX i d xa c off size s = .next (s.fault 0x02 (ea s xa off size)) := by
  rw [storeX, issue_of_may _ m, eaOf_eq, withAligned_not _ misaligned, go]

/-! ## A store in the side log (R100, R341) -/

/-- The entry of the side log for a store of the executing context whose page is requested. -/
def State.logEntry (s : State) (cls : BitVec 16) (e : Nat) (op : LogOp) : LogEntry :=
  ⟨s.cur.ctx, cls, BitVec.ofNat 64 e, s.pasidOf s.cur.at_, op, s.me.faultPc, s.me.seq, none, false, s.me.faultRep, none, s.gangOf s.cur.at_⟩

/-- A core whose context n has taken an issue number. -/
def Core.numbered (n : CtxName) (c : Core) : Core := c.updCtx n fun y => { y with seq := y.seq + 1 }

/-- A core whose side log has a last entry. -/
def Core.logs (x : LogEntry) (c : Core) : Core := { c with sideLog := c.sideLog ++ [x] }

/-- The executing core once a store of its context n stands in the side log and the context has gone on. -/
def Core.logging (n : CtxName) (x : LogEntry) (c : Core) : Core := ((c.sideEffect.numbered n).logs x).updCtx n Context.next

theorem Core.sideLog_logging (n : CtxName) (x : LogEntry) (c : Core) : (c.logging n x).sideLog = c.sideLog ++ [x] := by cases n <;> rfl

theorem Core.ctx_logging (n : CtxName) (x : LogEntry) (c : Core) : (c.logging n x).ctx n = ((c.numbered n).ctx n).next := by
  cases n <;> rfl

theorem State.updMyCore_logging (s : State) (x : LogEntry) :
    (s.sideEffect.takeSeq.1.updMyCore (Core.logs x)).goOn = s.updMyCore (Core.logging s.cur.ctx x) := by
  rw [State.goOn, State.updMyCore_updMe]
  show ((s.sideEffect.updMyCore (Core.numbered s.cur.ctx)).updMyCore fun c => (c.logs x).updCtx s.cur.ctx Context.next) = _
  rw [State.sideEffect_eq_core, State.updMyCore_updMyCore, State.updMyCore_updMyCore]
  rfl

theorem State.lookupXlat_sideEffect (s : State) (u : XlatUser) (pasid hva : Nat) (wr : Bool) :
    s.sideEffect.lookupXlat u pasid hva wr = s.lookupXlat u pasid hva wr := by
  have xlats : (s.updMyCore Core.sideEffect).xlats u = s.xlats u := State.xlats_updMyCore (f := Core.sideEffect) (fun _ => rfl) s u
  rw [State.lookupXlat, State.lookupXlat, State.sideEffect_eq_core, xlats]
  rfl

theorem State.gangOf_sideEffect (s : State) : s.sideEffect.takeSeq.1.gangOf s.cur.at_ = s.gangOf s.cur.at_ := by
  have task : s.sideEffect.takeSeq.1.myCore.task = s.myCore.sideEffect.task := by
    rw [State.myCore_takeSeq, Core.task_updCtx, State.sideEffect_eq_core, State.myCore_updMyCore]
  exact (congrArg (Option.map _) task).trans (Option.map_map _ _ _)

theorem State.logEntry_sideEffect (s : State) (cls : BitVec 16) (e : Nat) (op : LogOp) :
    s.logEntry cls e op = ⟨s.cur.ctx, cls, BitVec.ofNat 64 e, s.pasidOf s.cur.at_, op, s.sideEffect.takeSeq.1.me.faultPc, s.sideEffect.me.seq,
      none, false, s.sideEffect.takeSeq.1.me.faultRep, none, s.sideEffect.takeSeq.1.gangOf s.cur.at_⟩ := by
  rw [State.me_takeSeq, State.me_sideEffect, State.gangOf_sideEffect]
  rfl

theorem withPins_nil (s : State) (k : State → State) : withPins s [] k = k s := rfl

theorem logStore_paging {s : State} {cls : BitVec 16} {e : Nat} {op : LogOp}
    (paging : s.lookupXlat (.engine s.cur.at_ ctxEng) (s.pasidOf s.cur.at_) e true = .paging) (room : s.myCore.sideLog.length < 64) :
    logStore s cls [(e, op)] = s.updMyCore (Core.logging s.cur.ctx (s.logEntry cls e op)) := by
  have fits : s.myCore.logRoom 1 = true := decide_eq_true room
  have asks : (s.sideEffect.lookupXlat (.engine s.cur.at_ ctxEng) (s.pasidOf s.cur.at_) e true == .waiting) = false := by
    rw [State.lookupXlat_sideEffect, paging]
    rfl
  have xlats : s.logXlats (.engine s.cur.at_ ctxEng) (s.pasidOf s.cur.at_) [e] = ([none], none) := by
    simp only [State.logXlats, List.map, List.find?, paging]
    rfl
  rw [← State.updMyCore_logging, State.logEntry_sideEffect]
  unfold logStore
  simp only [List.length_singleton, fits, if_true, List.map, xlats, List.filterMap, id, withPins_nil, List.zip, List.zipWith, List.foldl,
    asks, Bool.false_eq_true, if_false]
  rfl

/-- A store whose page is requested goes to the side log, whether or not an entry of its class stands there. -/
theorem issueStore_paging {s : State} {cls : BitVec 16} {e : Nat} {op : LogOp}
    (paging : s.lookupXlat (.engine s.cur.at_ ctxEng) (s.pasidOf s.cur.at_) e true = .paging) :
    issueStore s cls [(e, op)] = logStore s cls [(e, op)] := by
  unfold issueStore
  split
  · rfl
  · simp only [withXlat, List.map, State.xlatWords, paging]

/-! ## A store that performs on its die (R105) -/

theorem bufByte_append (a : Nat) (l : List DieWrite) (w : DieWrite) :
    bufByte a (l ++ [w]) = if w.dla ≤ a ∧ a < w.dla + w.size then some (byteOf w.data (a - w.dla)) else bufByte a l := by
  induction l with
  | nil => rfl
  | cons x t ih =>
    rw [List.cons_append, bufByte, ih, bufByte]
    by_cases covers : w.dla ≤ a ∧ a < w.dla + w.size
    · simp only [if_pos covers]
    · simp only [if_neg covers]

theorem byteOf_word (v : Word) (k : Nat) : byteOf v k = v.extractLsb' (8 * k) 8 := by
  rw [byteOf, lane, fld_eq_extract, BitVec.ofNat_toNat, BitVec.setWidth_eq]

/-- A store whose earlier accesses have performed, and to whose page no request is relayed, stands in its die's list. -/
theorem State.performAccess_store {s : State} {c : CtxRef} {a : Access} {dla size : Nat} {data : Word} (op : a.op = .store dla size data)
    (old : s.oldest c a = true) (direct : pageOf dla ∉ (s.die c.at_.site).relayed) :
    s.performAccess c a = (s.dieWrite c a dla size data none).dropAccess c a.seq := by
  have free : (s.die c.at_.site).relayed.contains (pageOf dla) = false := by simpa using direct
  simp only [State.performAccess, op, old, State.behindRelay, free, Bool.not_true, Bool.or_self, Bool.false_eq_true, if_false]

theorem ReadsAlike.dropAccess (s : State) (c : CtxRef) (n : Nat) : ReadsAlike s (s.dropAccess c n) :=
  ((ReadsAlike.updCore s c.at_ _).trans (ReadsAlike.updCore _ c.at_ Core.sweep)).trans (ReadsAlike.settle _ c.at_)

/-- What each die reads after a write has become the last of a die's list: the written bytes there, and all else as before. -/
theorem State.dieByte_append (s : State) (i : Fin 6) (w : DieWrite) {f : Die → Die} (buf : ∀ d, (f d).buf = d.buf ++ [w])
    (cache : ∀ d, (f d).cache = d.cache) (j : Fin 6) (b : Nat) : (s.updDie i f).dieByte j b =
      if j = i ∧ w.dla ≤ b ∧ b < w.dla + w.size then byteOf w.data (b - w.dla) else s.dieByte j b := by
  by_cases at_ : j = i
  · subst at_
    rw [State.dieByte, State.die_updDie, buf, bufByte_append]
    by_cases covers : w.dla ≤ b ∧ b < w.dla + w.size
    · simp only [if_pos covers, if_pos (And.intro trivial covers)]
    · simp only [if_neg covers, if_neg fun h : True ∧ _ => covers h.2, State.dieByte, Die.mByte, Die.line, cache, State.homes_updDie]
  · rw [if_neg fun h => at_ h.1, State.dieByte, State.die_updDie_ne s f at_]
    rfl

/-- The entry of a die's list for a write of an access (R105). -/
def State.writeOf (s : State) (c : CtxRef) (a : Access) (dla size : Nat) (data : Word) (rel : Option RelInfo) : DieWrite where
  ctx := c
  seq := a.seq
  cls := a.cls
  dla := dla
  size := size
  data := data
  rel := rel
  vis := []
  pages := a.pages
  route := none
  fwd := 0
  pc := a.pc
  rep := a.rep
  hva := a.hva
  pasid := s.pasidOf c.at_
  gang := s.gangOf c.at_
  since := s.now
  asked := none

theorem State.dieByte_dieWrite (s : State) (c : CtxRef) (a : Access) (dla size : Nat) (data : Word) (rel : Option RelInfo) (j : Fin 6) (b : Nat) :
    (s.dieWrite c a dla size data rel).dieByte j b =
      if j = c.at_.site ∧ dla ≤ b ∧ b < dla + size then data.extractLsb' (8 * (b - dla)) 8 else s.dieByte j b := by
  unfold State.dieWrite
  dsimp only
  rw [(Tidies.triggerDie _ c.at_.site (lineOf dla)).toReadsAlike.keepsMemory.seen, ← byteOf_word]
  refine State.dieByte_append s c.at_.site (s.writeOf c a dla size data rel) ?_ ?_ j b
  · exact fun _ => rfl
  · exact fun _ => rfl

end Sys2Proof.Machine

open Sys2Proof Sys2Proof.Machine Sys2Proof.Spec

/-- R188, R190: how each scalar store issues. -/
theorem scalarStoresIssue : Spec.ScalarStoresIssue := by
  intro s d xa c off dla Store
  have store {i : Instr} {size : Nat} (meaning : exec i s = storeX i d xa c off size s) : Store i size := fun m =>
    ⟨fun aligned unlogged reaches => ⟨_, meaning.trans (storeX_aligned m aligned), issues_issueStore (op := .store size (s.rx d)) unlogged reaches⟩,
      fun misaligned => meaning.trans (storeX_misaligned m misaligned)⟩
  exact ⟨store rfl, store rfl, store rfl, store rfl⟩

/-- R100, R341: how each scalar store goes to the side log. -/
theorem storeWaitsInSideLog : Spec.StoreWaitsInSideLog := by
  intro s d xa c off Logs
  have logs {i : Instr} {size : Nat} (meaning : exec i s = storeX i d xa c off size s) : Logs i size := by
    intro m e aligned paging room
    let x := s.logEntry (clsBit c) e (.store size (s.rx d))
    have step : exec i s = .next (s.updMyCore (Core.logging s.cur.ctx x)) := by
      rw [meaning, storeX_aligned m aligned, issueStore_paging paging, logStore_paging paging room]
    have me : (s.updMyCore (Core.logging s.cur.ctx x)).me = { s.me with seq := s.me.seq + 1 }.next := by
      rw [State.me_updMyCore, Core.ctx_logging, Core.numbered, Core.ctx_updCtx]
      rfl
    have frame := onlyMyCore_updMyCore s (Core.logging s.cur.ctx x)
    refine ⟨_, step, goesOn_of_next me rfl rfl, ?_, ?_, ?_, frame.memory, frame.seen⟩
    · rw [me, Context.next_eq]
    · rw [me, Context.next_eq]
    · rw [State.myCore_updMyCore, Core.sideLog_logging]
      rfl
  exact ⟨logs rfl, logs rfl, logs rfl, logs rfl⟩

/-- R105, R107: what a store that performs makes of memory. -/
theorem storePerformsOnItsDie : Spec.StorePerformsOnItsDie := by
  intro s c n dla size data a out op old _ direct t
  have step : t = (s.dieWrite c a dla size data none).dropAccess c a.seq := by
    show s.perform c n = _
    rw [State.perform, out]
    exact State.performAccess_store op old direct
  have kept := (ReadsAlike.dropAccess (s.dieWrite c a dla size data none) c a.seq).keepsMemory
  rw [step]
  exact ⟨fun j b => (kept.seen j b).trans (State.dieByte_dieWrite s c a dla size data none j b), fun b => kept.memory b⟩

/-- Settles O6: a store issues, or waits, as its register and its address say, and its bytes are the newest of its die's list. -/
theorem scalarStores : Obligations.ScalarStores := ⟨scalarStoresIssue, storeWaitsInSideLog, storePerformsOnItsDie⟩
end

section
/-! SUPPORT. Scalar loads (R188, R189): how one holds its context, the value of a word as its die sees it (R8, R105), and what the return of
the value does, with the obligation that they settle (O7). -/

namespace Sys2Proof.Machine

open Sys2Proof.Spec

/-! ## A load that holds its context (R189) -/

theorem loadX_aligned {i : Instr} {d xa : BitVec 5} {c : BitVec 4} {off : BitVec 8} {size : Nat} {sgn : Bool} {s : State} (m : MayIssue s i)
    (aligned : ea s xa off size % size = 0) :
    loadX i d xa c off size sgn s = .next (issueLoad s [ea s xa off size] size (clsBit c) (.x d sgn)) := by
  rw [loadX, issue_of_may _ m]
  simp only [eaOf_eq, withAligned_of _ aligned, go]

theorem loadX_misaligned {i : Instr} {d xa : BitVec 5} {c : BitVec 4} {off : BitVec 8} {size : Nat} {sgn : Bool} {s : State} (m : MayIssue s i)
    (misaligned : ea s xa off size % size ≠ 0) : loadX i d xa c off size sgn s = .next (s.fault 0x02 (ea s xa off size)) := by
  rw [loadX, issue_of_may _ m, eaOf_eq, withAligned_not _ misaligned, go]

/-! ## The value of a word (R8, R105) -/

theorem State.wordValue_home {s : State} {c : CtxRef} {w : LoadWord} {x : Word} (h : w.home = some x) : s.wordValue c w = x := by
  rw [State.wordValue, h]

theorem State.wordValue_die {s : State} {c : CtxRef} {w : LoadWord} (h : w.home = none) :
    s.wordValue c w = BitVec.ofNat 64 (s.dieN c.at_.site w.dla w.size) := by
  rw [State.wordValue, h]

theorem State.dieN_lt (s : State) (i : Fin 6) (a n : Nat) : s.dieN i a n < 2 ^ (8 * n) :=
  (bytesNat_lt _ a n).trans_eq (Nat.pow_mul 2 8 n).symm

/-- Each byte of a word that its home has not fixed is the byte that the die sees. -/
theorem State.wordValue_byte {s : State} {c : CtxRef} {w : LoadWord} (h : w.home = none) (le : w.size ≤ 8) {j : Nat} (hj : j < w.size) :
    (s.wordValue c w).extractLsb' (8 * j) 8 = s.dieByte c.at_.site (w.dla + j) := by
  have fits : s.dieN c.at_.site w.dla w.size < 2 ^ 64 :=
    (s.dieN_lt c.at_.site w.dla w.size).trans_le (Nat.pow_le_pow_right (by decide) (by omega))
  rw [State.wordValue_die h, ← bytesNat_div (s.dieByte c.at_.site) w.dla w.size j hj]
  refine BitVec.eq_of_toNat_eq ?_
  rw [BitVec.extractLsb'_toNat, BitVec.toNat_ofNat, Nat.mod_eq_of_lt fits, Nat.shiftRight_eq_div_pow, Nat.pow_mul, BitVec.toNat_ofNat]
  rfl

/-- A word of a load is no wider than its bytes. -/
theorem State.wordValue_lt {s : State} {c : CtxRef} {w : LoadWord} (fits : ∀ v, w.home = some v → v.toNat < 2 ^ (8 * w.size)) :
    (s.wordValue c w).toNat < 2 ^ (8 * w.size) := by
  cases home : w.home with
  | some v => rw [State.wordValue_home home]; exact fits v home
  | none =>
    rw [State.wordValue_die home, BitVec.toNat_ofNat]
    exact (Nat.mod_le _ _).trans_lt (s.dieN_lt _ _ _)

/-- What serves a word that its home has not fixed and that is ready: the newest write of its location, which covers it, or the die's line. -/
theorem State.served_of_wordReady {s : State} {c : CtxRef} {l : HeldLoad} {w : LoadWord} (ready : s.wordReady c l w = true) (h : w.home = none) :
    match (s.die c.at_.site).lastWrite w.dla with
    | some x => x.dla ≤ w.dla ∧ w.dla + w.size ≤ x.dla + x.size
    | none => ((s.die c.at_.site).line (lineOf w.dla)).isSome = true := by
  rw [State.wordReady, h, Option.isSome_none, Bool.false_or, Bool.and_eq_true] at ready
  obtain ⟨-, served⟩ := ready
  split
  · next x newest =>
    simp only [newest, DieWrite.serves, Bool.and_eq_true, decide_eq_true_eq] at served
    exact served.1
  · next waits =>
    simp only [waits, Bool.and_eq_true] at served
    exact served.1

/-! ## The return of a held load of one word (R189) -/

/-- The state in which the read of a held word has done all but deliver its value: a word that its home fixed has been read there (R115). -/
def State.afterRead (s : State) (c : CtxRef) (l : HeldLoad) (w : LoadWord) : State :=
  if w.home = none then { s with cur := c }.readEffect c l w else { s with cur := c }

theorem execLoadValueReturn_one {s : State} {c : CtxRef} {l : HeldLoad} {w : LoadWord} (held : (s.ctx c).status = .held l) (words : l.words = [w])
    (oldest : s.loadOldest c l = true) (good : s.wordBad c w = false) (ready : s.wordReady c l w = true) :
    exec (.loadValueReturn c) s = .next (loadDone (s.afterRead c l w) l [s.wordValue c w]) := by
  show execLoadValueReturn c s = _
  unfold execLoadValueReturn State.afterRead
  simp only [held, oldest, words, List.find?, good, List.all, ready, Bool.not_true, Bool.and_self, Bool.false_eq_true, if_false, if_true, go,
    List.map, List.filter]
  cases w.home <;> rfl

/-- A value written into a register of the context to which the load belongs, after what the read did elsewhere. -/
theorem result_returns {s p : State} {c : CtxRef} (cur : p.cur = c) (me : p.me = s.ctx c) (kept : KeepsMemory s p) (rd : BitVec 5) (v : Word) :
    let t := p.result rd v
    t.cur = c ∧ (rd ≠ 0 → t.rx rd = v) ∧ (∀ r, r ≠ rd → t.rx r = (s.ctx c).rd r) ∧ GoesOn { s with cur := c } t ∧ KeepsMemory s t := by
  have sets := setsX_result p rd v
  refine ⟨cur, sets.value, fun r hr => ?_, goesOn_of_me me sets.goesOn, kept.trans ⟨sets.rest.memory, sets.rest.seen⟩⟩
  rw [sets.others r hr, State.rx, me]

theorem keepsMemory_cur (s : State) (c : CtxRef) : KeepsMemory s { s with cur := c } := ⟨fun _ => rfl, fun _ _ => rfl⟩

theorem KeepsMemory.unpin (s : State) (l : List Nat) : KeepsMemory s (s.unpin l) := (Tidies.unpin s l).toReadsAlike.keepsMemory

/-- A value read as R189 extends it. -/
theorem extended_eq {v : Word} {n : Nat} (pos : 0 < n) (fits : v.toNat < 2 ^ n) (sgn : Bool) :
    (if sgn then BitVec.ofInt 64 (toSigned n v.toNat) else v) = if sgn then wrap (v.setWidth n).toInt else wrap (v.setWidth n).toNat := by
  cases sgn with
  | true => exact congrArg wrap (toSigned_toNat v pos)
  | false =>
    show v = wrap (v.setWidth n).toNat
    rw [BitVec.toNat_setWidth, Nat.mod_eq_of_lt fits]
    exact (wrap_u v).symm

end Sys2Proof.Machine

open Sys2Proof Sys2Proof.Machine Sys2Proof.Spec

/-- R188, R189: how each scalar load holds its context. -/
theorem scalarLoadsHold : Spec.ScalarLoadsHold := by
  intro s d xa c off dla Load
  have load {i : Instr} {size : Nat} {sgn : Bool} (meaning : exec i s = loadX i d xa c off size sgn s) : Load i size sgn := fun m =>
    ⟨fun aligned unlogged reaches => ⟨_, meaning.trans (loadX_aligned m aligned), issueLoad_one unlogged reaches⟩,
      fun misaligned => meaning.trans (loadX_misaligned m misaligned)⟩
  exact ⟨load rfl, load rfl, load rfl, load rfl, load rfl, load rfl, load rfl⟩

/-- R189, R8: what the return of the value of a scalar load does. -/
theorem loadValueReturns : Spec.LoadValueReturns := by
  intro s c l rd sgn w held dest words sizes oldest good ready fits v
  have size : 0 < w.size ∧ w.size ≤ 8 := by
    simp only [List.mem_cons, List.not_mem_nil, or_false] at sizes
    omega
  have read : s.afterRead c l w = { s with cur := c } := by
    rw [State.afterRead, State.readEffect, dest]
    exact ite_self _
  let p := State.unpin { s with cur := c } l.pages
  have step : exec (.loadValueReturn c) s = .next (p.result rd (if sgn then BitVec.ofInt 64 (toSigned (8 * w.size) v.toNat) else v)) := by
    rw [execLoadValueReturn_one held words oldest good ready, read]
    simp only [loadDone, dest, words]
    rfl
  obtain ⟨cur, value, others, goesOn, memory, seen⟩ := result_returns (p := p) (s := s) (c := c) rfl rfl
    ((keepsMemory_cur s c).trans (KeepsMemory.unpin _ _)) rd (if sgn then BitVec.ofInt 64 (toSigned (8 * w.size) v.toNat) else v)
  exact ⟨fun x home => State.wordValue_home home, State.served_of_wordReady ready, fun home j => State.wordValue_byte home size.2,
    _, step, cur, fun nonzero => (value nonzero).trans (extended_eq (by omega) (State.wordValue_lt fits) sgn), others, goesOn, memory, seen⟩

/-- Settles O7: a load is held with its word, whose value is its home's or that of its die's bytes, and its return is a result. -/
theorem scalarLoads : Obligations.ScalarLoads := ⟨scalarLoadsHold, loadValueReturns⟩
end

section
/-! SUPPORT. System registers (R211 to R216): the hop distance of virtual dies, what each register reads, and what a write of one checks and
changes, with the obligation that they settle (O8). -/

namespace Sys2Proof.Machine

open Sys2Proof.Spec

/-! ## NOP, TIME and VDHOP (R211, R212, R216) -/

/-- A result for x0 is nothing but going on (R181). -/
theorem State.result_zero (s : State) (v : Word) : s.result 0 v = s.goOn := State.result_eq s 0 v

theorem siteOf_bound {vdtab : Word} {v x : Nat} (h : Bound vdtab v x) : siteOf vdtab v = some x := by
  obtain ⟨virtual, bit, site⟩ := h
  rw [siteOf, if_pos ⟨virtual, bit⟩, fld, Nat.shiftRight_eq_div_pow]
  exact congrArg some site

theorem siteOf_unbound {vdtab : Word} {v : Nat} (h : Unbound vdtab v) : siteOf vdtab v = none := by
  refine if_neg fun ⟨virtual, bit⟩ => ?_
  rcases h with beyond | clear
  · omega
  · exact Bool.false_ne_true (clear.symm.trans bit)

theorem cast_max_sub_min (m n : Nat) : ((max m n - min m n : Nat) : Int) = |(m : Int) - n| := by
  rcases le_total m n with h | h
  · rw [max_eq_right h, min_eq_left h, Nat.cast_sub h, abs_sub_comm, abs_of_nonneg (by omega)]
  · rw [max_eq_left h, min_eq_right h, Nat.cast_sub h, abs_of_nonneg (by omega)]

/-- The hop distance is |dx| + |dy| (R18). -/
theorem hopDist_eq (x y : Nat) : ((hopDist x y : Nat) : Int) = |(x % 3 : Int) - y % 3| + |(x / 3 : Int) - y / 3| := by
  rw [hopDist, Nat.cast_add, cast_max_sub_min, cast_max_sub_min]
  rfl

section vdhop

variable {s : State} {d xa xb : BitVec 5} (m : MayIssue s (.vdhop d xa xb))

include m

theorem execVdhop_bound {x y : Nat} (hx : Bound s.me.vdtab (s.rx xa).toNat x) (hy : Bound s.me.vdtab (s.rx xb).toNat y) :
    exec (.vdhop d xa xb) s = .next (s.result d (BitVec.ofNat 64 (hopDist x y))) := by
  show execVdhop d xa xb s = _
  rw [execVdhop, issue_of_may _ m]
  simp only [siteOf_bound hx, siteOf_bound hy, go]

theorem execVdhop_first (hx : Unbound s.me.vdtab (s.rx xa).toNat) : exec (.vdhop d xa xb) s = .next (s.fault 0x0B (s.rx xa).toNat) := by
  show execVdhop d xa xb s = _
  rw [execVdhop, issue_of_may _ m]
  simp only [siteOf_unbound hx, go]
  rfl

theorem execVdhop_second {x : Nat} (hx : Bound s.me.vdtab (s.rx xa).toNat x) (hy : Unbound s.me.vdtab (s.rx xb).toNat) :
    exec (.vdhop d xa xb) s = .next (s.fault 0x0B (s.rx xb).toNat) := by
  show execVdhop d xa xb s = _
  rw [execVdhop, issue_of_may _ m]
  simp only [siteOf_bound hx, siteOf_unbound hy, go]
  rfl

end vdhop

/-! ## What SRD reads (R33, R48, R213) -/

theorem result_srd {s : State} {d : BitVec 5} {r : BitVec 8} {v : Word} (reads : s.sysreg r = v) : Result (.srd d r) d v s :=
  result_of fun m => congrArg Host.Outcome.next ((issue_of_may _ m).trans (congrArg (s.result d) reads))

theorem State.sysreg_am (s : State) (n : Fin 16) : s.sysreg (BitVec.ofNat 8 (0x10 + n.val)) = s.myCore.vf.am[n].setWidth 64 := by
  fin_cases n <;> rfl

theorem vdieOf_first {vdtab : Word} {v x : Nat} (h : Bound vdtab v x) (first : ∀ v', v' < v → ¬Bound vdtab v' x) : vdieOf vdtab x = some v := by
  have test (i : Nat) : i < 8 → ((bitAt vdtab (8 * i + 7) && fld vdtab (8 * i) 3 == x) = true ↔ Bound vdtab i x) := by
    intro lt
    rw [Bool.and_eq_true, beq_iff_eq, fld, Nat.shiftRight_eq_div_pow]
    exact ⟨fun ⟨bit, site⟩ => ⟨lt, bit, site⟩, fun ⟨_, bit, site⟩ => ⟨bit, site⟩⟩
  rw [vdieOf, List.find?_range_eq_some]
  refine ⟨(test v h.1).mpr h, List.mem_range.mpr h.1, fun j below => ?_⟩
  rw [Bool.not_eq_true', ← Bool.not_eq_true, test j (below.trans h.1)]
  exact first j below

theorem State.ganginfo_of_task {s : State} {r : CoreRef} {k : Task} (task : (s.core r).task = some k) :
    s.ganginfo r = k.member + 2 ^ 8 * k.gangSize + 2 ^ 16 * k.record.stage := by
  rw [State.ganginfo, task]
  ring

section cfrag

variable {s : State} {r : CoreRef} {g : StageDecl} {v : Nat} (stage : s.stageOf r = some g) (first : vdieOf (s.core r).c.vdtab r.site.val = some v)

include stage first

theorem State.cfrag_member {lead : Fin 8} {strips : Nat} (frag : (s.die r.site).fragOf r.core = some (lead, strips)) (cls : g.cls ≠ 0) :
    s.cfrag r = 1 + 2 ^ 3 * g.cls + 2 ^ 8 * lead.val + 2 ^ 12 * v := by
  have role : s.role r = 1 := by
    rw [State.role, stage]
    exact if_pos cls
  rw [State.cfrag, role, frag, stage, first]
  simp only [Option.map_some, Option.getD_some, one_ne_zero, if_true, if_false]
  ring

theorem State.cfrag_lent {lead : Fin 8} {strips : Nat} (frag : (s.die r.site).fragOf r.core = some (lead, strips)) (cls : g.cls = 0) :
    s.cfrag r = 2 + 2 ^ 8 * lead.val + 2 ^ 12 * v := by
  have role : s.role r = 2 := by
    rw [State.role, stage, frag]
    exact if_neg (not_not_intro cls)
  rw [State.cfrag, role, frag, first]
  simp only [Option.map_some, Option.getD_some, OfNat.ofNat_ne_zero, OfNat.ofNat_ne_one, if_false]
  ring

theorem State.cfrag_bare (frag : (s.die r.site).fragOf r.core = none) (cls : g.cls = 0) :
    s.cfrag r = 2 ^ 8 * r.core.val + 2 ^ 12 * v := by
  have role : s.role r = 0 := by
    rw [State.role, stage, frag]
    exact if_neg (not_not_intro cls)
  rw [State.cfrag, role, first]
  simp only [Option.getD_some, zero_ne_one, if_true, if_false]
  ring

end cfrag

/-! ## What SWR checks and changes (R143, R150, R170, R214) -/

/-- The field from bit lo up to bit 63 is 0 where the word is below 2 ^ lo. -/
theorem fld_high_beq_zero (a : Word) {lo len : Nat} (h : lo + len = 64) : (fld a lo len == 0) = decide (a.toNat < 2 ^ lo) := by
  have high : a.toNat / 2 ^ lo < 2 ^ len := Nat.div_lt_of_lt_mul (by rw [← Nat.pow_add, h]; exact a.isLt)
  rw [fld, Nat.shiftRight_eq_div_pow, Nat.mod_eq_of_lt high, Bool.beq_eq_decide_eq]
  exact decide_eq_decide.mpr (Nat.div_eq_zero_iff_lt (Nat.two_pow_pos lo))

theorem vtypeCodeOk_iff (a : Word) : vtypeCodeOk (a.setWidth 4) = true ↔ a.toNat % 16 ≤ 11 ∧ a.toNat % 16 ≠ 7 := by
  have seven : a.setWidth 4 = 7 ↔ a.toNat % 16 = 7 := by
    rw [BitVec.toNat_eq, BitVec.toNat_setWidth]
    rfl
  rw [vtypeCodeOk, Bool.and_eq_true, decide_eq_true_eq, bne_iff_ne, ne_eq, seven, BitVec.toNat_setWidth]

/-- Of the formats that VTYPE can hold, the tapered ones need feature 2 (R375). -/
theorem fmtFeature_iff (s : State) {n : Nat} (listed : n ≤ 11) (reserved : n ≠ 7) :
    fmtFeature s n = true ↔ (n = 5 ∨ n = 6 → s.feature 2 = true) := by
  rw [fmtFeature, if_neg (by omega)]
  split
  · next tapered => exact ⟨fun on _ => on, fun on => on tapered⟩
  · next other => exact ⟨fun _ tapered => absurd tapered other, fun _ => rfl⟩

/-- A value that VTYPE accepts (R170, R375). -/
theorem swrOk_vtype (s : State) (a : Word) : swrOk s 0x00 a = true ↔
    a.toNat < 2 ^ 9 ∧ a.getLsbD 7 = false ∧ a.toNat % 16 ≤ 11 ∧ a.toNat % 16 ≠ 7 ∧ a.toNat / 16 % 8 ≤ 4 ∧
      (a.toNat % 16 = 5 ∨ a.toNat % 16 = 6 → s.feature 2 = true) := by
  have rounding : fld a 4 3 = a.toNat / 16 % 8 := by
    rw [fld, Nat.shiftRight_eq_div_pow]
    rfl
  show (fld a 9 55 == 0 && !bitAt a 7 && vtypeCodeOk (a.setWidth 4) && decide (fld a 4 3 ≤ 4) && fmtFeature s (a.toNat % 16)) = true ↔ _
  rw [fld_high_beq_zero a rfl, Bool.and_eq_true, Bool.and_eq_true, Bool.and_eq_true, Bool.and_eq_true, vtypeCodeOk_iff, rounding,
    decide_eq_true_eq, decide_eq_true_eq, Bool.not_eq_true', bitAt, and_assoc, and_assoc, and_assoc, and_assoc]
  refine and_congr_right fun _ => and_congr_right fun _ => and_congr_right fun listed => and_congr_right fun reserved => ?_
  rw [fmtFeature_iff s listed reserved]

theorem swrOk_vstat (s : State) (a : Word) : swrOk s 0x01 a = true ↔ a.toNat < 2 ^ 6 := by
  show (fld a 6 58 == 0) = true ↔ _
  rw [fld_high_beq_zero a rfl, decide_eq_true_eq]

theorem swrOk_lfsr (s : State) (a : Word) : swrOk s 0x02 a = true ↔ a.toNat < 2 ^ 32 := by
  show (fld a 32 32 == 0) = true ↔ _
  rw [fld_high_beq_zero a rfl, decide_eq_true_eq]

theorem swrOk_am (s : State) (n : Fin 16) (a : Word) : swrOk s (BitVec.ofNat 8 (0x10 + n.val)) a = true ↔
    a.toNat < 2 ^ 33 ∧ a.getLsbD 31 = false ∧ a.toNat % 2 ^ 31 ≤ 0x7F800000 := by
  have form : swrOk s (BitVec.ofNat 8 (0x10 + n.val)) a = (fld a 33 31 == 0 && !bitAt a 31 && decide (fld a 0 31 ≤ 0x7F800000)) := by
    fin_cases n <;> rfl
  rw [form, fld_high_beq_zero a rfl, Bool.and_eq_true, Bool.and_eq_true, decide_eq_true_eq, decide_eq_true_eq, Bool.not_eq_true', and_assoc]
  exact Iff.rfl

theorem VectorFile.swr_am (f : VectorFile) (n : Fin 16) (a : Word) :
    f.swr (BitVec.ofNat 8 (0x10 + n.val)) a = { f with am := f.am.set n (a.setWidth 33) } := by
  fin_cases n <;> rfl

theorem VectorFile.swr_lfsr (f : VectorFile) {a : Word} (h : a.toNat < 2 ^ 32) :
    f.swr 0x02 a = { f with lfsr := if a = 0 then 1 else a.setWidth 32 } := by
  have low : fld a 0 32 = 0 ↔ a = 0 := by
    rw [fld, Nat.shiftRight_zero, Nat.mod_eq_of_lt h, BitVec.toNat_eq]
    rfl
  show { f with lfsr := if fld a 0 32 = 0 then 1 else a.setWidth 32 } = _
  simp only [low]

/-- A core whose system register r is written, with a side effect, and whose context n goes on. -/
def Core.swr (n : CtxName) (r : BitVec 8) (a : Word) (c : Core) : Core :=
  { c.sideEffect with vf := c.vf.swr r a }.updCtx n Context.next

theorem Core.swr_eq (n : CtxName) (r : BitVec 8) (a : Word) (c : Core) : (c.swr n r a).ctx n = (c.ctx n).next ∧
    (c.swr n r a).vf = c.vf.swr r a ∧ (c.swr n r a).closed = true ∧ (c.swr n r a).task = c.sideEffect.task := by
  cases n <;> exact ⟨rfl, rfl, rfl, rfl⟩

/-- A SWR whose value is legal writes the register, closes the region, is a side effect, and goes on. -/
theorem execSwr_ok {s : State} {xa : BitVec 5} {r : BitVec 8} (m : MayIssue s (.swr xa r)) (ok : swrOk s r (s.rx xa) = true) :
    exec (.swr xa r) s = .next (s.updMyCore (Core.swr s.cur.ctx r (s.rx xa))) := by
  show execSwr xa r s = _
  rw [execSwr, issue_of_may _ m, if_pos ok, go, State.goOn, State.sideEffect_eq_core, State.updMyCore_updMe, State.updMyCore_updMyCore]
  rfl

theorem execSwr_illegal {s : State} {xa : BitVec 5} {r : BitVec 8} (m : MayIssue s (.swr xa r)) (bad : ¬swrOk s r (s.rx xa) = true) :
    exec (.swr xa r) s = .next (s.illegal (wordOfInstr (.swr xa r))) := by
  show execSwr xa r s = _
  rw [execSwr, issue_of_may _ m, if_neg bad, go]

end Sys2Proof.Machine

open Sys2Proof Sys2Proof.Machine Sys2Proof.Spec

/-- R211 to R213, R216: NOP, TIME, VDHOP, and SRD of every system register. -/
theorem systemReads : Spec.SystemReads := by
  intro s d xa xb n
  refine ⟨fun m => ⟨_, congrArg Host.Outcome.next (issue_of_may _ m), s.result_zero 0 ▸ setsX_result s 0 0⟩,
    result_of fun m => ?_, fun x y hx hy => result_of fun m => ?_, fun m hx => execVdhop_first m hx, fun x m hx hy => execVdhop_second m hx hy,
    result_srd rfl, result_srd rfl, result_srd rfl, result_srd rfl, result_srd (BitVec.ofNat_toNat _ _), result_srd (s.sysreg_am n),
    ?_⟩
  · rw [wrap_natCast]
    exact congrArg Host.Outcome.next (issue_of_may _ m)
  · rw [execVdhop_bound m hx hy, ← hopDist_eq, wrap_natCast]
  · intro k p g v task pipe stage r tab bound first
    have die : vdieOf tab r.site.val = some v := vdieOf_first bound first
    have decl : s.stageOf r = some g := by
      rw [State.stageOf, show (s.core r).task = some k from task, Option.bind_some, pipe, Option.bind_some, stage]
    have reads {n : Nat} (h : s.cfrag r = n) : Result (.srd d 0x0A) d (wrap n) s := result_srd (by rw [wrap_natCast, ← h]; rfl)
    refine ⟨result_srd (by rw [wrap_natCast, ← State.ganginfo_of_task task]; rfl), fun lead strips frag => ⟨fun cls => ?_, fun cls => ?_⟩,
      fun cls frag => ?_⟩
    · exact reads (State.cfrag_member decl die frag cls)
    · exact reads (State.cfrag_lent decl die frag cls)
    · exact reads (State.cfrag_bare decl die frag cls)

/-- R214: SWR of every system register. -/
theorem systemWrites : Spec.SystemWrites := by
  intro s xa n a Write
  have write {r : BitVec 8} {ok : Prop} (f : VectorFile → VectorFile) (legal : swrOk s r a = true ↔ ok)
      (writes : ok → s.myCore.vf.swr r a = f s.myCore.vf) : Write r ok f := by
    refine fun m => ⟨fun good => ?_, fun bad => ?_⟩
    · obtain ⟨ctx, vf, closed, task⟩ := Core.swr_eq s.cur.ctx r a s.myCore
      have me : (s.updMyCore (Core.swr s.cur.ctx r a)).me = s.me.next := (State.me_updMyCore s _).trans ctx
      have core : (s.updMyCore (Core.swr s.cur.ctx r a)).myCore = s.myCore.swr s.cur.ctx r a := State.myCore_updMyCore s _
      refine ⟨_, execSwr_ok m (legal.mpr good), goesOn_of_next me rfl rfl, ?_, ?_, fun k running => ?_, ?_, onlyMyCore_updMyCore s _⟩
      · rw [core, vf, writes good]
      · rw [core, closed]
      · rw [core, task, Core.sideEffect, running]
        rfl
      · rw [me, Context.next_eq]
    · exact execSwr_illegal m fun good => bad (legal.mp good)
  exact ⟨write (fun v => { v with vtype := a }) (swrOk_vtype s a) fun _ => rfl,
    write (fun v => { v with vstat := v.vstat &&& ~~~(a.setWidth 6) }) (swrOk_vstat s a) fun _ => rfl,
    write (fun v => { v with lfsr := if a = 0 then 1 else a.setWidth 32 }) (swrOk_lfsr s a) (VectorFile.swr_lfsr _),
    write (fun v => { v with am := v.am.set n (a.setWidth 33) }) (swrOk_am s n a) fun _ => VectorFile.swr_am _ n a⟩

/-- Settles O8: SRD reads a register's whole value, and SWR writes a legal value and refuses any other. -/
theorem systemRegisters : Obligations.SystemRegisters := ⟨systemReads, systemWrites⟩
end

section
/-! SUPPORT. The ordering instructions (R114, R115, R202 to R209): how ACQ, REL and MON issue, where WAIT, FENCE and MWAIT go on, and what an
acquire does to the writes of its die, with the obligation that they settle (O9). -/

namespace Sys2Proof.Machine

open Sys2Proof.Spec

/-! ## Going on after a change of the context alone -/

theorem State.goOn_updMe (s : State) (f : Context → Context) : (s.updMe f).goOn = s.updMe fun c => (f c).next := State.updMe_updMe s f _

/-- Going on is a result for x0, of any value (R181). -/
theorem result_goOn {i : Instr} {s : State} (h : MayIssue s i → exec i s = .next s.goOn) : Result i 0 0 s :=
  result_of fun m => by rw [h m, State.result_zero]

theorem waits_block (s : State) (w : Wait) : Waits s w (s.block w) := ⟨State.me_block s w, onlyMe_block s w⟩

/-! ## MWAIT (R209) -/

section mwait

variable {s : State} {xa : BitVec 5} (m : MayIssue s (.mwait xa))

include m

theorem execMwait_unarmed (unarmed : s.me.mon.armed = none) : exec (.mwait xa) s = .next s.goOn := by
  show execMwait xa s = _
  rw [execMwait, issue_of_may _ m]
  simp only [unarmed, go]

theorem execMwait_triggered {line : Nat} (mon : s.me.mon = ⟨some line, true⟩) : exec (.mwait xa) s = .next s.mwaitDone := by
  show execMwait xa s = _
  rw [execMwait, issue_of_may _ m]
  simp only [mon, if_true, go]

theorem execMwait_running {line : Nat} (mon : s.me.mon = ⟨some line, false⟩) (running : s.me.status = .running) :
    exec (.mwait xa) s = .next (if mwaitLimit (s.rx xa) = 0 then s.mwaitDone else s.block (.mwait (s.now + mwaitLimit (s.rx xa) * tClk))) := by
  show execMwait xa s = _
  rw [execMwait, issue_of_may _ m]
  simp only [mon, running, Bool.false_eq_true, if_false, go]

end mwait

theorem mwaitLimit_eq_zero {a : Word} : mwaitLimit a = 0 ↔ a = 0 := by
  rw [mwaitLimit, Nat.min_eq_zero_iff, BitVec.toNat_eq]
  exact or_iff_left (by decide)

/-- An MWAIT that returns disarms the monitor and goes on. -/
theorem State.mwaitDone_spec (s : State) : GoesOn s s.mwaitDone ∧ s.mwaitDone.me.mon = ⟨none, false⟩ ∧ s.mwaitDone.me.x = s.me.x ∧
    OnlyMe s s.mwaitDone := by
  have me : s.mwaitDone.me = { s.me with mon := ⟨none, false⟩ }.next := by rw [State.mwaitDone, State.goOn_updMe, State.me_updMe]
  refine ⟨goesOn_of_next me rfl rfl, ?_, ?_, ?_⟩
  · rw [me, Context.next_eq]
  · rw [me, Context.next_eq]
  · rw [State.mwaitDone, State.goOn_updMe]
    exact onlyMe_updMe s _

/-! ## FENCE (R204) -/

theorem execFence_drained {s : State} {mask : BitVec 16} (m : MayIssue s (.fence mask)) (drained : s.drained s.cur mask = true) :
    exec (.fence mask) s = .next s.goOn := by
  show execFence mask s = _
  rw [execFence, issue_of_may _ m, if_pos drained, go]

/-- A FENCE of classes with an outstanding access stands among the accesses. -/
theorem execFence_outstanding {s : State} {mask : BitVec 16} (m : MayIssue s (.fence mask)) (out : s.drained s.cur mask = false) :
    exec (.fence mask) s = .next (s.updMe fun c => (c.issuing s.me.seq mask (.fence mask) 0 []).next) := by
  show execFence mask s = _
  rw [execFence, issue_of_may _ m, out, go, State.issueAccess_eq, if_neg Bool.false_ne_true, State.goOn_updMe]

/-! ## What an acquire does to the writes of its die (R115) -/

/-- A line that a release covers, after an acquire by context c in the classes m. -/
def Moesi.acquired (rc : CtxRef) (ri : RelInfo) (c : CtxRef) (m : BitVec 16) : Moesi → Moesi
  | .m data tags => if coversTags rc ri.mask tags then .m data (addNew (c, m) tags) else .m data tags
  | x => x

/-- A write that a release covers, after an acquire with issue number n. -/
def DieWrite.acquired (rc : CtxRef) (ri : RelInfo) (c : CtxRef) (m : BitVec 16) (n : Nat) (w : DieWrite) : DieWrite :=
  if w.covered rc ri.mask ri.seq then { w with vis := addNew (c, m, n) w.vis } else w

theorem lookup_map {β γ : Type} (k : Nat) (f : β → γ) (l : List (Nat × β)) : lookup k (l.map fun x => (x.1, f x.2)) = (lookup k l).map f := by
  induction l with
  | nil => rfl
  | cons x t ih =>
    simp only [List.map_cons, lookup]
    split
    · rfl
    · exact ih

theorem mem_addNew {α : Type} [DecidableEq α] {a b : α} {l : List α} : b ∈ addNew a l ↔ b = a ∨ b ∈ l := by
  unfold addNew
  split
  · next present => exact ⟨.inr, fun h => h.elim (fun e => e ▸ present) id⟩
  · rw [List.mem_append, List.mem_singleton, or_comm]

section acquire

variable (d : Die) (rc : CtxRef) (ri : RelInfo) (c : CtxRef) (m : BitVec 16) (n : Nat)

theorem Die.buf_acquire : (d.acquire rc ri c m n).buf = d.buf.map (DieWrite.acquired rc ri c m n) := rfl

theorem Die.line_acquire (k : Nat) : (d.acquire rc ri c m n).line k = (d.line k).map (Moesi.acquired rc ri c m) := by
  rw [Die.line, Die.line, ← lookup_map]
  refine congrArg (lookup k) (List.map_congr_left fun x _ => ?_)
  obtain ⟨key, state⟩ := x
  cases state with
  | m data tags =>
    simp only [Moesi.acquired]
    split <;> rfl
  | _ => rfl

theorem Die.mByte_acquire (a : Nat) : (d.acquire rc ri c m n).mByte a = d.mByte a := by
  rw [Die.mByte, Die.mByte, Die.line_acquire]
  cases d.line (lineOf a) with
  | none => rfl
  | some state => cases state with
    | m data tags =>
      rw [Option.map_some, Moesi.acquired]
      by_cases covered : coversTags rc ri.mask tags = true
      · rw [if_pos covered]
      · rw [if_neg covered]
    | _ => rfl

theorem DieWrite.acquired_eq (w : DieWrite) : ∃ vis, w.acquired rc ri c m n = { w with vis := vis } := by
  unfold DieWrite.acquired
  split
  · exact ⟨_, rfl⟩
  · exact ⟨w.vis, rfl⟩

theorem bufByte_acquired (a : Nat) (l : List DieWrite) : bufByte a (l.map (DieWrite.acquired rc ri c m n)) = bufByte a l := by
  induction l with
  | nil => rfl
  | cons w t ih =>
    obtain ⟨vis, e⟩ := DieWrite.acquired_eq rc ri c m n w
    rw [List.map_cons, bufByte, bufByte, ih, e]

/-- An acquire changes who sees the writes of a die, and no byte. -/
theorem KeepsMemory.acquire (s : State) (i : Fin 6) : KeepsMemory s (s.updDie i fun d => d.acquire rc ri c m n) where
  memory _ := rfl
  seen j a := by
    rw [State.dieByte, State.dieByte, State.die_updDie_eq]
    by_cases at_ : j = i
    · rw [if_pos at_, Die.buf_acquire, bufByte_acquired, Die.mByte_acquire]
      rfl
    · rw [if_neg at_]
      rfl

end acquire

/-- An acquire by context c, with issue number n, of the release whose value stands at a word. -/
theorem State.acquireAt_spec (s : State) (c : CtxRef) (dla : Nat) (m : BitVec 16) (n : Nat) : let t := s.acquireAt c dla m n
    t.cur = s.cur ∧ t.ctx c = s.ctx c ∧ KeepsMemory s t := by
  dsimp only
  unfold State.acquireAt
  split
  · split
    · exact ⟨rfl, rfl, KeepsMemory.refl s⟩
    · next rc ri _ _ =>
      refine ⟨rfl, ?_, KeepsMemory.acquire rc ri c m n s c.at_.site⟩
      rw [State.ctx, State.core_updDie_cores]
      · rfl
      · exact fun _ => rfl
  · exact ⟨rfl, rfl, KeepsMemory.refl s⟩

theorem State.acquireAt_noted {s : State} {c rc : CtxRef} {ri : RelInfo} {dla n : Nat} {m : BitVec 16}
    (noted : lookup (dla / 8) (s.die c.at_.site).rels = some (rc, ri)) (some_ : m ≠ 0) :
    s.acquireAt c dla m n = s.updDie c.at_.site fun d => d.acquire rc ri c m n := by
  rw [State.acquireAt, wordOf, noted]
  exact if_neg some_

/-- A mask of 0 acquires nothing (R205). -/
theorem State.acquireAt_zero (s : State) (c : CtxRef) (dla n : Nat) : s.acquireAt c dla 0 n = s := by
  unfold State.acquireAt
  split
  · exact if_pos rfl
  · rfl

/-! ## What is visible after an acquire -/

theorem vis_acquired {rc c : CtxRef} {ri : RelInfo} {m : BitVec 16} {n : Nat} {w : DieWrite} (covered : w.covered rc ri.mask ri.seq = true) :
    (c, m, n) ∈ (w.acquired rc ri c m n).vis ∧ ∀ v ∈ w.vis, v ∈ (w.acquired rc ri c m n).vis := by
  rw [DieWrite.acquired, if_pos covered]
  exact ⟨mem_addNew.mpr (.inl rfl), fun v h => mem_addNew.mpr (.inr h)⟩

theorem Moesi.acquired_covered {rc c : CtxRef} {ri : RelInfo} {m : BitVec 16} {data : LineData} {tags : List (CtxRef × BitVec 16)}
    (covered : coversTags rc ri.mask tags = true) : Moesi.acquired rc ri c m (.m data tags) = .m data (addNew (c, m) tags) := by
  rw [Moesi.acquired, if_pos covered]

/-! ## The return of the value of an ACQ and of a MON -/

/-- What a result leaves of every die's writes and lines. -/
theorem ReadsAlike.result (s : State) (d : BitVec 5) (v : Word) : ReadsAlike s (s.result d v) := by
  rw [State.result_eq]
  exact ReadsAlike.updCore s s.cur.at_ _

section returns

variable {s : State} {c : CtxRef} {l : HeldLoad} {w : LoadWord} (ret : Returns s c l) (words : l.words = [w])

include ret words

theorem execLoadValueReturn_of_returns :
    exec (.loadValueReturn c) s = .next (loadDone (s.afterRead c l w) l [s.wordValue c w]) := by
  obtain ⟨held, oldest, all⟩ := ret
  obtain ⟨good, ready⟩ := all w (words ▸ List.mem_singleton_self w)
  exact execLoadValueReturn_one held words oldest good ready

theorem execLoadValueReturn_acq {rd : BitVec 5} {sc : BitVec 2} {m : BitVec 16} (dest : l.dest = .acq rd sc m) :
    exec (.loadValueReturn c) s = .next (((s.afterRead c l w).unpin l.pages).result rd (s.wordValue c w)) := by
  rw [execLoadValueReturn_of_returns ret words]
  simp only [loadDone, dest]
  rfl

theorem execLoadValueReturn_mon (dest : l.dest = .mon) (home : w.home = none) : exec (.loadValueReturn c) s =
    .next (({ s with cur := c }.updMe fun x => { x with mon := ⟨some (lineOf w.dla), false⟩ }).unpin l.pages).goOn := by
  rw [execLoadValueReturn_of_returns ret words]
  simp only [loadDone, dest, State.afterRead, home, State.readEffect, if_true]
  rfl

end returns

theorem State.afterRead_acq {s : State} {c : CtxRef} {l : HeldLoad} {w : LoadWord} {rd : BitVec 5} {sc : BitVec 2} {m : BitVec 16}
    (dest : l.dest = .acq rd sc m) : s.afterRead c l w = if w.home = none then { s with cur := c }.acquireAt c w.dla m l.seq else { s with cur := c } := by
  simp only [State.afterRead, State.readEffect, dest]

/-- Before the value of an ACQ is delivered, its context and every byte are as they were. -/
theorem State.afterRead_acq_spec {s : State} {c : CtxRef} {l : HeldLoad} {w : LoadWord} {rd : BitVec 5} {sc : BitVec 2} {m : BitVec 16}
    (dest : l.dest = .acq rd sc m) : let t := s.afterRead c l w
    t.cur = c ∧ t.ctx c = s.ctx c ∧ KeepsMemory s t := by
  dsimp only
  rw [State.afterRead_acq dest]
  split
  · obtain ⟨cur, ctx, kept⟩ := State.acquireAt_spec { s with cur := c } c w.dla m l.seq
    exact ⟨cur, ctx, (keepsMemory_cur s c).trans kept⟩
  · exact ⟨rfl, rfl, keepsMemory_cur s c⟩

/-- Rounding an address down to a multiple of 8 is the same on words. -/
theorem ofNat_sub_mod_eight (x : Word) : BitVec.ofNat 64 (x.toNat - x.toNat % 8) = BitVec.ofNat 64 x.toNat - BitVec.ofNat 64 x.toNat % 8 := by
  rw [BitVec.ofNat_toNat, BitVec.setWidth_eq]
  refine BitVec.eq_of_toNat_eq ?_
  have small := x.isLt
  have le : x % 8 ≤ x := BitVec.le_def.mpr (Nat.mod_le _ _)
  rw [BitVec.toNat_ofNat, BitVec.toNat_sub_of_le le, BitVec.toNat_umod, Nat.mod_eq_of_lt (by omega)]
  rfl

end Sys2Proof.Machine

open Sys2Proof Sys2Proof.Machine Sys2Proof.Spec

/-- R205, R206, R208: how ACQ, REL and MON issue. -/
theorem acquireReleaseMonitor : Spec.AcquireReleaseMonitor := by
  intro s d xa xb sc dla e mask cls
  refine ⟨fun m aligned unlogged reaches => ⟨_, ?_, issueLoad_one unlogged reaches⟩, fun m aligned unlogged reaches => ?_,
    fun m misaligned => ?_, fun m misaligned => ?_, fun m unlogged reaches => ?_⟩
  · exact congrArg Host.Outcome.next ((issue_of_may _ m).trans (withAligned_of _ aligned))
  · have issues := issues_issueStore (op := .rel (s.rx d) sc mask) unlogged reaches
    rw [BitVec.ofNat_toNat, BitVec.setWidth_eq] at issues
    exact ⟨_, congrArg Host.Outcome.next ((issue_of_may _ m).trans (withAligned_of _ aligned)), issues⟩
  · exact congrArg Host.Outcome.next ((issue_of_may _ m).trans (withAligned_not _ misaligned))
  · exact congrArg Host.Outcome.next ((issue_of_may _ m).trans (withAligned_not _ misaligned))
  · have word : e / 8 * 8 = e - e % 8 := by omega
    have issues := issueLoad_one (size := 8) (dest := .mon) unlogged reaches
    have hva : ((e - e % 8 : Nat) : Word) = (e : Word) - (e : Word) % 8 := ofNat_sub_mod_eight (s.rx xa)
    rw [hva] at issues
    refine ⟨_, ?_, issues⟩
    rw [← word]
    exact congrArg Host.Outcome.next (issue_of_may _ m)

/-- R202 to R204, R209: where WAIT, FENCE and MWAIT go on. -/
theorem waitsAndFences : Spec.WaitsAndFences := by
  intro s l st c n mask xa met
  refine ⟨fun now => result_goOn fun m => ?_, fun m later => ⟨_, ?_, waits_block s .counters⟩, fun drained => result_goOn fun m => execFence_drained m drained,
    fun m out => ⟨_, execFence_outstanding m out, goesOn_next s _ fun _ => ⟨rfl, rfl⟩, ?_, ?_, onlyMe_updMe s _⟩,
    fun unarmed => result_goOn fun m => execMwait_unarmed m unarmed, fun line trig m mon ends => ⟨_, ?_, s.mwaitDone_spec⟩,
    fun line m mon running limit => ⟨_, ?_, waits_block s _⟩⟩
  · exact congrArg Host.Outcome.next ((issue_of_may _ m).trans (if_pos now))
  · exact congrArg Host.Outcome.next ((issue_of_may _ m).trans (if_neg later))
  · rw [State.me_updMe, Context.next_eq]
    rfl
  · rw [State.me_updMe, Context.next_eq]
    rfl
  · cases trig with
    | true => exact execMwait_triggered m mon
    | false =>
      obtain ⟨running, zero⟩ := ends.resolve_left Bool.false_ne_true
      rw [execMwait_running m mon running, if_pos (mwaitLimit_eq_zero.mpr zero)]
  · rw [execMwait_running m mon running, if_neg (limit ∘ mwaitLimit_eq_zero.mp)]
    rfl

/-- R115, R205, R208: what the return of the value of an ACQ and of a MON does. -/
theorem acquireAndMonitorReturn : Spec.AcquireAndMonitorReturn := by
  intro s c l rd sc mask w rc ri ret words i Done
  refine ⟨fun dest => ?_, fun dest home => ?_⟩
  · obtain ⟨cur, ctx, kept⟩ := State.afterRead_acq_spec (s := s) (c := c) (w := w) dest
    let p := (s.afterRead c l w).unpin l.pages
    let t := p.result rd (s.wordValue c w)
    have alike : ReadsAlike (s.afterRead c l w) t := (Tidies.unpin _ l.pages).toReadsAlike.trans (ReadsAlike.result p rd _)
    have me : p.me = s.ctx c := by
      show (s.afterRead c l w).ctx (s.afterRead c l w).cur = _
      rw [cur, ctx]
    obtain ⟨cur, value, others, goesOn, memory, seen⟩ := result_returns (p := p) cur me (kept.trans (KeepsMemory.unpin _ _)) rd (s.wordValue c w)
    refine ⟨t, ⟨execLoadValueReturn_acq ret words dest, cur, goesOn, memory, seen⟩, value, others, fun home noted some_ => ?_, fun zero => ?_⟩
    · have acquired : s.afterRead c l w = { s with cur := c }.updDie i fun d => d.acquire rc ri c mask l.seq := by
        rw [State.afterRead_acq dest, if_pos home]
        exact State.acquireAt_noted noted some_
      have die : (s.afterRead c l w).die i = (s.die i).acquire rc ri c mask l.seq := by
        rw [acquired]
        exact State.die_updDie _ i _
      refine ⟨fun n x at_ covered => ⟨x.acquired rc ri c mask l.seq, ?_, vis_acquired covered⟩,
        fun k data tags line covered => ⟨addNew (c, mask) tags, ?_, mem_addNew.mpr (.inl rfl), fun x h => mem_addNew.mpr (.inr h)⟩⟩
      · rw [alike.buf, die, Die.buf_acquire, List.getElem?_map, at_]
        rfl
      · rw [alike.line, die, Die.line_acquire, line, Option.map_some, Moesi.acquired_covered covered]
    · have unread : s.afterRead c l w = { s with cur := c } := by
        rw [State.afterRead_acq dest, zero, State.acquireAt_zero]
        exact ite_self _
      have same : ReadsAlike s t := by
        refine ReadsAlike.trans ?_ alike
        rw [unread]
        exact ReadsAlike.of_eq rfl rfl
      refine ⟨Vector.ext fun j hj => ?_, Vector.ext fun j hj => ?_⟩
      · rw [Vector.getElem_map, Vector.getElem_map]
        exact same.buf ⟨j, hj⟩
      · rw [Vector.getElem_map, Vector.getElem_map]
        exact same.cache ⟨j, hj⟩
  · let f : Context → Context := fun x => { x with mon := ⟨some (lineOf w.dla), false⟩ }
    let t := (({ s with cur := c }.updMe f).unpin l.pages).goOn
    have me : t.me = (f (s.ctx c)).next := by
      show ((({ s with cur := c }.updMe f).unpin l.pages).updMe Context.next).me = _
      rw [State.me_updMe]
      exact congrArg Context.next (State.me_updMe { s with cur := c } f)
    have kept : KeepsMemory s t := (((keepsMemory_cur s c).trans (KeepsMemory.updCore _ _ _)).trans (KeepsMemory.unpin _ _)).trans
      (KeepsMemory.updCore _ _ _)
    refine ⟨t, ⟨execLoadValueReturn_mon ret words dest home, rfl, goesOn_of_next me rfl rfl, kept.memory, kept.seen⟩, ?_, fun r => ?_⟩
    · rw [me, Context.next_eq]
      rfl
    · rw [State.rx, me, Context.rd_next]
      rfl

/-- Settles O9: ACQ and MON are loads and REL is a store, what waits does nothing else, and an acquire changes who sees the writes it covers. -/
theorem orderingInstructions : Obligations.OrderingInstructions := ⟨acquireReleaseMonitor, waitsAndFences, acquireAndMonitorReturn⟩
end

section
/-! SUPPORT. REP (R196, R198) and the region barrier (R69, R200): when the barrier is met, how it completes, and the obligation that they
settle (O10). -/

namespace Sys2Proof.Machine

open Sys2Proof.Spec

/-! ## REP -/

theorem execRep_cached {s : State} {n : BitVec 6} {mask : BitVec 3} {w : CtlWord} (m : MayIssue s (.rep n mask))
    (cached : s.cached s.cur.at_ (s.me.pc + 4).toNat = some w) :
    exec (.rep n mask) s = .next (if repOk s w (n.toNat + 1) mask then
      s.updMe fun c => { c with pc := s.me.pc + 4, status := .running, rep := some ⟨w, n.toNat + 1, 0, mask, s.me.pc⟩ }
      else s.illegal (wordOfInstr (.rep n mask))) := by
  show execRep n mask s = _
  rw [execRep, issue_of_may _ m]
  simp only [cached]
  rfl

/-! ## Who stands at the barrier -/

theorem Context.atBarrier_of_parked {c : Context} (h : c.status = .parked) : c.atBarrier = true := by
  simp [Context.atBarrier, h]

theorem Context.atBarrier_of_arrived {c : Context} (h : c.arrived = true) : c.atBarrier = true := by
  simp [Context.atBarrier, h]

theorem Core.barrierMet_of {c : Core} (all : ∀ n, (c.ctx n).atBarrier = true) (left : ∃ n, (c.ctx n).status ≠ .parked) :
    c.barrierMet = true := by
  obtain ⟨n, left⟩ := left
  have l : c.l.atBarrier = true := all .load
  have k : c.c.atBarrier = true := all .compute
  have s : c.s.atBarrier = true := all .store
  simp only [Core.barrierMet, l, k, s, Bool.true_and, Bool.not_eq_true', Bool.and_eq_false_iff, beq_eq_false_iff_ne, ne_eq]
  cases n with
  | load => exact .inl (.inl left)
  | compute => exact .inl (.inr left)
  | store => exact .inr left

theorem Core.not_barrierMet_of {c : Core} {n : CtxName} (h : (c.ctx n).atBarrier = false) : c.barrierMet = false := by
  cases n <;> simp_all [Core.barrierMet, Core.ctx]

/-- A change of one context after which it stands at the barrier, where the others do. -/
theorem Core.atBarrier_updCtx {c : Core} {n : CtxName} {f : Context → Context} (here : (f (c.ctx n)).atBarrier = true)
    (others : ∀ k, k ≠ n → (c.ctx k).atBarrier = true) (k : CtxName) : ((c.updCtx n f).ctx k).atBarrier = true := by
  by_cases e : k = n
  · rw [e, Core.ctx_updCtx]
    exact here
  · rw [Core.ctx_updCtx_ne _ _ e]
    exact others k e

theorem Core.queuesHold_updCtx (c : Core) (n : CtxName) (f : Context → Context) : (c.updCtx n f).queuesHold = c.queuesHold := by
  cases n <;> rfl

theorem Core.sideLog_updCtx (c : Core) (n : CtxName) (f : Context → Context) : (c.updCtx n f).sideLog = c.sideLog := by
  cases n <;> rfl

/-- What a context has outstanding decides whether it has settled. -/
theorem State.settled_updMe {s : State} {f : Context → Context} (h : (f s.me).out = s.me.out) (n : CtxName) :
    (s.updMe f).settled ⟨s.cur.at_, n⟩ = s.settled ⟨s.cur.at_, n⟩ := by
  have core : (s.updMe f).core s.cur.at_ = s.myCore.updCtx s.cur.ctx f := s.myCore_updMe f
  have out : ((s.updMe f).ctx ⟨s.cur.at_, n⟩).out = (s.ctx ⟨s.cur.at_, n⟩).out := by
    show (((s.updMe f).core s.cur.at_).ctx n).out = (s.myCore.ctx n).out
    rw [core]
    by_cases e : n = s.cur.ctx
    · rw [e, Core.ctx_updCtx]
      exact h
    · rw [Core.ctx_updCtx_ne _ _ e]
  have log : ((s.updMe f).core s.cur.at_).sideLog = (s.core s.cur.at_).sideLog := by
    rw [core, Core.sideLog_updCtx]
    rfl
  simp only [State.settled, State.drained, State.logged, out, log]

/-! ## The barrier completes -/

theorem Core.ctx_enterRegion (c : Core) (n : CtxName) : c.enterRegion.ctx n = (c.ctx n).enterRegion := by cases n <;> rfl

theorem Context.enterRegion_parked {c : Context} (h : c.status = .parked) : c.enterRegion.status = .parked := by
  simp [Context.enterRegion, h]

/-- A context that has not exited enters the region at the word after its REGION. -/
theorem Context.enterRegion_going {c : Context} (h : c.status ≠ .parked) : c.enterRegion = { c with
    entry := c.pc, inputs := c.nextInputs, arrived := false, pc := c.pc + 4, status := .running
    semTakes := [], gbarAtEntry := c.gbar } := by
  rw [Context.enterRegion, if_neg (by simpa using h)]

/-- A task that runs does not stop. -/
theorem State.stopGang_running {s : State} {r : CoreRef} (h : ∀ k, (s.core r).task = some k → k.phase = .running) : s.stopGang r = s := by
  unfold State.stopGang
  split
  · rfl
  · next k e =>
    have goesOn : (s.core r).canStop = false := by simp [Core.canStop, e, h k e]
    simp only [List.all_cons, goesOn, Bool.false_and]
    rfl

theorem State.tryBarrier_opens {s : State} (met : s.myCore.barrierMet = true) (settled : ∀ n, s.settled ⟨s.cur.at_, n⟩ = true)
    (running : ∀ k, s.myCore.task = some k → k.phase = .running) : s.tryBarrier s.cur.at_ = s.updMyCore Core.enterRegion := by
  have all : (ctxNames.all fun n => s.settled ⟨s.cur.at_, n⟩) = true := List.all_eq_true.mpr fun n _ => settled n
  have now : ((s.core s.cur.at_).barrierMet && ctxNames.all fun n => s.settled ⟨s.cur.at_, n⟩) = true := Bool.and_eq_true_iff.mpr ⟨met, all⟩
  refine (if_pos now).trans (State.stopGang_running fun k e => running k ?_)
  rw [State.core_updCore] at e
  exact e

/-! ## REGION -/

/-- The executing context has come to the barrier at a REGION that names the inputs m (R69). -/
def Context.arrive (m : BitVec 26) (c : Context) : Context := { c with arrived := true, nextInputs := m, status := .waiting .barrier }

theorem execRegion_arrives {s : State} {m : BitVec 26} (may : MayIssue s (.region m)) (first : s.me.arrived = false) :
    exec (.region m) s = .next ((s.updMe (Context.arrive m)).arriveBarrier (wordOfInstr (.region m))) := by
  show execRegion m s = _
  rw [execRegion, issue_of_may _ may, if_neg (by rw [first]; exact Bool.false_ne_true)]
  rfl

theorem State.arriveBarrier_waits {s : State} {w : CtlWord} (h : s.myCore.barrierMet = false) : s.arriveBarrier w = s :=
  if_neg (by rw [h]; exact Bool.false_ne_true)

theorem State.arriveBarrier_opens {s : State} {w : CtlWord} (met : s.myCore.barrierMet = true) (empty : s.myCore.queuesHold = false) :
    s.arriveBarrier w = s.tryBarrier s.cur.at_ :=
  (if_pos met).trans (if_neg (by rw [empty]; exact Bool.false_ne_true))

theorem State.arriveBarrier_faults {s : State} {w : CtlWord} (met : s.myCore.barrierMet = true) (hold : s.myCore.queuesHold = true) :
    s.arriveBarrier w = s.illegal w :=
  (if_pos met).trans (if_pos hold)

/-- With the other contexts at the barrier, the REGION of the executing one completes it. -/
theorem Core.barrierMet_arrive {c : Core} {n : CtxName} (m : BitVec 26) (others : ∀ k, k ≠ n → (c.ctx k).atBarrier = true) :
    (c.updCtx n (Context.arrive m)).barrierMet = true :=
  Core.barrierMet_of (Core.atBarrier_updCtx (Context.atBarrier_of_arrived rfl) others) ⟨n, by
    rw [Core.ctx_updCtx]
    exact CtxStatus.noConfusion⟩

/-! ## EXIT -/

/-- The task of a core notes where a context has exited and, for C, its x1. -/
def Core.noteExit (n : CtxName) (pc : Word) (x1 : Word) (c : Core) : Core :=
  { c with task := c.task.map fun t => { t with exitPc := pc, exitCtx := n, x1AtExit := if n = .compute then x1 else t.x1AtExit } }

/-- The executing context has exited (R52): it is parked, and its task notes it. -/
def Core.exit (n : CtxName) (pc : Word) (x1 : Word) (c : Core) : Core := (c.updCtx n fun c => { c with status := .parked }).noteExit n pc x1

theorem Core.ctx_exit (n : CtxName) (pc x1 : Word) (c : Core) (k : CtxName) :
    (c.exit n pc x1).ctx k = (c.updCtx n fun c => { c with status := .parked }).ctx k := by cases k <;> rfl

theorem Core.queuesHold_exit (n : CtxName) (pc x1 : Word) (c : Core) : (c.exit n pc x1).queuesHold = c.queuesHold :=
  Core.queuesHold_updCtx c n _

/-- With the other contexts at the barrier and one of them not exited, the EXIT of the executing one completes it. -/
theorem Core.barrierMet_exit {c : Core} {n : CtxName} (pc x1 : Word) (others : ∀ k, k ≠ n → (c.ctx k).atBarrier = true)
    (left : ∃ k, k ≠ n ∧ (c.ctx k).status ≠ .parked) : (c.exit n pc x1).barrierMet = true := by
  obtain ⟨k, ne, left⟩ := left
  refine Core.barrierMet_of (fun j => ?_) ⟨k, ?_⟩
  · rw [Core.ctx_exit]
    exact Core.atBarrier_updCtx (Context.atBarrier_of_parked rfl) others j
  · rw [Core.ctx_exit, Core.ctx_updCtx_ne _ _ ne]
    exact left

/-- An EXIT that is not the third of its task, with no peer at a gang barrier and no context left waiting for this one (R52). -/
theorem execExit_arrives {s : State} (may : MayIssue s .exit) (left : ∃ n, n ≠ s.cur.ctx ∧ (s.myCore.ctx n).status ≠ .parked)
    (peers : ∀ q ∈ s.gang s.cur.at_, q ≠ s.cur.at_ → ∀ j, ((s.core q).ctx s.cur.ctx).status ≠ .waiting (.gbar j))
    (orphan : s.myCore.orphanAt s.cur.ctx = none) :
    exec .exit s = .next ((s.updMyCore (Core.exit s.cur.ctx s.me.pc (s.rx 1))).arriveBarrier (wordOfInstr .exit)) := by
  have exits : (s.updMe fun c => { c with status := .parked }).updTask s.cur.at_ (fun t =>
      { t with exitPc := s.me.pc, exitCtx := s.cur.ctx, x1AtExit := if s.cur.ctx = .compute then s.rx 1 else t.x1AtExit }) =
      s.updMyCore (Core.exit s.cur.ctx s.me.pc (s.rx 1)) := State.updMyCore_updMyCore s _ _
  have notThird : ¬((s.myCore.exit s.cur.ctx s.me.pc (s.rx 1)).l.status = .parked ∧
      (s.myCore.exit s.cur.ctx s.me.pc (s.rx 1)).c.status = .parked ∧ (s.myCore.exit s.cur.ctx s.me.pc (s.rx 1)).s.status = .parked) := by
    obtain ⟨n, ne, going⟩ := left
    rw [← Core.ctx_updCtx_ne _ (fun c => { c with status := .parked }) ne, ← Core.ctx_exit s.cur.ctx s.me.pc (s.rx 1)] at going
    rintro ⟨l, c, st⟩
    cases n with
    | load => exact going l
    | compute => exact going c
    | store => exact going st
  show execExit s = _
  rw [execExit, issue_of_may _ may]
  refine congrArg Host.Outcome.next ((if_neg ?_).trans ?_)
  · rw [List.any_eq_true]
    rintro ⟨q, mem, waits⟩
    obtain ⟨other, waits⟩ := Bool.and_eq_true_iff.mp waits
    split at waits
    · next j e => exact peers q mem (bne_iff_ne.mp other) j e
    · exact Bool.false_ne_true waits
  · simp only [orphan, exits, State.myCore_updMyCore]
    exact if_neg notThird

end Sys2Proof.Machine

open Sys2Proof Sys2Proof.Machine Sys2Proof.Spec

/-- R196, R198: REP. -/
theorem repeatUnit : Spec.RepeatUnit := by
  intro s n mask w may cached
  refine ⟨fun ok => ⟨_, (execRep_cached may cached).trans (congrArg Host.Outcome.next (if_pos ok)), State.me_updMe s _, onlyMe_updMe s _⟩,
    fun bad => (execRep_cached may cached).trans (congrArg Host.Outcome.next (if_neg ?_))⟩
  rw [bad]
  exact Bool.false_ne_true

/-- R69, R200: the three outcomes of an arrival at the region barrier. -/
theorem regionBarrier : Spec.RegionBarrier := by
  intro s m may first
  have core : (s.updMe (Context.arrive m)).myCore = s.myCore.updCtx s.cur.ctx (Context.arrive m) := s.myCore_updMe _
  refine ⟨fun n ne away => ⟨s.updMe (Context.arrive m), ?_, State.me_updMe s _, onlyMe_updMe s _⟩, fun others empty settled running => ?_,
    fun others hold => ⟨⟨s.updMe (Context.arrive m), ?_, State.me_updMe s _, onlyMe_updMe s _⟩, fun mayExit left peers orphan => ?_⟩⟩
  · rw [execRegion_arrives may first, State.arriveBarrier_waits]
    rw [core]
    exact Core.not_barrierMet_of (n := n) ((congrArg Context.atBarrier (Core.ctx_updCtx_ne _ _ ne)).trans away)
  · have opens : exec (.region m) s = .next (s.updMyCore fun c => (c.updCtx s.cur.ctx (Context.arrive m)).enterRegion) := by
      have met : (s.updMe (Context.arrive m)).myCore.barrierMet = true := core ▸ Core.barrierMet_arrive m others
      have drained : (s.updMe (Context.arrive m)).myCore.queuesHold = false := by rw [core, Core.queuesHold_updCtx, empty]
      rw [execRegion_arrives may first, State.arriveBarrier_opens met drained,
        State.tryBarrier_opens met (fun n => (State.settled_updMe rfl n).trans (settled n)) fun k e => running k (by rwa [core, Core.task_updCtx] at e)]
      exact congrArg Host.Outcome.next (State.updMyCore_updMyCore s _ _)
    refine ⟨_, opens, ?_⟩
    generalize ht : (s.updMyCore fun c => (c.updCtx s.cur.ctx (Context.arrive m)).enterRegion) = t
    have entered : ∀ n, t.myCore.ctx n = ((s.myCore.updCtx s.cur.ctx (Context.arrive m)).ctx n).enterRegion := fun n => by
      rw [← ht, State.myCore_updMyCore, Core.ctx_enterRegion]
    have other : ∀ n, n ≠ s.cur.ctx → t.myCore.ctx n = (s.myCore.ctx n).enterRegion := fun n ne => by
      rw [entered, Core.ctx_updCtx_ne _ _ ne]
    have me : t.me = (s.me.arrive m).enterRegion := by
      rw [State.me_eq, ← ht, State.cur_updMyCore, ht, entered, Core.ctx_updCtx]
      rfl
    rw [me, Context.enterRegion_going CtxStatus.noConfusion]
    refine ⟨by rw [← ht, State.myCore_updMyCore]; rfl, rfl, rfl, rfl, rfl, rfl, fun n ne going => ?_, fun n ne parked => ?_,
      ht ▸ onlyMyCore_updMyCore s _⟩
    · rw [other n ne, Context.enterRegion_going going]
      exact ⟨rfl, rfl, rfl⟩
    · rw [other n ne]
      exact Context.enterRegion_parked parked
  · rw [execRegion_arrives may first, State.arriveBarrier_faults]
    · rw [core]
      exact Core.barrierMet_arrive m others
    · rw [core, Core.queuesHold_updCtx, hold]
  · refine ⟨s.updMyCore (Core.exit s.cur.ctx s.me.pc (s.rx 1)), ?_, ?_, onlyMyCore_updMyCore s _⟩
    · rw [execExit_arrives mayExit left peers orphan, State.arriveBarrier_faults]
      · rw [State.myCore_updMyCore]
        exact Core.barrierMet_exit _ _ others left
      · rw [State.myCore_updMyCore, Core.queuesHold_exit, hold]
    · rw [State.me_eq, State.cur_updMyCore, State.myCore_updMyCore, Core.ctx_exit, Core.ctx_updCtx]
      rfl

/-- Settles O10: REP takes its word or is illegal, and a context at the region barrier waits, opens the region, or takes the fault of a queue that
still holds an entry. -/
theorem repeatsAndRegions : Obligations.RepeatsAndRegions := ⟨repeatUnit, regionBarrier⟩
end

section
/-! SUPPORT. What the vector instructions share (R218 to R223): their ports, what they leave of their core, and what a destination holds after
results are laid into it. -/

set_option Elab.async false

namespace Sys2Proof.Machine

open Sys2Proof.Spec

/-! ## Ports (R220) -/

theorem Core.orphanPort_of_ready {c : Core} {lqs sqs : List (Fin 4)} (rows : ∀ q ∈ lqs, c.lqReady q = true)
    (room : ∀ q ∈ sqs, (c.sq[q]).length < 8) : c.orphanPort lqs sqs = none := by
  have noLoad : lqs.find? c.lqGone = none := List.find?_eq_none.mpr fun q mem gone => by
    have ready := rows q mem
    unfold Core.lqGone at gone
    rw [Bool.and_eq_true, List.isEmpty_iff] at gone
    simp [Core.lqReady, gone.1] at ready
  have noStore : sqs.find? c.sqGone = none := List.find?_eq_none.mpr fun q mem gone => by
    have := room q mem
    unfold Core.sqGone at gone
    rw [Bool.and_eq_true, decide_eq_true_eq] at gone
    omega
  simp only [Core.orphanPort, noLoad, noStore, Option.map_none]

theorem withPorts_of_ready {s : State} {srcs dsts : List Nat} (k : State → State) (rows : ∀ q ∈ lqPorts srcs, s.myCore.lqReady q = true)
    (room : ∀ q ∈ sqPorts dsts, (s.myCore.sq[q]).length < 8) : withPorts s srcs dsts k = k s := by
  have noLoad : (lqPorts srcs).find? (fun q => !s.myCore.lqReady q) = none :=
    List.find?_eq_none.mpr fun q mem => by simp [rows q mem]
  have noStore : (sqPorts dsts).find? (fun q => decide (8 ≤ (s.myCore.sq[q]).length)) = none :=
    List.find?_eq_none.mpr fun q mem => by simpa using room q mem
  simp only [withPorts, Core.orphanPort_of_ready rows room, noLoad, noStore]

theorem mem_lqPorts {l : List Nat} {q : Fin 4} : q ∈ lqPorts l ↔ 56 + q.val ∈ l := by
  have all : ∀ q : Fin 4, q ∈ ([0, 1, 2, 3] : List (Fin 4)) := by decide
  simp [lqPorts, List.mem_filter, all q]

/-- Queues that each lose their head once. -/
theorem getElem_foldl_drop (ps : List (Fin 4)) (nodup : ps.Nodup) (v : Vector (List (Option Row)) 4) (q : Fin 4) :
    (ps.foldl (fun v (q : Fin 4) => v.set q (v[q].drop 1)) v)[q] = if q ∈ ps then (v[q]).drop 1 else v[q] := by
  induction ps generalizing v with
  | nil => simp
  | cons p ps ih =>
    obtain ⟨fresh, nodup⟩ := List.nodup_cons.mp nodup
    rw [List.foldl_cons, ih nodup]
    by_cases e : q = p
    · subst e
      simp [fresh]
    · have : p.val ≠ q.val := fun h => e (Fin.ext h.symm)
      simp [e, this]

theorem Core.lq_popPorts (c : Core) (srcs : List Nat) (q : Fin 4) :
    (c.popPorts srcs).lq[q] = if 56 + q.val ∈ srcs then (c.lq[q]).drop 1 else c.lq[q] := by
  have nodup : (lqPorts srcs).Nodup := List.Nodup.filter _ (by decide)
  simp only [← mem_lqPorts]
  exact getElem_foldl_drop _ nodup _ _

/-! ## The next state of a vector instruction -/

/-- The state after a vector instruction that makes f of its core: the load queues that it reads are popped, and C goes on. -/
def State.vecNext (s : State) (i : Instr) (f : Core → Core) : State :=
  (s.updMyCore fun c => (f c).popPorts (vecRegs s.myCore.vf.fmt i).1).goOn

theorem vecIssue_eq {i : Instr} {s : State} {body : State → Core → Core} (may : MayIssue s i) (ports : PortsReady s i) :
    vecIssue i s body = .next (s.vecNext i (body s)) := by
  simp only [vecIssue, go, issue_of_may _ may, withPorts_of_ready _ ports.1 ports.2]
  rfl

section

variable (s : State) (i : Instr) (f : Core → Core)

theorem State.myCore_vecNext : (s.vecNext i f).myCore =
    ((f s.myCore).popPorts (vecRegs s.myCore.vf.fmt i).1).updCtx s.cur.ctx Context.next := by
  unfold State.vecNext State.goOn
  rw [State.myCore_updMe, State.myCore_updMyCore, State.cur_updMyCore]

@[simp] theorem State.vf_vecNext : (s.vecNext i f).myCore.vf = (f s.myCore).vf := by
  rw [State.myCore_vecNext]; cases s.cur.ctx <;> rfl

theorem State.sq_vecNext : (s.vecNext i f).myCore.sq = (f s.myCore).sq := by
  rw [State.myCore_vecNext]; cases s.cur.ctx <;> rfl

theorem State.lq_vecNext : (s.vecNext i f).myCore.lq = ((f s.myCore).popPorts (vecRegs s.myCore.vf.fmt i).1).lq := by
  rw [State.myCore_vecNext]; cases s.cur.ctx <;> rfl

theorem onlyMyCore_vecNext : OnlyMyCore s (s.vecNext i f) := by
  unfold State.vecNext State.goOn
  rw [State.updMyCore_updMe]
  exact onlyMyCore_updMyCore s _

end

/-! ## What a vector instruction leaves of its core -/

/-- A destination that an instruction can name: a v register or a store queue (R41). -/
abbrev DestOk (d : Nat) : Prop := d < 56 ∨ (60 ≤ d ∧ d < 64)

/-- c' differs from c in the vector file and the store queues at most; of these, only the destinations, the masks, the generator and the amax
registers change, and flags are added to VSTAT. -/
structure KeepsCore (dsts : List Nat) (c c' : Core) : Prop where
  only : c' = { c with vf := c'.vf, sq := c'.sq }
  v : ∀ r : Fin 56, r.val ∉ dsts → c'.vf.v[r] = c.vf.v[r]
  sq : ∀ q : Fin 4, 60 + q.val ∉ dsts → c'.sq[q] = c.sq[q]
  vtype : c'.vf.vtype = c.vf.vtype
  ppu : c'.vf.ppu = c.vf.ppu ∧ c'.vf.ppuN = c.vf.ppuN
  sticky : ∀ j, c.vf.vstat.getLsbD j = true → c'.vf.vstat.getLsbD j = true

namespace KeepsCore

theorem refl (dsts : List Nat) (c : Core) : KeepsCore dsts c c := ⟨rfl, fun _ _ => rfl, fun _ _ => rfl, rfl, ⟨rfl, rfl⟩, fun _ h => h⟩

variable {dsts : List Nat} {c c' : Core}

theorem put (k : KeepsCore dsts c c') (a : VAcc) (n : Nat) : KeepsCore dsts c { c' with vf := c'.vf.put a n } where
  only := k.only ▸ rfl
  v := k.v
  sq := k.sq
  vtype := k.vtype
  ppu := k.ppu
  sticky j set := by
    show (c'.vf.vstat ||| a.flags).getLsbD j = true
    rw [BitVec.getLsbD_or, k.sticky j set, Bool.true_or]

theorem setMask (k : KeepsCore dsts c c') (d : BitVec 3) (m : MaskReg) : KeepsCore dsts c (c'.setMask d m) :=
  ⟨k.only ▸ rfl, k.v, k.sq, k.vtype, k.ppu, k.sticky⟩

theorem setVreg (k : KeepsCore dsts c c') {d : Nat} (row : Row) (mem : d ∈ dsts) (ok : DestOk d) : KeepsCore dsts c (c'.setVreg d row) := by
  unfold Core.setVreg
  split
  next low =>
    refine ⟨k.only ▸ rfl, fun r away => ?_, k.sq, k.vtype, k.ppu, k.sticky⟩
    have ne : (Fin.ofNat 56 d).val ≠ r.val := fun e => away (by
      rw [Fin.val_ofNat, Nat.mod_eq_of_lt low] at e
      exact e ▸ mem)
    rw [← k.v r away]
    exact Vector.getElem_set_ne (Fin.isLt _) _ ne
  next high =>
    refine ⟨k.only ▸ rfl, k.v, fun q away => ?_, k.vtype, k.ppu, k.sticky⟩
    have ne : (Fin.ofNat 4 d).val ≠ q.val := fun e => away (by
      rw [Fin.val_ofNat] at e
      exact (show 60 + q.val = d by omega) ▸ mem)
    rw [← k.sq q away]
    exact Vector.getElem_set_ne (Fin.isLt _) _ ne

theorem putLanes (k : KeepsCore dsts c c') (f : Fmt) {d : Nat} (res : List (Option Nat)) (mem : d ∈ dsts) (ok : DestOk d) :
    KeepsCore dsts c (c'.putLanes f d res) := k.setVreg _ mem ok

theorem putGroup (k : KeepsCore dsts c c') (f : Fmt) {first g : Nat} (res : List (Option Nat))
    (mem : ∀ n, n < g → first + n ∈ dsts) (ok : ∀ n, n < g → DestOk (first + n)) : KeepsCore dsts c (c'.putGroup f first g res) := by
  have laid : ∀ k ≤ g, KeepsCore dsts c ((List.range k).foldl (fun c n => c.putLanes f (first + n) (every g n res)) c') := by
    intro n le
    induction n with
    | zero => exact k
    | succ n ih =>
      rw [List.range_succ, List.foldl_append]
      exact (ih (by omega)).putLanes f _ (mem n le) (ok n le)
  exact laid g le_rfl

end KeepsCore

theorem Core.ctx_of_only {c c' : Core} (only : c' = { c with vf := c'.vf, sq := c'.sq }) (n : CtxName) : c'.ctx n = c.ctx n := by
  rw [only]; cases n <;> rfl

section

variable {s : State} {i : Instr} {f : Core → Core}
  (only : f s.myCore = { s.myCore with vf := (f s.myCore).vf, sq := (f s.myCore).sq })

include only

theorem State.me_popped : (s.updMyCore fun c => (f c).popPorts (vecRegs s.myCore.vf.fmt i).1).me = s.me := by
  rw [State.me_eq, State.myCore_updMyCore, State.cur_updMyCore, State.me_eq, ← Core.ctx_of_only only]
  cases s.cur.ctx <;> rfl

theorem goesOn_vecNext : GoesOn s (s.vecNext i f) := goesOn_of_me (State.me_popped only) (goesOn_goOn _)

theorem State.me_vecNext : (s.vecNext i f).me = s.me.next := by
  unfold State.vecNext State.goOn
  rw [State.me_updMe, State.me_popped only]

theorem State.x_vecNext : (s.vecNext i f).me.x = s.me.x := by rw [State.me_vecNext only, Context.next_eq]

theorem State.k_vecNext : (s.vecNext i f).me.k = s.me.k := by rw [State.me_vecNext only, Context.next_eq]

end

/-- What a vector instruction leaves of the machine, from what it leaves of its core. -/
theorem vectorRest_vecNext {s : State} {i : Instr} {f : Core → Core} (keeps : KeepsCore (vecRegs s.myCore.vf.fmt i).2 s.myCore (f s.myCore))
    (am : (∀ d a e n m, i ≠ .vnarrow d a e n m) → (f s.myCore).vf.am = s.myCore.vf.am) : VectorRest s i (s.vecNext i f) := by
  refine ⟨goesOn_vecNext keeps.only, ?_, fun q => ?_, ?_, ?_, ?_, ?_, ?_, State.x_vecNext keeps.only, State.k_vecNext keeps.only,
    onlyMyCore_vecNext s i f⟩
  · rw [State.vf_vecNext]; exact keeps.v
  · rw [State.lq_vecNext, Core.lq_popPorts, keeps.only]
  · rw [State.sq_vecNext]; exact keeps.sq
  · rw [State.vf_vecNext]; exact keeps.vtype
  · rw [State.vf_vecNext]; exact keeps.ppu
  · rw [State.vf_vecNext]; exact keeps.sticky
  · rw [State.vf_vecNext]; exact am

/-! ## Destinations (R41) -/

/-- What a destination of a core holds. -/
def Core.dest (c : Core) (d : Nat) : Row := if d < 56 then c.vf.v[Fin.ofNat 56 d] else ((c.sq[Fin.ofNat 4 d]).getLast?).getD 0

@[simp] theorem destRow_vecNext (s : State) (i : Instr) (f : Core → Core) (d : Nat) : destRow (s.vecNext i f) d = (f s.myCore).dest d := by
  unfold destRow Core.dest
  rw [State.vf_vecNext, State.sq_vecNext]

@[simp] theorem Core.dest_setVreg (c : Core) (d : Nat) (row : Row) : (c.setVreg d row).dest d = row := by
  unfold Core.setVreg Core.dest
  by_cases low : d < 56
  · rw [if_pos low, if_pos low]
    exact Vector.getElem_set_self _
  · rw [if_neg low, if_neg low]
    simp

theorem Core.dest_setVreg_ne (c : Core) {d e : Nat} (row : Row) (okd : DestOk d) (oke : DestOk e) (ne : d ≠ e) :
    (c.setVreg d row).dest e = c.dest e := by
  have low : d < 56 → e < 56 → (Fin.ofNat 56 d).val ≠ (Fin.ofNat 56 e).val := fun hd he => by
    rwa [Fin.val_ofNat, Fin.val_ofNat, Nat.mod_eq_of_lt hd, Nat.mod_eq_of_lt he]
  have high : ¬d < 56 → ¬e < 56 → (Fin.ofNat 4 d).val ≠ (Fin.ofNat 4 e).val := fun hd he => by
    rw [Fin.val_ofNat, Fin.val_ofNat]
    omega
  unfold Core.setVreg Core.dest
  by_cases hd : d < 56 <;> by_cases he : e < 56 <;> simp only [hd, he, if_true, if_false]
  · exact Vector.getElem_set_ne _ _ (low hd he)
  · exact congrArg (fun l : List Row => l.getLast?.getD 0) (Vector.getElem_set_ne _ _ (high hd he))

/-- The width of a format divides the register into whole lanes (R126, R218). -/
theorem Fmt.width_mul_lanes (f : Fmt) : f.width * f.lanes = 4096 := by cases f <;> rfl

theorem Fmt.width_mul_succ_le (f : Fmt) {j : Nat} (h : j < f.lanes) : f.width * (j + 1) ≤ 4096 :=
  f.width_mul_lanes ▸ Nat.mul_le_mul_left _ h

theorem writeMask_dvd (f : Fmt) : writeMask f ∣ 2 ^ f.width := by cases f <;> decide

theorem mod_writeMask_mod (f : Fmt) (n : Nat) : n % writeMask f % 2 ^ f.width = n % writeMask f :=
  Nat.mod_eq_of_lt (lt_of_lt_of_le (Nat.mod_lt _ (by cases f <;> decide)) (Nat.le_of_dvd (Nat.two_pow_pos _) (writeMask_dvd f)))

@[simp] theorem mod_width_mod_writeMask (f : Fmt) (n : Nat) : n % 2 ^ f.width % writeMask f = n % writeMask f :=
  Nat.mod_mod_of_dvd n (writeMask_dvd f)

/-- A lane after results are laid into a row: the result, or what an inactive lane keeps (R219). -/
theorem lane_layLanes (f : Fmt) (old : Row) (queue : Bool) (res : List (Option Nat)) {j : Nat} (fits : j < f.lanes) {x : Option Nat}
    (at_ : res[j]? = some x) : lane (layLanes f old queue res) f.width j =
      x.elim (if queue then 0 else lane old f.width j) (· % writeMask f) := by
  rw [layLanes, lane_pack _ _ _ _ (f.width_mul_succ_le fits), List.getD_eq_getElem?_getD, List.getElem?_map, List.getElem?_zipIdx, at_]
  cases x with
  | some v => exact mod_writeMask_mod f v
  | none =>
    cases queue with
    | true => exact Nat.zero_mod _
    | false =>
      simp only [Option.map_some, Option.getD_some, Nat.zero_add]
      exact Nat.mod_eq_of_lt (lane_lt _ _ _)

theorem Core.dest_low {c : Core} {d : Nat} (low : d < 56) : c.dest d = c.vreg d := by rw [Core.dest, Core.vreg, if_pos low, if_pos low]

theorem Core.dest_putLanes (c : Core) (f : Fmt) {d : Nat} (ok : DestOk d) (res : List (Option Nat)) {j : Nat} (fits : j < f.lanes)
    {x : Option Nat} (at_ : res[j]? = some x) : lane ((c.putLanes f d res).dest d) f.width j =
      x.elim (if d < 56 then lane (c.dest d) f.width j else 0) (· % writeMask f) := by
  rw [Core.putLanes, Core.dest_setVreg, lane_layLanes f _ _ _ fits at_]
  cases x with
  | some v => rfl
  | none =>
    by_cases low : d < 56
    · have : ¬60 ≤ d := by omega
      simp [low, this, Core.dest_low low]
    · have : 60 ≤ d := by omega
      simp [low, this]

end Sys2Proof.Machine
end

section
/-! SUPPORT. Elements one by one (R143, R218, R223): what a run over the lanes gives and leaves, where each element draws from the generator or
none does, and what each way to compute an element adds to VSTAT. -/

set_option Elab.async false

namespace Sys2Proof.Machine

open Sys2Proof.Spec

/-! ## One element -/

/-- LFSR after n elements that draw under a mode (R143). -/
def genAfter (rm : Rm) (n : Nat) (l : BitVec 32) : BitVec 32 := if rm = .sr then lfsrStep^[n] l else l

/-- u of R142 for an element that draws after n others. -/
def drawAfter (rm : Rm) (n : Nat) (l : BitVec 32) : Nat := if rm = .sr then lfsrU (lfsrStep^[n + 1] l) else 0

/-- An element that draws under a mode: its code v and its flags fl from u of R142, and what it makes of the amax register. An element that draws
nothing is one that draws under RNE. -/
def drawElem (rm : Rm) (v : Nat → Nat → Nat) (fl : Nat → Nat → BitVec 6) (am : Nat → BitVec 33 → BitVec 33) (j : Nat) (a : VAcc) :
    Nat × VAcc :=
  (v j (drawAfter rm 0 a.lfsr), ⟨genAfter rm 1 a.lfsr, a.flags ||| fl j (drawAfter rm 0 a.lfsr), am j a.am⟩)

theorem VAcc.gen_eq (a : VAcc) (rm : Rm) : a.gen rm = ({ a with lfsr := genAfter rm 1 a.lfsr }, drawAfter rm 0 a.lfsr) := by
  unfold VAcc.gen genAfter drawAfter
  split <;> rfl

theorem VAcc.round_eq (a : VAcc) (f : Fmt) (rm : Rm) (sat : Bool) (x : Val) : a.round f rm sat x =
    ((f.round rm sat (drawAfter rm 0 a.lfsr) x).1,
      ⟨genAfter rm 1 a.lfsr, a.flags ||| (f.round rm sat (drawAfter rm 0 a.lfsr) x).2, a.am⟩) := by
  unfold VAcc.round
  rw [VAcc.gen_eq]
  rfl

theorem VAcc.convert_eq (a : VAcc) (src dst : Fmt) (rm : Rm) (sat : Bool) (x : Nat) : a.convert src dst rm sat x =
    ((convertElem src dst rm sat (drawAfter rm 0 a.lfsr) x).1,
      ⟨genAfter rm 1 a.lfsr, a.flags ||| (convertElem src dst rm sat (drawAfter rm 0 a.lfsr) x).2, a.am⟩) := by
  unfold VAcc.convert
  rw [VAcc.gen_eq]
  rfl

/-- fit of R226 gives the fitted number, and SA where it saturates. -/
theorem VAcc.fit_eq (s : State) (a : VAcc) (n : Int) :
    a.fit s.myCore.vf.fmt.width s.myCore.vf.sat n = (fitted s n, a.flag (saOf s n)) := by
  have noFlag : a.flag 0#6 = a := by simp [VAcc.flag]
  have pos : (0 : Int) < 2 ^ (s.myCore.vf.fmt.width - 1) := by positivity
  simp only [VAcc.fit, fitted, saOf]
  generalize (2 : Int) ^ (s.myCore.vf.fmt.width - 1) = top at pos
  cases s.myCore.vf.sat with
  | false => simp [noFlag]
  | true =>
    by_cases above : top - 1 < n
    · have clamped : max (-top) (min (top - 1) n) = top - 1 := by omega
      simp [above, clamped, flagSA]
    · by_cases below : n < -top
      · have clamped : max (-top) (min (top - 1) n) = -top := by omega
        simp [above, below, clamped, flagSA]
      · have inside : max (-top) (min (top - 1) n) = n := by omega
        simp [above, below, inside, noFlag]

/-! ## All elements (R143, R218) -/

section

variable (act : Nat → Bool)

/-- The number of active elements below n. -/
def activeCount (n : Nat) : Nat := ((List.range n).filter act).length

theorem activeCount_succ (n : Nat) : activeCount act (n + 1) = activeCount act n + if act n then 1 else 0 := by
  unfold activeCount
  rw [List.range_succ, List.filter_append, List.length_append]
  cases h : act n <;> simp [h]

/-- A fold over the active elements, one more at a time. -/
theorem foldl_active_succ {α : Type} (g : α → Nat → α) (x : α) (n : Nat) :
    ((List.range (n + 1)).filter act).foldl g x =
      if act n then g (((List.range n).filter act).foldl g x) n else ((List.range n).filter act).foldl g x := by
  rw [List.range_succ, List.filter_append, List.foldl_append]
  cases h : act n <;> simp [h]

theorem laneRun_append (f : Nat → VAcc → Nat × VAcc) (l l' : List Nat) (a : VAcc) :
    laneRun act f (l ++ l') a =
      ((laneRun act f l a).1 ++ (laneRun act f l' (laneRun act f l a).2).1, (laneRun act f l' (laneRun act f l a).2).2) := by
  induction l generalizing a with
  | nil => rfl
  | cons x l ih =>
    rw [List.cons_append, laneRun, laneRun]
    split
    · simp only [ih, List.cons_append]
    · simp only [ih, List.cons_append]

theorem genAfter_succ (rm : Rm) (n : Nat) (l : BitVec 32) : genAfter rm 1 (genAfter rm n l) = genAfter rm (n + 1) l := by
  unfold genAfter
  split
  · exact (Function.iterate_succ_apply' lfsrStep n l).symm
  · rfl

theorem drawAfter_genAfter (rm : Rm) (n : Nat) (l : BitVec 32) : drawAfter rm 0 (genAfter rm n l) = drawAfter rm n l := by
  unfold genAfter drawAfter
  split
  · exact congrArg lfsrU (Function.iterate_succ_apply' lfsrStep n l).symm
  · rfl

/-- What a run over n elements gives: the codes of the active ones. -/
def drawnCodes (rm : Rm) (v : Nat → Nat → Nat) (n : Nat) (l : BitVec 32) : List (Option Nat) :=
  (List.range n).map fun j => if act j then some (v j (drawAfter rm (activeCount act j) l)) else none

/-- What a run over n elements leaves. -/
def drawnAcc (rm : Rm) (fl : Nat → Nat → BitVec 6) (am : Nat → BitVec 33 → BitVec 33) (n : Nat) (a : VAcc) : VAcc where
  lfsr := genAfter rm (activeCount act n) a.lfsr
  flags := ((List.range n).filter act).foldl (fun x j => x ||| fl j (drawAfter rm (activeCount act j) a.lfsr)) a.flags
  am := ((List.range n).filter act).foldl (fun x j => am j x) a.am

theorem laneRun_drawElem (rm : Rm) (v : Nat → Nat → Nat) (fl : Nat → Nat → BitVec 6) (am : Nat → BitVec 33 → BitVec 33) (n : Nat) (a : VAcc) :
    laneRun act (drawElem rm v fl am) (List.range n) a = (drawnCodes act rm v n a.lfsr, drawnAcc act rm fl am n a) := by
  unfold drawnCodes drawnAcc
  induction n with
  | zero =>
    show ([], a) = ([], _)
    simp [activeCount, genAfter]
  | succ n ih =>
    rw [List.range_succ, laneRun_append, ih, ← List.range_succ, foldl_active_succ, foldl_active_succ, activeCount_succ, List.range_succ,
      List.map_append]
    cases on : act n with
    | false => simp [laneRun, on]
    | true => simp [laneRun, on, drawElem, genAfter_succ, drawAfter_genAfter]

theorem getElem?_drawnCodes (rm : Rm) (v : Nat → Nat → Nat) {n j : Nat} (l : BitVec 32) (inside : j < n) :
    (drawnCodes act rm v n l)[j]? = some (if act j then some (v j (drawAfter rm (activeCount act j) l)) else none) := by
  rw [drawnCodes, List.getElem?_map, List.getElem?_range inside]
  rfl

end

end Sys2Proof.Machine
end

section
/-! SUPPORT. What a vector instruction gives (R219, R221, R223): the rest of the machine, the generator and the flags, and the lanes of its
destination or the elements of its destination group. -/

set_option Elab.async false

namespace Sys2Proof.Machine

open Sys2Proof.Spec

/-! ## What it leaves -/

/-- A vector instruction has completed with the generator at l and the flags fl added to VSTAT; the masks and the rest are unchanged. -/
structure VecLeaves (s : State) (i : Instr) (l : BitVec 32) (fl : BitVec 6) (t : State) : Prop where
  rest : VectorRest s i t
  masks : t.myCore.vf.m = s.myCore.vf.m
  lfsr : t.myCore.vf.lfsr = l
  vstat : t.myCore.vf.vstat = s.myCore.vf.vstat ||| fl

/-- One v register or store queue is the destination of the form, and no amax register (R41, R151). -/
structure OneDest (i : Instr) (d : BitVec 6) : Prop where
  regs : ∀ f, (vecRegs f i).2 = [d.toNat]
  ok : i.wf = true → DestOk d.toNat
  am : ∀ d a e n m, i ≠ .vnarrow d a e n m

theorem destOk_of_vdstOk {d : BitVec 6} (h : vdstOk d = true) : DestOk d.toNat := by
  simp only [vdstOk, Bool.or_eq_true, decide_eq_true_eq] at h
  have := d.isLt
  omega

theorem oneDest_of_first {i : Instr} {d : BitVec 6} (regs : ∀ f, (vecRegs f i).2 = [d.toNat]) (wf : i.wf = vdstOk d)
    (am : ∀ d a e n m, i ≠ .vnarrow d a e n m := by intros; nofun) : OneDest i d := ⟨regs, fun h => destOk_of_vdstOk (wf ▸ h), am⟩

theorem oneDest_of_two {i : Instr} {d a : BitVec 6} (regs : ∀ f, (vecRegs f i).2 = [d.toNat]) (wf : i.wf = (vdstOk d && vsrcOk a))
    (am : ∀ d a e n m, i ≠ .vnarrow d a e n m := by intros; nofun) : OneDest i d :=
  ⟨regs, fun h => destOk_of_vdstOk (Bool.and_eq_true_iff.mp (wf ▸ h)).1, am⟩

theorem oneDest_of_three {i : Instr} {d a b : BitVec 6} (regs : ∀ f, (vecRegs f i).2 = [d.toNat])
    (wf : i.wf = (vdstOk d && vsrcOk a && vsrcOk b)) (am : ∀ d a e n m, i ≠ .vnarrow d a e n m := by intros; nofun) : OneDest i d :=
  ⟨regs, fun h => destOk_of_vdstOk (Bool.and_eq_true_iff.mp (Bool.and_eq_true_iff.mp (wf ▸ h)).1).1, am⟩

theorem oneDest_of_fused {i : Instr} {d a b : BitVec 6} (regs : ∀ f, (vecRegs f i).2 = [d.toNat])
    (wf : i.wf = (decide (d.toNat < 56) && vsrcOk a && vsrcOk b)) (am : ∀ d a e n m, i ≠ .vnarrow d a e n m := by intros; nofun) :
    OneDest i d :=
  ⟨regs, fun h => .inl (of_decide_eq_true (Bool.and_eq_true_iff.mp (Bool.and_eq_true_iff.mp (wf ▸ h)).1).1), am⟩

theorem wf_of_mayIssue {s : State} {i : Instr} (may : MayIssue s i) : i.wf = true := by
  have ok := may.1
  simp only [formOk, Bool.and_eq_true] at ok
  exact ok.1.1.1.1

/-! ## The vector file behind a destination -/

theorem Core.vf_setVreg (c : Core) (d : Nat) (row : Row) : (c.setVreg d row).vf = { c.vf with v := (c.setVreg d row).vf.v } := by
  unfold Core.setVreg
  split <;> rfl

theorem Core.vf_putGroup (c : Core) (f : Fmt) (first g : Nat) (res : List (Option Nat)) :
    (c.putGroup f first g res).vf = { c.vf with v := (c.putGroup f first g res).vf.v } := by
  have laid : ∀ l : List Nat, ∀ c : Core, (l.foldl (fun c k => c.putLanes f (first + k) (every g k res)) c).vf =
      { c.vf with v := (l.foldl (fun c k => c.putLanes f (first + k) (every g k res)) c).vf.v } := by
    intro l
    induction l with
    | nil => exact fun c => rfl
    | cons k l ih =>
      intro c
      have head : (c.putLanes f (first + k) (every g k res)).vf = { c.vf with v := (c.putLanes f (first + k) (every g k res)).vf.v } :=
        Core.vf_setVreg c _ _
      rw [List.foldl_cons, ih, head]
  exact laid _ c

/-- A core once the generator, the flags and amax register n are as an accumulator says. -/
def Core.putAcc (c : Core) (a : VAcc) (n : Nat) : Core := { c with vf := c.vf.put a n }

/-- What is left by an instruction that lays out results after it has put an accumulator back. -/
theorem vecLeaves_of {s : State} {i : Instr} {f : Core → Core} {c : Core} {a : VAcc} {n : Nat} (made : f s.myCore = c)
    (keeps : KeepsCore (vecRegs s.myCore.vf.fmt i).2 s.myCore c) (vf : c.vf = { s.myCore.vf.put a n with v := c.vf.v })
    (am : (∀ d a e n m, i ≠ .vnarrow d a e n m) → a.am = s.myCore.vf.am[Fin.ofNat 16 n]) : VecLeaves s i a.lfsr a.flags (s.vecNext i f) where
  rest := vectorRest_vecNext (made ▸ keeps) fun other => by
    rw [made, vf]
    show s.myCore.vf.am.set (Fin.ofNat 16 n) a.am = _
    rw [am other]
    exact Vector.set_getElem_self _
  masks := by rw [State.vf_vecNext, made, vf]; rfl
  lfsr := by rw [State.vf_vecNext, made, vf]; rfl
  vstat := by rw [State.vf_vecNext, made, vf]; rfl

/-! ## Elements of a group (R221) -/

/-- Of a list that begins at index o, the elements of index k modulo g stand g apart. -/
theorem getElem?_every_from {α : Type} (g k : Nat) (l : List α) (o r i : Nat) (lt : r < g) (at_ : (o + r) % g = k) :
    (((l.zipIdx o).filter fun x => x.2 % g == k).map Prod.fst)[i]? = l[r + g * i]? := by
  induction l generalizing o r i with
  | nil => simp
  | cons x l ih =>
    have step : ∀ r i, (x :: l)[r + 1 + g * i]? = l[r + g * i]? := fun r i => by
      rw [show r + 1 + g * i = r + g * i + 1 by omega, List.getElem?_cons_succ]
    rw [List.zipIdx_cons, List.filter_cons]
    by_cases here : o % g = k
    · have first : r = 0 := by
        by_contra pos
        have := (Nat.ModEq.add_left_cancel' o (show o + r ≡ o + 0 [MOD g] from at_.trans here.symm))
        exact pos (by rwa [Nat.ModEq, Nat.mod_eq_of_lt lt, Nat.zero_mod] at this)
      subst first
      cases i with
      | zero => simp [here]
      | succ i =>
        have next := ih (o + 1) (g - 1) i (by omega) (by rw [show o + 1 + (g - 1) = o + g by omega, Nat.add_mod_right, here])
        simp only [here, beq_self_eq_true, if_true, List.map_cons, List.getElem?_cons_succ, next]
        rw [show 0 + g * (i + 1) = g - 1 + 1 + g * i by rw [Nat.mul_succ]; omega, step]
    · obtain ⟨r, rfl⟩ : ∃ n, r = n + 1 := ⟨r - 1, by
        have : r ≠ 0 := fun e => here (by rw [← at_, e, Nat.add_zero])
        omega⟩
      have ne : (o % g == k) = false := by simpa using here
      simp only [ne, Bool.false_eq_true, if_false, step]
      exact ih (o + 1) r i (by omega) (by rw [show o + 1 + r = o + (r + 1) by omega, at_])

theorem getElem?_every {g k : Nat} (l : List (Option Nat)) (i : Nat) (lt : k < g) : (every g k l)[i]? = l[k + g * i]? :=
  getElem?_every_from g k l 0 k i lt (by rw [Nat.zero_add, Nat.mod_eq_of_lt lt])

/-- The destinations of a group are registers of their own: each holds the lanes laid into it, over what it held. -/
theorem Core.dest_putGroup (c : Core) (f : Fmt) {first g k : Nat} (res : List (Option Nat)) (ok : ∀ n, n < g → DestOk (first + n))
    (lt : k < g) : ∃ old, (c.putGroup f first g res).dest (first + k) = layLanes f old (decide (60 ≤ first + k)) (every g k res) := by
  have laid : ∀ n ≤ g, k < n → ∃ old,
      ((List.range n).foldl (fun c k => c.putLanes f (first + k) (every g k res)) c).dest (first + k) =
        layLanes f old (decide (60 ≤ first + k)) (every g k res) := by
    intro n le below
    induction n with
    | zero => omega
    | succ n ih =>
      rw [List.range_succ, List.foldl_append]
      by_cases e : k = n
      · subst e
        exact ⟨_, Core.dest_setVreg _ _ _⟩
      · obtain ⟨old, held⟩ := ih (by omega) (by omega)
        exact ⟨old, (Core.dest_setVreg_ne _ _ (ok n le) (ok k lt) (by omega)).trans held⟩
  exact laid g le_rfl lt

/-- Element j of a group after results are laid into it. -/
theorem Core.elem_putGroup (c : Core) (f : Fmt) {first g j v : Nat} (res : List (Option Nat)) (ok : ∀ n, n < g → DestOk (first + n))
    (fits : j < f.lanes * g) (at_ : res[j]? = some (some v)) :
    lane ((c.putGroup f first g res).dest (first + j % g)) f.width (j / g) = v % writeMask f := by
  have lt : j % g < g := Nat.mod_lt _ (Nat.pos_of_ne_zero fun e => by simp [e] at fits)
  obtain ⟨old, held⟩ := c.dest_putGroup f res ok lt
  have here : (every g (j % g) res)[j / g]? = some (some v) := by rw [getElem?_every res _ lt, Nat.mod_add_div, at_]
  rw [held, lane_layLanes f _ _ _ (Nat.div_lt_of_lt_mul (by rwa [Nat.mul_comm])) here]
  rfl

/-! ## Lanes of one destination (R218, R219) -/

/-- Wherever the form may issue with its ports ready, it completes with v j in each active lane of d, and adds fl j for each of them. -/
def RunsLanes (s : State) (i : Instr) (d : BitVec 6) (m : BitVec 3) (l : BitVec 32) (v : Nat → Nat) (fl : Nat → BitVec 6) : Prop :=
  MayIssue s i → PortsReady s i → ∃ t, exec i s = .next t ∧ VecLeaves s i l (flagsOf s m s.myCore.vf.fmt.lanes fl) t ∧
    ∀ j, j < s.myCore.vf.fmt.lanes → lane (destRow t d.toNat) s.myCore.vf.fmt.width j =
      if s.myCore.active m j then v j % writeMask s.myCore.vf.fmt
      else if d.toNat < 56 then lane (destRow s d.toNat) s.myCore.vf.fmt.width j else 0

theorem activeFold_id {α : Type} (l : List Nat) (x : α) : l.foldl (fun x _ => id x) x = x := by
  induction l with
  | nil => rfl
  | cons _ l ih => exact ih

theorem lanewise_drawElem (c : Core) (d : Nat) (m : BitVec 3) (rm : Rm) (v : Nat → Nat → Nat) (fl : Nat → Nat → BitVec 6) :
    lanewise c d m (drawElem rm v fl fun _ => id) =
      (c.putAcc (drawnAcc (c.active m) rm fl (fun _ => id) c.vf.fmt.lanes (c.vf.acc 0)) 0).putLanes c.vf.fmt d
        (drawnCodes (c.active m) rm v c.vf.fmt.lanes c.vf.lfsr) := by
  simp only [lanewise, laneIdx, laneRun_drawElem]
  rfl

/-- An instruction whose lanes draw under a mode, lane by lane (R143, R218, R219). -/
theorem runsLanes_of {s : State} {i : Instr} {d : BitVec 6} {m : BitVec 3} (one : OneDest i d) {body : State → Core → Core} {rm : Rm}
    {v : Nat → Nat → Nat} {fl : Nat → Nat → BitVec 6} (runs : exec i s = vecIssue i s body)
    (lanes : body s s.myCore = lanewise s.myCore d.toNat m (drawElem rm v fl fun _ => id)) :
    RunsLanes s i d m (genAfter rm (actives s m s.myCore.vf.fmt.lanes) s.myCore.vf.lfsr)
      (fun j => v j (drawAfter rm (actives s m j) s.myCore.vf.lfsr)) (fun j => fl j (drawAfter rm (actives s m j) s.myCore.vf.lfsr)) := by
  intro may ports
  have ok := one.ok (wf_of_mayIssue may)
  have laid := lanes.trans (lanewise_drawElem _ _ _ _ _ _)
  refine ⟨_, runs.trans (vecIssue_eq may ports), vecLeaves_of laid ?_ (Core.vf_setVreg _ _ _) fun _ => activeFold_id _ _, fun j fits => ?_⟩
  · rw [one.regs]
    exact ((KeepsCore.refl _ _).put _ 0).putLanes _ _ (List.mem_singleton_self _) ok
  · rw [destRow_vecNext, laid, Core.dest_putLanes _ _ ok _ fits (getElem?_drawnCodes _ _ _ _ fits)]
    cases s.myCore.active m j <;> rfl

end Sys2Proof.Machine
end

section
/-! SUPPORT. The instructions that move or combine bit patterns (R219, R225, R227, R230, R237 to R239), and the obligation that they settle (O17). -/

set_option Elab.async false

namespace Sys2Proof.Machine

open Sys2Proof.Spec

/-! ## What a run over the lanes says -/

section

variable {s : State} {i : Instr} {d : BitVec 6} {m : BitVec 3} {l : BitVec 32} {v : Nat → Nat} {fl : Nat → BitVec 6}

theorem RunsLanes.lanes (r : RunsLanes s i d m l v fl) : Lanes s i d m v := fun may ports =>
  let ⟨t, runs, leaves, laid⟩ := r may ports
  ⟨t, runs, leaves.rest, leaves.masks, laid⟩

theorem RunsLanes.flags (r : RunsLanes s i d m l v fl) : SetsFlags s i (flagsOf s m s.myCore.vf.fmt.lanes fl) := fun may ports =>
  let ⟨t, runs, leaves, _⟩ := r may ports
  ⟨t, runs, leaves.vstat⟩

theorem RunsLanes.generator (r : RunsLanes s i d m l v fl) (may : MayIssue s i) (ports : PortsReady s i) :
    ∃ t, exec i s = .next t ∧ t.myCore.vf.lfsr = l :=
  let ⟨t, runs, leaves, _⟩ := r may ports
  ⟨t, runs, leaves.lfsr⟩

/-- Codes that agree in the bits that a lane keeps are the same lanes (R219). -/
theorem lanes_congr {w : Nat → Nat} (same : ∀ j, v j % writeMask s.myCore.vf.fmt = w j % writeMask s.myCore.vf.fmt) (r : Lanes s i d m v) :
    Lanes s i d m w := by
  unfold Lanes at r ⊢
  simpa only [same] using r

end

@[simp] theorem flagsOf_none (s : State) (m : BitVec 3) (n : Nat) : flagsOf s m n (fun _ => 0) = 0 := by
  simp [flagsOf]

/-! ## Bit patterns -/

section

variable {s : State} {i : Instr} {d : BitVec 6} {m : BitVec 3}

/-- An instruction that writes a bit pattern to each active lane. -/
theorem runsLanes_moves (one : OneDest i d) {body : State → Core → Core} {v : Nat → Nat} (runs : exec i s = vecIssue i s body)
    (lanes : body s s.myCore = lanewise s.myCore d.toNat m fun k acc => (v k, acc)) : RunsLanes s i d m s.myCore.vf.lfsr v fun _ => 0 := by
  have moves : (fun k acc => (v k, acc)) = drawElem .rne (fun k _ => v k) (fun _ _ => 0) fun _ => id := by
    funext k acc
    simp [drawElem, genAfter]
  exact runsLanes_of one runs (lanes.trans (congrArg _ moves))

end

/-! ## Bitwise operations and shifts -/

section

variable (s : State) (d a b : BitVec 6) (m : BitVec 3)

theorem runsLanes_vand : RunsLanes s (.vand d a b m) d m s.myCore.vf.lfsr (fun j => src s a j &&& src s b j) fun _ => 0 :=
  runsLanes_moves (oneDest_of_three (fun _ => rfl) rfl) rfl rfl

theorem runsLanes_vor : RunsLanes s (.vor d a b m) d m s.myCore.vf.lfsr (fun j => src s a j ||| src s b j) fun _ => 0 :=
  runsLanes_moves (oneDest_of_three (fun _ => rfl) rfl) rfl rfl

theorem runsLanes_vxor : RunsLanes s (.vxor d a b m) d m s.myCore.vf.lfsr (fun j => src s a j ^^^ src s b j) fun _ => 0 :=
  runsLanes_moves (oneDest_of_three (fun _ => rfl) rfl) rfl rfl

theorem runsLanes_vnot : RunsLanes s (.vnot d a m) d m s.myCore.vf.lfsr (fun j => 2 ^ s.myCore.vf.fmt.width - 1 - src s a j) fun _ => 0 :=
  runsLanes_moves (oneDest_of_two (fun _ => rfl) rfl) rfl rfl

theorem runsLanes_vshl : RunsLanes s (.vshl d a b m) d m s.myCore.vf.lfsr
    (fun j => src s a j <<< (src s b j % s.myCore.vf.fmt.width) % 2 ^ s.myCore.vf.fmt.width) fun _ => 0 :=
  runsLanes_moves (oneDest_of_three (fun _ => rfl) rfl) rfl rfl

theorem runsLanes_vshr : RunsLanes s (.vshr d a b m) d m s.myCore.vf.lfsr (fun j => src s a j >>> (src s b j % s.myCore.vf.fmt.width)) fun _ => 0 :=
  runsLanes_moves (oneDest_of_three (fun _ => rfl) rfl) rfl rfl

theorem runsLanes_vsra : RunsLanes s (.vsra d a b m) d m s.myCore.vf.lfsr
    (fun j => ofSigned s.myCore.vf.fmt.width (srcI s a j / 2 ^ (src s b j % s.myCore.vf.fmt.width))) fun _ => 0 :=
  runsLanes_moves (oneDest_of_three (fun _ => rfl) rfl) rfl rfl

/-! ## Rearrangement -/

theorem runsLanes_vsel : RunsLanes s (.vsel d a b m) d 0 s.myCore.vf.lfsr (fun j => if s.myCore.active m j then src s a j else src s b j)
    fun _ => 0 :=
  runsLanes_moves (oneDest_of_three (fun _ => rfl) rfl) rfl rfl

theorem runsLanes_vperm : RunsLanes s (.vperm d a b) d 0 s.myCore.vf.lfsr (fun j =>
    let k := s.myCore.groupElem b.toNat (max 1 (s.myCore.vf.fmt.lanes / 256)) 16 j
    if k < s.myCore.vf.fmt.lanes then src s a k else 0) fun _ => 0 :=
  runsLanes_moves (oneDest_of_three (fun _ => rfl) rfl) rfl rfl

theorem runsLanes_viota : RunsLanes s (.viota d m) d m s.myCore.vf.lfsr (fun j => s.myCore.activeBelow m j % 2 ^ s.myCore.vf.fmt.width)
    fun _ => 0 :=
  runsLanes_moves (oneDest_of_first (fun _ => rfl) rfl) rfl rfl

theorem runsLanes_vexpand : RunsLanes s (.vexpand d a m) d m s.myCore.vf.lfsr (fun j => src s a (s.myCore.activeBelow m j)) fun _ => 0 :=
  runsLanes_moves (oneDest_of_two (fun _ => rfl) rfl) rfl rfl

theorem runsLanes_vbcast (x : BitVec 5) : RunsLanes s (.vbcast d x) d 0 s.myCore.vf.lfsr
    (fun _ => fld (s.rx x) 0 s.myCore.vf.fmt.width) fun _ => 0 :=
  runsLanes_moves (oneDest_of_first (fun _ => rfl) rfl) rfl rfl

theorem runsLanes_vli (imm : BitVec 16) : RunsLanes s (.vli d imm) d 0 s.myCore.vf.lfsr
    (fun _ => if s.myCore.vf.fmt = .fp32 then imm.toNat * 2 ^ 16 else ofSigned s.myCore.vf.fmt.width imm.toInt) fun _ => 0 :=
  runsLanes_moves (oneDest_of_first (fun _ => rfl) rfl) rfl rfl

theorem Core.putAcc_acc (c : Core) : c.putAcc (c.vf.acc 0) 0 = c := by
  have am : c.vf.am.set (Fin.ofNat 16 0) c.vf.am[Fin.ofNat 16 0] = c.vf.am := Vector.set_getElem_self _
  have flags : c.vf.vstat ||| 0 = c.vf.vstat := BitVec.or_zero
  simp only [Core.putAcc, VectorFile.put, VectorFile.acc, flags, am]

/-- A run over all lanes that moves bit patterns lays them out. -/
theorem lanewise_all_moves (c : Core) (d : Nat) (v : Nat → Nat) :
    (lanewise c d 0 fun k acc => (v k, acc)) = c.putLanes c.vf.fmt d ((List.range c.vf.fmt.lanes).map fun j => some (v j)) := by
  have run : ∀ l a, laneRun (c.active 0) (fun k acc => (v k, acc)) l a = (l.map fun j => some (v j), a) := fun l a => by
    induction l with
    | nil => rfl
    | cons j l ih =>
      rw [laneRun, if_pos (show c.active 0 j = true from rfl)]
      simp only [ih, List.map_cons]
  simp only [lanewise, laneIdx, run]
  exact congrArg (Core.putLanes · _ _ _) c.putAcc_acc

theorem runsLanes_vcompress : RunsLanes s (.vcompress d a m) d 0 s.myCore.vf.lfsr
    (fun j => ((s.myCore.activeLanes a m)[j]?).getD 0) fun _ => 0 := by
  refine runsLanes_moves (oneDest_of_two (fun _ => rfl) rfl) (show _ = vecIssue _ s _ from rfl) ?_
  rw [lanewise_all_moves]
  have few : (s.myCore.activeLanes a m).length ≤ s.myCore.vf.fmt.lanes := by
    rw [Core.activeLanes, List.length_map]
    exact (List.length_filter_le _ _).trans (List.length_range).le
  refine congrArg (Core.putLanes s.myCore _ _) ?_
  rw [← Function.comp_def some, ← List.map_map]
  refine congrArg (List.map some) (List.ext_getElem? fun j => ?_)
  rw [List.getElem?_append, List.getElem?_map, List.getElem?_replicate]
  by_cases fits : j < s.myCore.vf.fmt.lanes
  · rw [List.getElem?_range fits]
    by_cases held : j < (s.myCore.activeLanes a m).length
    · simp [held]
    · simp [held]
      omega
  · have past : ¬j < (s.myCore.activeLanes a m).length := by omega
    simp [past, fits]
    omega

end

end Sys2Proof.Machine

open Sys2Proof Sys2Proof.Machine Sys2Proof.Spec

/-- R227: the bits of each lane. -/
theorem vectorBitsAndShifts : Spec.VectorBitsAndShifts := by
  intro s d a b m
  refine ⟨(runsLanes_vand s d a b m).lanes, (runsLanes_vor s d a b m).lanes, (runsLanes_vxor s d a b m).lanes,
    (runsLanes_vnot s d a m).lanes, lanes_congr (fun j => ?_) (runsLanes_vshl s d a b m).lanes,
    lanes_congr (fun j => ?_) (runsLanes_vshr s d a b m).lanes, (runsLanes_vsra s d a b m).lanes⟩
  · rw [mod_width_mod_writeMask, Nat.shiftLeft_eq]
  · rw [Nat.shiftRight_eq_div_pow]

/-- R225, R230, R237 to R239: where each lane of the result comes from. -/
theorem vectorRearrangement : Spec.VectorRearrangement := fun s d a b m xa imm =>
  ⟨(runsLanes_vsel s d a b m).lanes, (runsLanes_vperm s d a b).lanes, (runsLanes_viota s d m).lanes, (runsLanes_vexpand s d a m).lanes,
    (runsLanes_vcompress s d a m).lanes, (runsLanes_vbcast s d xa).lanes, (runsLanes_vli s d imm).lanes⟩

/-- Settles O17: each of these writes a bit pattern to each active lane (`runsLanes_moves`), and nothing else changes. -/
theorem vectorBitsAndLanes : Obligations.VectorBitsAndLanes := ⟨vectorBitsAndShifts, vectorRearrangement⟩
end

section
/-! SUPPORT. Element arithmetic (R226, R228): the integer forms, which fit the exact result, and the floating forms, which round it once or choose a
value exactly; what each adds to VSTAT (R149). -/

set_option Elab.async false

namespace Sys2Proof.Machine

open Sys2Proof.Spec

/-! ## Fitted lanes -/

/-- Each active lane j gets the integer n j fitted, and SA where it saturates (R226). -/
def FitsLanes (s : State) (i : Instr) (d : BitVec 6) (m : BitVec 3) (n : Nat → Int) : Prop :=
  RunsLanes s i d m s.myCore.vf.lfsr (fun j => fitted s (n j)) fun j => saOf s (n j)

section

variable {s : State} {i : Instr} {d a b : BitVec 6} {m : BitVec 3}

theorem fitsLanes_of (one : OneDest i d) {body : State → Core → Core} {n : Nat → Int} (runs : exec i s = vecIssue i s body)
    (lanes : body s s.myCore = lanewise s.myCore d.toNat m fun k acc => acc.fit s.myCore.vf.fmt.width s.myCore.vf.sat (n k)) :
    FitsLanes s i d m n := by
  have fits : (fun k acc => VAcc.fit acc s.myCore.vf.fmt.width s.myCore.vf.sat (n k)) =
      drawElem .rne (fun k _ => fitted s (n k)) (fun k _ => saOf s (n k)) fun _ => id := by
    funext k acc
    rw [VAcc.fit_eq]
    rfl
  exact runsLanes_of one runs (lanes.trans (congrArg _ fits))

variable (int : s.myCore.vf.fmt.isInt = true)

include int

theorem fitsLanes_arith {ff : Core → Nat → Nat → VAcc → Nat × VAcc} (op : Int → Int → Int) (one : OneDest i d)
    (runs : exec i s = vArith i d a b m ff (fun c => iOp2 c op) s) : FitsLanes s i d m fun j => op (srcI s a j) (srcI s b j) :=
  fitsLanes_of one runs (by simp only [int, if_true]; rfl)

theorem fitsLanes_unary {ff : Core → Nat → VAcc → Nat × VAcc} (op : Int → Int) (one : OneDest i d)
    (runs : exec i s = vUnary i d a m ff (fitI op) s) : FitsLanes s i d m fun j => op (srcI s a j) :=
  fitsLanes_of one runs (by simp only [int, if_true]; rfl)

theorem fitsLanes_fused (np nz : Bool) (one : OneDest i d) (runs : exec i s = vFused i d a b m np nz s) :
    FitsLanes s i d m fun j =>
      (if np then -(srcI s a j * srcI s b j) else srcI s a j * srcI s b j) + (if nz then -srcI s d j else srcI s d j) :=
  fitsLanes_of one runs (by simp only [int, if_true]; rfl)

end

section

variable {s : State} (d a b : BitVec 6) (m : BitVec 3)

section

variable (int : s.myCore.vf.fmt.isInt = true)

include int

theorem fitsLanes_vadd : FitsLanes s (.vadd d a b m) d m fun j => srcI s a j + srcI s b j :=
  fitsLanes_arith int (fun x y => x + y) (oneDest_of_three (fun _ => rfl) rfl) rfl

theorem fitsLanes_vsub : FitsLanes s (.vsub d a b m) d m fun j => srcI s a j - srcI s b j :=
  fitsLanes_arith int (fun x y => x - y) (oneDest_of_three (fun _ => rfl) rfl) rfl

theorem fitsLanes_vmul : FitsLanes s (.vmul d a b m) d m fun j => srcI s a j * srcI s b j :=
  fitsLanes_arith int (fun x y => x * y) (oneDest_of_three (fun _ => rfl) rfl) rfl

theorem fitsLanes_vmin : FitsLanes s (.vmin d a b m) d m fun j => min (srcI s a j) (srcI s b j) :=
  fitsLanes_arith int min (oneDest_of_three (fun _ => rfl) rfl) rfl

theorem fitsLanes_vmax : FitsLanes s (.vmax d a b m) d m fun j => max (srcI s a j) (srcI s b j) :=
  fitsLanes_arith int max (oneDest_of_three (fun _ => rfl) rfl) rfl

theorem fitsLanes_vabs : FitsLanes s (.vabs d a m) d m fun j => |srcI s a j| := by
  simp only [Int.abs_eq_natAbs]
  exact fitsLanes_unary int (fun x => (x.natAbs : Int)) (oneDest_of_two (fun _ => rfl) rfl) rfl

theorem fitsLanes_vneg : FitsLanes s (.vneg d a m) d m fun j => -srcI s a j :=
  fitsLanes_unary int (fun x => -x) (oneDest_of_two (fun _ => rfl) rfl) rfl

theorem fitsLanes_vfma : FitsLanes s (.vfma d a b m) d m fun j => srcI s a j * srcI s b j + srcI s d j :=
  fitsLanes_fused int false false (oneDest_of_fused (fun _ => rfl) rfl) rfl

theorem fitsLanes_vfms : FitsLanes s (.vfms d a b m) d m fun j => srcI s a j * srcI s b j - srcI s d j := by
  simp only [sub_eq_add_neg]
  exact fitsLanes_fused int false true (oneDest_of_fused (fun _ => rfl) rfl) rfl

theorem fitsLanes_vnfma : FitsLanes s (.vnfma d a b m) d m fun j => -(srcI s a j * srcI s b j) + srcI s d j :=
  fitsLanes_fused int true false (oneDest_of_fused (fun _ => rfl) rfl) rfl

end

/-- A code stands for 0 exactly where it is 0. -/
theorem toSigned_eq_zero_iff {w n : Nat} (lt : n < 2 ^ w) : toSigned w n = 0 ↔ n = 0 := by
  have below : (n : Int) < 2 ^ w := by exact_mod_cast lt
  unfold toSigned
  rw [Nat.mod_eq_of_lt lt]
  split
  · omega
  · next high =>
    have : n ≠ 0 := fun e => high (e ▸ Nat.two_pow_pos _)
    omega

theorem srcI_eq_zero_iff (j : Nat) : srcI s a j = 0 ↔ src s a j = 0 := toSigned_eq_zero_iff (lane_lt _ _ _)

/-- VDIV of integers: by 0 it gives -1, and DZ where the dividend is not 0 (R226). -/
theorem runsLanes_vdiv_int (int : s.myCore.vf.fmt.isInt = true) : RunsLanes s (.vdiv d a b m) d m s.myCore.vf.lfsr
    (fun j => if srcI s b j = 0 then ofSigned s.myCore.vf.fmt.width (-1) else fitted s ((srcI s a j).tdiv (srcI s b j)))
    (fun j => if srcI s b j = 0 then (if srcI s a j = 0 then 0 else 0x08) else saOf s ((srcI s a j).tdiv (srcI s b j))) := by
  refine runsLanes_of (rm := .rne) (v := fun j _ => if srcI s b j = 0 then _ else _) (fl := fun j _ => if srcI s b j = 0 then _ else _)
    (oneDest_of_three (fun _ => rfl) rfl) rfl ?_
  simp only [int, if_true]
  refine congrArg (lanewise _ _ _) (funext₂ fun k acc => ?_)
  show iDiv s.myCore (src s a k) (src s b k) acc = _
  simp only [drawElem, srcI_eq_zero_iff]
  unfold iDiv
  by_cases zero : src s b k = 0
  · by_cases none : src s a k = 0
    · simp [zero, none, genAfter]
    · simp [zero, none, genAfter, VAcc.flag, flagDZ]
  · simp only [zero, if_false]
    exact VAcc.fit_eq s acc _

/-- VMOV, of any type. -/
theorem runsLanes_vmov : RunsLanes s (.vmov d a m) d m s.myCore.vf.lfsr (src s a) fun _ => 0 :=
  runsLanes_moves (oneDest_of_two (fun _ => rfl) rfl) rfl (by simp only [ite_self]; rfl)

end

/-! ## Rounded lanes -/

/-- NV of an operation, as R149 says it: a NaN that comes from operands that are none. -/
def nvFrom (ops : List Val) (x : Val) : BitVec 6 := if x.isNan = true ∧ ∀ o ∈ ops, o.isNan = false then 0x10 else 0

theorem nvOf_eq_nvFrom (ops : List Val) (x : Val) : nvOf ops x = nvFrom ops x := by
  have none : ops.any Val.isNan = false ↔ ∀ o ∈ ops, o.isNan = false := by simp
  unfold nvOf nvFrom
  simp only [Bool.and_eq_true, Bool.not_eq_true', none]
  rfl

/-- The flags of one rounding to the format of VTYPE, and NV of the operation before it (R149). -/
def roundFlags (s : State) (m : BitVec 3) (ops : List Val) (j : Nat) (x : Val) : BitVec 6 :=
  (roundAt s s.myCore.vf.fmt m j x).2 ||| nvFrom ops x

/-- NV and DZ of an operation together with the flags of its rounding. -/
theorem flags_dz (s : State) (m : BitVec 3) (ops : List Val) (j : Nat) (x : Val) (dz : BitVec 6) :
    nvOf ops x ||| dz ||| (roundAt s s.myCore.vf.fmt m j x).2 = roundFlags s m ops j x ||| dz := by
  rw [nvOf_eq_nvFrom, roundFlags, BitVec.or_comm, BitVec.or_assoc]

/-- Each active lane j gets x j rounded once, each with a step of LFSR of its own under SR, and adds the flags fl j (R143, R226). -/
def RoundsLanes (s : State) (i : Instr) (d : BitVec 6) (m : BitVec 3) (x : Nat → Val) (fl : Nat → BitVec 6) : Prop :=
  RunsLanes s i d m (stepped s (actives s m s.myCore.vf.fmt.lanes)) (fun j => (roundAt s s.myCore.vf.fmt m j (x j)).1) fl

section

variable {s : State} {i : Instr} {d a b : BitVec 6} {m : BitVec 3}

theorem RoundsLanes.reflag {x : Nat → Val} {fl fl' : Nat → BitVec 6} (r : RoundsLanes s i d m x fl) (same : ∀ j, fl j = fl' j) :
    RoundsLanes s i d m x fl' := (funext same : fl = fl') ▸ r

theorem roundsLanes_of (one : OneDest i d) {body : State → Core → Core} {fl : Nat → BitVec 6} {x : Nat → Val}
    (runs : exec i s = vecIssue i s body)
    (lanes : body s s.myCore = lanewise s.myCore d.toNat m fun k acc =>
      (acc.flag (fl k)).round s.myCore.vf.fmt s.myCore.vf.rm s.myCore.vf.sat (x k)) :
    RoundsLanes s i d m x fun j => fl j ||| (roundAt s s.myCore.vf.fmt m j (x j)).2 := by
  have rounds : (fun k acc => (VAcc.flag acc (fl k)).round s.myCore.vf.fmt s.myCore.vf.rm s.myCore.vf.sat (x k)) =
      drawElem s.myCore.vf.rm (fun k u => (s.myCore.vf.fmt.round s.myCore.vf.rm s.myCore.vf.sat u (x k)).1)
        (fun k u => fl k ||| (s.myCore.vf.fmt.round s.myCore.vf.rm s.myCore.vf.sat u (x k)).2) fun _ => id := by
    funext k acc
    rw [VAcc.round_eq, VAcc.flag, BitVec.or_assoc]
    rfl
  exact runsLanes_of one runs (lanes.trans (congrArg _ rounds))

variable (flt : s.myCore.vf.fmt.isInt = false)

include flt

theorem roundsLanes_arith_dz {fi : Core → Nat → Nat → VAcc → Nat × VAcc} (op : Core → Val → Val → Val) (dz : Val → Val → BitVec 6)
    (one : OneDest i d) (runs : exec i s = vArith i d a b m (fun c => fOp2 c (op c) dz) fi s) :
    let x (j : Nat) : Val := op s.myCore (srcF s a j) (srcF s b j)
    RoundsLanes s i d m x fun j => roundFlags s m [srcF s a j, srcF s b j] j (x j) ||| dz (srcF s a j) (srcF s b j) :=
  (roundsLanes_of one runs (by simp only [flt, Bool.false_eq_true, if_false]; rfl)).reflag fun _ => flags_dz _ _ _ _ _ _

theorem roundsLanes_arith {fi : Core → Nat → Nat → VAcc → Nat × VAcc} (op : Core → Val → Val → Val)
    (one : OneDest i d) (runs : exec i s = vArith i d a b m (fun c => fOp2 c (op c) noDz) fi s) :
    let x (j : Nat) : Val := op s.myCore (srcF s a j) (srcF s b j)
    RoundsLanes s i d m x fun j => roundFlags s m [srcF s a j, srcF s b j] j (x j) :=
  (roundsLanes_arith_dz flt op noDz one runs).reflag fun _ => BitVec.or_zero

theorem roundsLanes_unary_dz {fi : Core → Nat → VAcc → Nat × VAcc} (op : Val → Val) (dz : Val → BitVec 6)
    (one : OneDest i d) (runs : exec i s = vUnary i d a m (roundF op dz) fi s) :
    RoundsLanes s i d m (fun j => op (srcF s a j)) fun j => roundFlags s m [srcF s a j] j (op (srcF s a j)) ||| dz (srcF s a j) :=
  (roundsLanes_of one runs (by simp only [flt, Bool.false_eq_true, if_false]; rfl)).reflag fun _ => flags_dz _ _ _ _ _ _

theorem roundsLanes_fused (np nz : Bool) (one : OneDest i d) (runs : exec i s = vFused i d a b m np nz s) :
    let p (j : Nat) : Val := (srcF s a j).mul (srcF s b j)
    let x (j : Nat) : Val := (if np then (p j).neg else p j).sum (s.myCore.vf.rm == .rd) (if nz then (srcF s d j).neg else srcF s d j)
    RoundsLanes s i d m x fun j => roundFlags s m [srcF s a j, srcF s b j, srcF s d j] j (x j) :=
  (roundsLanes_of one runs (by simp only [flt, Bool.false_eq_true, if_false]; rfl)).reflag fun _ =>
    (BitVec.or_comm _ _).trans (congrArg _ (nvOf_eq_nvFrom _ _))

/-- An exact choice between two lanes. -/
theorem runsLanes_picks {fi : Core → Nat → Nat → VAcc → Nat × VAcc} (sel : Val → Val → Val) (one : OneDest i d)
    (runs : exec i s = vArith i d a b m (pickF sel) fi s) :
    RunsLanes s i d m s.myCore.vf.lfsr (fun j => exactCode s.myCore.vf.fmt (sel (srcF s a j) (srcF s b j))) fun _ => 0 :=
  runsLanes_moves one runs (by simp only [flt, Bool.false_eq_true, if_false]; rfl)

/-- An exact operation on one lane. -/
theorem runsLanes_exact {fi : Core → Nat → VAcc → Nat × VAcc} (op : Val → Val) (one : OneDest i d)
    (runs : exec i s = vUnary i d a m (exactF op) fi s) :
    RunsLanes s i d m s.myCore.vf.lfsr (fun j => exactCode s.myCore.vf.fmt (op (srcF s a j))) fun _ => 0 :=
  runsLanes_moves one runs (by simp only [flt, Bool.false_eq_true, if_false]; rfl)

end

section

variable {s : State} (d a b : BitVec 6) (m : BitVec 3) (flt : s.myCore.vf.fmt.isInt = false)

include flt

theorem roundsLanes_vadd :
    let x (j : Nat) : Val := (srcF s a j).sum (s.myCore.vf.rm == .rd) (srcF s b j)
    RoundsLanes s (.vadd d a b m) d m x fun j => roundFlags s m [srcF s a j, srcF s b j] j (x j) :=
  roundsLanes_arith flt (fun c => Val.sum (c.vf.rm == .rd)) (oneDest_of_three (fun _ => rfl) rfl) rfl

theorem roundsLanes_vsub :
    let x (j : Nat) : Val := (srcF s a j).sum (s.myCore.vf.rm == .rd) (srcF s b j).neg
    RoundsLanes s (.vsub d a b m) d m x fun j => roundFlags s m [srcF s a j, srcF s b j] j (x j) :=
  roundsLanes_arith flt (fun c x y => x.sum (c.vf.rm == .rd) y.neg) (oneDest_of_three (fun _ => rfl) rfl) rfl

theorem roundsLanes_vmul :
    let x (j : Nat) : Val := (srcF s a j).mul (srcF s b j)
    RoundsLanes s (.vmul d a b m) d m x fun j => roundFlags s m [srcF s a j, srcF s b j] j (x j) :=
  roundsLanes_arith flt (fun _ => Val.mul) (oneDest_of_three (fun _ => rfl) rfl) rfl

theorem roundsLanes_vdiv :
    let x (j : Nat) : Val := (srcF s a j).div (srcF s b j)
    RoundsLanes s (.vdiv d a b m) d m x fun j => roundFlags s m [srcF s a j, srcF s b j] j (x j) ||| dzOf (srcF s a j) (srcF s b j) :=
  roundsLanes_arith_dz flt (fun _ => Val.div) dzOf (oneDest_of_three (fun _ => rfl) rfl) rfl

theorem roundsLanes_vrcp :
    let x (j : Nat) : Val := (Val.fin false 1 0 false).div (srcF s a j)
    RoundsLanes s (.vrcp d a m) d m x fun j => roundFlags s m [srcF s a j] j (x j) ||| dzZero (srcF s a j) :=
  roundsLanes_unary_dz flt (fun x => (Val.fin false 1 0 false).div x) dzZero (oneDest_of_two (fun _ => rfl) rfl) rfl

theorem roundsLanes_vrsq :
    let x (j : Nat) : Val := (srcF s a j).rsqrt
    RoundsLanes s (.vrsq d a m) d m x fun j => roundFlags s m [srcF s a j] j (x j) ||| dzZero (srcF s a j) :=
  roundsLanes_unary_dz flt Val.rsqrt dzZero (oneDest_of_two (fun _ => rfl) rfl) rfl

theorem roundsLanes_vsqrt :
    let x (j : Nat) : Val := (srcF s a j).sqrt
    RoundsLanes s (.vsqrt d a m) d m x fun j => roundFlags s m [srcF s a j] j (x j) :=
  (roundsLanes_unary_dz flt Val.sqrt (fun _ => 0) (oneDest_of_two (fun _ => rfl) rfl) rfl).reflag fun _ => BitVec.or_zero

theorem roundsLanes_vfma :
    let x (j : Nat) : Val := ((srcF s a j).mul (srcF s b j)).sum (s.myCore.vf.rm == .rd) (srcF s d j)
    RoundsLanes s (.vfma d a b m) d m x fun j => roundFlags s m [srcF s a j, srcF s b j, srcF s d j] j (x j) :=
  roundsLanes_fused flt false false (oneDest_of_fused (fun _ => rfl) rfl) rfl

theorem roundsLanes_vfms :
    let x (j : Nat) : Val := ((srcF s a j).mul (srcF s b j)).sum (s.myCore.vf.rm == .rd) (srcF s d j).neg
    RoundsLanes s (.vfms d a b m) d m x fun j => roundFlags s m [srcF s a j, srcF s b j, srcF s d j] j (x j) :=
  roundsLanes_fused flt false true (oneDest_of_fused (fun _ => rfl) rfl) rfl

theorem roundsLanes_vnfma :
    let x (j : Nat) : Val := ((srcF s a j).mul (srcF s b j)).neg.sum (s.myCore.vf.rm == .rd) (srcF s d j)
    RoundsLanes s (.vnfma d a b m) d m x fun j => roundFlags s m [srcF s a j, srcF s b j, srcF s d j] j (x j) :=
  roundsLanes_fused flt true false (oneDest_of_fused (fun _ => rfl) rfl) rfl

theorem runsLanes_vmin_float : RunsLanes s (.vmin d a b m) d m s.myCore.vf.lfsr
    (fun j => exactCode s.myCore.vf.fmt (minVal (srcF s a j) (srcF s b j))) fun _ => 0 :=
  runsLanes_picks flt minVal (oneDest_of_three (fun _ => rfl) rfl) rfl

theorem runsLanes_vmax_float : RunsLanes s (.vmax d a b m) d m s.myCore.vf.lfsr
    (fun j => exactCode s.myCore.vf.fmt (maxVal (srcF s a j) (srcF s b j))) fun _ => 0 :=
  runsLanes_picks flt maxVal (oneDest_of_three (fun _ => rfl) rfl) rfl

theorem runsLanes_vabs_float : RunsLanes s (.vabs d a m) d m s.myCore.vf.lfsr (fun j => exactCode s.myCore.vf.fmt (srcF s a j).abs)
    fun _ => 0 :=
  runsLanes_exact flt Val.abs (oneDest_of_two (fun _ => rfl) rfl) rfl

theorem runsLanes_vneg_float : RunsLanes s (.vneg d a m) d m s.myCore.vf.lfsr (fun j => exactCode s.myCore.vf.fmt (srcF s a j).neg)
    fun _ => 0 :=
  runsLanes_exact flt Val.neg (oneDest_of_two (fun _ => rfl) rfl) rfl

end

/-! ## Roundings that draw nothing, and roundings under SR -/

section

variable {s : State} {i : Instr} {d : BitVec 6} {m : BitVec 3} {x : Nat → Val} {fl : Nat → BitVec 6}

theorem RoundsLanes.rounded (r : RoundsLanes s i d m x fl) (mode : s.myCore.vf.rm ≠ .sr) : Lanes s i d m fun j => rounded s (x j) := by
  have none : ∀ j, (roundAt s s.myCore.vf.fmt m j (x j)).1 = Spec.rounded s (x j) := fun j => by
    rw [roundAt, drawn, if_neg mode, Spec.rounded]
  exact lanes_congr (fun j => by rw [none]) r.lanes

theorem RoundsLanes.roundedSr (r : RoundsLanes s i d m x fl) (mode : s.myCore.vf.rm = .sr) :
    Lanes s i d m (fun j => roundedSr s m j (x j)) ∧ (MayIssue s i → PortsReady s i → ∃ t, exec i s = .next t ∧
      t.myCore.vf.lfsr = lfsrStep^[actives s m s.myCore.vf.fmt.lanes] s.myCore.vf.lfsr) := by
  have step : ∀ j, (roundAt s s.myCore.vf.fmt m j (x j)).1 = Spec.roundedSr s m j (x j) := fun j => by
    rw [roundAt, drawn, if_pos mode, mode, Spec.roundedSr]
  refine ⟨lanes_congr (fun j => by rw [step]) r.lanes, fun may ports => ?_⟩
  obtain ⟨t, runs, lfsr⟩ := r.generator may ports
  exact ⟨t, runs, lfsr.trans (if_pos mode)⟩

end

end Sys2Proof.Machine

open Sys2Proof Sys2Proof.Machine Sys2Proof.Spec

/-- R226: each integer operation fits its exact result. -/
theorem vectorIntegerArithmetic : Spec.VectorIntegerArithmetic := fun _ d a b m int =>
  ⟨(fitsLanes_vadd d a b m int).lanes, (fitsLanes_vsub d a b m int).lanes, (fitsLanes_vmul d a b m int).lanes,
    (runsLanes_vdiv_int d a b m int).lanes, (fitsLanes_vmin d a b m int).lanes, (fitsLanes_vmax d a b m int).lanes,
    (fitsLanes_vabs d a m int).lanes, (fitsLanes_vneg d a m int).lanes, (fitsLanes_vfma d a b m int).lanes,
    (fitsLanes_vfms d a b m int).lanes, (fitsLanes_vnfma d a b m int).lanes, (runsLanes_vmov d a m).lanes⟩

/-- R226, R228: each floating operation rounds its exact result once, or chooses a value exactly. -/
theorem vectorFloatArithmetic : Spec.VectorFloatArithmetic := by
  rintro s d a b m ⟨flt, mode⟩
  exact ⟨(roundsLanes_vadd d a b m flt).rounded mode, (roundsLanes_vsub d a b m flt).rounded mode,
    (roundsLanes_vmul d a b m flt).rounded mode, (roundsLanes_vdiv d a b m flt).rounded mode, (runsLanes_vmin_float d a b m flt).lanes,
    (runsLanes_vmax_float d a b m flt).lanes, (runsLanes_vabs_float d a m flt).lanes, (runsLanes_vneg_float d a m flt).lanes,
    (roundsLanes_vrcp d a m flt).rounded mode, (roundsLanes_vrsq d a m flt).rounded mode, (roundsLanes_vsqrt d a m flt).rounded mode,
    (runsLanes_vmov d a m).lanes, (roundsLanes_vfma d a b m flt).rounded mode, (roundsLanes_vfms d a b m flt).rounded mode,
    (roundsLanes_vnfma d a b m flt).rounded mode⟩

/-- R143, R144, R226: under SR each active lane rounds with the bits of its own step of LFSR. -/
theorem vectorStochasticRounding : Spec.VectorStochasticRounding := by
  intro s d a b m flt mode
  have up : (s.myCore.vf.rm == .rd) = false := by rw [mode]; rfl
  have vadd := roundsLanes_vadd d a b m flt
  have vsub := roundsLanes_vsub d a b m flt
  have vfma := roundsLanes_vfma d a b m flt
  have vfms := roundsLanes_vfms d a b m flt
  have vnfma := roundsLanes_vnfma d a b m flt
  rw [up] at vadd vsub vfma vfms vnfma
  exact ⟨vadd.roundedSr mode, vsub.roundedSr mode, (roundsLanes_vmul d a b m flt).roundedSr mode, (roundsLanes_vdiv d a b m flt).roundedSr mode,
    (roundsLanes_vrcp d a m flt).roundedSr mode, (roundsLanes_vrsq d a m flt).roundedSr mode, (roundsLanes_vsqrt d a m flt).roundedSr mode,
    vfma.roundedSr mode, vfms.roundedSr mode, vnfma.roundedSr mode⟩
end

section
/-! SUPPORT. Reductions and scans (R235, R236), and the obligations on floating and on integer types (O19, O20). -/

set_option Elab.async false

namespace Sys2Proof.Machine

open Sys2Proof.Spec

/-! ## Reductions -/

/-- Wherever the form may issue with its ports ready, it completes with v in lane 0 of d and 0 in every other lane. -/
def RunsReduced (s : State) (i : Instr) (d : BitVec 6) (l : BitVec 32) (fl : BitVec 6) (v : Nat) : Prop :=
  MayIssue s i → PortsReady s i → ∃ t, exec i s = .next t ∧ VecLeaves s i l fl t ∧
    destRow t d.toNat = BitVec.ofNat 4096 (v % writeMask s.myCore.vf.fmt)

/-- The lanes of a source that are active, in ascending order. -/
def activeOf (s : State) (m : BitVec 3) : List Nat := (List.range s.myCore.vf.fmt.lanes).filter fun j => s.myCore.active m j

section

variable {s : State} {i : Instr} {d a : BitVec 6} {m : BitVec 3}

theorem RunsReduced.flags {l : BitVec 32} {fl : BitVec 6} {v : Nat} (r : RunsReduced s i d l fl v) : SetsFlags s i fl := fun may ports =>
  let ⟨t, runs, leaves, _⟩ := r may ports
  ⟨t, runs, leaves.vstat⟩

theorem runsReduced_of (one : OneDest i d) {body : State → Core → Core} {l : BitVec 32} {fl : BitVec 6} {v : Nat}
    (runs : exec i s = vecIssue i s body)
    (made : body s s.myCore = (s.myCore.putAcc ⟨l, fl, s.myCore.vf.am[Fin.ofNat 16 0]⟩ 0).putReduced d.toNat v) : RunsReduced s i d l fl v := by
  intro may ports
  have ok := one.ok (wf_of_mayIssue may)
  refine ⟨_, runs.trans (vecIssue_eq may ports), vecLeaves_of made ?_ (Core.vf_setVreg _ _ _) fun _ => rfl, ?_⟩
  · rw [one.regs]
    exact ((KeepsCore.refl _ _).put _ 0).setVreg _ (List.mem_singleton_self _) ok
  · rw [destRow_vecNext, made]
    exact Core.dest_setVreg _ _ _

/-- A reduction that only chooses a value. -/
theorem runsReduced_picks (one : OneDest i d) {body : State → Core → Core} {v : Nat} (runs : exec i s = vecIssue i s body)
    (made : body s s.myCore = s.myCore.putReduced d.toNat v) : RunsReduced s i d s.myCore.vf.lfsr 0 v :=
  runsReduced_of one runs (made.trans (congrArg (Core.putReduced · _ _) s.myCore.putAcc_acc.symm))

/-- The choice of vPick (R235): among the elements of a list, or e where it is empty. -/
def pickFrom {α : Type} (op : α → α → α) (e : α) : List α → α
  | [] => e
  | h :: r => r.foldl op h

theorem activeLanes_map {α : Type} (s : State) (a : BitVec 6) (m : BitVec 3) (f : Nat → α) :
    (s.myCore.activeLanes a m).map f = (activeOf s m).map fun j => f (src s a j) := List.map_map

end

theorem VectorFile.acc_flag (f : VectorFile) (n : Nat) (fl : BitVec 6) : (f.acc n).flag fl = ⟨f.lfsr, fl, f.am[Fin.ofNat 16 n]⟩ :=
  congrArg (VAcc.mk _ · _) BitVec.zero_or

theorem width_pos (f : Fmt) : 0 < f.width := by cases f <;> decide

/-! ## Integer reductions -/

section

theorem toSigned_bounds {w : Nat} (pos : 0 < w) (n : Nat) : -(2 ^ (w - 1)) ≤ toSigned w n ∧ toSigned w n ≤ 2 ^ (w - 1) - 1 := by
  have lt : ((n % 2 ^ w : Nat) : Int) < 2 ^ w := by exact_mod_cast Nat.mod_lt n (Nat.two_pow_pos w)
  have double : (2 : Int) ^ w = 2 * 2 ^ (w - 1) := by rw [← Int.pow_succ', Nat.sub_add_cancel pos]
  have half : ((2 ^ (w - 1) : Nat) : Int) = 2 ^ (w - 1) := by push_cast; rfl
  unfold toSigned
  split
  · omega
  · omega

/-- A fold from a value that no choice prefers. -/
theorem pickFrom_eq_foldl {op : Int → Int → Int} {e : Int} {l : List Int} (bound : ∀ x ∈ l, op e x = x) : pickFrom op e l = l.foldl op e := by
  cases l with
  | nil => rfl
  | cons h r => rw [List.foldl_cons, bound h (List.mem_cons_self ..), pickFrom]

theorem writeMask_int {f : Fmt} (int : f.isInt = true) : writeMask f = 2 ^ f.width :=
  if_neg fun e => absurd (e ▸ int) (by decide)

variable {s : State} (d a : BitVec 6) (m : BitVec 3) (int : s.myCore.vf.fmt.isInt = true)

include int

theorem runsReduced_vrsum_int : let n := ((activeOf s m).map (srcI s a)).sum
    RunsReduced s (.vrsum d a m) d s.myCore.vf.lfsr (saOf s n) (fitted s n) := by
  refine runsReduced_of (oneDest_of_two (fun _ => rfl) rfl) rfl ?_
  simp only [int, if_true, activeLanes_map, VAcc.fit_eq, VectorFile.acc_flag]
  rfl

theorem runsReduced_vramax_int : let n : Nat := (((activeOf s m).map (srcI s a)).map Int.natAbs).foldl max 0
    RunsReduced s (.vramax d a m) d s.myCore.vf.lfsr (saOf s n) (fitted s n) := by
  refine runsReduced_of (oneDest_of_two (fun _ => rfl) rfl) rfl ?_
  simp only [int, if_true, activeLanes_map, VAcc.fit_eq, VectorFile.acc_flag, List.map_map]
  rfl

theorem runsReduced_vPick_int {i : Instr} (sel : Val → Val → Val) (e : Fmt → Val) (op : Int → Int → Int) (least : Nat → Int)
    (one : OneDest i d) (runs : exec i s = vPick i d a m sel e op least s) : RunsReduced s i d s.myCore.vf.lfsr 0
      (ofSigned s.myCore.vf.fmt.width (pickFrom op (least s.myCore.vf.fmt.width) ((activeOf s m).map (srcI s a)))) := by
  refine runsReduced_picks one runs ?_
  simp only [int, if_true, activeLanes_map]
  rw [show (activeOf s m).map (fun j => toSigned s.myCore.vf.fmt.width (src s a j)) = (activeOf s m).map (srcI s a) from rfl]
  cases (activeOf s m).map (srcI s a) with
  | nil => rfl
  | cons h r => rfl

theorem runsReduced_vrmax_int : RunsReduced s (.vrmax d a m) d s.myCore.vf.lfsr 0
    (ofSigned s.myCore.vf.fmt.width (((activeOf s m).map (srcI s a)).foldl max (-(2 ^ (s.myCore.vf.fmt.width - 1))))) := by
  rw [← pickFrom_eq_foldl fun x mem => ?_]
  · exact runsReduced_vPick_int d a m int maxVal leastVal max (fun w => -(2 ^ (w - 1))) (oneDest_of_two (fun _ => rfl) rfl) rfl
  · obtain ⟨j, -, rfl⟩ := List.mem_map.mp mem
    exact max_eq_right (toSigned_bounds (width_pos _) _).1

theorem runsReduced_vrmin_int : RunsReduced s (.vrmin d a m) d s.myCore.vf.lfsr 0
    (ofSigned s.myCore.vf.fmt.width (((activeOf s m).map (srcI s a)).foldl min (2 ^ (s.myCore.vf.fmt.width - 1) - 1))) := by
  rw [← pickFrom_eq_foldl fun x mem => ?_]
  · exact runsReduced_vPick_int d a m int minVal (fun t => (leastVal t).neg) min (fun w => 2 ^ (w - 1) - 1) (oneDest_of_two (fun _ => rfl) rfl) rfl
  · obtain ⟨j, -, rfl⟩ := List.mem_map.mp mem
    exact min_eq_right (toSigned_bounds (width_pos _) _).2

end

/-! ## Floating reductions -/

section

theorem VAcc.flag_flag (acc : VAcc) (x y : BitVec 6) : (acc.flag x).flag y = acc.flag (x ||| y) := congrArg (VAcc.mk _ · _) (BitVec.or_assoc _ _ _)

theorem VAcc.flag_none (acc : VAcc) : acc.flag 0 = acc := congrArg (VAcc.mk _ · _) BitVec.or_zero

/-- One level of the tree of R235: its sums, and the flags of its additions. -/
theorem treeLevel_addF (l : List Nat) (acc : VAcc) :
    treeLevel (fun x y acc => acc.addF x y) l acc = (pairs l, acc.flag (levelFlags l)) := by
  match l with
  | [] => exact congrArg _ acc.flag_none.symm
  | [x] => exact congrArg _ acc.flag_none.symm
  | x :: y :: l =>
    show ((fp32Add x y).1 :: (treeLevel _ l (acc.flag (fp32Add x y).2)).1, (treeLevel _ l (acc.flag (fp32Add x y).2)).2) = _
    rw [treeLevel_addF l, VAcc.flag_flag]
    rfl

theorem treeSum_addF (k : Nat) (l : List Nat) (acc : VAcc) :
    treeSum (fun x y acc => acc.addF x y) k l acc = (pairs^[k] l, acc.flag (treeFlags k l)) := by
  induction k generalizing l acc with
  | zero => exact congrArg _ acc.flag_none.symm
  | succ k ih => simp only [treeSum, treeLevel_addF, ih, Function.iterate_succ_apply, treeFlags, VAcc.flag_flag]

variable {s : State} (d a : BitVec 6) (m : BitVec 3) (flt : s.myCore.vf.fmt.isInt = false)

/-- The leaves of R235's tree: the lanes widened to FP32, -0 for an inactive one. -/
def treeLeaves (s : State) (a : BitVec 6) (m : BitVec 3) : List Nat :=
  (List.range s.myCore.vf.fmt.lanes).map fun j => if s.myCore.active m j then toFp32 s.myCore.vf.fmt (src s a j) else 0x80000000

include flt

theorem runsReduced_vrsum_float :
    let r := roundAt s s.myCore.vf.fmt m 0 (Fmt.fp32.decode ((pairs^[12] (treeLeaves s a m)).headD 0x80000000))
    RunsReduced s (.vrsum d a m) d (stepped s 1) (treeFlags 12 (treeLeaves s a m) ||| r.2) r.1 := by
  refine runsReduced_of (oneDest_of_two (fun _ => rfl) rfl) rfl ?_
  simp only [flt, Bool.false_eq_true, if_false, treeSum_addF, VAcc.round_eq, VectorFile.acc_flag]
  rfl

theorem runsReduced_vPick_float {i : Instr} (sel : Val → Val → Val) (e : Fmt → Val) (op : Int → Int → Int) (least : Nat → Int)
    (one : OneDest i d) (runs : exec i s = vPick i d a m sel e op least s) : RunsReduced s i d s.myCore.vf.lfsr 0
      (exactCode s.myCore.vf.fmt (pickFrom sel (e s.myCore.vf.fmt) ((activeOf s m).map (srcF s a)))) := by
  refine runsReduced_picks one runs ?_
  simp only [flt, Bool.false_eq_true, if_false, activeLanes_map]
  rw [show (activeOf s m).map (fun j => s.myCore.vf.fmt.decode (src s a j)) = (activeOf s m).map (srcF s a) from rfl]
  cases (activeOf s m).map (srcF s a) with
  | nil => rfl
  | cons h r => rfl

theorem runsReduced_vrmax_float : RunsReduced s (.vrmax d a m) d s.myCore.vf.lfsr 0
    (exactCode s.myCore.vf.fmt (pickFrom maxVal (leastVal s.myCore.vf.fmt) ((activeOf s m).map (srcF s a)))) :=
  runsReduced_vPick_float d a m flt maxVal leastVal max (fun w => -(2 ^ (w - 1))) (oneDest_of_two (fun _ => rfl) rfl) rfl

theorem runsReduced_vrmin_float : RunsReduced s (.vrmin d a m) d s.myCore.vf.lfsr 0
    (exactCode s.myCore.vf.fmt (pickFrom minVal (leastVal s.myCore.vf.fmt).neg ((activeOf s m).map (srcF s a)))) :=
  runsReduced_vPick_float d a m flt minVal (fun t => (leastVal t).neg) min (fun w => 2 ^ (w - 1) - 1) (oneDest_of_two (fun _ => rfl) rfl) rfl

theorem runsReduced_vramax_float : RunsReduced s (.vramax d a m) d s.myCore.vf.lfsr 0 (exactCode s.myCore.vf.fmt
    (((activeOf s m).map fun j => (srcF s a j).abs).foldl maxVal (.fin false 0 0 false))) := by
  refine runsReduced_picks (oneDest_of_two (fun _ => rfl) rfl) rfl ?_
  simp only [flt, Bool.false_eq_true, if_false, activeLanes_map]
  rfl

end

/-! ## Scans -/

section

variable {s : State} (d a : BitVec 6) (m : BitVec 3)

/-- The sum of the active lanes below k. -/
def intBefore (s : State) (a : BitVec 6) (m : BitVec 3) (k : Nat) : Int :=
  (((List.range k).filter fun j => s.myCore.active m j).map (srcI s a)).sum

theorem intBefore_succ (k : Nat) :
    intBefore s a m (k + 1) = if s.myCore.active m k then intBefore s a m k + srcI s a k else intBefore s a m k := by
  unfold intBefore
  rw [List.range_succ, List.filter_append, List.map_append, List.sum_append]
  cases on : s.myCore.active m k <;> simp [on]

/-- The FP32 sum of the active lanes below k, from lane 0 up (R236). -/
def floatBefore (s : State) (a : BitVec 6) (m : BitVec 3) (k : Nat) : Nat :=
  ((List.range k).filter fun j => s.myCore.active m j).foldl (fun x j => (fp32Add x (toFp32 s.myCore.vf.fmt (src s a j))).1) 0x80000000

theorem floatBefore_succ (k : Nat) : floatBefore s a m (k + 1) = if s.myCore.active m k then
    (fp32Add (floatBefore s a m k) (toFp32 s.myCore.vf.fmt (src s a k))).1 else floatBefore s a m k := foldl_active_succ _ _ _ _

theorem scanRun_int (int : s.myCore.vf.fmt.isInt = true) (n k sf : Nat) (acc : VAcc) :
    scanRun s.myCore a m (List.range' k n) sf (intBefore s a m k) acc = laneRun (s.myCore.active m)
      (fun j acc => acc.fit s.myCore.vf.fmt.width s.myCore.vf.sat (intBefore s a m (j + 1))) (List.range' k n) acc := by
  induction n generalizing k acc with
  | zero => rfl
  | succ n ih =>
    have next := ih (k + 1)
    rw [intBefore_succ] at next
    rw [List.range'_succ, scanRun, laneRun, intBefore_succ]
    cases on : s.myCore.active m k with
    | false =>
      simp only [on, Bool.false_eq_true, if_false] at next ⊢
      simp only [next]
    | true =>
      simp only [on, if_true] at next ⊢
      simp only [int, if_true]
      rw [show toSigned s.myCore.vf.fmt.width (s.myCore.laneOf a k) = srcI s a k from rfl]
      simp only [next]

theorem scanRun_float (flt : s.myCore.vf.fmt.isInt = false) (n k : Nat) (si : Int) (acc : VAcc) :
    scanRun s.myCore a m (List.range' k n) (floatBefore s a m k) si acc = laneRun (s.myCore.active m)
      (fun j acc => (acc.flag (fp32Add (floatBefore s a m j) (toFp32 s.myCore.vf.fmt (src s a j))).2).round s.myCore.vf.fmt s.myCore.vf.rm
        s.myCore.vf.sat (Fmt.fp32.decode (floatBefore s a m (j + 1)))) (List.range' k n) acc := by
  induction n generalizing k acc with
  | zero => rfl
  | succ n ih =>
    have next := ih (k + 1)
    rw [floatBefore_succ] at next
    rw [List.range'_succ, scanRun, laneRun, floatBefore_succ]
    cases on : s.myCore.active m k with
    | false =>
      simp only [on, Bool.false_eq_true, if_false] at next ⊢
      simp only [next]
    | true =>
      simp only [on, if_true] at next ⊢
      simp only [flt, Bool.false_eq_true, if_false, VAcc.addF]
      rw [show s.myCore.laneOf a k = src s a k from rfl]
      simp only [next]

theorem fitsLanes_vscan (int : s.myCore.vf.fmt.isInt = true) : FitsLanes s (.vscan d a m) d m fun j => intBefore s a m (j + 1) := by
  refine fitsLanes_of (oneDest_of_two (fun _ => rfl) rfl) rfl ?_
  have run := scanRun_int a m int s.myCore.vf.fmt.lanes 0 negZero (s.myCore.vf.acc 0)
  rw [← List.range_eq_range'] at run
  simp only [lanewise, laneIdx, ← run]
  rfl

theorem roundsLanes_vscan (flt : s.myCore.vf.fmt.isInt = false) :
    let z (j : Nat) := fp32Add (floatBefore s a m j) (toFp32 s.myCore.vf.fmt (src s a j))
    RoundsLanes s (.vscan d a m) d m (fun j => Fmt.fp32.decode (floatBefore s a m (j + 1)))
      fun j => (z j).2 ||| (roundAt s s.myCore.vf.fmt m j (Fmt.fp32.decode (floatBefore s a m (j + 1)))).2 := by
  refine roundsLanes_of (oneDest_of_two (fun _ => rfl) rfl) rfl ?_
  have run := scanRun_float a m flt s.myCore.vf.fmt.lanes 0 0 (s.myCore.vf.acc 0)
  rw [← List.range_eq_range'] at run
  simp only [lanewise, laneIdx, ← run]
  rfl

end

end Sys2Proof.Machine

open Sys2Proof Sys2Proof.Machine Sys2Proof.Spec

/-- R235: the reductions of an integer type. -/
theorem vectorIntegerReductions : Spec.VectorIntegerReductions := by
  intro s d a m int
  have lane0 : ∀ {i : Instr} {fl : BitVec 6} {v : Nat}, RunsReduced s i d s.myCore.vf.lfsr fl v → MayIssue s i → PortsReady s i →
      ∃ t, exec i s = .next t ∧ VectorRest s i t ∧ t.myCore.vf.m = s.myCore.vf.m ∧
        destRow t d.toNat = BitVec.ofNat 4096 (v % 2 ^ s.myCore.vf.fmt.width) := fun reduces may ports => by
    obtain ⟨t, runs, leaves, held⟩ := reduces may ports
    exact ⟨t, runs, leaves.rest, leaves.masks, writeMask_int int ▸ held⟩
  exact ⟨lane0 (runsReduced_vrsum_int d a m int), lane0 (runsReduced_vrmax_int d a m int), lane0 (runsReduced_vrmin_int d a m int),
    lane0 (runsReduced_vramax_int d a m int)⟩

/-- R236: the scan of an integer type. -/
theorem vectorIntegerScan : Spec.VectorIntegerScan := fun _ d a m int => (fitsLanes_vscan d a m int).lanes

/-- R235, R236: the reductions and the scan of a floating type. -/
theorem vectorFloatReductions : Spec.VectorFloatReductions := by
  intro s d a m flt
  have lane0 : ∀ {i : Instr} {steps : Nat} {fl : BitVec 6} {v : Nat}, RunsReduced s i d (stepped s steps) fl v → MayIssue s i →
      PortsReady s i → ∃ t, exec i s = .next t ∧ VectorRest s i t ∧ t.myCore.vf.m = s.myCore.vf.m ∧
        t.myCore.vf.lfsr = stepped s steps ∧ destRow t d.toNat = BitVec.ofNat 4096 (v % writeMask s.myCore.vf.fmt) :=
    fun reduces may ports => by
      obtain ⟨t, runs, leaves, held⟩ := reduces may ports
      exact ⟨t, runs, leaves.rest, leaves.masks, leaves.lfsr, held⟩
  have still : stepped s 0 = s.myCore.vf.lfsr := ite_self _
  have largest := runsReduced_vrmax_float d a m flt
  have least := runsReduced_vrmin_float d a m flt
  have magnitude := runsReduced_vramax_float d a m flt
  rw [← still] at largest least magnitude
  refine ⟨lane0 (runsReduced_vrsum_float d a m flt), fun h r some => ?_, fun none => ?_, lane0 magnitude, (roundsLanes_vscan d a m flt).lanes,
    (roundsLanes_vscan d a m flt).generator⟩
  · rw [show (activeOf s m).map (srcF s a) = h :: r from some] at largest least
    exact ⟨lane0 largest, lane0 least⟩
  · rw [show activeOf s m = [] from none] at largest least
    exact ⟨lane0 largest, lane0 least⟩

/-- Settles O19: element arithmetic rounds each lane once (`roundsLanes_of`), under SR with a step of LFSR for each, and reductions and scans add in
FP32 or choose exactly. -/
theorem vectorFloats : Obligations.VectorFloats := ⟨vectorFloatArithmetic, vectorFloatReductions, vectorStochasticRounding⟩

/-- Settles O20: element arithmetic and scans fit each lane's exact integer (`fitsLanes_of`), and a reduction writes lane 0 alone. -/
theorem vectorIntegers : Obligations.VectorIntegers := ⟨vectorIntegerArithmetic, vectorIntegerReductions, vectorIntegerScan⟩
end

section
/-! SUPPORT. Conversion, widening and narrowing (R232 to R234): elements of registers and groups of registers (R221). -/

set_option Elab.async false

namespace Sys2Proof.Machine

open Sys2Proof.Spec

/-! ## Elements of a destination group -/

/-- Wherever the form may issue with its ports ready, it completes with v j in each active one of the first n elements of the group of g registers
from d on, adds fl j for each of them, and leaves the amax registers am. -/
def RunsElems (s : State) (i : Instr) (d : BitVec 6) (m : BitVec 3) (n : Nat) (dst : Fmt) (g : Nat) (l : BitVec 32) (am : Vector (BitVec 33) 16)
    (v : Nat → Nat) (fl : Nat → BitVec 6) : Prop :=
  MayIssue s i → PortsReady s i → ∃ t, exec i s = .next t ∧ VecLeaves s i l (flagsOf s m n fl) t ∧ t.myCore.vf.am = am ∧
    ∀ j, j < n → s.myCore.active m j = true → destElem t d.toNat g dst.width j = v j % writeMask dst

section

variable {s : State} {i : Instr} {d : BitVec 6} {m : BitVec 3} {n : Nat} {dst : Fmt} {g : Nat}

theorem RunsElems.flags {l : BitVec 32} {am : Vector (BitVec 33) 16} {v : Nat → Nat} {fl : Nat → BitVec 6}
    (r : RunsElems s i d m n dst g l am v fl) : SetsFlags s i (flagsOf s m n fl) := fun may ports =>
  let ⟨t, runs, leaves, _⟩ := r may ports
  ⟨t, runs, leaves.vstat⟩

/-- The destination group of the form, as its issue has checked it (R41, R221). -/
structure GroupDest (s : State) (i : Instr) (d : BitVec 6) (g : Nat) : Prop where
  regs : ∀ k, k < g → d.toNat + k ∈ (vecRegs s.myCore.vf.fmt i).2
  ok : MayIssue s i → ∀ k, k < g → DestOk (d.toNat + k)

theorem elemwise_drawElem (c : Core) (n : Nat) (dst : Fmt) (d g k : Nat) (m : BitVec 3) (rm : Rm) (v : Nat → Nat → Nat)
    (fl : Nat → Nat → BitVec 6) (am : Nat → BitVec 33 → BitVec 33) :
    elemwise c n dst d g k m (drawElem rm v fl am) =
      (c.putAcc (drawnAcc (c.active m) rm fl am n (c.vf.acc k)) k).putGroup dst d g (drawnCodes (c.active m) rm v n c.vf.lfsr) := by
  simp only [elemwise, laneRun_drawElem]
  rfl

/-- An instruction whose elements draw under a mode, element by element (R143, R221). -/
theorem runsElems_of (group : GroupDest s i d g) {body : State → Core → Core} {k : Nat} {rm : Rm} {v : Nat → Nat → Nat}
    {fl : Nat → Nat → BitVec 6} {am : Nat → BitVec 33 → BitVec 33} (runs : exec i s = vecIssue i s body)
    (elems : body s s.myCore = elemwise s.myCore n dst d.toNat g k m (drawElem rm v fl am)) (room : n ≤ dst.lanes * g)
    (keep : (∀ d a e n m, i ≠ .vnarrow d a e n m) → am = fun _ x => x) :
    RunsElems s i d m n dst g (genAfter rm (actives s m n) s.myCore.vf.lfsr)
      (s.myCore.vf.am.set (Fin.ofNat 16 k) (((List.range n).filter (s.myCore.active m)).foldl (fun x j => am j x) s.myCore.vf.am[Fin.ofNat 16 k]))
      (fun j => v j (drawAfter rm (actives s m j) s.myCore.vf.lfsr)) (fun j => fl j (drawAfter rm (actives s m j) s.myCore.vf.lfsr)) := by
  intro may ports
  have laid := elems.trans (elemwise_drawElem _ _ _ _ _ _ _ _ _ _ _)
  refine ⟨_, runs.trans (vecIssue_eq may ports), vecLeaves_of laid ?_ (Core.vf_putGroup _ _ _ _ _) fun other => ?_, ?_, fun j inside on => ?_⟩
  · exact ((KeepsCore.refl _ _).put _ k).putGroup dst _ group.regs (group.ok may)
  · rw [keep other]
    exact activeFold_id _ _
  · rw [State.vf_vecNext, laid, Core.vf_putGroup]
    rfl
  · unfold destElem
    rw [destRow_vecNext, laid]
    refine Core.elem_putGroup _ dst _ (group.ok may) (inside.trans_le room) ?_
    rw [getElem?_drawnCodes _ _ _ _ inside, if_pos on]
    rfl

/-- An amax register that no element updates is put back as it was. -/
theorem amKept (f : VectorFile) {k : Nat} {l : List Nat} :
    f.am.set (Fin.ofNat 16 k) (l.foldl (fun x _ => x) f.am[Fin.ofNat 16 k]) = f.am :=
  (congrArg (f.am.set (Fin.ofNat 16 k)) (activeFold_id l _)).trans (Vector.set_getElem_self _)

/-- The same where no element takes part in an amax register. -/
theorem runsElems_keep (group : GroupDest s i d g) {body : State → Core → Core} {rm : Rm} {f : Nat → VAcc → Nat × VAcc}
    {v : Nat → Nat → Nat} {fl : Nat → Nat → BitVec 6} (runs : exec i s = vecIssue i s body)
    (made : body s s.myCore = elemwise s.myCore n dst d.toNat g 0 m f)
    (elems : elemwise s.myCore n dst d.toNat g 0 m f = elemwise s.myCore n dst d.toNat g 0 m (drawElem rm v fl fun _ x => x))
    (room : n ≤ dst.lanes * g) :
    RunsElems s i d m n dst g (genAfter rm (actives s m n) s.myCore.vf.lfsr) s.myCore.vf.am
      (fun j => v j (drawAfter rm (actives s m j) s.myCore.vf.lfsr)) (fun j => fl j (drawAfter rm (actives s m j) s.myCore.vf.lfsr)) := by
  have run := runsElems_of group runs (made.trans elems) room fun _ => rfl
  rwa [amKept] at run

/-- An instruction that converts each active element, and may first update an amax register from it. -/
theorem runsElems_converts (group : GroupDest s i d g) {src : Fmt} {x : Nat → Nat} {body : State → Core → Core} {k : Nat}
    {am : Nat → BitVec 33 → BitVec 33} (runs : exec i s = vecIssue i s body)
    (elems : body s s.myCore = elemwise s.myCore n dst d.toNat g k m fun j acc =>
      VAcc.convert { acc with am := am j acc.am } src dst s.myCore.vf.rm s.myCore.vf.sat (x j)) (room : n ≤ dst.lanes * g)
    (keep : (∀ d a e n m, i ≠ .vnarrow d a e n m) → am = fun _ x => x) :
    RunsElems s i d m n dst g (stepped s (actives s m n))
      (s.myCore.vf.am.set (Fin.ofNat 16 k) (((List.range n).filter (s.myCore.active m)).foldl (fun x j => am j x) s.myCore.vf.am[Fin.ofNat 16 k]))
      (fun j => (convertAt s src dst m j (x j)).1) fun j => (convertAt s src dst m j (x j)).2 := by
  have converts : (fun j (acc : VAcc) => VAcc.convert { acc with am := am j acc.am } src dst s.myCore.vf.rm s.myCore.vf.sat (x j)) =
      drawElem s.myCore.vf.rm (fun j u => (convertElem src dst s.myCore.vf.rm s.myCore.vf.sat u (x j)).1)
        (fun j u => (convertElem src dst s.myCore.vf.rm s.myCore.vf.sat u (x j)).2) am := by
    funext j acc
    exact VAcc.convert_eq _ _ _ _ _ _
  exact runsElems_of group runs (elems.trans (congrArg _ converts)) room keep

end

/-! ## Groups that the issue has checked (R221) -/

theorem mem_groupRegs {first g k : Nat} (lt : k < g) : first + k ∈ groupRegs first g := List.mem_map.mpr ⟨k, List.mem_range.mpr lt, rfl⟩

theorem destOk_of_groupOk {first g : Nat} (ok : groupOk first g false = true) {k : Nat} (lt : k < g) : DestOk (first + k) := by
  simp only [groupOk, Bool.and_eq_true, Bool.or_eq_true, decide_eq_true_eq, Bool.not_false, Bool.false_eq_true, false_and, or_false,
    true_and] at ok
  obtain ⟨-, low | high⟩ := ok
  · exact .inl (by omega)
  · exact .inr (by omega)

theorem vecTypeOk_of_mayIssue {s : State} {i : Instr} (may : MayIssue s i) : vecTypeOk s.myCore.vf.fmt i = true := by
  have ok := may.1
  simp only [formOk, Bool.and_eq_true] at ok
  exact ok.1.2

theorem groupDest_single {s : State} {i : Instr} {d : BitVec 6} (regs : (vecRegs s.myCore.vf.fmt i).2 = [d.toNat])
    (ok : i.wf = true → DestOk d.toNat) : GroupDest s i d 1 where
  regs k lt := by
    rw [regs, Nat.lt_one_iff.mp lt]
    exact List.mem_singleton_self _
  ok may k lt := by
    rw [Nat.lt_one_iff.mp lt]
    exact ok (wf_of_mayIssue may)

/-- The widened type has as many lanes in g registers as the type has in one (R233). -/
theorem widened_lanes {t wide : Fmt} {g : Nat} (h : widened t = some (wide, g)) : wide.lanes * g = t.lanes := by
  cases t <;> cases h <;> rfl

/-! ## VCVT (R232) -/

/-- As many elements as the single-register side holds fill the destination group (R221). -/
theorem cvt_lanes (f t : Fmt) : min f.lanes t.lanes * max (max 1 (f.width / t.width)) (max 1 (t.width / f.width)) =
    t.lanes * max 1 (t.width / f.width) := by cases f <;> cases t <;> rfl

section

variable {s : State} (d a b : BitVec 6) (m : BitVec 3)

theorem groupDest_vcvt {f : BitVec 4} {t : Fmt} (code : Fmt.ofCode f.toNat = some t) :
    GroupDest s (.vcvt d a m f) d (max 1 (t.width / s.myCore.vf.fmt.width)) := by
  have regs : (vecRegs s.myCore.vf.fmt (.vcvt d a m f)).2 = if (groupRegs d.toNat (t.width / s.myCore.vf.fmt.width)).isEmpty then [d.toNat]
      else groupRegs d.toNat (t.width / s.myCore.vf.fmt.width) := by
    simp only [vecRegs, code, Option.map_some, Option.getD_some]
  refine ⟨fun k lt => ?_, fun may k lt => ?_⟩
  · rw [regs]
    generalize t.width / s.myCore.vf.fmt.width = g at lt
    cases g with
    | zero =>
      rw [Nat.lt_one_iff.mp lt]
      exact List.mem_singleton_self _
    | succ g =>
      rw [if_neg (by simp [groupRegs])]
      exact mem_groupRegs (by omega)
  · have first := wf_of_mayIssue may
    have typed := vecTypeOk_of_mayIssue may
    simp only [Instr.wf, Bool.and_eq_true] at first
    simp only [vecTypeOk, code, Bool.and_eq_true] at typed
    by_cases wide : t.width > s.myCore.vf.fmt.width
    · have ok := typed.2
      rw [if_pos wide, max_eq_right wide.le, min_eq_left wide.le] at ok
      exact destOk_of_groupOk ok (lt_of_lt_of_le lt (max_le (Nat.div_pos wide.le (width_pos _)) le_rfl))
    · have single : t.width / s.myCore.vf.fmt.width ≤ 1 := Nat.div_le_of_le_mul (by omega)
      rw [max_eq_left single] at lt
      rw [Nat.lt_one_iff.mp lt]
      exact destOk_of_vdstOk first.1.1

theorem runsElems_vcvt {f : BitVec 4} {t : Fmt} (code : Fmt.ofCode f.toNat = some t) :
    let gs := max 1 (s.myCore.vf.fmt.width / t.width)
    let gd := max 1 (t.width / s.myCore.vf.fmt.width)
    let n := min s.myCore.vf.fmt.lanes t.lanes * max gs gd
    let r (j : Nat) := convertAt s s.myCore.vf.fmt t m j (s.myCore.groupElem a.toNat gs s.myCore.vf.fmt.width j)
    RunsElems s (.vcvt d a m f) d m n t gd (stepped s (actives s m n)) s.myCore.vf.am (fun j => (r j).1) fun j => (r j).2 :=
  amKept (k := 0) s.myCore.vf ▸ runsElems_converts (am := fun _ x => x) (groupDest_vcvt d a m code) rfl
    (by simp only [code, Option.getD_some]) (cvt_lanes _ _).le fun _ => rfl

/-! ## VWADD, VWMUL and VNARROW (R233, R234) -/

variable {wide : Fmt} {g : Nat} (wider : widened s.myCore.vf.fmt = some (wide, g))

include wider

theorem groupDest_widens {i : Instr}
    (regs : (vecRegs s.myCore.vf.fmt i).2 = groupRegs d.toNat (((widened s.myCore.vf.fmt).map Prod.snd).getD 1))
    (typed : vecTypeOk s.myCore.vf.fmt i = match widened s.myCore.vf.fmt with | none => false | some (_, g) => groupOk d.toNat g false) :
    GroupDest s i d g := by
  rw [wider] at regs typed
  exact ⟨fun k lt => regs ▸ mem_groupRegs lt, fun may k lt => destOk_of_groupOk (typed.symm.trans (vecTypeOk_of_mayIssue may)) lt⟩

theorem runsElems_vWiden_int {i : Instr} (ff : Core → Val → Val → Val) (op : Int → Int → Int) (int : s.myCore.vf.fmt.isInt = true)
    (group : GroupDest s i d g) (runs : exec i s = vWiden i d a b m ff op s) :
    RunsElems s i d m s.myCore.vf.fmt.lanes wide g s.myCore.vf.lfsr s.myCore.vf.am
      (fun j => ofSigned wide.width (op (srcI s a j) (srcI s b j))) fun _ => 0 := by
  have moves : (fun k acc => (ofSigned wide.width (op (srcI s a k) (srcI s b k)), acc)) =
      drawElem .rne (fun k _ => ofSigned wide.width (op (srcI s a k) (srcI s b k))) (fun _ _ => 0) fun _ x => x := by
    funext k acc
    simp [drawElem, genAfter]
  refine runsElems_keep group runs ?_ (congrArg (elemwise _ _ _ _ _ _ _) moves) (widened_lanes wider).ge
  simp only [wider, Option.getD_some, int, if_true]
  rfl

theorem runsElems_vWiden_float {i : Instr} (ff : Core → Val → Val → Val) (op : Int → Int → Int) (flt : s.myCore.vf.fmt.isInt = false)
    (group : GroupDest s i d g) (runs : exec i s = vWiden i d a b m ff op s) :
    let x (j : Nat) : Val := ff s.myCore (srcF s a j) (srcF s b j)
    RunsElems s i d m s.myCore.vf.fmt.lanes wide g (stepped s (actives s m s.myCore.vf.fmt.lanes)) s.myCore.vf.am
      (fun j => (roundAt s wide m j (x j)).1) fun j => (roundAt s wide m j (x j)).2 ||| nvFrom [srcF s a j, srcF s b j] (x j) := by
  have rounds : (fun k acc => (VAcc.flag acc (nvOf [srcF s a k, srcF s b k] (ff s.myCore (srcF s a k) (srcF s b k)))).round wide
        s.myCore.vf.rm s.myCore.vf.sat (ff s.myCore (srcF s a k) (srcF s b k))) =
      drawElem s.myCore.vf.rm (fun k u => (wide.round s.myCore.vf.rm s.myCore.vf.sat u (ff s.myCore (srcF s a k) (srcF s b k))).1)
        (fun k u => (wide.round s.myCore.vf.rm s.myCore.vf.sat u (ff s.myCore (srcF s a k) (srcF s b k))).2 |||
          nvFrom [srcF s a k, srcF s b k] (ff s.myCore (srcF s a k) (srcF s b k))) fun _ x => x := by
    funext k acc
    rw [VAcc.round_eq, VAcc.flag, BitVec.or_assoc, nvOf_eq_nvFrom, BitVec.or_comm (nvFrom _ _)]
    rfl
  refine runsElems_keep group runs ?_ (congrArg (elemwise _ _ _ _ _ _ _) rounds) (widened_lanes wider).ge
  simp only [wider, Option.getD_some, flt, Bool.false_eq_true, if_false]
  rfl

theorem runsElems_vnarrow (ae : BitVec 1) (n : BitVec 4) :
    let c := s.myCore
    let r (j : Nat) := convertAt s wide c.vf.fmt m j (c.groupElem a.toNat g wide.width j)
    RunsElems s (.vnarrow d a ae n m) d m c.vf.fmt.lanes c.vf.fmt 1 (stepped s (actives s m c.vf.fmt.lanes))
      (if ae = 1 then c.vf.am.set n.toFin ((activeOf s m).foldl (fun x j => amaxUpd x (wide.decode (c.groupElem a.toNat g wide.width j)))
        c.vf.am[n.toFin]) else c.vf.am) (fun j => (r j).1) fun j => (r j).2 := by
  have group : GroupDest s (.vnarrow d a ae n m) d 1 := groupDest_single rfl fun wf =>
    destOk_of_vdstOk (Bool.and_eq_true_iff.mp (Bool.and_eq_true_iff.mp wf).1).1
  have place : Fin.ofNat 16 n.toNat = n.toFin := Fin.ext (Nat.mod_eq_of_lt n.isLt)
  intro c r
  by_cases on : ae = 1
  · simp only [if_pos on, ← place]
    refine runsElems_converts group (k := n.toNat) (am := fun j x => amaxUpd x _) rfl ?_ (Nat.mul_one _).ge
      fun other => absurd rfl (other d a ae n m)
    simp only [wider, Option.getD_some, on, if_true]
    rfl
  · rw [if_neg on, ← amKept (k := n.toNat) s.myCore.vf]
    refine runsElems_converts group rfl ?_ (Nat.mul_one _).ge fun _ => rfl
    simp only [wider, Option.getD_some, on, if_false]
    rfl

end

theorem stepped_zero (s : State) : stepped s 0 = s.myCore.vf.lfsr := ite_self _

theorem RunsElems.elems {s : State} {i : Instr} {d : BitVec 6} {m : BitVec 3} {n : Nat} {dst : Fmt} {g steps : Nat} {am : Vector (BitVec 33) 16}
    {v : Nat → Nat} {fl : Nat → BitVec 6} (r : RunsElems s i d m n dst g (stepped s steps) am v fl) (may : MayIssue s i)
    (ports : PortsReady s i) : ∃ t, exec i s = .next t ∧ VectorRest s i t ∧ t.myCore.vf.lfsr = stepped s steps ∧
      ∀ j, j < n → s.myCore.active m j = true → destElem t d.toNat g dst.width j = v j % writeMask dst :=
  let ⟨t, runs, leaves, _, held⟩ := r may ports
  ⟨t, runs, leaves.rest, leaves.lfsr, held⟩

section

variable {s : State} (d a b : BitVec 6) (m : BitVec 3) {wide : Fmt} {g : Nat} (wider : widened s.myCore.vf.fmt = some (wide, g))

include wider

theorem runsElems_vwadd_int (int : s.myCore.vf.fmt.isInt = true) :
    RunsElems s (.vwadd d a b m) d m s.myCore.vf.fmt.lanes wide g (stepped s 0) s.myCore.vf.am
    (fun j => ofSigned wide.width (srcI s a j + srcI s b j)) fun _ => 0 :=
  stepped_zero s ▸ runsElems_vWiden_int d a b m wider (fun c => Val.sum (c.vf.rm == .rd)) (fun x y => x + y) int
    (groupDest_widens d wider rfl rfl) rfl

theorem runsElems_vwmul_int (int : s.myCore.vf.fmt.isInt = true) :
    RunsElems s (.vwmul d a b m) d m s.myCore.vf.fmt.lanes wide g (stepped s 0) s.myCore.vf.am
    (fun j => ofSigned wide.width (srcI s a j * srcI s b j)) fun _ => 0 :=
  stepped_zero s ▸ runsElems_vWiden_int d a b m wider (fun _ => Val.mul) (fun x y => x * y) int (groupDest_widens d wider rfl rfl) rfl

variable (flt : s.myCore.vf.fmt.isInt = false)

include flt

theorem runsElems_vwadd_float : let x (j : Nat) : Val := (srcF s a j).sum (s.myCore.vf.rm == .rd) (srcF s b j)
    RunsElems s (.vwadd d a b m) d m s.myCore.vf.fmt.lanes wide g (stepped s (actives s m s.myCore.vf.fmt.lanes)) s.myCore.vf.am
      (fun j => (roundAt s wide m j (x j)).1) fun j => (roundAt s wide m j (x j)).2 ||| nvFrom [srcF s a j, srcF s b j] (x j) :=
  runsElems_vWiden_float d a b m wider (fun c => Val.sum (c.vf.rm == .rd)) (fun x y => x + y) flt (groupDest_widens d wider rfl rfl) rfl

theorem runsElems_vwmul_float : let x (j : Nat) : Val := (srcF s a j).mul (srcF s b j)
    RunsElems s (.vwmul d a b m) d m s.myCore.vf.fmt.lanes wide g (stepped s (actives s m s.myCore.vf.fmt.lanes)) s.myCore.vf.am
      (fun j => (roundAt s wide m j (x j)).1) fun j => (roundAt s wide m j (x j)).2 ||| nvFrom [srcF s a j, srcF s b j] (x j) :=
  runsElems_vWiden_float d a b m wider (fun _ => Val.mul) (fun x y => x * y) flt (groupDest_widens d wider rfl rfl) rfl

end

end Sys2Proof.Machine

open Sys2Proof Sys2Proof.Machine Sys2Proof.Spec

/-- R232 to R234: conversion, widening and narrowing. -/
theorem vectorConversions : Spec.VectorConversions := fun _ d a b m _ ae n _ _ _ =>
  ⟨fun code => (runsElems_vcvt d a m code).elems,
    fun wider int => ⟨(runsElems_vwadd_int d a b m wider int).elems, (runsElems_vwmul_int d a b m wider int).elems⟩,
    fun wider flt => ⟨(runsElems_vwadd_float d a b m wider flt).elems, (runsElems_vwmul_float d a b m wider flt).elems⟩,
    fun wider => (runsElems_vnarrow d a m wider ae n).elems⟩
end

section
/-! SUPPORT. VCFG, VROTM and VPPE (R224, R240, R243), the flags of the vector instructions (R149), and the obligation that they settle (O21). -/

set_option Elab.async false

namespace Sys2Proof.Machine

open Sys2Proof.Spec

/-! ## VCFG and VROTM -/

section

variable (s : State)

theorem vcfg_sets (sat : BitVec 1) (r : BitVec 3) (t : BitVec 4) (may : MayIssue s (.vcfg sat r t)) :
    ∃ u, exec (.vcfg sat r t) s = .next u ∧ GoesOn s u ∧
      u.myCore.vf.vtype = BitVec.ofNat 64 (t.toNat + 16 * r.toNat + 256 * sat.toNat) ∧ u.myCore.vf.v = s.myCore.vf.v ∧
      u.myCore.vf.m = s.myCore.vf.m ∧ u.me.x = s.me.x ∧ OnlyMyCore s u := by
  have ports : PortsReady s (.vcfg sat r t) := ⟨fun _ mem => absurd mem List.not_mem_nil, fun _ mem => absurd mem List.not_mem_nil⟩
  refine ⟨_, show execVcfg sat r t s = _ from vecIssue_eq may ports, goesOn_vecNext rfl, ?_, ?_, ?_, State.x_vecNext rfl,
    onlyMyCore_vecNext _ _ _⟩
  · rw [State.vf_vecNext]
    exact congrArg (BitVec.ofNat 64) (by ring)
  · rw [State.vf_vecNext]
  · rw [State.vf_vecNext]

/-- A byte of the 512 that a rotation takes from two registers that stand one after the other (R240). -/
theorem rotated_byte (a b : Row) {o j : Nat} (offset : o < 512) (inside : j < 512) :
    (BitVec.ofNat 4096 ((a.toNat + b.toNat * 2 ^ 4096) >>> (8 * o))).extractLsb' (8 * j) 8 =
      if o + j < 512 then a.extractLsb' (8 * (o + j)) 8 else b.extractLsb' (8 * (o + j - 512)) 8 := by
  refine BitVec.eq_of_getLsbD_eq fun i lt => ?_
  rw [BitVec.getLsbD_extractLsb', BitVec.getLsbD_ofNat, Nat.testBit_shiftRight, Nat.add_comm a.toNat, Nat.mul_comm b.toNat,
    Nat.testBit_two_pow_mul_add _ a.isLt]
  by_cases first : o + j < 512
  · rw [if_pos first, if_pos (by omega), BitVec.getLsbD_extractLsb', Nat.mul_add, Nat.add_assoc]
    simp only [lt, decide_true, Bool.true_and, show 8 * j + i < 4096 by omega]
    rfl
  · rw [if_neg first, if_neg (by omega), BitVec.getLsbD_extractLsb', show 8 * o + (8 * j + i) - 4096 = 8 * (o + j - 512) + i by omega]
    simp only [lt, decide_true, Bool.true_and, show 8 * j + i < 4096 by omega]
    rfl

theorem vrotm_rotates (d a b : BitVec 6) (x : BitVec 5) (may : MayIssue s (.vrotm d a b x)) (ports : PortsReady s (.vrotm d a b x)) :
    ∃ u, exec (.vrotm d a b x) s = .next u ∧ VectorRest s (.vrotm d a b x) u ∧ ∀ j, j < 512 →
      let k := (s.rx x).toNat % 512 + j
      (destRow u d.toNat).extractLsb' (8 * j) 8 =
        if k < 512 then (s.myCore.vreg a.toNat).extractLsb' (8 * k) 8 else (s.myCore.vreg b.toNat).extractLsb' (8 * (k - 512)) 8 := by
  have one : OneDest (.vrotm d a b x) d := oneDest_of_three (fun _ => rfl) rfl
  refine ⟨_, show execVrotm d a b x s = _ from vecIssue_eq may ports, vectorRest_vecNext ?_ fun _ => ?_, fun j inside => ?_⟩
  · exact (KeepsCore.refl _ _).setVreg _ (by rw [one.regs]; exact List.mem_singleton_self _) (one.ok (wf_of_mayIssue may))
  · rw [Core.vf_setVreg]
  · rw [destRow_vecNext, Core.dest_setVreg]
    exact rotated_byte _ _ (Nat.mod_lt _ (by decide)) inside

/-! ## VPPE -/

theorem VAcc.fmaF_eq (x y z : Nat) (acc : VAcc) : acc.fmaF x y z = ((fp32Fma x y z).1, acc.flag ((fp32Fma x y z).2 &&& flagNV)) := rfl

/-- The steps of R153 use nothing of what they add their flags to. -/
theorem ppuEval_eq (loaded : Bool) (segs : List Segment) (x : Nat) (acc : VAcc) :
    ppuEval loaded segs x acc = ((ppuEval loaded segs x ⟨0, 0, 0⟩).1, acc.flag (ppuEval loaded segs x ⟨0, 0, 0⟩).2.flags) := by
  have clear : ∀ f : BitVec 6, ((VAcc.mk 0 0 0).flag f).flags = f := fun f => BitVec.zero_or
  unfold ppuEval
  split
  · exact congrArg _ acc.flag_none.symm
  · simp only [VAcc.fmaF_eq, VAcc.flag_flag, clear]

end

section

variable {s : State} (d a : BitVec 6) (m : BitVec 3)

/-- The exact value that VPPE rounds (R243). -/
def ppeVal (s : State) (a : BitVec 6) (j : Nat) : Val :=
  if (srcF s a j).isNan then .nan
  else Fmt.fp32.decode (ppuEval s.myCore.vf.ppuSet s.myCore.vf.ppu (toFp32 s.myCore.vf.fmt (src s a j)) ⟨0, 0, 0⟩).1

/-- NV of the steps that give it. -/
def ppeFlags (s : State) (a : BitVec 6) (j : Nat) : BitVec 6 :=
  if (srcF s a j).isNan then 0
  else (ppuEval s.myCore.vf.ppuSet s.myCore.vf.ppu (toFp32 s.myCore.vf.fmt (src s a j)) ⟨0, 0, 0⟩).2.flags

theorem ppeFlags_round (j : Nat) : ppeFlags s a j ||| (roundAt s s.myCore.vf.fmt m j (ppeVal s a j)).2 =
    if (srcF s a j).isNan then (roundAt s s.myCore.vf.fmt m j .nan).2
    else
      let z := ppuEval s.myCore.vf.ppuSet s.myCore.vf.ppu (toFp32 s.myCore.vf.fmt (src s a j)) ⟨0, 0, 0⟩
      z.2.flags ||| (roundAt s s.myCore.vf.fmt m j (Fmt.fp32.decode z.1)).2 := by
  unfold ppeFlags ppeVal
  cases (srcF s a j).isNan with
  | true => exact BitVec.zero_or
  | false => rfl

theorem roundsLanes_vppe : RoundsLanes s (.vppe d a m) d m (ppeVal s a)
    fun j => ppeFlags s a j ||| (roundAt s s.myCore.vf.fmt m j (ppeVal s a j)).2 := by
  refine roundsLanes_of (oneDest_of_two (fun _ => rfl) rfl) rfl (congrArg (lanewise _ _ _) (funext₂ fun k acc => ?_))
  show (if (srcF s a k).isNan then _ else _) = _
  unfold ppeVal ppeFlags
  cases (srcF s a k).isNan with
  | true =>
    simp only [if_true, VAcc.flag_none]
  | false =>
    simp only [Bool.false_eq_true, if_false, ppuEval_eq _ _ _ acc]
    rfl

end

/-! ## Flags that are none -/

section

variable {s : State} {i : Instr}

theorem setsFlags_none {body : State → Core → Core} (runs : exec i s = vecIssue i s body)
    (same : (body s s.myCore).vf.vstat = s.myCore.vf.vstat) : SetsFlags s i 0 := fun may ports =>
  ⟨_, runs.trans (vecIssue_eq may ports), by rw [State.vf_vecNext, same]; exact BitVec.or_zero.symm⟩

theorem RunsLanes.noFlags {d : BitVec 6} {m : BitVec 3} {l : BitVec 32} {v : Nat → Nat} (r : RunsLanes s i d m l v fun _ => 0) :
    SetsFlags s i 0 := flagsOf_none s m _ ▸ r.flags

theorem FitsLanes.noSaturation {d : BitVec 6} {m : BitVec 3} {n : Nat → Int} (r : FitsLanes s i d m n) (inside : ∀ j, saOf s (n j) = 0) :
    SetsFlags s i 0 :=
  RunsLanes.noFlags (l := s.myCore.vf.lfsr) (v := fun j => fitted s (n j)) ((funext inside : (fun j => saOf s (n j)) = fun _ => 0) ▸
    (show RunsLanes s i d m _ _ fun j => saOf s (n j) from r))

theorem flagsOf_congr {m : BitVec 3} {n : Nat} {f g : Nat → BitVec 6} (same : ∀ j, s.myCore.active m j = true → f j = g j) :
    flagsOf s m n f = flagsOf s m n g :=
  List.foldl_ext _ _ _ fun x j mem => congrArg (x ||| ·) (same j (List.mem_filter.mp mem).2)

/-- An integer of the type does not saturate. -/
theorem saOf_inside {n : Int} (low : -(2 ^ (s.myCore.vf.fmt.width - 1)) ≤ n) (high : n ≤ 2 ^ (s.myCore.vf.fmt.width - 1) - 1) : saOf s n = 0 := by
  unfold saOf
  exact if_neg fun ⟨_, out⟩ => by omega

variable (d a b : BitVec 6) (m : BitVec 3)

/-- A choice between two integers of the type does not saturate, and a choice between two values rounds nothing. -/
theorem setsFlags_vmin : SetsFlags s (.vmin d a b m) 0 := by
  cases type : s.myCore.vf.fmt.isInt with
  | false => exact (runsLanes_vmin_float d a b m type).noFlags
  | true =>
    have inside : ∀ j, saOf s (min (srcI s a j) (srcI s b j)) = 0 := fun j =>
      saOf_inside (le_min (toSigned_bounds (width_pos _) _).1 (toSigned_bounds (width_pos _) _).1)
        (min_le_of_left_le (toSigned_bounds (width_pos _) _).2)
    exact (fitsLanes_vmin d a b m type).noSaturation inside

theorem setsFlags_vmax : SetsFlags s (.vmax d a b m) 0 := by
  cases type : s.myCore.vf.fmt.isInt with
  | false => exact (runsLanes_vmax_float d a b m type).noFlags
  | true =>
    have inside : ∀ j, saOf s (max (srcI s a j) (srcI s b j)) = 0 := fun j =>
      saOf_inside (le_max_of_le_left (toSigned_bounds (width_pos _) _).1)
        (max_le (toSigned_bounds (width_pos _) _).2 (toSigned_bounds (width_pos _) _).2)
    exact (fitsLanes_vmax d a b m type).noSaturation inside

theorem setsFlags_vrmax : SetsFlags s (.vrmax d a m) 0 := by
  cases type : s.myCore.vf.fmt.isInt with
  | false => exact (runsReduced_vrmax_float d a m type).flags
  | true => exact (runsReduced_vrmax_int d a m type).flags

theorem setsFlags_vrmin : SetsFlags s (.vrmin d a m) 0 := by
  cases type : s.myCore.vf.fmt.isInt with
  | false => exact (runsReduced_vrmin_float d a m type).flags
  | true => exact (runsReduced_vrmin_int d a m type).flags

end

end Sys2Proof.Machine

open Sys2Proof Sys2Proof.Machine Sys2Proof.Spec

/-- R224, R240, R243: VCFG, VROTM and VPPE. -/
theorem vectorSettings : Spec.VectorSettings := by
  intro s sat r t d a b m xn
  refine ⟨vcfg_sets s sat r t, vrotm_rotates s d a b xn, fun _ => ⟨lanes_congr (fun j => ?_) (roundsLanes_vppe d a m).lanes,
    (roundsLanes_vppe d a m).generator⟩⟩
  rw [ppuEval_eq _ _ _ (s.myCore.vf.acc 0), ppeVal]

/-- R149, R226, R228: the flags of element arithmetic. -/
theorem vectorArithmeticFlags : Spec.VectorArithmeticFlags := fun s d a b m _ _ =>
  ⟨fun int => ⟨(fitsLanes_vadd d a b m int).flags, (fitsLanes_vsub d a b m int).flags, (fitsLanes_vmul d a b m int).flags,
      (runsLanes_vdiv_int d a b m int).flags, (fitsLanes_vabs d a m int).flags, (fitsLanes_vneg d a m int).flags,
      (fitsLanes_vfma d a b m int).flags, (fitsLanes_vfms d a b m int).flags, (fitsLanes_vnfma d a b m int).flags⟩,
    fun flt => ⟨(roundsLanes_vadd d a b m flt).flags, (roundsLanes_vsub d a b m flt).flags, (roundsLanes_vmul d a b m flt).flags,
      (roundsLanes_vdiv d a b m flt).flags, (roundsLanes_vrcp d a m flt).flags, (roundsLanes_vrsq d a m flt).flags,
      (roundsLanes_vsqrt d a m flt).flags, (roundsLanes_vfma d a b m flt).flags, (roundsLanes_vfms d a b m flt).flags,
      (roundsLanes_vnfma d a b m flt).flags, (runsLanes_vabs_float d a m flt).noFlags, (runsLanes_vneg_float d a m flt).noFlags⟩,
    setsFlags_vmin d a b m, setsFlags_vmax d a b m, (runsLanes_vmov d a m).noFlags, (runsLanes_vand s d a b m).noFlags,
    (runsLanes_vor s d a b m).noFlags, (runsLanes_vxor s d a b m).noFlags, (runsLanes_vnot s d a m).noFlags,
    (runsLanes_vshl s d a b m).noFlags, (runsLanes_vshr s d a b m).noFlags, (runsLanes_vsra s d a b m).noFlags,
    (runsLanes_vsel s d a b m).noFlags, (runsLanes_vperm s d a b).noFlags, setsFlags_none rfl rfl, setsFlags_none rfl rfl,
    setsFlags_none rfl rfl, setsFlags_none rfl rfl, setsFlags_none rfl rfl, setsFlags_none rfl rfl⟩

/-- R149, R151, R232 to R236, R243: the flags of conversions, reductions, scans and VPPE, and the amax register of VNARROW. -/
theorem vectorConversionFlags : Spec.VectorConversionFlags := by
  intro s d a b m f ae n to_ wide g
  refine ⟨fun code => (runsElems_vcvt d a m code).flags, fun wider => ⟨fun int => ⟨?_, ?_⟩, fun flt =>
      ⟨(runsElems_vwadd_float d a b m wider flt).flags, (runsElems_vwmul_float d a b m wider flt).flags⟩,
      (runsElems_vnarrow d a m wider ae n).flags, fun may ports => ?_⟩,
    fun int => ⟨(runsReduced_vrsum_int d a m int).flags, (runsReduced_vramax_int d a m int).flags, (fitsLanes_vscan d a m int).flags⟩,
    fun flt => ⟨(runsReduced_vrsum_float d a m flt).flags, (runsReduced_vramax_float d a m flt).flags, ?_, ?_⟩,
    setsFlags_vrmax d a m, setsFlags_vrmin d a m⟩
  · exact flagsOf_none s m _ ▸ (runsElems_vwadd_int d a b m wider int).flags
  · exact flagsOf_none s m _ ▸ (runsElems_vwmul_int d a b m wider int).flags
  · obtain ⟨t, runs, -, am, -⟩ := runsElems_vnarrow d a m wider ae n may ports
    exact ⟨t, runs, am⟩
  · have same := flagsOf_congr (s := s) (m := m) (n := s.myCore.vf.fmt.lanes) fun j on =>
      congrArg (fun z => (fp32Add (floatBefore s a m j) (toFp32 s.myCore.vf.fmt (src s a j))).2 |||
        (roundAt s s.myCore.vf.fmt m j (Fmt.fp32.decode z)).2) ((floatBefore_succ a m j).trans (if_pos on))
    exact same ▸ (roundsLanes_vscan d a m flt).flags
  · exact ((roundsLanes_vppe d a m).reflag (ppeFlags_round a m)).flags

/-- Settles O21: conversions lay out each active element (`runsElems_of`), a rotation takes bytes of two registers (`rotated_byte`), and the flags
are those that each element adds to VSTAT. -/
theorem vectorConversionsAndSettings : Obligations.VectorConversionsAndSettings :=
  ⟨vectorConversions, vectorSettings, vectorArithmeticFlags, vectorConversionFlags⟩
end
